-- ==== Sys2Proof/Word.lean ====
section
/-! DEFINITION. The word types of the block (R6: little-endian bytes; R3: 10-bit member ids) and the one container of
the state, a sparse table of records by number. -/

namespace Sys2Proof

/-- One byte of host memory or of a frame. -/
abbrev Byte := BitVec 8

/-- A member id (R3): bits [9:8] rack, bits [7:0] slot. -/
abbrev MemberId := BitVec 10

/-- A sparse table: pairs (number, record), numbers strictly rising, and no pair whose record is the table's default.
The operations are in Machine/Table.lean. -/
abbrev Tab (α : Type) := List (Nat × α)

end Sys2Proof
end

