-- ==== Sys2Proof/Config.lean ====
section
/-! DEFINITION. What an implementation or the world fixes and the spec leaves open: constants with no body, so that no
statement can rest on a value of them. -/

namespace Sys2Proof.Config

/-- The licensee's IDCODE_MFR tie-off (R409, R474). -/
opaque mfr : BitVec 11

/-- FREE VALUE (DESIGN CHOICE, log entry 6): the arrival key of the n-th FP32 add of one ATOMIC scatter; the adds reach host memory in
the order of their keys (R190). The first argument is the occasion (`State.freeCtr`). -/
opaque arrivalKey : Nat → Nat → Nat

/-- FREE VALUE (DESIGN CHOICE, log entry 7): where, within the cycle or two that the time leaves open, the count of stretched core cycles of a stay
below the sag threshold lies (R451). The argument is the occasion (`State.freeCtr`). -/
opaque stretchedCycles : Nat → Nat

/-- FREE VALUE (DESIGN CHOICE, log entry 12): the slew rate in parts per billion that the loop of R304 sets; the model keeps it within the
limit of R303. -/
opaque slewPpb : Nat → Int

/-- FREE VALUE (DESIGN CHOICE, log entry 13): the parent's PATH_DELAY plus its forwarding time, in 1/64 tb, which no message of R300
carries (R304). -/
opaque parentPath : Nat → Nat

/-- FREE VALUE (DESIGN CHOICE, log entry 14): tb units in which an engine ran one instruction (R236); only rates bound it (R9, R478). -/
opaque engineTb : Nat → Nat

/-- FREE VALUE (DESIGN CHOICE, log entry 16): what a register of a micro-programmed function holds, or a step gives, where R166 states no
value: the first argument says which, the second is the FP32 word it depends on. -/
opaque microOpen : Nat → Nat → BitVec 32

/-- FREE VALUE (DESIGN CHOICE, log entry 20): E_TOK in a gate note for a token whose router input row holds an infinity or a NaN (R134
gives no exponent there). The argument is the token. -/
opaque openETok : Nat → Nat

/-- FREE VALUE (DESIGN CHOICE, log entry 37): HANDLE in the result of a buffer request that got no buffer, and the address read in its window; R355
states neither. The argument is the occasion (`State.freeCtr`). -/
opaque openHandle : Nat → BitVec 64

/-- FREE VALUE (DESIGN CHOICE, log entry 24): byte i of the queue head/tail cache as a deep sleep saves it (R463); no rule gives its layout.
The first argument is the occasion (`State.freeCtr`). -/
opaque savedCache : Nat → Nat → BitVec 8

/-- FREE VALUE (DESIGN CHOICE, log entry 110): what an engine reads in place of a 64-bit word that SECDED cannot correct, and which word of its
data that was, where no rule gives the data's place in the store (R174, R195, R283). The first argument is the occasion (`State.freeCtr`). -/
opaque lostWord : Nat → Nat → BitVec 64

/-- FREE VALUE (DESIGN CHOICE, log entry 111): whether a line of the combine store holds an open accumulator (R433); no rule gives the
accumulators' places. The first argument is the occasion (`State.freeCtr`). -/
opaque accumLine : Nat → Nat → Bool

/-- FREE VALUE (DESIGN CHOICE, log entry 51): which of the free far cells an item's next one is, counted from the lowest (R357); no rule gives the
order of the free list. The argument is the occasion (`State.freeCtr`). -/
opaque farCell : Nat → Nat

/-- FREE VALUE (DESIGN CHOICE, log entry 51): the link of a far cell that is the last of its queue's or is free, where no rule gives the cell that it
names (R357). The argument is the occasion (`State.freeCtr`). -/
opaque farLink : Nat → Nat

/-- FREE VALUE (DESIGN CHOICE, log entry 51): byte i of a frame descriptor that lies in a far cell; its layout does not leave the block (R356). The
first argument is the occasion (`State.freeCtr`). -/
opaque frameDescriptor : Nat → Nat → BitVec 8

/-- FREE VALUE (DESIGN CHOICE, log entry 132): whether an engine has written a line of a store since the block left its last deep sleep (R464); no rule
gives every line that an engine writes. The arguments are the occasion (`State.freeCtr`), the store and the line. -/
opaque lineWritten : Nat → Nat → Nat → Bool

/-- FREE VALUE (DESIGN CHOICE, log entry 36): how long, in tb units, the receiver of a move waits for its source before it treats the missing
answer as a retransmission limit (R337); no rule gives the time. -/
opaque bulkWait : Nat

/-- FREE VALUE (DESIGN CHOICE, log entry 124): the fraction of a tb unit, in 1/64, in a fine timestamp that the block takes (R300); the model's
timebase counts whole units. The argument is the occasion (`State.freeCtr`). -/
opaque fineFraction : Nat → BitVec 6

/-- FREE VALUE (DESIGN CHOICE, log entry 26): whether a child whose lane is silent has re-homed away (`false`), or a re-homed child has gone back
to its primary parent (`true`), where no message tells (R307, R316). The first argument is the occasion (`State.freeCtr`). -/
opaque kidGone : Nat → BitVec 10 → Bool → Bool

/-- FREE VALUE (DESIGN CHOICE, log entry 34): which of the groups that a member is not in a sum on the mortar tree is of, where the code of its own
pass names none (R280); no message names the group. The arguments are GEN, ATTEMPT and OPSEQ. -/
opaque sumGroup : BitVec 16 → BitVec 2 → BitVec 8 → Nat

/-- FREE VALUE (DESIGN CHOICE, log entry 93): whether a roster member had arrived when the first barrier released because JOIN_WAIT_TB had
passed; no message says which had (R425). -/
opaque arrivedFirst : BitVec 10 → Bool

/-- FREE VALUE (DESIGN CHOICE, log entry 126): what a repair map, a self-test controller or the lane loopback shows on the IEEE 1687 network (R410);
no rule gives their layout. The argument is the occasion (`State.freeCtr`). -/
opaque instrument : Nat → BitVec 64

end Sys2Proof.Config
end

