-- ==== Sys2Proof/Syntax.lean ====
section
/-! DEFINITION. The commands of the block: one constructor of `Instr` for each row of spec/opcode_table.json, and the
records its operands are made of (frames R246, cells R109/R131/R146, mortar messages R300, results of self-test and scrub). -/

namespace Sys2Proof

/-! ### Frames of the fabric port -/

/-- The encapsulation in which a frame came (R242, R243): Ethernet II with its EtherType, or UDP over IPv6 with the Next Header field, which is
not UDP's 17 when extension headers follow, and the UDP ports. -/
inductive Encap where
  | ether (type : BitVec 16)
  | udp   (nextHeader : BitVec 8) (srcPort dstPort : BitVec 16)
  deriving DecidableEq, Repr

/-- What the transport sees of a received Uhlesh frame beside its payload (R246): the header, the bytes received, the
trailer, the port it came in on and its encapsulation. -/
structure FrameHdr where
  port     : Fin 16
  /-- MAC_RX_FCS_ERR at EOP (R402). -/
  fcsErr   : Bool
  version  : BitVec 4
  type     : BitVec 8
  vc       : BitVec 2
  retx     : Bool
  ackVc    : BitVec 2
  ackValid : Bool
  src      : MemberId
  dst      : MemberId
  seq      : BitVec 32
  ackSeq   : BitVec 32
  sack     : BitVec 32
  tstamp   : BitVec 32
  length   : BitVec 16
  /-- Payload bytes received. -/
  got      : Nat
  /-- FRAME_CRC of the trailer. -/
  crc      : BitVec 32
  encap    : Encap := .ether 0x88B5
  /-- The 802.1Q tag, which the block accepts and does not read (R242). -/
  tag      : Option (BitVec 16) := none
  deriving DecidableEq, Repr

/-- A count message's or grant message's frame (R78); entries are raw words (R77: 4 B, R80: 2 B). -/
structure ExchMsg where
  gen     : BitVec 16
  sender  : MemberId
  attempt : BitVec 2
  layer   : BitVec 8
  last    : Bool
  first   : BitVec 32
  total   : BitVec 32
  entries : List (BitVec 32)
  deriving DecidableEq, Repr

/-- The eight header bytes that every cell shares (R109, R131, R146): offsets 0x01 to 0x07. -/
structure CellHdr where
  format  : BitVec 2
  gen     : BitVec 16
  source  : MemberId
  attempt : BitVec 2
  layer   : BitVec 8
  chunk   : BitVec 8
  deriving DecidableEq, Repr

/-- Target entry of a dispatch cell (R109). -/
structure TargetEntry where
  member : MemberId
  expert : BitVec 12
  rank   : BitVec 4
  row    : BitVec 16
  deriving DecidableEq, Repr

/-- Dispatch cell, KIND 1 (R109). -/
structure DispatchCell where
  h       : CellHdr
  ordinal : BitVec 32
  pos     : BitVec 24
  token   : BitVec 14
  cell    : BitVec 4
  /-- Cells in the row minus 1. -/
  cellsM1 : BitVec 4
  targets : List TargetEntry
  gFirst  : BitVec 16
  gCount  : BitVec 16
  data    : List Byte
  crc     : BitVec 32
  deriving DecidableEq, Repr

/-- Return cell, KIND 2 (R131). -/
structure ReturnCell where
  h       : CellHdr
  owner   : MemberId
  token   : BitVec 14
  expert  : BitVec 12
  rank    : BitVec 4
  cell    : BitVec 4
  cellsM1 : BitVec 4
  gFirst  : BitVec 16
  gCount  : BitVec 16
  tile    : BitVec 24
  data    : List Byte
  crc     : BitVec 32
  deriving DecidableEq, Repr

/-- Rack partial cell, KIND 3 (R146); the groups are 32 words of 64 bits each. -/
structure PartialCell where
  h       : CellHdr
  owner   : MemberId
  token   : BitVec 14
  parts   : BitVec 8
  residue : BitVec 8
  cell    : BitVec 4
  cellsM1 : BitVec 4
  gFirst  : BitVec 16
  gCount  : BitVec 16
  ranks   : BitVec 16
  words   : List (BitVec 64)
  crc     : BitVec 32
  deriving DecidableEq, Repr

/-- Entry of a manifest (R111). -/
structure ManifestEntry where
  expert : BitVec 12
  chunk  : BitVec 8
  rows   : BitVec 32
  deriving DecidableEq, Repr

/-- Manifest cell, KIND 4 (R111). -/
structure ManifestCell where
  h       : CellHdr
  first   : BitVec 32
  total   : BitVec 32
  entries : List ManifestEntry
  crc     : BitVec 32
  deriving DecidableEq, Repr

/-- A cell of a CELLS frame (R247). -/
inductive Cell where
  | dispatch (c : DispatchCell)
  | ret      (c : ReturnCell)
  | part     (c : PartialCell)
  | manifest (c : ManifestCell)
  deriving DecidableEq, Repr

/-- Entry of a gate note (R145); `gates` holds 16 FP32 words. -/
structure GateEntry where
  token   : BitVec 14
  eTok    : BitVec 16
  targets : BitVec 8
  chunk   : BitVec 8
  gates   : List (BitVec 32)
  deriving DecidableEq, Repr

/-- One frame of a gate note (R145). -/
structure GateNote where
  gen     : BitVec 16
  sender  : MemberId
  attempt : BitVec 2
  layer   : BitVec 8
  last    : Bool
  first   : BitVec 32
  total   : BitVec 32
  entries : List GateEntry
  deriving DecidableEq, Repr

/-- Window note (R148). -/
structure WindowNote where
  gen     : BitVec 16
  sender  : MemberId
  attempt : BitVec 2
  layer   : BitVec 8
  limit   : BitVec 16
  deriving DecidableEq, Repr

/-- Entry of a cell request (R248). -/
structure CellReq where
  gen       : BitVec 16
  requester : MemberId
  attempt   : BitVec 2
  layer     : BitVec 8
  kind      : BitVec 8
  cell      : BitVec 8
  token     : BitVec 14
  owner     : MemberId
  expert    : BitVec 12
  rank      : BitVec 4
  deriving DecidableEq, Repr

/-- A COLLECTIVE frame (R281). -/
structure CollFrame where
  gen        : BitVec 16
  sender     : MemberId
  attempt    : BitVec 2
  layer      : BitVec 8
  opseq      : BitVec 8
  stage      : BitVec 8
  chunk      : BitVec 32
  piece      : BitVec 16
  step       : BitVec 16
  sub        : BitVec 8
  pieceBytes : BitVec 32
  offset     : BitVec 32
  pieceCrc   : BitVec 32
  data       : List Byte
  deriving DecidableEq, Repr

/-- A BULK frame (R336); a request carries no data. -/
structure BulkFrame where
  kind      : BitVec 8
  last      : Bool
  stage     : Bool
  planEpoch : BitVec 16
  requester : MemberId
  layer     : BitVec 8
  /-- The 9-bit weight slot: SRC_SLOT and bit 0 of SRC_SLOT_HI. -/
  srcSlot   : BitVec 9
  expert    : BitVec 12
  window    : BitVec 32
  offset    : BitVec 32
  length    : BitVec 32
  windowCrc : BitVec 32
  data      : List Byte
  deriving DecidableEq, Repr

/-- The payload of a SYNC frame (R260). -/
structure SyncBody where
  mask : BitVec 3
  base0 : BitVec 32
  base1 : BitVec 32
  base2 : BitVec 32
  base3 : BitVec 32
  deriving DecidableEq, Repr

/-- Every payload of R247. -/
inductive Payload where
  | cells       (cs : List Cell)
  | count       (m : ExchMsg)
  | grant       (m : ExchMsg)
  | gateNote    (n : GateNote)
  | windowNote  (n : WindowNote)
  | cellRequest (rs : List CellReq)
  | coll        (c : CollFrame)
  | bulk        (b : BulkFrame)
  | ack
  | sync        (y : SyncBody)
  deriving DecidableEq, Repr

/-! ### Mortar messages (R299, R300) -/

/-- What a lane sees of a message beside its body: origin, lane SEQ, flags and the trailer's CRC. -/
structure MortarHdr where
  origin : MemberId
  seq    : BitVec 8
  copy   : Bool
  resend : Bool
  down   : Bool
  crc    : BitVec 32
  deriving DecidableEq, Repr

/-- The 32-bit seal vote field (R289). -/
structure Vote where
  ok        : Bool
  failCount : BitVec 10
  firstFail : MemberId
  reason    : BitVec 8
  deriving DecidableEq, Repr

/-- KIND of an arrival or release (R300). -/
inductive BarrierKind where
  | seal | abort | idle | first
  deriving DecidableEq, Repr

/-- Body of ARRIVE (R300). -/
structure ArriveBody where
  bn          : BitVec 32
  gen         : BitVec 16
  attempt     : BitVec 2
  kind        : BarrierKind
  crcMismatch : Bool
  neutral     : Bool
  admitReq    : Bool
  vote        : Vote
  mask        : BitVec 16
  crc         : BitVec 32
  /-- DOWN_DELAY in 1/64 tb. -/
  downDelay   : BitVec 32
  deriving DecidableEq, Repr

/-- Body of RELEASE (R300). -/
structure ReleaseBody where
  bn        : BitVec 32
  gen       : BitVec 16
  attempt   : BitVec 2
  kind      : BarrierKind
  aborted   : Bool
  crcAgree  : Bool
  admits    : Bool
  tRel      : BitVec 64
  vote      : Vote
  mask      : BitVec 16
  membVer   : BitVec 16
  agreedCrc : BitVec 32
  deriving DecidableEq, Repr

/-- Body of ABORT (R300); the abort's ORIGIN is the header's. -/
structure AbortBody where
  code    : BitVec 8
  attempt : BitVec 2
  gen     : BitVec 16
  deriving DecidableEq, Repr

/-- Body of REDUCE (R300). -/
structure ReduceBody where
  gen     : BitVec 16
  attempt : BitVec 2
  opseq   : BitVec 8
  /-- OP: false SUM of i64, true MAX of u32. -/
  isMax   : Bool
  words   : List (BitVec 64)
  deriving DecidableEq, Repr

/-- State of one program as STATE PART 5 to 12 carries it (R428). -/
structure ProgStateWords where
  passIndex   : BitVec 16
  steps       : BitVec 64
  epoch       : BitVec 16
  stepInEpoch : BitVec 16
  cur         : BitVec 8
  pend        : BitVec 8
  recovering  : Bool
  deriving DecidableEq, Repr

/-- Contents of a STATE message (R428). -/
inductive StateBody where
  | common   (counter : BitVec 64) (bn : BitVec 32) (rrPtr : BitVec 8) (membVer mask : BitVec 16) (crc : BitVec 32)
  | deficits (group : Fin 4) (d0 d1 d2 d3 : BitVec 64)
  | programs (pair : Fin 8) (a b : ProgStateWords)
  deriving DecidableEq, Repr

/-- Every mortar message body (R300). -/
inductive MortarBody where
  | ident     (member : MemberId) (role : BitVec 8) (pos : BitVec 16)
  | heartbeat
  | calReq    (t1 : BitVec 64)
  | calResp   (t1 t2 t3 : BitVec 64)
  | arrive    (a : ArriveBody)
  | release   (r : ReleaseBody)
  | abort     (a : AbortBody)
  | reduce    (r : ReduceBody)
  | suspect   (member : MemberId) (role : BitVec 8)
  | lost      (member : MemberId) (membVer : BitVec 16)
  | rehome    (mask : BitVec 4) (membVer : BitVec 16)
  | nak
  | admitMsg  (member : MemberId) (membVer : BitVec 16)
  | state     (b : StateBody)
  deriving DecidableEq, Repr

/-! ### Port requests, tests and repair -/

/-- A target write (R395): offset in the window, log2 of the size, data with the lowest offset in bits [7:0]. -/
structure PortWrite where
  off  : BitVec 20
  size : BitVec 3
  data : BitVec 512
  deriving DecidableEq, Repr

/-- What memory BIST found and repaired in one store (R422, R435). -/
structure StoreResult where
  /-- Store of R10 in order, 0 to 6; 7 the transpose buffer. -/
  store         : Fin 8
  rowsRepaired  : BitVec 16
  colsRepaired  : BitVec 8
  /-- Spare rows and columns left, by bank, for the banks in which something was repaired. -/
  bankRows      : List (Nat × Nat)
  bankCols      : List (Nat × Nat)
  /-- A bank ran out of spares. -/
  exhausted     : Bool
  deriving DecidableEq, Repr

/-- Outcome of memory and logic BIST (R422, R423). -/
structure SelfTest where
  stores      : List StoreResult
  failedCols  : List (Fin 528)
  failedPipes : List (Fin 128)
  deriving DecidableEq, Repr

/-- What one maintenance span tests (R432, R173). -/
inductive MaintTest where
  /-- The sketch column out of service, and whether its signatures matched. -/
  | column   (passed : Bool)
  /-- A function pipeline's answers, and how many differed (R173). -/
  | pipeline (pipe : Fin 128) (wrong : Nat)
  deriving DecidableEq, Repr

/-- A block sum of the sketch array that a column gets wrong (R38): the physical column, the token's place in the chunk, expert, 32-channel
block, and what the fault adds to the integer sum. -/
structure ColumnError where
  column : Fin 528
  token  : BitVec 8
  expert : BitVec 12
  block  : BitVec 9
  delta  : Int
  deriving DecidableEq, Repr

/-- A 64-bit word of a store whose SECDED an engine's read finds wrong (R174, R195, R283, R436): its 64 B line, the word in the line, whether
the error cannot be corrected, and the store by its index of R435 (none: the store that the command's rule names). -/
structure ReadFind where
  line  : BitVec 20
  word  : BitVec 3
  hard  : Bool
  store : Option (Fin 8) := none
  deriving DecidableEq, Repr

/-- A read of LOAD that the host port answers with a status other than OK (R205 reason 11): the image header, a pass list entry or an
instruction. -/
inductive LoadRead where
  | header
  | entry (j : BitVec 16)
  | code (i : BitVec 16)
  deriving DecidableEq, Repr

/-- What the scrubber finds on a line (R433). -/
inductive ScrubFind where
  | clean | corrected | uncorrectable
  deriving DecidableEq, Repr

/-- HP_RS_STATUS and HP_WR_STATUS (R390, R391). -/
inductive HostStatus where
  | ok | dataErr | decodeErr
  deriving DecidableEq, Repr

/-- The context of a host port access (R394). -/
inductive HostCtx where
  /-- An access of an attempt of a layer pass, cold streaming included. -/
  | attempt
  /-- The writes of the rows of a tile of the open attempt, which is named by its first region row (R115, R392). -/
  | tile  (firstRow : BitVec 24)
  /-- The writes of a chunk to DST of the open attempt's collective that an OPSEQ names (R284, R392). -/
  | chunk (opseq : BitVec 8) (chunk : BitVec 32)
  /-- The write of a live descriptor's entry of the layout table (R178, R394). -/
  | descriptor (handle : BitVec 14)
  /-- A window of a move or staging (R336, R339): planner program, layer and expert. -/
  | move  (prog : Fin 16) (layer : BitVec 8) (expert : BitVec 12) (staging : Bool)
  /-- A read of LOAD of a program (R205 reason 11): the failing index, and whether it is a pass list entry. -/
  | load  (prog : Fin 16) (index : BitVec 16) (entry : Bool)
  /-- The save of R463. -/
  | save
  /-- Any other access. -/
  | other
  deriving DecidableEq, Repr

/-- What the IEEE 1687 network of the test port reaches (R409, R441, R473). -/
inductive Instrument where
  /-- The mirror of the control port's offsets 0x0_0000 to 0x0_003F, by 8-byte word. -/
  | mirror     (word : Fin 8)
  /-- HOLD_SNAPSHOT and its flags, by 8-byte word. -/
  | snapshot   (word : Fin 9)
  | repairMap  (store : Fin 8)
  | memoryBist (store : Fin 8)
  /-- Logic self-test of the sketch columns, or of the function pipelines. -/
  | logicBist  (pipelines : Bool)
  | loopback   (lane : Fin 6)
  deriving DecidableEq, Repr

/-- The engines of R216, numbered by their UNIT of R440. -/
inductive Engine where
  | scoringFront | sketch | exact | ranking | exchange | transport | tileEngine | combine | collective
  | layout | function | tier
  deriving DecidableEq, Repr

/-! ### The commands -/

/-- The commands of the block, one per row of spec/opcode_table.json.
Sequencer commands name the sequencer `q`; engine commands run the instruction at the head of their engine's queue. A hardware fault that
meets the instruction while it runs comes with its command: `errs` are wrong block sums, `finds` are words that SECDED finds wrong, `failed` is
a read of LOAD that fails; where none are named, the run meets none. SUPPLY_RECOVER says by how many mV the supply then lies above the
threshold. -/
inductive Instr where
  -- sequencer (09, 10)
  | instructionIssue (q : Fin 16)
  | nop (q : Fin 16)
  | slot (q : Fin 16) (offset : BitVec 32) (step : BitVec 16)
  | waitAll (q : Fin 16)
  | waitTime (q : Fin 16) (offset : BitVec 32)
  | waitChunk (q : Fin 16) (ch : BitVec 9)
  | seal (q : Fin 16) (source : BitVec 10) (fire : Bool)
  | loop (q : Fin 16) (sh : BitVec 21) (bound : BitVec 16) (body : BitVec 11)
  | endloop (q : Fin 16)
  | shapeCopy (q : Fin 16) (dst src : BitVec 21)
  | shapeChunks (q : Fin 16) (dst src : BitVec 21)
  -- engines (02 to 08, 12, 14)
  | norm
  | score (errs : List ColumnError := []) (finds : List ReadFind := [])
  | rescore (finds : List ReadFind := [])
  | select (finds : List ReadFind := [])
  | count
  | grant
  | sort
  | dispatch
  | tiles
  | ret
  | combine (finds : List ReadFind := [])
  | combineAr (finds : List ReadFind := [])
  | reduceAr (finds : List ReadFind := [])
  | stats (finds : List ReadFind := [])
  | convert
  | transpose (finds : List ReadFind := [])
  | scatter
  | gather
  | blocksOut
  | blocksIn
  | routerQuantise
  | map (finds : List ReadFind := [])
  | gateAct (finds : List ReadFind := [])
  | softmax (finds : List ReadFind := [])
  | fetch
  | signal (q : Fin 16) (source : BitVec 10)
  | halt (q : Fin 16) (endProgram : Bool)
  -- program control and doorbells (09, 05, 06, 12); `v` is the word written
  | load (p : Fin 16) (v : BitVec 32) (failed : Option LoadRead := none)
  | start (p : Fin 16) (v : BitVec 32)
  | stop (p : Fin 16) (v : BitVec 32)
  | chunkReadyDoorbell (p : Fin 16) (v : BitVec 32)
  | tilePop (p : Fin 16) (size : BitVec 3) (finds : List ReadFind := [])
  | tileDoneDoorbell (p : Fin 16) (v : BitVec 32)
  | sharedReadyDoorbell (p : Fin 16) (v : BitVec 32)
  | collectiveReadyDoorbell (p : Fin 16) (v : BitVec 32)
  -- signal unit (16)
  | signalDoorbell (size : BitVec 3) (v : BitVec 32)
  | sourceConfigWrite (w : PortWrite)
  | setPending (v : BitVec 32)
  | clearPending (v : BitVec 32)
  | eoi (t : Fin 16) (v : BitVec 32)
  | vpAck (t : Fin 16)
  | coalDeadline (src : BitVec 10)
  | batchTimerWake
  -- session table window (09)
  | sessionWindowWrite (w : PortWrite)
  | sessionWindowRead (off : BitVec 20) (size : BitVec 3) (finds : List ReadFind := [])
  -- layout requests (08); `body` is the 64-byte record
  | createDescriptor (c : Fin 16) (body : BitVec 512)
  | registerAllocation (c : Fin 16) (body : BitVec 512)
  | releaseDescriptor (c : Fin 16) (body : BitVec 512)
  | releaseAllocation (c : Fin 16) (body : BitVec 512)
  | layoutResultRead (c : Fin 16)
  -- pools (15)
  | poolRequest (c : Fin 16) (v : BitVec 64)
  | poolResultRead (c : Fin 16)
  | poolAddressRead (c : Fin 16)
  | poolFree (c : Fin 16) (handle : BitVec 32)
  | poolWaitGrant (pool : Fin 5) (cls : Fin 6)
  -- course queues (15)
  | queueStart (c : Fin 16) (v : BitVec 64)
  | queueData (c : Fin 16) (bytes : List Byte)
  | queueSpaceFreed (queue : BitVec 12)
  | queueHeaderRead (queue : BitVec 12) (size : BitVec 3) (finds : List ReadFind := [])
  | queueStalledReadReturn (queue : BitVec 12)
  | stallLimitExpiry (queue : BitVec 12)
  | queueDataRead (queue : BitVec 12) (size : BitVec 3) (finds : List ReadFind := [])
  | flush (v : BitVec 32)
  | qConfigWrite (w : PortWrite)
  -- ledger and control writes (19, 18, 20, 21)
  | releaseFirst (v : BitVec 32)
  | releaseEsc (v : BitVec 32)
  | ledgerRaise
  | admitWrite (v : BitVec 32)
  | arm (v : BitVec 32)
  | deepReq (v : BitVec 32)
  | registerWrite (w : PortWrite)
  -- frames received (04, 05, 06, 11, 12, 14)
  | countMessage (h : FrameHdr) (m : ExchMsg)
  | grantMessage (h : FrameHdr) (m : ExchMsg)
  | manifest (h : FrameHdr) (cs : List Cell)
  | dispatchCell (h : FrameHdr) (cs : List Cell)
  | cellRequest (h : FrameHdr) (rs : List CellReq)
  | tileEnter
  | returnCell (h : FrameHdr) (cs : List Cell) (finds : List ReadFind := [])
  | rackPartial (h : FrameHdr) (cs : List Cell) (finds : List ReadFind := [])
  | gateNote (h : FrameHdr) (n : GateNote)
  | windowNote (h : FrameHdr) (n : WindowNote)
  | collective (h : FrameHdr) (c : CollFrame) (finds : List ReadFind := [])
  | bulkRequest (h : FrameHdr) (b : BulkFrame)
  | bulkData (h : FrameHdr) (b : BulkFrame)
  | ack (h : FrameHdr)
  | ackDelayExpiry (peer : MemberId) (vc : BitVec 2)
  | sync (h : FrameHdr) (y : SyncBody)
  | syncResend (peer : MemberId)
  | rtoExpiry (peer : MemberId) (vc : BitVec 2) (seq : BitVec 32)
  | linkDown (p : Fin 16)
  | linkUp (p : Fin 16) (rate800 : Bool)
  | linkHoldExpiry (p : Fin 16)
  | pauseStatusChange (p : Fin 16) (status : BitVec 8)
  -- timeouts
  | exchangeTimeout
  | manifestTimeout
  | rowTimeout
  | tileTimeout
  | sharedReadyTimeout
  | collectiveTimeout (opseq : BitVec 8)
  -- mortar lanes (13); `l` 0 U0, 1 U1, 2 to 5 D0 to D3
  | ident (l : Fin 6) (h : MortarHdr) (member : MemberId) (role : BitVec 8) (pos : BitVec 16)
  | heartbeat (l : Fin 6) (h : MortarHdr)
  | heartbeatTick
  | nak (l : Fin 6) (h : MortarHdr)
  | laneSilence (l : Fin 6)
  | laneTrainTimeout (l : Fin 6)
  | calibrationTick
  | calReq (l : Fin 6) (h : MortarHdr) (t1 : BitVec 64)
  | calResp (l : Fin 6) (h : MortarHdr) (t1 t2 t3 : BitVec 64)
  | arrive (l : Fin 6) (h : MortarHdr) (a : ArriveBody)
  | release (l : Fin 6) (h : MortarHdr) (r : ReleaseBody)
  | keystoneRelease
  | slotOpen
  | abort (l : Fin 6) (h : MortarHdr) (a : AbortBody)
  | reduce (l : Fin 6) (h : MortarHdr) (r : ReduceBody)
  | suspect (l : Fin 6) (h : MortarHdr) (member : MemberId) (role : BitVec 8)
  | lost (l : Fin 6) (h : MortarHdr) (member : MemberId) (membVer : BitVec 16)
  | rehome (l : Fin 6) (h : MortarHdr) (mask : BitVec 4) (membVer : BitVec 16)
  | admitMsg (l : Fin 6) (h : MortarHdr) (member : MemberId) (membVer : BitVec 16)
  | stateMsg (l : Fin 6) (h : MortarHdr) (b : StateBody)
  -- placement, maintenance, host port responses (14, 18, 20, 17)
  | coldStreamProgress
  | maintenanceTest (r : MaintTest)
  | scrubLine (store : Fin 8) (line : Nat) (find : ScrubFind)
  | engineUngate (e : Engine)
  | hostReadResponse (ctx : HostCtx) (beats : List HostStatus)
  | hostWriteResponse (ctx : HostCtx) (status : HostStatus)
  -- resets, start, supply, clocks, test port (17, 18, 20)
  | porN (cfgMode : BitVec 2)
  | warmN (cfgMode : BitVec 2)
  | hpRstN (lost : List (Bool × HostCtx) := [])
  | macRstN (p : Fin 16)
  | vpRstN (asserted : Bool)
  | trstN (asserted : Bool := true)
  | imagePass1 (image : List Byte)
  | selfTestComplete (r : SelfTest)
  | imagePass2 (image : List Byte)
  | joinWaitExpiry
  | supplySag
  | supplyRecover (above : BitVec 8 := 0xFF)
  | clockStep
  | clockRestore
  | refClkLoss
  | pllLoss
  | wakeComplete
  | deepWake
  | bypass
  | idcode
  | ijtagAccess (instrument : Instrument := .mirror 0) (start : Bool := false)
  | powerLoss
  | corePllLock
  deriving DecidableEq, Repr

end Sys2Proof
end

