-- ==== Sys2Proof/Decode.lean ====
section
/-! DEFINITION. Commands as words of the opcode table. No row of the table of this block has bits: its commands are requests, frames,
messages, pin events and instructions of the block's own sequencers, and no word spells one. -/

namespace Sys2Proof

/-- The command that a word spells by the bits of the table's rows: none, since no row has bits. -/
def decodeTableWord (_nbits _w : Nat) : Option Instr := none

end Sys2Proof
end

