-- ==== Sys2Proof/Machine/Bytes.lean ====
section
/-! DEFINITION. Bit fields, little-endian byte lists (R6) and the CRC-32C of R101. -/

namespace Sys2Proof.Machine

/-- Field of `len` bits from bit `lo`. -/
def field (w lo len : Nat) : Nat := (w / 2 ^ lo) % 2 ^ len

/-- Bit i. -/
def bit (w i : Nat) : Bool := w / 2 ^ i % 2 == 1

/-- The number whose bit i is set when p i holds, for i below n. -/
def bitsOf (n : Nat) (p : Nat → Bool) : Nat :=
  (List.range n).foldl (fun a i => if p i then a + 2 ^ i else a) 0

/-- Bool as a bit. -/
def b2n (b : Bool) : Nat := if b then 1 else 0

/-- n bytes of a number, lowest first. -/
def leBytes : Nat → Nat → List Byte
  | 0, _ => []
  | n + 1, v => BitVec.ofNat 8 v :: leBytes n (v / 256)

/-- The number that bytes spell, lowest first. -/
def ofLe : List Byte → Nat
  | [] => 0
  | b :: t => b.toNat + 256 * ofLe t

/-- `len` bytes from offset `off`, zero where the list ends. -/
def slice (b : List Byte) (off len : Nat) : List Byte :=
  let t := (b.drop off).take len
  t ++ List.replicate (len - t.length) 0

/-- The little-endian number at an offset of a record. -/
def le (b : List Byte) (off len : Nat) : Nat := ofLe ((b.drop off).take len)

/-- Signed value of the low n bits. -/
def signed (n v : Nat) : Int :=
  let x := v % 2 ^ n
  if x < 2 ^ (n - 1) then (x : Int) else (x : Int) - (2 ^ n : Nat)

/-- Two's complement of an integer in n bits. -/
def twos (n : Nat) (z : Int) : Nat := (z % (2 ^ n : Nat)).toNat

/-- One bit of the reflected CRC-32C. -/
def crcBit (c : BitVec 32) : BitVec 32 :=
  if c &&& 1 = 1 then (c >>> 1) ^^^ 0x82F63B78 else c >>> 1

/-- One byte of the CRC-32C. -/
def crcByte (c : BitVec 32) (b : Byte) : BitVec 32 :=
  crcBit (crcBit (crcBit (crcBit (crcBit (crcBit (crcBit (crcBit (c ^^^ b.setWidth 32))))))))

/-- CRC-32C (R101): polynomial 0x1EDC6F41 reflected, initial value and final XOR 0xFFFFFFFF. -/
def crc32c (b : List Byte) : BitVec 32 := (b.foldl crcByte 0xFFFFFFFF) ^^^ 0xFFFFFFFF

/-- Serial-number order of n-bit values (R317). -/
inductive Serial where
  | same | before | after | undefined
  deriving DecidableEq, Repr

/-- Compares a with b by serial-number arithmetic on n bits (R317). -/
def serial (n a b : Nat) : Serial :=
  let d := (b + 2 ^ n - a % 2 ^ n) % 2 ^ n
  if d = 0 then .same else if d < 2 ^ (n - 1) then .before else if d = 2 ^ (n - 1) then .undefined else .after

/-- Smallest number of units of m that holds n. -/
def ceilDiv (n m : Nat) : Nat := (n + m - 1) / m

/-- Mod-255 residue of a byte list as a sum of bytes. -/
def residue255 (b : List Byte) : Nat := (b.foldl (fun a x => a + x.toNat) 0) % 255

end Sys2Proof.Machine
end

