-- ==== Sys2Proof/Machine/Table.lean ====
section
/-! DEFINITION. Operations on the sparse tables of the state: reading, writing and iterating a `Tab`. A write keeps the
canonical form: numbers strictly rising, no record equal to the default. -/

namespace Sys2Proof.Machine

/-- Insertion of (k, v) into a strictly rising table that does not hold k, before the first larger number. -/
def Tab.insert {α : Type} (k : Nat) (v : α) : Tab α → Tab α
  | [] => [(k, v)]
  | (k', v') :: t => if k < k' then (k, v) :: (k', v') :: t else (k', v') :: Tab.insert k v t

/-- The record of number k; `d` gives the record of a number that is not listed. -/
def Tab.get {α : Type} (d : Nat → α) : Tab α → Nat → α
  | [], k => d k
  | (k', v) :: t, k => if k' = k then v else Tab.get d t k

/-- The table without number k. -/
def Tab.erase {α : Type} (t : Tab α) (k : Nat) : Tab α := t.filter (fun p => p.1 != k)

/-- Writes record v at number k. Writing the default removes the entry. -/
def Tab.set {α : Type} [DecidableEq α] (d : Nat → α) (t : Tab α) (k : Nat) (v : α) : Tab α :=
  if v = d k then Tab.erase t k else Tab.insert k v (Tab.erase t k)

/-- The record of number k, if one is listed. -/
def Tab.get? {α : Type} : Tab α → Nat → Option α
  | [], _ => none
  | (k', v) :: t, k => if k' = k then some v else Tab.get? t k

/-- Writes record v at number k in a table without defaults. -/
def Tab.put {α : Type} (t : Tab α) (k : Nat) (v : α) : Tab α := Tab.insert k v (Tab.erase t k)

/-- Changes the record of number k, if one is listed. -/
def Tab.modify {α : Type} (t : Tab α) (k : Nat) (f : α → α) : Tab α :=
  t.map (fun p => if p.1 = k then (p.1, f p.2) else p)

/-- The numbers listed, rising. -/
def Tab.keys {α : Type} (t : Tab α) : List Nat := t.map (·.1)

/-- The records listed, by rising number. -/
def Tab.vals {α : Type} (t : Tab α) : List α := t.map (·.2)

/-- The canonical form of a table: numbers strictly rising and no record equal to the default. -/
abbrev Tab.wf {α : Type} (d : Nat → α) (t : Tab α) : Prop :=
  t.Pairwise (fun a b => a.1 < b.1) ∧ ∀ p ∈ t, p.2 ≠ d p.1


/-- A list sorted by a number, stable: records of equal number keep their order. -/
def sortBy {α : Type} (key : α → Nat) : List α → List α
  | [] => []
  | x :: t => insertByFirst key x (sortBy key t)
where
  /-- Inserts x before the first record whose number is not smaller. -/
  insertByFirst (key : α → Nat) (x : α) : List α → List α
  | [] => [x]
  | y :: t => if key y < key x then y :: insertByFirst key x t else x :: y :: t

/-- Writes v at position i of a list. -/
def setAt {α : Type} : List α → Nat → α → List α
  | [], _, _ => []
  | _ :: t, 0, v => v :: t
  | x :: t, i + 1, v => x :: setAt t i v

end Sys2Proof.Machine
end

