-- ==== Sys2Proof/Machine/State.lean ====
section
/-! DEFINITION. The state of one member: plain data, one structure per unit of the block. RW registers lie in `regs`, a
sparse table of 8-byte register words whose default is each word's reset value (`regReset`); every other piece of state has
a field of its own. Times are timebase values in tb units (R4); counters are numbers that never wrap (R52, R303). -/

namespace Sys2Proof.Machine

/-! ### Ledger (19) -/

/-- A ledger record (R440). -/
structure LedgerRec where
  time     : Nat := 0
  code     : BitVec 8 := 0
  sev      : BitVec 2 := 0
  remote   : Bool := false
  selfLost : Bool := false
  gen      : BitVec 16 := 0
  attempt  : BitVec 2 := 0
  prog     : BitVec 4 := 0
  inPass   : Bool := false
  unit     : BitVec 8 := 0
  member   : Option MemberId := none
  detail   : BitVec 64 := 0
  count    : BitVec 32 := 0
  layer    : BitVec 8 := 0
  chunk    : BitVec 8 := 0xFF
  seq      : BitVec 16 := 0
  deriving DecidableEq, Repr

/-- The error ledger (R439, R447). HOLD_SNAPSHOT, SNAP_VALID and REF_LOSS lie in the plinth domain. -/
structure Ledger where
  input     : List LedgerRec := []
  first     : Option LedgerRec := none
  esc       : Option LedgerRec := none
  nextSeq   : BitVec 16 := 0
  snapFirst : Option LedgerRec := none
  snapEsc   : Option LedgerRec := none
  snapValid : Bool := false
  refLoss   : Bool := false
  pllLoss   : Bool := false
  deriving DecidableEq, Repr

/-! ### Signal unit (16) -/

/-- The batch of a source (R377). After closing, `pending` is set and `isOpen` clear. -/
structure Source where
  count    : BitVec 16 := 0
  isOpen   : Bool := false
  pending  : Bool := false
  sat      : Bool := false
  /-- COAL_TB was not 0 when the batch opened, so the deadline closes it. -/
  timed    : Bool := false
  deadline : Nat := 0
  deriving DecidableEq, Repr

/-- A target (R382): its active stack, top first, each entry a source and its group; and what it presents. -/
structure Target where
  stack     : List (Nat × Nat) := []
  presented : Option Nat := none
  /-- VP_ADDR: the vector address of the source presented last (R381, R407). -/
  addr      : BitVec 64 := 0
  lastCount : BitVec 16 := 0
  lastSat   : Bool := false
  bankFull  : Bool := false
  deriving DecidableEq, Repr

/-- The signal unit. -/
structure SignalUnit where
  sources : Tab Source := []
  targets : Tab Target := []
  /-- VP_RST_N is asserted (R408). -/
  vpReset : Bool := false
  deriving DecidableEq, Repr

/-! ### Pools and course queues (15) -/

/-- What a block requester does with the buffer that it waits for (R351): stages a frame that arrived, forwards a fan-out cell, sends a
peer's next dispatch or return frame, or holds part of a chunk's scoring records. -/
inductive PoolJob where
  | frame (h : FrameHdr) (p : Payload)
  | fanOut (c : DispatchCell)
  | egress (peer : MemberId)
  | scoring (chunk : Nat)
  deriving DecidableEq, Repr

/-- A pool request that waits (R351); `window` is the host core's window, none for a block requester, which gives its level (R350) and what
the buffer is for. -/
structure PoolReq where
  requester : Nat
  size      : Nat
  window    : Option (Fin 16)
  level     : Option Nat := none
  job       : Option PoolJob := none
  deriving DecidableEq, Repr

/-- One class of one pool (R348, R351): the holders by buffer index. A buffer not listed is free. -/
structure PoolClass where
  used    : Tab Nat := []
  peak    : Nat := 0
  waiting : List PoolReq := []
  deriving DecidableEq, Repr

/-- A write to a pool window that the block holds back (R355). -/
inductive PoolWrite where
  | request (v : BitVec 64)
  | free (handle : BitVec 32)
  deriving DecidableEq, Repr

/-- The pool window of a host core (R355). -/
structure PoolWindow where
  done    : Bool := false
  status  : BitVec 2 := 0
  handle  : BitVec 32 := 0
  waiting : Bool := false
  /-- Writes that back-pressure holds, oldest first, and result reads that stall: their tags. -/
  held    : List (Nat × PoolWrite) := []
  stalled : List Nat := []
  deriving DecidableEq, Repr

/-- An item of a course queue (R357, R358): written so far `data`, complete when it holds `length` bytes. -/
structure QItem where
  id     : Nat
  prio   : BitVec 3
  length : Nat
  data   : List Byte
  deriving DecidableEq, Repr

/-- What a queue holds in order: items and markers (R358, R363, R365). -/
inductive QEntry where
  | item  (i : QItem)
  | gap   (prio : BitVec 3) (count : Nat)
  | flush (count : Nat)
  deriving DecidableEq, Repr

/-- A read of a queue window that stalls (R360, R364). -/
structure QStall where
  /-- A header read; otherwise a data read. -/
  header : Bool
  bytes  : Nat
  since  : Nat
  /-- The tag that it keeps (R397). -/
  tag    : Nat
  deriving DecidableEq, Repr

/-- A course queue (R357). -/
structure Queue where
  entries : List QEntry := []
  cur     : Option QItem := none
  curPos  : Nat := 0
  stalls  : List QStall := []
  drops   : BitVec 64 := 0
  flushes : BitVec 64 := 0
  deriving DecidableEq, Repr

/-- A write to a push window (R359). -/
inductive PushWrite where
  | start (v : BitVec 64)
  | data (bytes : List Byte)
  deriving DecidableEq, Repr

/-- A push window (R359): the open item, and the writes that back-pressure holds (R361), oldest first. -/
structure PushWindow where
  /-- Queue and id of the open item. -/
  isOpen  : Option (Nat × Nat) := none
  /-- With the tag of each. -/
  held    : List (Nat × PushWrite) := []
  deriving DecidableEq, Repr

/-- A far cell in use (R357): its number in the far cell pool, the queue, the item that it holds a part of (none: the gap marker), which part,
the bytes that have been written to it, and the next cell that its link names. -/
structure FarCell where
  cell  : Nat
  queue : Nat
  item  : Option Nat
  part  : Nat
  bytes : List Byte
  next  : Option Nat := none
  deriving DecidableEq, Repr

/-- Pools and queues. -/
structure Storage where
  classes  : Tab PoolClass := []
  windows  : Tab PoolWindow := []
  queues   : Tab Queue := []
  pushes   : Tab PushWindow := []
  far      : List FarCell := []
  nextItem : Nat := 0
  deriving DecidableEq, Repr

/-! ### Start, repair, power (18, 20) -/

/-- BOOT_PHASE (R435). -/
inductive BootPhase where
  | reset | image | selfTest | load | join | joined | admitted | held
  deriving DecidableEq, Repr

/-- Repair map of one store (R435); `bankRows` and `bankCols` hold the spares left in a bank of 256 KiB (R422: 4 rows and 2
columns where not listed). -/
structure StoreMap where
  rows      : BitVec 16 := 0
  cols      : BitVec 8 := 0
  bankRows  : Tab Nat := []
  bankCols  : Tab Nat := []
  online    : BitVec 16 := 0
  /-- Lines corrected in the present scrub pass and in the last one; lines whose row awaits its repair (R433). -/
  corrected : List Nat := []
  before    : List Nat := []
  hard      : List Nat := []
  /-- The line the scrubber looked at last. -/
  lastLine  : Nat := 0
  deriving DecidableEq, Repr

/-- An entry of the image's section table (R415). -/
structure ImgSection where
  typ   : Nat
  flags : Nat
  off   : Nat
  len   : Nat
  crc   : BitVec 32
  deriving DecidableEq, Repr

/-- Image, start and repair (18). -/
structure Boot where
  powered     : Bool := true
  phase       : BootPhase := .reset
  cfgMode     : BitVec 2 := 0
  failCode    : BitVec 8 := 0
  failSection : BitVec 6 := 0
  imageHcrc   : BitVec 32 := 0
  /-- The section table as pass 1 read it; pass 2 reads FUNCTIONS and TABLES by it (R419). -/
  sections    : List ImgSection := []
  memberId    : MemberId := 0
  memberValid : Bool := false
  /-- Level of BLK_READY (R412). -/
  ready       : Bool := false
  selfLost    : Bool := false
  /-- The member was in service when it lost itself: its target port goes on (R442). -/
  served      : Bool := false
  readyPlinth : BitVec 32 := 0
  /-- Reset release, on the timebase and its corrections (R435 counts from it). -/
  releasedAt  : Int := 0
  /-- End of pass 1, when the lanes begin training (R419, R424). -/
  appliedAt   : Nat := 0
  /-- Pass 2 is complete (R419 step 6). -/
  loaded      : Bool := false
  stores      : Tab StoreMap := []
  /-- The physical column out for test, the rotation, and the result of the column's test (R432); retired columns. -/
  testColumn  : Nat := 0
  rotating    : Bool := false
  testPassed  : Option Bool := none
  /-- The column that raised RESIDUE_MISMATCH: it goes out next (R432). -/
  suspect     : Option Nat := none
  retired     : List Nat := []
  /-- Function pipelines fenced (R173, R176). -/
  fenced      : List Nat := []
  /-- Pipelines to fence at the next layer boundary (R173). -/
  toFence     : List Nat := []
  layoutBase  : Nat := 0
  armed       : Bool := false
  missed      : Bool := false
  /-- Barrier RECONF_BN has released and the reconfiguration takes the next boundary; its slot is running (R430). -/
  reconfDue   : Bool := false
  reconfRun   : Bool := false
  funcRefused : Bool := false
  poolsRefused : Bool := false
  deriving DecidableEq, Repr

/-- Power states (R462). -/
inductive PowerState where
  | run | light | deep
  deriving DecidableEq, Repr

/-- A doorbell write that the decoder keeps while the core sleeps (R384). -/
inductive KeptBell where
  | signal (size : BitVec 3) (v : BitVec 32)
  | chunk (p : Fin 16) (v : BitVec 32)
  | tileDone (p : Fin 16) (v : BitVec 32)
  | shared (p : Fin 16) (v : BitVec 32)
  | coll (p : Fin 16) (v : BitVec 32)
  deriving DecidableEq, Repr

/-- Clocks and power (20). -/
structure Power where
  state        : PowerState := .run
  pllLock      : Bool := false
  stepped      : Bool := false
  sag          : Bool := false
  sagSince     : Nat := 0
  /-- Since when the clock has been stretched in the sag that goes on at 600 MHz (R451). -/
  stretchFrom  : Nat := 0
  /-- The supply stands above the threshold plus SAG_HYST_MV, and since when (R452). -/
  above        : Bool := true
  recovered    : Nat := 0
  spreadActive : Bool := false
  deepPending  : Bool := false
  deepRefused  : Bool := false
  /-- Wake latches of the plinth domain (R385). -/
  latchBell    : Bool := false
  latchMortar  : Bool := false
  latchTimer   : Bool := false
  /-- The batch timer armed at entry to sleep. -/
  timerAt      : Option Nat := none
  /-- With the number of each request. -/
  kept         : List (Nat × KeptBell) := []
  /-- Frames in the port buffers of R403, oldest first. -/
  rxBuffer     : List (FrameHdr × Payload) := []
  /-- Target port requests that keep their tags until the block is awake (R398), oldest first. -/
  heldReqs     : List (Nat × Instr) := []
  /-- Mortar messages accepted in light sleep that set the wake latch (R385): lane, header, body. -/
  rxMortar     : List (Nat × MortarHdr × MortarBody) := []
  /-- CRC of R234 and ready mask held at entry to deep sleep (R463). -/
  sleepCrc     : BitVec 32 := 0
  /-- REF_CLK is absent (R460): lost, and the PLL has not locked since. -/
  refAbsent    : Bool := false
  /-- The stores have lost what they held in a deep sleep, and a line holds nothing until it is written (R464). -/
  unwritten    : Bool := false
  /-- Engines whose clock runs (R461). -/
  ungated      : List Engine := []
  deriving DecidableEq, Repr

/-- An answer of the target port (R395); `stalled` where the request keeps its tag (R397). `tag` is the number of the request since power-on,
which stands for its HP_TQ_TAG (DESIGN CHOICE, log entry 42). -/
structure PortAnswer where
  tag     : Nat := 0
  status  : BitVec 2 := 0
  data    : BitVec 512 := 0
  stalled : Bool := false
  deriving DecidableEq, Repr

/-! ### Transport (11) -/

/-- A frame sent and not acknowledged (R255, R258). -/
structure TxFrame where
  seq     : BitVec 32
  payload : Payload
  /-- The port it left on last; none while no port of the tier is up (R261). -/
  port    : Option (Fin 16)
  sentAt  : Nat
  retx    : Nat
  /-- It has been sent again, by a retransmission or after a link went down (R258, R261). -/
  resent  : Bool := false
  /-- Its EGRESS buffer (R255, R350). -/
  handle  : Option Nat := none
  deriving DecidableEq, Repr

/-- One VC of a pair, as sender and as receiver (R254 to R256). -/
structure PairVc where
  nextSeq  : BitVec 32 := 0
  unacked  : List TxFrame := []
  /-- Payloads that wait: 256 unacknowledged (R255), or a SYNC outstanding (R260). -/
  waiting  : List Payload := []
  cum      : BitVec 32 := 0
  /-- Bit i: frame CUM + i has been received. -/
  rmap     : BitVec 256 := 0
  /-- Frames accepted since the last acknowledgement, and when the first of them was. -/
  ackDue   : Nat := 0
  ackSince : Nat := 0
  deriving DecidableEq, Repr

/-- A SYNC outstanding toward a peer (R260). -/
structure SyncOut where
  body   : SyncBody
  sentAt : Nat
  retx   : Nat
  /-- Masked channels acknowledged at or beyond their base. -/
  acked  : BitVec 3 := 0
  /-- The port it left on last. -/
  port   : Option (Fin 16) := none
  deriving DecidableEq, Repr

/-- IPv6 and UDP headers of a frame sent (R243); both UDP ports are `port`, the UDP checksum is 0. -/
structure IpOut where
  tclass     : BitVec 8
  flow       : BitVec 20
  nextHeader : BitVec 8
  hopLimit   : BitVec 8
  src        : BitVec 128
  dst        : BitVec 128
  port       : BitVec 16
  deriving DecidableEq, Repr

/-- A frame put out on a fabric port (R242 to R246), the block's output: the MAC addresses, the tag's control word and the EtherType, the IPv6
headers with that encapsulation, the Uhlesh header's fields, the payload and FRAME_CRC. -/
structure FrameOut where
  port     : Fin 16
  dstMac   : BitVec 48
  srcMac   : BitVec 48
  tci      : BitVec 16
  ethType  : BitVec 16
  ip       : Option IpOut
  src      : MemberId
  dst      : MemberId
  vc       : BitVec 2
  retx     : Bool
  seq      : BitVec 32
  ackValid : Bool
  ackVc    : BitVec 2
  ackSeq   : BitVec 32
  sack     : BitVec 32
  tstamp   : BitVec 32
  payload  : Payload
  crc      : BitVec 32
  deriving DecidableEq, Repr

/-- A frame that waits for a pause to end (R252): `bare` is an ACK or SYNC, which carries no sequence number, with the VC that it
acknowledges. Its descriptor lies in the port's egress queue of its channel (R356). -/
structure Egress where
  peer  : MemberId
  vc    : BitVec 2
  seq   : BitVec 32
  bytes : Nat
  bare  : Option Payload := none
  ackFor : Option (BitVec 2) := none
  deriving DecidableEq, Repr

/-- A MAC client interface (R399, R253, R261). -/
structure MacPort where
  linkUp   : Bool := false
  rate800  : Bool := false
  pause    : BitVec 8 := 0
  pauseReq : BitVec 8 := 0
  upSince  : Nat := 0
  inSet    : Bool := false
  /-- Frames that wait for a pause to end, oldest first. -/
  egress   : List Egress := []
  deriving DecidableEq, Repr

/-- The frame under way: the port it came on and its inbound buffer (R352). -/
structure RxFrame where
  port   : Fin 16
  handle : Option Nat
  deriving DecidableEq, Repr

/-- The transport. `pairs` is keyed by 4 × peer + VC. -/
structure Transport where
  ports  : Tab MacPort := []
  pairs  : Tab PairVc := []
  syncs  : Tab SyncOut := []
  out    : List FrameOut := []
  rx     : Option RxFrame := none
  /-- VC3 payloads that met RETRANSMIT_LIMIT and whose move has not been told (R258, R336). -/
  limited : List Payload := []
  deriving DecidableEq, Repr

/-! ### Mortar network and barrier (13) -/

/-- A message put out on a lane (R299), the block's output. -/
structure MortarOut where
  lane   : Nat
  origin : MemberId
  seq    : BitVec 8
  copy   : Bool
  resend : Bool
  down   : Bool
  body   : MortarBody
  deriving DecidableEq, Repr

/-- A message of the resend history (R301). -/
structure LaneMsg where
  seq    : BitVec 8
  origin : MemberId
  down   : Bool
  body   : MortarBody
  deriving DecidableEq, Repr

/-- A mortar lane (R297 to R301, R312, R320). -/
structure Lane where
  trained   : Bool := false
  silent    : Bool := false
  mismatch  : Bool := false
  partner   : MemberId := 0
  /-- SEQ of the next message sent, and of the next message expected. -/
  txNext    : BitVec 8 := 0
  rxNext    : BitVec 8 := 0
  history   : List LaneMsg := []
  lastRx    : Nat := 0
  /-- Timebase since which the lane is trained without a silence (R316). -/
  clearFrom : Nat := 0
  deriving DecidableEq, Repr

/-- Calibration and timebase (R303, R304, R424); offsets and delays in 1/64 tb. -/
structure Calib where
  tb        : Nat := 0
  loaded    : Bool := false
  /-- Exchanges completed with the current parent before the load. -/
  fast      : Nat := 0
  offset    : Int := 0
  slewPpb   : Int := 0
  linkDelay : Int := 0
  pathDelay : Nat := 0
  /-- What the exchanges with the other parent gave (R304). -/
  secOffset : Int := 0
  secDelay  : Int := 0
  secPath   : Nat := 0
  /-- Timebase of the latest CAL_REQ (R304). -/
  lastReq   : Option Nat := none
  deriving DecidableEq, Repr

/-- The tree (R295, R296, R311 to R316). -/
structure Tree where
  roster     : List MemberId := []
  sec        : List (BitVec 16) := []
  rehomed    : Bool := false
  /-- This member took over as acting root (R315). -/
  actingRoot : Bool := false
  membVer    : BitVec 16 := 0
  /-- Settled membership, and the membership of the first keystone barrier. -/
  settled    : List MemberId := []
  first      : List MemberId := []
  /-- Members lost since power-up and not readmitted. -/
  lost       : List MemberId := []
  /-- Losses with the MEMB_VER after each (R311). -/
  losses     : List (BitVec 16 × MemberId) := []
  /-- Admissions accepted and not yet taken up at a release (R428). -/
  admits     : List MemberId := []
  /-- SUSPECTs held at the root: reporter, suspected member, role of the reporter's lane (R314). -/
  suspects   : List (MemberId × MemberId × BitVec 8) := []
  /-- Lanes of children that re-homed to this member, and children that re-homed away (R307, R315), each lane
      with the timebase of the REHOME. -/
  kidsIn     : Tab Nat := []
  kidsOut    : List MemberId := []
  deriving DecidableEq, Repr

/-- Last agreed values (R234). -/
structure Agreed where
  ready   : BitVec 16 := 0
  crc     : BitVec 32 := 0
  weights : List Nat := List.replicate 16 1
  quantum : Nat := 0x9EB10
  idle    : Nat := 0x30D4
  deriving DecidableEq, Repr

/-- An abort record (R288). -/
structure AbortRec where
  origin  : MemberId
  code    : BitVec 8
  gen     : BitVec 16
  attempt : BitVec 2
  deriving DecidableEq, Repr

/-- The keystone barrier (R307 to R310). -/
structure Barrier where
  /-- BN of the barrier that gathers. -/
  bn       : BitVec 32 := 0
  /-- A first release has been taken (the late join of R427 is over). -/
  begun    : Bool := false
  own      : Option ArriveBody := none
  kids     : Tab ArriveBody := []
  /-- Members whose neutral arrival asked for admission, at the root (R428). -/
  admitReq : List MemberId := []
  sentUp   : Bool := false
  release  : Option ReleaseBody := none
  /-- Timebase when the held release was accepted (R310). -/
  relAt    : Nat := 0
  /-- The first abort record of the attempt that the root holds (R288). -/
  abort    : Option AbortRec := none
  /-- The last attempt for which the root has sent its release (R290). -/
  released : Option (BitVec 16 × BitVec 2) := none
  lastBn   : BitVec 32 := 0
  lastTRel : BitVec 64 := 0
  maxLate  : Nat := 0
  admitPending : Bool := false
  admitBlocked : Bool := false
  agreed   : Agreed := {}
  /-- The member joins a running appliance: its arrivals are NEUTRAL (R427); it has sent one. -/
  late        : Bool := false
  neutralSent : Bool := false
  /-- Children whose neutral arrivals have been accepted (R427). -/
  neutralKids : List MemberId := []
  /-- An ADMIT for this member was accepted; the STATE parts applied (R428). -/
  admitted : Bool := false
  stateIn  : List Nat := []
  /-- Timebase when the last arrival was accepted, this member's own among them (R308). -/
  lastIn   : Nat := 0
  /-- Earliest release of the idle barrier that gathers (R235, R308). -/
  idleMin  : Nat := 0
  /-- The latest common abort, and the latest release that ended an attempt (R294). -/
  lastAbort : Option AbortRec := none
  lastSeal  : Option ReleaseBody := none
  deriving DecidableEq, Repr

/-- A sum or maximum on the tree at this node (R279, R280): the own words, and those of children by member. -/
structure TreeSum where
  gen     : BitVec 16
  attempt : BitVec 2
  opseq   : BitVec 8
  isMax   : Bool
  own     : Option (List (BitVec 64)) := none
  kids    : Tab (List (BitVec 64)) := []
  sent    : Bool := false
  deriving DecidableEq, Repr

/-- The mortar side. -/
structure Mortar where
  lanes : Tab Lane := []
  cal   : Calib := {}
  tree  : Tree := {}
  bar   : Barrier := {}
  sums  : List TreeSum := []
  out   : List MortarOut := []
  deriving DecidableEq, Repr

/-! ### Programs, sequencers and the schedule (09, 10) -/

/-- STATE of a program (R203). -/
inductive ProgState where
  | empty | loaded | running | stopping | stopped | fault
  deriving DecidableEq, Repr

/-- The header values that LOAD takes (R200). -/
structure ProgImage where
  codeWords  : Nat := 0
  passes     : Nat := 0
  codeBase   : Nat := 0
  passBase   : Nat := 0
  ltabBase   : Nat := 0
  shapeBase  : Nat := 0
  shapeWords : Nat := 0
  deriving DecidableEq, Repr

/-- An accepted chunk-ready doorbell (R212): pass list entry, program step, chunk. -/
structure ChunkBell where
  entry : Nat
  step  : BitVec 12
  chunk : Nat
  deriving DecidableEq, Repr

/-- A program (R203, R236). -/
structure Program where
  state          : ProgState := .empty
  loadFaultEntry : Bool := false
  loadReason     : BitVec 8 := 0
  loadFault      : BitVec 16 := 0
  passIndex      : Nat := 0
  steps          : BitVec 64 := 0
  image          : ProgImage := {}
  lastDeclared   : BitVec 2 := 0
  lastDelivered  : BitVec 2 := 0
  lowered        : Bool := false
  deficit        : Int := 0
  charged        : Nat := 0
  /-- SKETCH_TB, EXACT_TB, TRANSPORT_TB, COMBINE_TB, LAYOUT_FUNC_TB (R236). -/
  engineTb       : Tab Nat := []
  bells          : List ChunkBell := []
  deriving DecidableEq, Repr

/-- An open loop of a sequencer (R223). -/
structure LoopFrame where
  /-- Code index of the body's first instruction and of the ENDLOOP. -/
  body : Nat
  last : Nat
  i    : Nat
  n    : Nat
  deriving DecidableEq, Repr

/-- Progress of an issued engine instruction. -/
inductive Progress where
  | waiting | started | done
  deriving DecidableEq, Repr

/-- An issued engine instruction (R217). -/
structure Issued where
  pc      : Nat
  word    : BitVec 64
  engine  : Engine
  /-- Its chunk, where it has one. -/
  chunk   : Option Nat
  /-- Planned start, when a SLOT governs it (R228). -/
  planned : Option Nat
  prog    : Progress
  /-- Its place in the order of issue (R217). -/
  order   : Nat := 0
  deriving DecidableEq, Repr

/-- A sequencer that a pass holds (R232). -/
structure Sequencer where
  prog    : Fin 16
  entry   : Nat
  layer   : BitVec 8
  gen     : BitVec 16
  attempt : BitVec 2
  /-- The pass has sealed: this is its tail. -/
  tail    : Bool := false
  /-- SEAL was executed and its arrival sent. -/
  sealing : Bool := false
  /-- SOURCE and FIRE of the SEAL. -/
  fire    : Option Nat := none
  halted  : Bool := false
  /-- The attempt was abandoned (R288). -/
  aborted : Bool := false
  /-- This member has started the common abort of the attempt (R287): it issues nothing more. -/
  failed  : Bool := false
  /-- First vote-kind code of the attempt (R289). -/
  vote    : Option (BitVec 8) := none
  tOpen   : Nat
  pc      : Nat
  loops   : List LoopFrame := []
  slotAt  : Option Nat := none
  instrs  : List Issued := []
  /-- Group named by the exchanging instructions issued so far (R214). -/
  group   : Option Nat := none
  /-- Group that the pass's code names, if it exchanges at all (R280). -/
  names   : Option Nat := none
  /-- Largest declared and delivered class so far, and an instruction delivered more than it declared (R238). -/
  declared  : Nat := 0
  delivered : Nat := 0
  lowered   : Bool := false
  /-- Chunks whose doorbell was in when the pass sealed, for the tail's WAITs, and CHUNKS of the pass. -/
  rung      : List Nat := []
  chunks    : Option Nat := none
  /-- Chunks that a WAIT has named (R219). -/
  waited    : List Nat := []
  deriving DecidableEq, Repr

/-- What opens next (R226, R227, R233). -/
structure NextSlot where
  prog    : Fin 16
  entry   : Nat
  attempt : BitVec 2
  /-- Layer-pass counter value of the pass: its own for a replay, none until it opens. -/
  count   : Option (BitVec 64)
  tNext   : Nat
  /-- The common abort of this attempt came before the attempt opened (R481). -/
  aborted : Bool := false
  deriving DecidableEq, Repr

/-- A read of the session table window (R211): its tag, the record, the byte offset and the number of bytes, and how many of the queued
writes were accepted before it. -/
structure SessRead where
  tag   : Nat
  record : Nat
  off   : Nat
  bytes : Nat
  after : Nat
  deriving DecidableEq, Repr

/-- The scheduler and the sequencers. -/
structure Schedule where
  programs : Tab Program := []
  seqs     : Tab Sequencer := []
  /-- Engine instructions issued since power-on: the order of the engine queues (R217). -/
  issued   : Nat := 0
  rrPtr    : Fin 16 := 0
  tOpen    : Nat := 0
  tNext    : Nat := 0
  /-- End of the open pass's slot, T_open + SLOT_TB. -/
  tEnd     : Nat := 0
  next     : Option NextSlot := none
  /-- An abort-kind code was raised in this command and the common abort is still to be started (R287). -/
  abortDue : Option (BitVec 8) := none
  /-- The layer-pass counter (R220). -/
  count    : BitVec 64 := 0
  sessions : Tab (BitVec 512) := []
  /-- Session writes queued or held back (R211): record, byte offset, bytes. -/
  sessQueue : List (Nat × Nat × List Byte) := []
  /-- Tags of the writes that back-pressure holds (R211, R397): those beyond the first 512. -/
  sessHeld  : List Nat := []
  /-- Session reads that wait behind a held write. -/
  sessReads : List SessRead := []
  /-- Largest lateness of a governed instruction of the pass, over its attempts, and that instruction (R229); the slot has
  raised TIMING_OVERRUN (R230). -/
  passLate   : Option (Nat × Nat) := none
  slotRaised : Bool := false
  lateGen    : BitVec 16 := 0
  lateProg   : Fin 16 := 0
  lateOver   : Bool := false
  latePhase  : Bool := false
  lateInstr  : BitVec 16 := 0
  lateTb     : Nat := 0
  /-- The current pass of R480: the one open, or opened last. GEN 0xFFFF before the first pass. -/
  curGen     : BitVec 16 := 0xFFFF
  curLayer   : BitVec 8 := 0
  curAttempt : BitVec 2 := 0
  /-- Code that a tile pop of each program answers when no descriptor is ready (R117, R122): 1 EMPTY, 2 DONE, 3 ABORT. -/
  popCode    : Tab Nat := []
  deriving DecidableEq, Repr

/-! ### Layout engine and function unit (08, 07) -/

/-- A layout request window (R181). -/
structure LayoutWindow where
  done    : Bool := false
  refused : Bool := false
  reason  : BitVec 8 := 0
  id      : BitVec 16 := 0
  /-- Tags of the RESULT reads that stall until DONE (R182). -/
  stalled : List Nat := []
  deriving DecidableEq, Repr

/-- The layout engine: the live sets (R177, R178), rising. Their contents lie in the layout table in host memory. -/
structure Layout where
  allocs  : List Nat := []
  descs   : List Nat := []
  /-- Descriptors whose table write failed (R394), rising. -/
  damaged : List Nat := []
  windows : Tab LayoutWindow := []
  deriving DecidableEq, Repr

/-- The function unit's stores (R165), as loaded; empty until the image load, reading 0. -/
structure FuncStore where
  micro : List Byte := []
  table : List Byte := []
  deriving DecidableEq, Repr

/-! ### The open attempt's engines (02 to 06, 12) -/

/-- A pair record (R40), and whether the classifier left the pair undecided (R42). -/
structure PairRec where
  s : BitVec 32
  b : BitVec 32
  undecided : Bool := false
  deriving DecidableEq, Repr

/-- The router weight buffer (R47, R49, R50): the INT4 section held resident, by tile record in the section's order (none while the section is
streamed), the layer pass (R220) whose section it is, and the two halves of the exact-row region, each with the rows it holds by expert. -/
structure WeightBuffer where
  pass  : Option (BitVec 64) := none
  int4  : Option (List Byte) := none
  halfA : List (Nat × List Byte) := []
  halfB : List (Nat × List Byte) := []
  deriving DecidableEq, Repr

/-- What the scoring buffers hold of one token: norm record (R26), narrow activations and outliers (R35), pairs (R40). -/
structure TokScore where
  mu        : BitVec 32 := 0
  k         : Int := 0
  r         : BitVec 32 := 0
  invalid   : Bool := false
  nonfinite : Bool := false
  /-- 4-bit codes in channel order, E8M0 codes by block. -/
  codes     : List Nat := []
  exps      : List Nat := []
  /-- Channel and x̂ (BF16) of each valid outlier, by rising channel. -/
  outliers  : List (Nat × BitVec 16) := []
  pairs     : List PairRec := []
  deriving DecidableEq, Repr

/-- A message of several frames as far as it has been received: entries by index (R78, R111, R145). -/
structure ExchIn (α : Type) where
  total   : Nat
  entries : Tab α := []
  deriving DecidableEq, Repr

/-- A target of a row copy (R103, R109). -/
structure Target2 where
  member : MemberId
  expert : Nat
  rank   : Nat
  row    : Nat
  deriving DecidableEq, Repr

/-- A row copy (R103). -/
structure RowCopy where
  token   : Nat
  hop     : MemberId
  targets : List Target2
  deriving DecidableEq, Repr

/-- A dispatch cell that waits in inbound staging for the layout (R112): the hop it came from, and its pool buffer. -/
structure StagedCell where
  hop    : MemberId
  cell   : DispatchCell
  handle : Option Nat
  deriving DecidableEq, Repr

/-- A region row as its cells arrive (R112, R115, R130). -/
structure RegionRow where
  token   : Nat
  rank    : Nat
  /-- Member that the row's cells came from: the return hop. -/
  hop     : MemberId
  cells   : List Nat := []
  count   : Nat
  deriving DecidableEq, Repr

/-- A tile of the pass, in the order of R14 (R115, R116). -/
structure Tile where
  chunk    : Nat
  localNum : Nat
  expert   : Nat
  source   : MemberId
  firstRow : Nat
  rows     : Nat
  deriving DecidableEq, Repr

/-- A fan-out cell that a mirror holds until every forwarded copy is acknowledged (R118), in a buffer of FANOUT. -/
structure FanOut where
  handle  : Nat
  /-- Peers whose hop acknowledgement is awaited, and what was forwarded to them. -/
  peers   : List MemberId
  payload : Payload
  deriving DecidableEq, Repr

/-- An accumulator row (R134 to R136): the words and one residue per 32-element group; ranks counted; the shared term added. -/
structure Accum where
  eTok     : Int
  words    : List (BitVec 64)
  residues : List Nat
  ranks    : List Nat := []
  shared   : Bool := false
  deriving DecidableEq, Repr

/-- A rack partial at a mirror (R143): the pool buffer (none when the pool refused it), the sums, the ranks summed, the
ranks that failed their guard, and that it has been sent. -/
structure Partial where
  chunk    : Nat
  handle   : Option Nat
  words    : List (BitVec 64)
  residues : List Nat
  summed   : List Nat := []
  failed   : List Nat := []
  sent     : Bool := false
  deriving DecidableEq, Repr

/-- A collective frame that waits until its collective knows its count: when it was accepted, and its inbound buffer (R286, R352). -/
structure WaitColl where
  frame  : CollFrame
  at_    : Nat
  handle : Option Nat
  deriving DecidableEq, Repr

/-- Cells that wait: a return cell or partial cell, the member and port it came from, its inbound buffer. -/
structure WaitCell where
  hop    : MemberId
  cell   : Cell
  handle : Option Nat
  port   : Fin 16 := 0
  deriving DecidableEq, Repr

/-- COMBINE of the open attempt, as owner and as mirror (06). -/
structure CombineState where
  /-- RETURN and COMBINE started; the shared-ready doorbell is in. -/
  returning : Bool := false
  combining : Bool := false
  shared    : Bool := false
  /-- Accumulators of the open tokens; tokens done (R16); chunks closed (R147). -/
  accs      : Tab Accum := []
  doneToks  : List Nat := []
  /-- Done tokens that had counted every contribution (R139), and the ranks counted of tokens that a failed guard ended (R133, R138). -/
  whole     : List Nat := []
  counted   : Tab (List Nat) := []
  closed    : Nat := 0
  /-- Chunk limits above their initial value, by owner (R148). -/
  limits    : Tab Nat := []
  /-- Return rows held back by a limit: tile and region row. -/
  heldRows  : List (Nat × Nat) := []
  /-- Keys of return cells (source, owner, token, expert, cell) and of partial cells (source, token, cell) taken. -/
  seenRet   : List (Nat × Nat × Nat × Nat × Nat) := []
  seenPart  : List (Nat × Nat × Nat) := []
  /-- Return rows and partial rows of which cells are in: cells by index. Keys: (owner, token, rank), (source, token). -/
  retRows   : List ((Nat × Nat × Nat) × List ReturnCell) := []
  partRows  : List ((Nat × Nat) × List PartialCell) := []
  /-- Cells that wait for their token to open, or at a mirror for the gate note. -/
  waiting   : List WaitCell := []
  gateIn    : Tab (ExchIn GateEntry) := []
  /-- Target lists of the copies that this member mirrors, and partials, by 16,384 × owner + token. -/
  copiesIn  : Tab (List TargetEntry) := []
  partials  : Tab Partial := []
  /-- Timebase of the last tile-done doorbell accepted, and of the end of the pass's cold streaming (R149). -/
  lastDone  : Option Nat := none
  coldDone  : Option Nat := none
  deriving DecidableEq, Repr

/-- A collective record (R269), or what STATS takes of its plan record; addresses are host addresses. -/
structure CollRec where
  format   : Nat
  inFmt    : Nat
  outFmt   : Nat
  hier     : Bool
  shaped   : Bool
  waits    : Bool
  log2     : Nat
  grid     : Int
  source   : Nat
  fires    : Bool
  count    : Nat
  shape    : Nat
  src      : Nat
  dst      : Nat
  progress : Nat
  timeout  : Nat
  deriving DecidableEq, Repr

/-- A chunk in the reduction buffer (R276, R277): its in-flight elements, worked in place; pieces in DST (sub-pieces of the
own in-rack piece beside them); and whether the in-rack reduce-scatter has completed the own piece (R278). -/
structure CollChunk where
  vals  : List (BitVec 64)
  inDst : List Nat := []
  subs  : List Nat := []
  reduced : Bool := false
  deriving DecidableEq, Repr

/-- A piece as its frames arrive (R281): stage, chunk, piece, sub-piece, step, sender, CRC, size, and data by offset. -/
structure CollPiece where
  stage : Nat
  chunk : Nat
  piece : Nat
  sub   : Nat
  step  : Nat
  size  : Nat
  crc   : BitVec 32
  parts : Tab (List Byte) := []
  deriving DecidableEq, Repr

/-- A collective of the open attempt (12), numbered by its OPSEQ. -/
structure Coll where
  record   : CollRec
  group    : Nat
  /-- The collective ends a COMBINE_AR: its chunks wait for output rows (R271). -/
  combined : Bool := false
  /-- STATS: its completion is followed by the planner (R332). -/
  stats    : Bool := false
  started  : Nat
  lastRx   : Nat
  /-- This member's count and the agreed count N (R279); the count's shape word is not yet written. -/
  own      : Nat
  counting : Bool := false
  total    : Option Nat := none
  /-- The sum travels on the mortar tree (R280). -/
  mortar   : Bool := false
  chunks   : Tab CollChunk := []
  /-- Chunks whose sum has been written to DST, which leave the buffer (R276); and those of them whose writes have completed (R284, R392). -/
  landed   : List Nat := []
  doneCh   : List Nat := []
  failed   : List Nat := []
  value    : Nat := 0
  pieces   : List CollPiece := []
  /-- Frames taken: sender, stage, chunk, piece, sub, offset. -/
  seen     : List (Nat × Nat × Nat × Nat × Nat × Nat) := []
  finished : Bool := false
  deriving DecidableEq, Repr

/-- The engines' state for the open attempt; discarded when an attempt ends. -/
structure Attempt where
  /-- Host address of the layer table (R207). -/
  table  : Nat := 0
  /-- T and CHUNKS, once chunk 0's doorbell is accepted (R221). -/
  tokens : Option Nat := none
  chunks : Option Nat := none
  /-- Scoring buffers by chunk, freed when SELECT of the chunk completes (R48). -/
  score  : Tab (List TokScore) := []
  /-- SCORING's pool buffers by chunk, and whether the chunk has asked for them (R350). -/
  scoreBufs : Tab (List Nat) := []
  /-- Count entries sent, by owner (R77), and the messages received, by member. -/
  sent     : Tab (List Nat) := []
  countsIn : Tab (ExchIn (BitVec 32)) := []
  grantsIn : Tab (ExchIn (BitVec 32)) := []
  /-- GRANT started; capacity allocated; GRANT completed (timebase of the first and the last, R90, R121). -/
  grantAt  : Option Nat := none
  allocated : Bool := false
  grantDone : Option Nat := none
  /-- Demand and granted total of each owned expert (R94). -/
  owned    : Tab (Nat × Nat) := []
  /-- Cold experts that hold a slot, in rank order (R86). -/
  coldWon  : List Nat := []
  /-- Row copies by chunk, resolved by GRANT (R103), and in send order after SORT (R104). -/
  copies   : Tab (List RowCopy) := []
  sorted   : Tab (List RowCopy) := []
  /-- Manifests received, by source (R111). -/
  manIn    : Tab (ExchIn ManifestEntry) := []
  staged   : List StagedCell := []
  laidOut  : Bool := false
  tiles    : List Tile := []
  rows     : Tab RegionRow := []
  /-- (source, token, cell) of the dispatch cells accepted. -/
  seen     : List (Nat × Nat × Nat) := []
  /-- Cells that this mirror has forwarded (R118). -/
  fanned   : List (Nat × Nat × Nat) := []
  fanout   : List FanOut := []
  /-- TILES started; tiles entered; tiles whose done doorbell came; tiles returned. -/
  tilesOn  : Bool := false
  entered  : Nat := 0
  /-- First region rows of the tiles whose rows' writes have completed (R115, R392). -/
  written  : List Nat := []
  doneTiles : List Nat := []
  returned : List Nat := []
  comb     : CombineState := {}
  /-- The GRANT delivered class 1 here (R238). -/
  class1   : Bool := false
  /-- Cold streaming (R340): the slot in progress and its bytes present. -/
  coldSlot : Nat := 0
  coldBytes : Nat := 0
  /-- Shape words of the region that SHAPE has written in the attempt (R222). -/
  shaped   : List Nat := []
  /-- Collectives of the attempt by OPSEQ, collective-ready doorbells accepted (R272), and collective frames that wait for
  their collective to start. -/
  colls    : Tab Coll := []
  collBells : List Nat := []
  collWait : List WaitColl := []
  deriving DecidableEq, Repr

/-- An early item in staging or in the reserve (R480). -/
structure EarlyItem where
  hdr     : FrameHdr
  payload : Payload
  handle  : Option Nat
  deriving DecidableEq, Repr

/-! ### Placement (14) -/

/-- A move of weights to this member (R335), or the staging of a tier-1 copy (R339). -/
structure WMove where
  staging  : Bool
  layer    : Nat
  expert   : Nat
  holder   : MemberId
  dst      : Nat
  /-- Source member and its weight slot; none reads the quarry tier. -/
  src      : Option (MemberId × Nat)
  /-- It fell back to the quarry tier (R336). -/
  fallback : Bool := false
  epoch    : BitVec 16
  /-- Offset of the window in progress; bytes of the window received, by offset; its CRC once LAST is in. -/
  off      : Nat := 0
  parts    : Tab (List Byte) := []
  crc      : Option (BitVec 32) := none
  active   : Bool := false
  /-- The window in progress is written, and the response of its writes awaited (R392). -/
  wait     : Bool := false
  done     : Bool := false
  /-- Timebase of the window's request, or of the latest of its frames (R337). -/
  since    : Nat := 0
  deriving DecidableEq, Repr

/-- What a statistics pass decided (R331); it takes effect when its seal passes. -/
structure PlanDecision where
  castles : Bool
  pend    : Nat
  moves   : List WMove
  deriving DecidableEq, Repr

/-- Placement state of a program; a follower uses only `stepIn` (R322, R328). -/
structure Placement where
  /-- The plan record as LOAD or STATS read it (R323). -/
  plan       : List Byte := []
  epoch      : BitVec 16 := 0
  stepIn     : BitVec 16 := 0
  /-- The running step is the last of the epoch for this program, as it began or as a loss made it (R328, R342); none: no step of
  the program has begun since the last one ended. -/
  inLast     : Option Bool := none
  cur        : Nat := 0
  pend       : Nat := 3
  status     : Nat := 0
  recovering : Bool := false
  /-- Members admitted again since the current table came into use: its copies on them are lost (R421, R428). -/
  stale      : List MemberId := []
  /-- Length of the current epoch when a member loss has ended it early (R342). -/
  endStep    : Option Nat := none
  /-- An EPOCH_LAST entry of the running step has opened (R342). -/
  lastOpened : Bool := false
  decision   : Option PlanDecision := none
  /-- Epoch in which the pending plan was made (R336). -/
  planEpoch  : BitVec 16 := 0
  moves      : List WMove := []
  deriving DecidableEq, Repr

/-! ### The registers' words -/

/-- Words of the RW registers, at 8-byte offsets of the control port window: the offset and the reset value.
A word not listed resets to 0. -/
def regResets : List (Nat × BitVec 64) :=
  [(0x01000, 0x0000000600000000), (0x01008, 0x000004E200000A28), (0x01010, 0x1E848),
   (0x03008, 0xFA), (0x03040, 0x0EE6B280),
   (0x04000, 0xA), (0x04010, 0xA), (0x04020, 0xA), (0x04030, 0xA), (0x04040, 0xA), (0x04050, 0xA),
   (0x05000, 0x00003456C4C488B5), (0x05008, 0x00000100000A4119), (0x05010, 0x00001388FFFFF000),
   (0x05018, 0x001312D000FA1004), (0x05020, 0x001312D0),
   (0x0E810, 0x000004E20009EB10), (0x0E818, 0x30D4), (0x0E848, 0x30D4),
   (0x20008, 0x0000004000000000)]

/-- Number of the banked copy of a register word: registers that POOL_SEL, REQ_SEL, QUEUE_SEL or GROUP_SEL selects have
one word per selection, numbered above the window. -/
def bankWord (bank off : Nat) : Nat := 0x20000 + bank * 0x4000 + off / 8

/-- Reset value of a register word. Words 0 to 0x1FFFF are the window's; above lie the banked copies. -/
def regReset (k : Nat) : BitVec 64 :=
  if k < 0x20000 then
    if 0x8000 / 8 ≤ k ∧ k < 0xA000 / 8 then 0x10000           -- COAL_COUNT 1 (R387)
    else if 0xE000 / 8 ≤ k ∧ k < 0xE800 / 8 ∧ k % 16 = 8 then 1  -- WEIGHT 1 (R236)
    else if 0xEC00 / 8 ≤ k ∧ k < 0xF000 / 8 ∧ k % 8 = 1 then
      BitVec.ofNat 64 ((k - 0xEC00 / 8) / 8 + 256 * 2 ^ 32)     -- PLAN_PROG p, EPOCH_STEPS 256 (R344)
    else if 0xEC00 / 8 ≤ k ∧ k < 0xF000 / 8 ∧ k % 8 = 3 then 0xFFFFFFFFFFFFFFFF -- QUOTA_T0, QUOTA_T1
    else if 0xEC00 / 8 ≤ k ∧ k < 0xF000 / 8 ∧ k % 8 = 4 then 0xFFFFFFFF       -- QUOTA_T2
    else (regResets.lookup (8 * k)).getD 0
  else if (k - 0x20000) % 0x4000 = 0xD008 / 8 then 0x0000000800000100  -- CT_UNITS 1, CAP_CELLS 8 (R370)
  else if (k - 0x20000) % 0x4000 = 0xC038 / 8 then 1                   -- LEVEL 1 (R370)
  else 0

/-- One member of an appliance. -/
structure State where
  /-- RW registers as written, by word (`regReset` where not listed). -/
  regs      : Tab (BitVec 64) := []
  /-- In-effect copies of registers whose writes take effect later (R263, R370, R450), by word. -/
  effect    : Tab (BitVec 64) := []
  /-- Telemetry counters and CODE_COUNT by control port offset (R52, R475, R447). -/
  counters  : Tab Nat := []
  /-- Host memory: (address, byte), rising, no byte that is 0 (DESIGN CHOICE, log entry 1). -/
  mem       : List Host.Cell := []
  /-- The answer that the latest target request got when it came, and the answers given since to requests that had kept their tags. -/
  port      : PortAnswer := {}
  late      : List PortAnswer := []
  /-- Writes of the host port that the block awaits the responses of (R392, R462), in order of issue. -/
  hostOut   : List HostCtx := []
  boot      : Boot := {}
  power     : Power := {}
  /-- The test port's instruction register (R409). -/
  testInstr : BitVec 8 := 1
  /-- TRST_N is asserted; the value that the test port's data register captured last (R410, R473). -/
  testReset : Bool := false
  testOut   : BitVec 64 := 0
  ledger    : Ledger := {}
  signals   : SignalUnit := {}
  storage   : Storage := {}
  net       : Transport := {}
  mortar    : Mortar := {}
  sched     : Schedule := {}
  att       : Attempt := {}
  weights   : WeightBuffer := {}
  /-- Early items held (R480), oldest first. -/
  early     : List EarlyItem := []
  /-- The groups in use (R266), by number. -/
  groups    : Tab (List MemberId) := []
  layout    : Layout := {}
  /-- Placement by program (14). -/
  placement : Tab Placement := []
  funcs     : FuncStore := {}
  /-- Codes already raised in the present layer pass or idle interval (R51, R258, R363, R453). -/
  marks     : List Nat := []
  /-- MODEL'S OWN: counts the free values used (DESIGN CHOICE, log entry 4). -/
  freeCtr   : Nat := 0
  /-- The commands that wait, first in, first out. -/
  pending   : List Instr := []
  deriving DecidableEq, Repr

/-- The member right after a power-on reset (R419): every field at its reset value; no command waits. -/
def State.reset : State := {}

/-- The block's own stop reasons. No command faults: the spec turns every error into a code, a refusal bit or a
discarded message. -/
inductive Fault where
  deriving DecidableEq, Repr

/-- Why a command has no meaning in this model. -/
inductive Refusal where
  /-- Raised by an arm of `exec` whose command has no meaning yet; safe. -/
  | notModelled (mnemonic : String)
  deriving DecidableEq, Repr

end Sys2Proof.Machine
end

