-- ==== Sys2Proof/Machine/Ops.lean ====
section
/-! DEFINITION. The named operations over the state that every unit uses: register words, counters, host memory, the target
port's answer, free values, once-per-interval marks. -/

namespace Sys2Proof.Machine

/-- The one outcome of a command that the block serves. -/
abbrev Result := Host.Outcome State Fault Refusal

/-! ### Registers -/

/-- A register word. -/
def State.word (s : State) (k : Nat) : BitVec 64 := Tab.get regReset s.regs k

/-- Writes a register word. -/
def State.setWord (s : State) (k : Nat) (v : BitVec 64) : State := { s with regs := Tab.set regReset s.regs k v }

/-- A field of an RW register: byte offset (4-byte aligned), lowest bit and width. -/
def State.reg (s : State) (off lo len : Nat) : Nat := field (s.word (off / 8)).toNat (off % 8 * 8 + lo) len

/-- The value in effect of a field whose register takes effect later than its write. -/
def State.eff (s : State) (off lo len : Nat) : Nat :=
  field (Tab.get regReset s.effect (off / 8)).toNat (off % 8 * 8 + lo) len

/-- A field of a banked register. -/
def State.bankReg (s : State) (bank off lo len : Nat) : Nat :=
  field (s.word (bankWord bank (off / 8 * 8))).toNat (off % 8 * 8 + lo) len

/-- The value in effect of a field of a banked register. -/
def State.bankEff (s : State) (bank off lo len : Nat) : Nat :=
  field (Tab.get regReset s.effect (bankWord bank (off / 8 * 8))).toNat (off % 8 * 8 + lo) len

/-- The written words in a range of word numbers take effect. -/
def State.applyWords (s : State) (lo hi : Nat) : State :=
  { s with effect := (s.effect.filter (fun p => !(lo ≤ p.1 && p.1 ≤ hi)) ++
      s.regs.filter (fun p => lo ≤ p.1 && p.1 ≤ hi)).foldl (fun t p => Tab.set regReset t p.1 p.2) [] }

/-! ### Counters -/

/-- A counter (R52). -/
def State.ctr (s : State) (c : Nat) : Nat := Tab.get (fun _ => 0) s.counters c

/-- Adds n to a counter. -/
def State.bump (s : State) (c : Nat) (n : Nat := 1) : State :=
  { s with counters := Tab.set (fun _ => 0) s.counters c (s.ctr c + n) }

/-- Offset of CODE_COUNT of a code (R447). -/
def codeCount (c : BitVec 8) : Nat := 0x20800 + 8 * c.toNat

/-! ### Host memory -/

/-- What a byte that nothing has written reads as (DESIGN CHOICE, log entry 1). -/
def memDefault : Nat → Byte := fun _ => 0

/-- Top of the 52-bit host address space (R390). -/
def hostTop : Nat := 2 ^ 52

/-- One byte of host memory. -/
def State.byte (s : State) (a : Nat) : Byte := Tab.get memDefault s.mem a

/-- Stores one byte. An address beyond the 52-bit space names no byte, and nothing is stored (DEDUCED, log entry 8). -/
def storeByte (m : List Host.Cell) (a : Nat) (v : Byte) : List Host.Cell :=
  if a < hostTop then Tab.set memDefault m a v else m

/-- Stores bytes from an address upward. -/
def storeBytes : List Host.Cell → Nat → List Byte → List Host.Cell
  | m, _, [] => m
  | m, a, b :: t => storeBytes (storeByte m a b) (a + 1) t

/-- Memory is in its canonical form and within the address space. -/
abbrev Memory.wf (m : List Host.Cell) : Prop := Tab.wf memDefault m ∧ ∀ c ∈ m, c.1 < hostTop

/-- n bytes of host memory from an address upward. -/
def State.read (s : State) (a n : Nat) : List Byte := (List.range n).map (fun i => s.byte (a + i))

/-- A little-endian number of n bytes in host memory. -/
def State.readLe (s : State) (a n : Nat) : Nat := ofLe (s.read a n)

/-- Writes bytes to host memory. -/
def State.write (s : State) (a : Nat) (b : List Byte) : State := { s with mem := storeBytes s.mem a b }

/-- Writes a little-endian number of n bytes. -/
def State.writeLe (s : State) (a n v : Nat) : State := s.write a (leBytes n v)

/-! ### The target port's answer (R395, R396) -/

/-- Status OK with data. -/
def State.answer (s : State) (data : Nat) : State := { s with port := { s.port with status := 0, data := BitVec.ofNat 512 data, stalled := false } }

/-- Status OK for a write, or for a request that is not served (R396). -/
def State.ok (s : State) : State := s.answer 0

/-- Status NOT_READY with zero data (R398). -/
def State.notReady (s : State) : State := { s with port := { s.port with status := 1, data := 0, stalled := false } }

/-- The request keeps its tag (R397). -/
def State.stall (s : State) : State := { s with port := { s.port with status := 0, data := 0, stalled := true } }

/-- A target request comes: the next tag. The answers to earlier requests have been seen. -/
def State.newTag (s : State) : State := { s with port := { tag := s.port.tag + 1 }, late := [] }

/-- A request that kept its tag is answered (R397): a stalled read with its data, a held write with 0. -/
def State.lateAnswer (s : State) (tag data : Nat) : State :=
  { s with late := s.late ++ [{ tag := tag, data := BitVec.ofNat 512 data }] }

/-! ### Time, free values and marks -/

/-- The timebase (R303). -/
def State.tb (s : State) : Nat := s.mortar.cal.tb

/-- Sets the timebase counter. -/
def State.setTb (s : State) (t : Nat) : State :=
  { s with mortar := { s.mortar with cal := { s.mortar.cal with tb := t } } }

/-- Time passes: n tb units. The time counters of R468 run with it. -/
def State.pass (s : State) (n : Nat) : State :=
  let s := s.setTb (s.tb + n)
  match s.power.state with
  | .run => if s.power.stepped then s.bump 0x21810 n else s
  | .light => s.bump 0x21820 n
  | .deep => s.bump 0x21830 n

/-- Time passes until the timebase has reached t (DESIGN CHOICE, log entry 9). -/
def State.until (s : State) (t : Nat) : State := if s.tb < t then s.pass (t - s.tb) else s

/-- Takes the occasion number of the next free value. -/
def State.useFree (s : State) : State := { s with freeCtr := s.freeCtr + 1 }

/-- Whether a once-per-interval mark is set. -/
def State.marked (s : State) (m : Nat) : Bool := s.marks.contains m

/-- Sets a once-per-interval mark. -/
def State.mark (s : State) (m : Nat) : State := if s.marked m then s else { s with marks := m :: s.marks }

/-- Applies a function to each member of a list in order. -/
def State.each {α : Type} (s : State) (l : List α) (f : State → α → State) : State := l.foldl f s

/-- A program. -/
def State.prog (s : State) (p : Fin 16) : Program := Tab.get (fun _ => {}) s.sched.programs p.val

/-- Writes a program. -/
def State.setProg (s : State) (p : Fin 16) (v : Program) : State :=
  { s with sched := { s.sched with programs := Tab.set (fun _ => {}) s.sched.programs p.val v } }

/-- This member's id. -/
def State.me (s : State) : MemberId := s.boot.memberId

/-- The member is held (R441). -/
def State.held (s : State) : Bool := s.boot.phase == .held

/-- The core domain runs: powered, out of reset, not held, not asleep. -/
def State.awake (s : State) : Bool := s.boot.powered && !s.held && s.power.state == .run

/-- A write of the block's own leaves the host port; its response is awaited (R392). -/
def State.hostIssue (s : State) (c : HostCtx) : State := if s.hostOut.contains c then s else { s with hostOut := s.hostOut ++ [c] }

/-- The response of writes of the block's own has come. -/
def State.hostAnswered (s : State) (c : HostCtx) : State := { s with hostOut := s.hostOut.filter (fun x => x != c) }

/-- The block takes part in the appliance: ready and not lost (R420, R442). -/
def State.inService (s : State) : Bool := s.boot.ready && s.awake

end Sys2Proof.Machine
end

