-- ==== Sys2Proof/Machine/Signal.lean ====
section
/-! DEFINITION. The signal unit (16): batches, fires, arbitration, end of interrupt, configuration of sources. -/

namespace Sys2Proof.Machine

/-- A source's batch. -/
def State.source (s : State) (n : Nat) : Source := Tab.get (fun _ => {}) s.signals.sources n

/-- Writes a source's batch. -/
def State.setSource (s : State) (n : Nat) (v : Source) : State :=
  { s with signals := { s.signals with sources := Tab.set (fun _ => {}) s.signals.sources n v } }

/-- A target. -/
def State.target (s : State) (t : Nat) : Target := Tab.get (fun _ => {}) s.signals.targets t

/-- Writes a target. -/
def State.setTarget (s : State) (t : Nat) (v : Target) : State :=
  { s with signals := { s.signals with targets := Tab.set (fun _ => {}) s.signals.targets t v } }

/-! Fields of the source and target registers (R387). -/

def State.srcTarget (s : State) (n : Nat) : Nat := s.reg (0x8000 + 8 * n) 0 4
def State.srcEnable (s : State) (n : Nat) : Bool := s.reg (0x8000 + 8 * n) 4 1 == 1
def State.srcPriority (s : State) (n : Nat) : Nat := s.reg (0x8000 + 8 * n) 8 8
def State.srcCoalCount (s : State) (n : Nat) : Nat := s.reg (0x8000 + 8 * n) 16 12
def State.srcCoalTb (s : State) (n : Nat) : Nat := s.reg (0x8004 + 8 * n) 0 32
def State.srcVOffset (s : State) (n : Nat) : Nat := s.reg (0xA000 + 4 * n) 0 32
def State.vectorBase (s : State) (t : Nat) : Nat := (s.word ((0xB000 + 0x80 * t) / 8)).toNat
def State.groupBits (s : State) (t : Nat) : Nat := s.reg (0xB008 + 0x80 * t) 0 4

/-- Priority group of a source on its target (R380): bits [7:8−g] of PRIORITY. -/
def State.srcGroup (s : State) (n : Nat) : Nat :=
  s.srcPriority n / 2 ^ (8 - s.groupBits (s.srcTarget n))

/-- Numbers of the sources whose configuration word is not its reset value: an enabled source is among them. -/
def State.configured (s : State) : List Nat :=
  (s.regs.filter (fun p => 0x8000 / 8 ≤ p.1 && p.1 < 0xA000 / 8)).map (fun p => p.1 - 0x8000 / 8)

/-- Enabled sources of a target, ascending (R375). -/
def State.bank (s : State) (t : Nat) : List Nat :=
  s.configured.filter (fun n => s.srcEnable n && s.srcTarget n == t)

/-- The better of two candidates (R381): higher priority byte (group, then sub-priority), then lower number. -/
def State.better (s : State) (a b : Nat) : Nat :=
  if s.srcPriority b < s.srcPriority a ∨ (s.srcPriority a = s.srcPriority b ∧ a ≤ b) then a else b

/-- The candidate of a target: its best pending source (R381). -/
def State.candidate (s : State) (t : Nat) : Option Nat :=
  ((s.bank t).filter (fun n => (s.source n).pending)).foldl
    (fun c n => match c with
      | none => some n
      | some m => some (s.better m n)) none

/-- The vector address of a source on its target: VECTOR_BASE + VOFFSET (R381). -/
def State.vectorAddr (s : State) (t n : Nat) : BitVec 64 := BitVec.ofNat 64 (s.vectorBase t + s.srcVOffset n)

/-- What a target presents: VP_SRC and VP_ADDR. They change only while VP_VALID is low or when another source takes the presented one's
place (R407). -/
def State.present (s : State) (t : Nat) (p : Option Nat) : State :=
  let g := s.target t
  s.setTarget t { g with
    presented := p
    addr := match p with
      | some n => if g.presented = some n then g.addr else s.vectorAddr t n
      | none => g.addr }

/-- Arbitration of one target (R381, R382): what it presents. Nothing new is presented while the core sleeps or VP_RST_N
is asserted (R408). -/
def State.arbitrate (s : State) (t : Nat) : State :=
  let g := s.target t
  if s.signals.vpReset then s.present t none
  else if s.power.state ≠ .run then s
  else if g.stack.length ≥ 16 then s.present t none
  else match s.candidate t with
    | none => s.present t none
    | some n =>
      match g.stack with
      | [] => s.present t (some n)
      | top :: _ => if top.2 < s.srcGroup n then s.present t (some n) else s.present t none

/-- Arbitration of every target. -/
def State.arbitrateAll (s : State) : State := s.each (List.range 16) State.arbitrate

/-- Closes a source's batch (R377): it becomes pending. -/
def State.closeBatch (s : State) (n : Nat) : State :=
  let b := s.source n
  s.setSource n { b with isOpen := false, pending := true }

/-- The timebase reaches an open batch's deadline (R377): the batch closes. A batch without a deadline stays open. -/
def State.batchExpiry (s : State) (n : Nat) : State :=
  let b := s.source n
  if b.isOpen && b.timed then ((s.until b.deadline).closeBatch n).arbitrate (s.srcTarget n) else s

/-- One more fire in a batch (R377): 65,535 stays, and SAT says so. -/
def Source.count1 (b : Source) : Source :=
  if b.count = 0xFFFF then { b with sat := true } else { b with count := b.count + 1 }

/-- Opens a batch (R377). -/
def Source.start (tb coalTb : Nat) (b : Source) : Source :=
  { b with count := 1, isOpen := true, sat := false, timed := decide (coalTb ≠ 0), deadline := tb + coalTb }

/-- A fire of an enabled source, without arbitration (R377, R378). -/
def State.fireBatch (s : State) (n : Nat) : State :=
  let b := s.source n
  if b.pending then s.setSource n b.count1
  else
    let b := if b.isOpen then b.count1 else b.start s.tb (s.srcCoalTb n)
    let s := s.setSource n b
    if s.srcCoalCount n ≤ b.count.toNat then s.closeBatch n else s

/-- A source fires (R376, R377); arbitration follows. -/
def State.fire (s : State) (n : Nat) : State :=
  if s.srcEnable n then (((s.bump 0x21780).fireBatch n).arbitrate (s.srcTarget n)) else s.bump 0x21790

/-- Discards a source's batch (R376, R379). -/
def State.dropBatch (s : State) (n : Nat) : State := s.setSource n {}

/-- A write of a source's configuration word at 0x0_8000 + 8n (R375 to R377): `v` is the word the write leaves. -/
def State.configureSource (s : State) (n : Nat) (v : BitVec 64) : State :=
  let old := s.word (0x8000 / 8 + n)
  -- a COAL_COUNT of 0 is ignored: the field keeps its value (R387)
  let v := if field v.toNat 16 12 = 0 then
      BitVec.ofNat 64 (v.toNat + field old.toNat 16 12 * 2 ^ 16) else v
  let enOld := bit old.toNat 4
  let enNew := bit v.toNat 4
  let tOld := field old.toNat 0 4
  let tNew := field v.toNat 0 4
  if enOld && enNew && tOld ≠ tNew then s
  else if enNew && (!enOld || tOld ≠ tNew) && 64 ≤ (s.bank tNew).length then
    s.setTarget tNew { s.target tNew with bankFull := true }
  else
    let s := if enOld && !enNew then s.dropBatch n else s
    let s := s.setWord (0x8000 / 8 + n) v
    let b := s.source n
    let s := if enNew && b.isOpen && field v.toNat 16 12 ≤ b.count.toNat then s.closeBatch n else s
    (s.arbitrate tOld).arbitrate tNew

/-- SET_PENDING (R379): one fire, and the batch closes at once. -/
def State.setPending (s : State) (n : Nat) : State :=
  if n < 1024 ∧ s.srcEnable n then
    (((s.bump 0x21780).fireBatch n).closeBatch n).arbitrate (s.srcTarget n)
  else s

/-- CLEAR_PENDING (R379). -/
def State.clearPending (s : State) (n : Nat) : State :=
  if n < 1024 ∧ s.srcEnable n then (s.dropBatch n).arbitrate (s.srcTarget n) else s

/-- EOI at a target (R382). -/
def State.endInterrupt (s : State) (t n : Nat) : State :=
  let g := s.target t
  match g.stack with
  | top :: rest => if top.1 = n then (s.setTarget t { g with stack := rest }).arbitrate t else s.bump 0x217A8
  | [] => s.bump 0x217A8

/-- Acceptance at a target (R382): the presented source moves to the active stack. -/
def State.accept (s : State) (t : Nat) : State :=
  let g := s.target t
  if s.signals.vpReset then s
  else match g.presented with
    | none => s
    | some n =>
      let b := s.source n
      let s := (s.bump 0x21798)
      let s := if g.stack.isEmpty then s else s.bump 0x217A0
      let s := if b.sat then s.bump 0x217B0 else s
      let s := s.setTarget t { g with stack := (n, s.srcGroup n) :: g.stack, presented := none,
                                      lastCount := b.count, lastSat := b.sat }
      (s.dropBatch n).arbitrate t

/-- A write to the signal doorbell (R373). -/
def State.ringSignal (s : State) (size : BitVec 3) (v : BitVec 32) : State :=
  if size = 2 ∧ 0x200 ≤ v.toNat ∧ v.toNat < 0x400 then s.fire v.toNat else s.bump 0x21788

end Sys2Proof.Machine
end

