-- ==== Sys2Proof/Machine/Flags.lean ====
section
/-! DEFINITION. Codes: the shared code table (R476), the kinds of layer-fatal codes (R287), and what raising a code does:
one record is offered to the ledger, its counters count, its event source fires, and an open attempt is abandoned or its
vote fails. -/

namespace Sys2Proof.Machine

/-! ### The shared code table (R476) -/

namespace Code
abbrev imageCrc : BitVec 8 := 0x01
abbrev imageFormat : BitVec 8 := 0x02
abbrev repairExhausted : BitVec 8 := 0x03
abbrev bistRepaired : BitVec 8 := 0x04
abbrev sramCorrected : BitVec 8 := 0x10
abbrev sramUncorrectable : BitVec 8 := 0x11
abbrev residueMismatch : BitVec 8 := 0x12
abbrev combineGuard : BitVec 8 := 0x13
abbrev nanToken : BitVec 8 := 0x20
abbrev outlierOverflow : BitVec 8 := 0x21
abbrev blockUnderflow : BitVec 8 := 0x22
abbrev blockSaturate : BitVec 8 := 0x23
abbrev capacitySkip : BitVec 8 := 0x30
abbrev coldSkip : BitVec 8 := 0x31
abbrev quotaDenied : BitVec 8 := 0x32
abbrev poolWatermark : BitVec 8 := 0x33
abbrev doubleFree : BitVec 8 := 0x34
abbrev queueGap : BitVec 8 := 0x35
abbrev frameCrc : BitVec 8 := 0x40
abbrev frameSeq : BitVec 8 := 0x41
abbrev retransmitLimit : BitVec 8 := 0x42
abbrev linkDown : BitVec 8 := 0x43
abbrev collectiveTimeout : BitVec 8 := 0x50
abbrev collectiveAbort : BitVec 8 := 0x51
abbrev sealVoteFail : BitVec 8 := 0x52
abbrev replayLimit : BitVec 8 := 0x53
abbrev memberLost : BitVec 8 := 0x60
abbrev mortarRehome : BitVec 8 := 0x61
abbrev barrierSkew : BitVec 8 := 0x62
abbrev descriptorInvalid : BitVec 8 := 0x70
abbrev overlap : BitVec 8 := 0x71
abbrev outOfBoundsWrite : BitVec 8 := 0x72
abbrev misaligned : BitVec 8 := 0x73
abbrev timingOverrun : BitVec 8 := 0x80
abbrev droopStretch : BitVec 8 := 0x81
abbrev epochWindow : BitVec 8 := 0x82
abbrev illegalInstruction : BitVec 8 := 0x90
abbrev shapeRange : BitVec 8 := 0x91
abbrev loopLimit : BitVec 8 := 0x92
end Code

/-- Severities: 0 N, 1 C, 2 L, 3 M (R440). -/
abbrev sevN : BitVec 2 := 0
abbrev sevC : BitVec 2 := 1
abbrev sevL : BitVec 2 := 2
abbrev sevM : BitVec 2 := 3

/-- Codes of severity M, L and C; every other code of the table is a notice (R476). MEMBER_LOST naming the member itself
is M (R442). -/
def codesM : List Nat := [0x01, 0x02, 0x03, 0x53]
def codesL : List Nat := [0x11, 0x12, 0x13, 0x42, 0x50, 0x51, 0x52, 0x90, 0x91, 0x92]
def codesC : List Nat := [0x10, 0x34, 0x40, 0x41, 0x43, 0x61, 0x62, 0x82]

/-- Severity of a code (R476). -/
def severity (code : BitVec 8) : BitVec 2 :=
  if codesM.contains code.toNat then sevM
  else if codesL.contains code.toNat then sevL
  else if codesC.contains code.toNat then sevC
  else sevN

/-- Abort-kind codes (R287); RETRANSMIT_LIMIT is one on VC0 to VC2 only (R258). -/
def abortKind (code : BitVec 8) : Bool := [0x50, 0x42, 0x90, 0x91, 0x92].contains code.toNat

/-- Vote-kind codes (R287); a failed piece check is voted with reason 0x52 by the collective unit itself. -/
def voteKind (code : BitVec 8) : Bool := [0x11, 0x12, 0x13].contains code.toNat

/-- The event source that a raise fires (R444). -/
def raiseSource (code : BitVec 8) : Option Nat :=
  if code = Code.collectiveAbort then some 6
  else if code = Code.sealVoteFail then some 7
  else if code = Code.poolWatermark then some 0xC
  else if code = Code.timingOverrun then some 0xD
  else none

/-! ### The open attempt -/

/-- The sequencer of the open pass: the one that holds a pass that has not sealed (R232). -/
def State.openSeq (s : State) : Option Sequencer := (s.sched.seqs.find? (fun p => !p.2.tail)).map (·.2)

/-- Number of the sequencer of the open pass. -/
def State.openNum (s : State) : Option Nat := (s.sched.seqs.find? (fun p => !p.2.tail)).map (·.1)

/-- Changes sequencer q. -/
def State.modSeq (s : State) (q : Nat) (f : Sequencer → Sequencer) : State :=
  { s with sched := { s.sched with seqs := Tab.modify s.sched.seqs q f } }

/-- Changes the sequencer of the open pass. -/
def State.modOpen (s : State) (f : Sequencer → Sequencer) : State :=
  match s.openNum with
  | some q => s.modSeq q f
  | none => s

/-- An attempt is open and not abandoned. -/
def State.attemptOpen (s : State) : Bool :=
  match s.openSeq with
  | some q => !q.aborted
  | none => false

/-! ### Raising -/

/-- What a raise says beside its code (R440). -/
structure Where where
  unit     : Nat
  member   : Option MemberId := none
  detail   : Nat := 0
  chunk    : Option Nat := none
  remote   : Bool := false
  selfLost : Bool := false
  /-- The sequencer of the pass concerned, when it is not the open one (the tail of a pass, R438). -/
  tail     : Option Sequencer := none
  /-- The code concerns no pass. -/
  noPass   : Bool := false
  deriving DecidableEq, Repr

/-- The record of a raise (R440), before it gets its SEQ. -/
def State.record (s : State) (code : BitVec 8) (w : Where) : LedgerRec :=
  let q := if w.noPass then none else match w.tail with
    | some q => some q
    | none => s.openSeq
  let base : LedgerRec :=
    { inPass := s.attemptOpen, time := s.tb, code := code, sev := if w.selfLost then sevM else severity code, remote := w.remote,
      selfLost := w.selfLost, unit := BitVec.ofNat 8 w.unit, member := w.member, detail := BitVec.ofNat 64 w.detail,
      chunk := BitVec.ofNat 8 (w.chunk.getD 0xFF) }
  match q with
  | none => base
  | some q => { base with gen := q.gen, attempt := q.attempt, prog := BitVec.ofNat 4 q.prog.val, layer := q.layer }

/-- Takes the held state (R441, R460): outputs idle, BLK_READY low, FAIL_CODE set, the ledger copied to the plinth
domain. -/
def State.hold (s : State) (code : BitVec 8) : State :=
  { s with
    boot := { s.boot with phase := .held, failCode := code, ready := false }
    ledger := { s.ledger with snapFirst := s.ledger.first, snapEsc := s.ledger.esc, snapValid := true }
    signals := { s.signals with targets := s.signals.targets.map (fun p => (p.1, { p.2 with presented := none })) }
    net := { s.net with ports := s.net.ports.map (fun p => (p.1, { p.2 with pauseReq := 0 })) }
    mortar := { s.mortar with lanes := s.mortar.lanes.map (fun p => (p.1, { p.2 with trained := false })) } }

/-- Member-scope M codes hold the member (R441); MEMBER_LOST naming the member holds nothing (R442), and REPLAY_LIMIT has
program scope. -/
def holds (code : BitVec 8) : Bool := code = 0x01 || code = 0x02 || code = 0x03

/-- A raise enters the input queue before another of the same TIME when its UNIT is lower, or within a unit its code (R439). A tb unit is shorter
than a core cycle: raises of one TIME arise in one core cycle (DEDUCED, log entry 127). -/
def LedgerRec.precedes (a b : LedgerRec) : Bool :=
  a.time == b.time && (decide (a.unit.toNat < b.unit.toNat) || (a.unit == b.unit && decide (a.code.toNat < b.code.toNat)))

/-- The input queue with one more raise. -/
def enterRaise (l : List LedgerRec) (r : LedgerRec) : List LedgerRec :=
  l.takeWhile (fun e => !(r.precedes e)) ++ r :: l.dropWhile (fun e => !(r.precedes e))

/-- The input queue with one more raise, and the raise that a queue of 64 has no room for: the last in the order of entry, which need not be the
one offered last (R439). -/
def enterFull (l : List LedgerRec) (r : LedgerRec) : List LedgerRec × Option LedgerRec :=
  ((enterRaise l r).take 64, (enterRaise l r)[64]?)

/-- Offers a record to the ledger input queue of 64 entries (R439); the one that a full queue has no room for counts as lost. An M code holds
the member whether or not its record finds a place (R441). -/
def State.offer (s : State) (r : LedgerRec) : State :=
  let s := (s.bump (codeCount r.code)).bump (0x20100 + 8 * r.sev.toNat)
  let x := enterFull s.ledger.input r
  let s : State := { s with ledger := { s.ledger with input := x.1 } }
  match x.2 with
  | none => s
  | some lost => if holds lost.code then (s.bump 0x20130).hold lost.code else s.bump 0x20130

/-- Raises a code: its record and its event source. -/
def State.note (s : State) (code : BitVec 8) (w : Where) : State :=
  let s := s.offer (s.record code w)
  match raiseSource code with
  | some n => s.fire n
  | none => s

/-- Raises a code with its effect on an open attempt (R287): an abort-kind code makes the common abort due, a vote-kind
code fails the member's vote. In the tail of a sealed pass, or with no attempt open, it is recorded only (R438). -/
def State.raise (s : State) (code : BitVec 8) (w : Where) : State :=
  let live := s.attemptOpen && w.tail.isNone && !w.noPass
  let s := s.note code w
  if live && abortKind code then
    match s.sched.abortDue with
    | none => { s with sched := { s.sched with abortDue := some code } }
    | some _ => s
  else if live && voteKind code then
    s.modOpen (fun q => if q.vote.isNone then { q with vote := some code } else q)
  else s

/-- A 64-bit word that an engine's read finds wrong (R174, R195, R283, R436): corrected, or SRAM_UNCORRECTABLE fails the vote. -/
def State.foundWord (s : State) (store unit : Nat) (f : ReadFind) (chunk : Option Nat := none) : State :=
  s.raise (if f.hard then Code.sramUncorrectable else Code.sramCorrected)
    { unit := unit, detail := (f.store.elim store (·.val)) * 2 ^ 56 + 64 * f.line.toNat, chunk := chunk }

/-- What an engine's reads of a store found, in the chunk that it works on. -/
def State.foundWords (s : State) (store unit : Nat) (finds : List ReadFind) (chunk : Option Nat := none) : State :=
  s.each finds (fun s f => s.foundWord store unit f chunk)

/-- The bytes of a store or of a result with the 64-bit word at offset `at` lost: what stands there is free (DESIGN CHOICE, log entry 110). -/
def loseBytes (lost : BitVec 64) (at_ : Nat) (b : List Byte) : List Byte :=
  b.zipIdx.map (fun p => if at_ ≤ p.2 ∧ p.2 < at_ + 8 then BitVec.ofNat 8 (lost.toNat / 2 ^ (8 * (p.2 - at_))) else p.1)

/-- Raises a code once per layer pass or idle interval (R51, R258, R363, R453). -/
def State.raiseOnce (s : State) (code : BitVec 8) (w : Where) : State :=
  if s.marked code.toNat then s else (s.mark code.toNat).raise code w

/-- The core clock runs at 600 MHz in a sag: every other cycle is stretched (R451). -/
def State.stretching (s : State) : Bool := s.power.sag && !s.power.stepped && s.awake

/-- The fewest and the most core cycles that are stretched in n tb units: one in each 6.25 of them, three periods at 600 MHz, from an edge on that
lies within the two cycles after the crossing (R451). -/
def stretchedIn (n : Nat) : Nat × Nat := (4 * (n - 1) / 25, (4 * (n + 1) + 24) / 25)

/-- The cycles stretched since they were last counted: counted where a stay below the threshold at 600 MHz ends, by recovery, step or sleep (R451,
R453; DESIGN CHOICE, log entry 7, for the cycle or two that a time in tb units leaves open). -/
def State.countStay (s : State) : State :=
  if s.stretching then
    let r := stretchedIn (s.tb - s.power.stretchFrom)
    let s := (s.bump 0x21800 (r.1 + Config.stretchedCycles s.freeCtr % (r.2 - r.1 + 1))).useFree
    { s with power := { s.power with stretchFrom := s.tb } }
  else s

/-- DROOP_STRETCH, once per layer pass or idle interval (R453). -/
def State.noteDroop (s : State) : State := s.raiseOnce Code.droopStretch { unit := 0 }

/-- The core runs again in a sag that goes on: the clock is stretched from here (R451, R453). -/
def State.stretchAgain (s : State) : State :=
  let s : State := { s with power := { s.power with stretchFrom := s.tb } }
  if s.stretching then s.noteDroop else s

/-- Thirty core cycles in tb units, rounded up (R461): at 450 MHz; at 600 MHz while every other cycle lasts two periods; at 600 MHz. -/
def State.ungateLead (s : State) : Nat := if s.power.stepped then 84 else if s.power.sag then 94 else 63

/-- A layer pass or idle interval begins: what is raised once in each may be raised again, and a sag that goes on at 600 MHz
stretches cycles in this one too (R453). -/
def State.newInterval (s : State) : State :=
  let s : State := { s with marks := [] }
  if s.stretching then s.noteDroop else s

end Sys2Proof.Machine
end

