-- ==== Sys2Proof/Machine/Pools.lean ====
section
/-! DEFINITION. Buffer pools (15, R346 to R355): classes, requests, watermarks, frees, the pool windows of host cores. -/

namespace Sys2Proof.Machine

/-- Buffer size of a class (R346). -/
def classSize (c : Nat) : Nat := 256 * 4 ^ c

/-- Smallest class whose size is not below a request (R347). -/
def classOf (size : Nat) : Nat := ((List.range 6).find? (fun c => size ≤ classSize c)).getD 5

/-- A handle (R349). -/
def handleOf (pool cls index : Nat) : Nat := pool * 2 ^ 28 + cls * 2 ^ 25 + index

/-- A class of a pool. -/
def State.poolClass (s : State) (pool cls : Nat) : PoolClass := Tab.get (fun _ => {}) s.storage.classes (8 * pool + cls)

/-- Writes a class of a pool. -/
def State.setPoolClass (s : State) (pool cls : Nat) (v : PoolClass) : State :=
  { s with storage := { s.storage with classes := Tab.set (fun _ => {}) s.storage.classes (8 * pool + cls) v } }

/-! Carving, watermarks, quotas and levels in effect (R370); requester r has bank 64 + r. -/

def State.windowBase (s : State) (pool : Nat) : Nat := if pool = 0 then 0 else s.bankEff (8 * pool) 0xC008 0 52
def State.windowSpan (s : State) (pool : Nat) : Nat := s.bankEff (8 * pool) 0xC010 0 33
def State.classBase (s : State) (pool cls : Nat) : Nat := s.bankEff (8 * pool + cls) 0xC018 0 32
def State.classCount (s : State) (pool cls : Nat) : Nat := s.bankEff (8 * pool + cls) 0xC01C 0 13
def State.warnLevel (s : State) (pool cls : Nat) : Nat := s.bankEff (8 * pool + cls) 0xC020 0 13
def State.throttleLevel (s : State) (pool cls : Nat) : Nat := s.bankEff (8 * pool + cls) 0xC024 0 13
def State.stopLevel (s : State) (pool cls : Nat) : Nat := s.bankEff (8 * pool + cls) 0xC028 0 13
def State.quotaOf (s : State) (r : Nat) : Nat := s.bankEff (64 + r) 0xC030 0 32 * 1024
def State.levelOf (s : State) (r : Nat) : Nat := s.bankEff (64 + r) 0xC038 0 2
def State.reserveBuffers (s : State) : Nat := s.eff 0xC03C 0 13

/-- Bytes that a requester holds across all pools (R350). -/
def State.usedBy (s : State) (r : Nat) : Nat :=
  s.storage.classes.foldl (fun a p =>
    a + (p.2.used.filter (fun e => e.2 == r)).length * classSize (p.1 % 8)) 0

/-- Use that counts against a requester's quota: RESERVE counts as INBOUND (R352). -/
def State.chargedUse (s : State) (r : Nat) : Nat :=
  if r = 2 ∨ r = 4 then s.usedBy 2 + s.usedBy 4 else s.usedBy r

/-- The lowest free index of a class (R348) that a requester may take: RESERVE_BUFFERS class-3 buffers of pool 0 serve only
RESERVE (R352). -/
def State.freeIndex (s : State) (pool cls r : Nat) : Option Nat :=
  let k := s.poolClass pool cls
  let room :=
    if pool = 0 ∧ cls = 3 then
      let reserved := (k.used.filter (fun e => e.2 == 4)).length
      if r = 4 then decide (reserved < s.reserveBuffers)
      else decide (k.used.length - reserved + s.reserveBuffers < s.classCount pool cls)
    else true
  if room then (List.range (s.classCount pool cls)).find? (fun i => (Tab.get? k.used i).isNone) else none

/-- A watermark holds a request of a level back (R351). -/
def State.heldBack (s : State) (pool cls level : Nat) : Bool :=
  let n := (s.poolClass pool cls).used.length
  (level ≥ 2 && s.throttleLevel pool cls ≤ n) || (level ≥ 1 && s.stopLevel pool cls ≤ n)

/-- Takes buffer i (R348) and raises POOL_WATERMARK at each level that the class crosses upward (R351). -/
def State.takeBuffer (s : State) (pool cls r i : Nat) : State :=
  let k := s.poolClass pool cls
  let n := k.used.length + 1
  let s := (s.setPoolClass pool cls { k with used := Tab.put k.used i r, peak := max k.peak n }).bump 0x21700
  s.each [s.warnLevel pool cls, s.throttleLevel pool cls, s.stopLevel pool cls] (fun s l =>
    if l = n then (s.bump 0x21710).raise Code.poolWatermark { unit := 13 } else s)

/-- What became of a request. -/
inductive PoolAnswer where
  | granted (handle : Nat)
  | denied | wouldWait | waits
  deriving DecidableEq, Repr

/-- A request (R347, R350, R351); `job` is what a block requester does with the buffer. -/
def State.requestBuffer (s : State) (pool size r level : Nat) (nowait : Bool) (window : Option (Fin 16)) (job : Option PoolJob := none) :
    State × PoolAnswer :=
  let cls := classOf size
  let quota := s.quotaOf (if r = 4 then 2 else r)
  if quota < s.chargedUse r + classSize cls then
    ((s.bump 0x21708).raise Code.quotaDenied { unit := 13 }, .denied)
  else match (if s.heldBack pool cls level then none else s.freeIndex pool cls r) with
    | some i => (s.takeBuffer pool cls r i, .granted (handleOf pool cls i))
    | none =>
      if nowait then (s, .wouldWait)
      else
        let k := s.poolClass pool cls
        let q : PoolReq := { requester := r, size := size, window := window, level := job.map (fun _ => level), job := job }
        ((s.setPoolClass pool cls { k with waiting := k.waiting ++ [q] }).bump 0x21718, .waits)

/-- Releases a buffer without a check. -/
def State.dropBuffer (s : State) (handle : Nat) : State :=
  let pool := field handle 28 4
  let cls := field handle 25 3
  let k := s.poolClass pool cls
  s.setPoolClass pool cls { k with used := Tab.erase k.used (field handle 0 12) }

/-- Requester that holds a buffer. -/
def State.bufferOwner (s : State) (handle : Nat) : Option Nat :=
  Tab.get? (s.poolClass (field handle 28 4) (field handle 25 3)).used (field handle 0 12)

/-- A block requester's buffer goes back, unless a layer boundary has freed it already (R354). -/
def State.dropOwn (s : State) (handle : Option Nat) (r : Nat) : State :=
  match handle with
  | some h => if s.bufferOwner h = some r then s.dropBuffer h else s
  | none => s

/-- A request of a requester would take it above its quota (R350). -/
def State.overQuota (s : State) (r size : Nat) : Bool :=
  decide (s.quotaOf (if r = 4 then 2 else r) < s.chargedUse r + classSize (classOf size))

/-- A request would be granted at once. -/
def State.hasRoom (s : State) (pool size r level : Nat) : Bool :=
  !(s.overQuota r size) && !(s.heldBack pool (classOf size) level) && (s.freeIndex pool (classOf size) r).isSome

/-- Some request for this purpose waits. -/
def State.jobWaits (s : State) (j : PoolJob) : Bool :=
  s.storage.classes.any (fun k => k.2.waiting.any (fun q => q.job == some j))

/-- A free (R353): a buffer that is free, or a handle that names no carved buffer, is DOUBLE_FREE. -/
def State.freeBuffer (s : State) (handle : Nat) : State :=
  let pool := field handle 28 4
  let cls := field handle 25 3
  let i := field handle 0 12
  if pool ≤ 4 ∧ cls ≤ 5 ∧ i < s.classCount pool cls ∧ (Tab.get? (s.poolClass pool cls).used i).isSome then
    s.dropBuffer handle
  else (s.bump 0x21720).raise Code.doubleFree { unit := 13 }

/-- What a waiting request is for ends with the pass: fan-out of its cells, scoring records of its chunks. -/
def PoolReq.ofPass (q : PoolReq) : Bool :=
  match q.job with
  | some (.fanOut _) => true
  | some (.scoring _) => true
  | _ => false

/-- Frees every pool-0 buffer of the block's own requesters (R354); the buffers of held early items belong to a later pass or
attempt and stay (R480), and so does that of the frame under way. -/
def State.freePass (s : State) : State :=
  let kept := s.early.filterMap (·.handle) ++ (s.net.rx.bind (·.handle)).toList
  let s := s.each (List.range 6) (fun s cls =>
    let k := s.poolClass 0 cls
    s.setPoolClass 0 cls { k with
      used := k.used.filter (fun e => 5 ≤ e.2 || kept.contains (handleOf 0 cls e.1)), waiting := k.waiting.filter (fun q => !q.ofPass) })
  let bare (k : PairVc) : PairVc := { k with unacked := k.unacked.map (fun f => { f with handle := none }) }
  { s with net := { s.net with pairs := s.net.pairs.map (fun p => (p.1, bare p.2)) } }

/-! ### Pool windows (R355) -/

def State.poolWindow (s : State) (c : Fin 16) : PoolWindow := Tab.get (fun _ => {}) s.storage.windows c.val

def State.setPoolWindow (s : State) (c : Fin 16) (v : PoolWindow) : State :=
  { s with storage := { s.storage with windows := Tab.set (fun _ => {}) s.storage.windows c.val v } }

/-- The result word of a window. -/
def PoolWindow.result (w : PoolWindow) : Nat := b2n w.done * 2 ^ 63 + w.status.toNat * 2 ^ 48 + w.handle.toNat

/-- A request completes in its window; stalled result reads return. -/
def State.poolDone (s : State) (c : Fin 16) (status : BitVec 2) (handle : Nat) : State :=
  let w := { s.poolWindow c with done := true, status := status, handle := BitVec.ofNat 32 handle, waiting := false, stalled := [] }
  let tags := (s.poolWindow c).stalled
  (s.setPoolWindow c w).each tags (fun s t => s.lateAnswer t w.result)

/-- A request that gets no buffer completes with a status; its HANDLE is open (DESIGN CHOICE, log entry 37). -/
def State.poolFail (s : State) (c : Fin 16) (status : BitVec 2) : State :=
  s.useFree.poolDone c status (Config.openHandle s.freeCtr).toNat

/-- A request written to a window that no waiting request holds. -/
def State.windowRequest (s : State) (c : Fin 16) (v : BitVec 64) : State :=
  let size := field v.toNat 0 18 + 1
  let pool := field v.toNat 18 3
  let w := s.poolWindow c
  let s := s.setPoolWindow c { w with done := false, status := 0, handle := 0 }
  if pool = 0 ∨ 4 < pool then s.poolFail c 3
  else match s.requestBuffer pool size (16 + c.val) (s.levelOf (16 + c.val)) (bit v.toNat 21) (some c) with
    | (s, .granted h) => s.poolDone c 0 h
    | (s, .denied) => s.poolFail c 1
    | (s, .wouldWait) => s.poolFail c 2
    | (s, .waits) => s.setPoolWindow c { s.poolWindow c with waiting := true }

/-- A write to a window in which no request waits. -/
def State.windowApply (s : State) (c : Fin 16) (w : PoolWrite) : State :=
  match w with
  | .request v => s.windowRequest c v
  | .free h => s.freeBuffer h.toNat

/-- A write to a window: applied, or held back with its tag while a request waits (R397). -/
def State.windowWrite (s : State) (c : Fin 16) (w : PoolWrite) : State :=
  let p := s.poolWindow c
  if p.waiting then (s.setPoolWindow c { p with held := p.held ++ [(s.port.tag, w)] }).stall else s.ok.windowApply c w

/-- The writes that back-pressure held go in, up to the next request that waits; each is answered as it does. -/
def State.windowDrain : Nat → State → Fin 16 → State
  | 0, s, _ => s
  | n + 1, s, c =>
    let p := s.poolWindow c
    match p.held with
    | [] => s
    | (tag, w) :: rest =>
      if p.waiting then s
      else State.windowDrain n (((s.setPoolWindow c { p with held := rest }).lateAnswer tag 0).windowApply c w) c

/-- A read of the host address of the granted buffer (R349, R355). With no buffer granted it is open (DESIGN CHOICE, log entry 37). -/
def State.poolAddress (s : State) (c : Fin 16) : State :=
  let w := s.poolWindow c
  if w.done ∧ w.status = 0 then
    let h := w.handle.toNat
    let pool := field h 28 4
    let cls := field h 25 3
    s.answer ((s.windowBase pool + s.classBase pool cls + field h 0 12 * classSize cls) % hostTop)
  else s.useFree.answer (Config.openHandle s.freeCtr).toNat

/-- Level of a waiting request (R350): the block's own users have theirs by what they ask for. -/
def State.reqLevel (s : State) (q : PoolReq) : Nat := q.level.getD (s.levelOf q.requester)

/-- Serves the first waiting request of a class that its level and the bitmap allow (R351); for a block requester, what it does with the
buffer. -/
def State.serveWaiting (s : State) (pool cls : Nat) : State × Option (PoolJob × Nat) :=
  let k := s.poolClass pool cls
  let ready (q : PoolReq) : Bool := !(s.heldBack pool cls (s.reqLevel q)) && (s.freeIndex pool cls q.requester).isSome
  match k.waiting.find? ready with
  | none => (s, none)
  | some q =>
    match s.freeIndex pool cls q.requester with
    | none => (s, none)
    | some i =>
      let s := (s.setPoolClass pool cls { k with waiting := k.waiting.erase q }).takeBuffer pool cls q.requester i
      match q.window with
      | none => (s, q.job.map (fun j => (j, handleOf pool cls i)))
      | some c =>
        let s := s.poolDone c 0 (handleOf pool cls i)
        (s.windowDrain (s.poolWindow c).held.length c, none)

end Sys2Proof.Machine
end

