-- ==== Sys2Proof/Machine/Queues.lean ====
section
/-! DEFINITION. Course queues (15, R356 to R370): items in cells, push windows, reads, gap and flush markers. -/

namespace Sys2Proof.Machine

def State.queue (s : State) (q : Nat) : Queue := Tab.get (fun _ => {}) s.storage.queues q

/-- Register bank of queue q (R370). -/
def queueBank (q : Nat) : Nat := 128 + q

/-- A Q_CONFIG word makes queue q block-owned (R356, R368): an egress queue, or one with a block engine on both sides. -/
def ownedWord (q : Nat) (w : BitVec 64) : Bool := q < 0x40 || (bit w.toNat 5 && field w.toNat 6 2 != 0)

/-- Q_CONFIG as it was written, and as it took effect with an image or at a restart. -/
def State.qWord (s : State) (q : Nat) : BitVec 64 := s.word (bankWord (queueBank q) 0xD008)
def State.qEffWord (s : State) (q : Nat) : BitVec 64 := Tab.get regReset s.effect (bankWord (queueBank q) 0xD008)

/-- A block-owned queue (R356, R368). -/
def State.blockOwned (s : State) (q : Nat) : Bool := ownedWord q (s.qEffWord q)

/-- Writes of Q_CONFIG wait for a restart: the queue is block-owned, or is to be from the restart on (R368). -/
def State.qStaged (s : State) (q : Nat) : Bool := s.blockOwned q || ownedWord q (s.qWord q)

/-- Q_CONFIG in effect. -/
def State.qNow (s : State) (q : Nat) : BitVec 64 := if s.qStaged q then s.qEffWord q else s.qWord q

/-- A field of Q_CONFIG in effect. -/
def State.qcfg (s : State) (q lo len : Nat) : Nat := field (s.qNow q).toNat lo len

def State.qEnable (s : State) (q : Nat) : Bool := s.qcfg q 0 1 == 1
def State.qPrio (s : State) (q : Nat) : Bool := s.qcfg q 1 1 == 1
/-- DROP_NEWEST is forced in egress queues (R367). -/
def State.qDropNewest (s : State) (q : Nat) : Bool := q < 0x40 || s.qcfg q 2 1 == 1
def State.qCutThrough (s : State) (q : Nat) : Bool := s.qcfg q 3 1 == 1
def State.qGapFatal (s : State) (q : Nat) : Bool := q < 0x40 || s.qcfg q 4 1 == 1
def State.qProducer (s : State) (q : Nat) : Nat := if q < 0x40 then 1 else s.qcfg q 5 1
def State.qConsumer (s : State) (q : Nat) : Nat := s.qcfg q 6 2
def State.qCtUnits (s : State) (q : Nat) : Nat := s.qcfg q 8 9
def State.qCap (s : State) (q : Nat) : Nat := s.qcfg q 32 24
def State.stallLimit (s : State) : Nat := s.reg 0xD118 0 32

/-- Cells of an item (R357). -/
def itemCells (length : Nat) : Nat := ceilDiv (8 + ceilDiv length 8 * 8) 64

/-- Cells of an entry. The gap marker takes the kept cell; a flush marker takes none. -/
def QEntry.cells : QEntry → Nat
  | .item i => itemCells i.length
  | .gap _ _ => 1
  | .flush _ => 0

def QEntry.isItem : QEntry → Bool
  | .item _ => true
  | _ => false

def QEntry.isGap : QEntry → Bool
  | .gap _ _ => true
  | _ => false

/-- Cells in use (R357): unread entries and the current item. -/
def Queue.cells (k : Queue) : Nat :=
  k.entries.foldl (fun a e => a + e.cells) 0 + (match k.cur with
    | some i => itemCells i.length
    | none => 0)

/-- Cells that items use. -/
def Queue.itemCellsUsed (k : Queue) : Nat :=
  k.cells - (k.entries.filter QEntry.isGap).length

/-- Items held, the current one included. -/
def Queue.items (k : Queue) : Nat := (k.entries.filter QEntry.isItem).length + b2n k.cur.isSome

/-! ### Far cells (R357) -/

/-- The header of an entry as a read returns it (R358); COUNT saturates. -/
def sat24 (n : Nat) : Nat := min n 0xFFFFFF

def QEntry.header : QEntry → Nat
  | .item i => i.prio.toNat * 2 ^ 59 + i.length
  | .gap p n => 1 * 2 ^ 62 + p.toNat * 2 ^ 59 + sat24 n * 2 ^ 32
  | .flush n => 2 * 2 ^ 62 + 7 * 2 ^ 59 + sat24 n * 2 ^ 32

/-- The bytes of an entry in its cells that have been written: the header, then the data. -/
def QEntry.bytes : QEntry → List Byte
  | .item i => leBytes 8 (QEntry.item i).header ++ i.data
  | e => leBytes 8 e.header

/-- A cell of a queue's chain: the item that it holds a part of (none: the gap marker), which part, and the bytes written to it. -/
structure ChainCell where
  item  : Option Nat
  part  : Nat
  bytes : List Byte
  deriving DecidableEq, Repr

/-- The cells of an entry. -/
def QEntry.chain (e : QEntry) : List ChainCell :=
  (List.range e.cells).map (fun j =>
    { item := (match e with
        | .item i => some i.id
        | _ => none), part := j, bytes := slice e.bytes (64 * j) 64 })

/-- A queue's chain: the cells of its current item, then of its entries. -/
def Queue.chain (k : Queue) : List ChainCell := ((k.cur.map QEntry.item).toList ++ k.entries).flatMap QEntry.chain

/-- The cells of the chain that lie in far cells: all but the first 4 and the last 4. -/
def Queue.farChain (k : Queue) : List ChainCell := (k.chain.drop 4).take (k.cells - 8)

/-- A far cell holds this cell of queue q's chain. -/
def FarCell.holds (f : FarCell) (q : Nat) (c : ChainCell) : Bool := f.queue == q && f.item == c.item && f.part == c.part

/-- The n-th number that a rising list leaves out. -/
def nthFree (used : List Nat) (n : Nat) : Nat := used.foldl (fun x u => if u ≤ x then x + 1 else x) n

/-- The link of a far cell names the next far cell of its queue; that of the queue's last one, and of a free one, is free (log entry 51). -/
def State.writeLink (s : State) (cell : Nat) (next : Option Nat) : State :=
  let a := s.reg 0xD108 0 52 + 4 * cell
  match next with
  | some n => s.writeLe a 4 n
  | none => (s.writeLe a 4 (Config.farLink s.freeCtr)).useFree

/-- The bytes of a far cell are written to the far cell pool. What an egress queue's descriptor holds is free (R356; log entry 51). -/
def State.writeFar (s : State) (q cell : Nat) (b : List Byte) : State :=
  let a := s.reg 0xD100 0 52 + 64 * cell
  if q < 0x40 then (s.write a (b ++ (List.range 32).map (Config.frameDescriptor s.freeCtr))).useFree else s.write a b

/-- Cells of queue q that are not wanted any more go back to the free list. -/
def State.dropFar (s : State) (q : Nat) (want : List ChainCell) : State :=
  let gone (f : FarCell) : Bool := f.queue == q && !(want.any (f.holds q))
  let l := s.storage.far.filter gone
  ({ s with storage := { s.storage with far := s.storage.far.filter (fun f => !(gone f)) } } : State).each l (fun s f => s.writeLink f.cell none)

/-- A cell of the chain lies in a far cell: the one that it has, with what has been written since, or a free one. -/
def State.placeFar (s : State) (q : Nat) (c : ChainCell) : State :=
  let l := s.storage.far
  match l.find? (fun f => f.holds q c) with
  | some f =>
    if f.bytes = c.bytes then s
    else ({ s with storage := { s.storage with far := l.map (fun g => if g.cell = f.cell then { g with bytes := c.bytes } else g) } } : State).writeFar
      q f.cell c.bytes
  | none =>
    let n := nthFree (sortBy id (l.map (·.cell))) (Config.farCell s.freeCtr % max 1 (s.reg 0xD110 0 24 - l.length))
    let f : FarCell := { cell := n, queue := q, item := c.item, part := c.part, bytes := c.bytes }
    (({ s with storage := { s.storage with far := l ++ [f] } } : State).useFree.writeFar q n c.bytes).writeLink n none

/-- A far cell's link follows the chain. -/
def State.linkFar (s : State) (x : FarCell × Option Nat) : State :=
  if x.1.next = x.2 then s
  else ({ s with storage := { s.storage with far := s.storage.far.map (fun g => if g.cell = x.1.cell then { g with next := x.2 } else g) } } : State).writeLink
    x.1.cell x.2

/-- The far cells of queue q as its chain stands: written to the far cell pool, and linked in order (R357). -/
def State.syncFar (s : State) (q : Nat) (v : Queue) : State :=
  if v.cells ≤ 8 ∧ s.storage.far.all (fun f => f.queue != q) then s
  else
    let want := v.farChain
    let s := (s.dropFar q want).each want (fun s c => s.placeFar q c)
    let l := want.filterMap (fun c => s.storage.far.find? (fun f => f.holds q c))
    s.each (l.zip ((l.drop 1).map (fun f => some f.cell) ++ [none])) State.linkFar

/-- Writes the record of queue q. -/
def State.putQueue (s : State) (q : Nat) (v : Queue) : State :=
  { s with storage := { s.storage with queues := Tab.set (fun _ => {}) s.storage.queues q v } }

/-- Writes queue q: its items, and the far cells that hold what its head and tail cells do not. -/
def State.setQueue (s : State) (q : Nat) (v : Queue) : State := (s.putQueue q v).syncFar q v

/-- Far cells of a queue (R357): what does not fit in up to 4 head and 4 tail cells. -/
def Queue.farCells (k : Queue) : Nat := k.cells - 8

/-- Far cells free (R370). -/
def State.farFree (s : State) : Nat :=
  s.reg 0xD110 0 24 - s.storage.queues.foldl (fun a p => a + p.2.farCells) 0

/-- Whether an item of a length fits when `kept` cells are kept for the gap marker. -/
def State.qRoom (s : State) (q length kept : Nat) : Bool :=
  let k := s.queue q
  let limit := s.qCap q - kept
  let more := k.cells + itemCells length - 8
  k.itemCellsUsed + itemCells length ≤ limit && more - k.farCells ≤ s.farFree

/-- Whether an item of a length fits (R361, R363). -/
def State.qFits (s : State) (q length : Nat) : Bool := s.qRoom q length (b2n (s.qDropNewest q))

/-- The tile pop consumes the queue: it is a tile list (R356). -/
def State.isTileList (s : State) (q : Nat) : Bool := s.qConsumer q == 2

/-- Adds a dropped item to the gap marker (R363). -/
def Queue.addGap (k : Queue) (prio : BitVec 3) : Queue :=
  if k.entries.any QEntry.isGap then
    { k with entries := k.entries.map (fun e => match e with
        | .gap p n => .gap p (n + 1)
        | e => e) }
  else { k with entries := k.entries ++ [.gap prio 1] }

/-- Drops an item (R363, R367). A drop of the ledger's own queue raises no code (R440). -/
def State.dropItem (s : State) (q : Nat) (prio : BitVec 3) (ledger : Bool) : State :=
  let k := s.queue q
  let placed := !(k.entries.any QEntry.isGap)
  let s := (s.setQueue q { k.addGap prio with drops := k.drops + 1 }).bump 0x21738
  if ledger then s.bump 0x20128
  else
    let s := s.raiseOnce Code.queueGap { unit := 13 }
    if placed && s.qGapFatal q then s.raise Code.illegalInstruction { unit := 13 } else s

/-- Places an item, complete or open. -/
def State.placeItem (s : State) (q : Nat) (prio : BitVec 3) (length : Nat) (data : List Byte) : State :=
  let k := s.queue q
  let s := s.setQueue q { k with entries := k.entries ++ [.item ⟨s.storage.nextItem, prio, length, data⟩] }
  { s with storage := { s.storage with nextItem := s.storage.nextItem + 1 } }

/-- A block engine writes a whole item (R361); none while it waits for space. A disabled queue refuses it (R368). -/
def State.engineItem (s : State) (q : Nat) (prio : BitVec 3) (data : List Byte) (ledger : Bool) : Option State :=
  if !(s.qEnable q) then some (if ledger then s.bump 0x20128 else s)
  else if s.qFits q data.length then
    some ((s.placeItem q prio data.length data).bump 0x21730)
  else if s.qDropNewest q then some (s.dropItem q prio ledger)
  else none

/-- Appends bytes to the item of a number, wherever the queue holds it. -/
def Queue.append (k : Queue) (id : Nat) (b : List Byte) : Queue :=
  let f (i : QItem) : QItem := if i.id = id then { i with data := (i.data ++ b).take i.length } else i
  { k with entries := k.entries.map (fun e => match e with
      | .item i => .item (f i)
      | e => e), cur := k.cur.map f }

/-- The item of a number, if the queue holds it. -/
def Queue.find (k : Queue) (id : Nat) : Option QItem :=
  (k.cur.toList ++ k.entries.filterMap (fun e => match e with
    | .item i => some i
    | _ => none)).find? (fun i => i.id == id)

/-! ### Push windows (R359) -/

def State.push (s : State) (c : Nat) : PushWindow := Tab.get (fun _ => {}) s.storage.pushes c

def State.setPush (s : State) (c : Nat) (v : PushWindow) : State :=
  { s with storage := { s.storage with pushes := Tab.set (fun _ => {}) s.storage.pushes c v } }

/-- DATA: bytes append to the window's open item; without one they are discarded. -/
def State.pushData (s : State) (c : Nat) (b : List Byte) : State :=
  match (s.push c).isOpen with
  | none => s
  | some (q, id) =>
    let s := s.setQueue q ((s.queue q).append id b)
    match (s.queue q).find id with
    | some i => if i.data.length = i.length then (s.setPush c { s.push c with isOpen := none }).bump 0x21730 else s
    | none => s.setPush c { s.push c with isOpen := none }

/-- The open item of a window is padded with zeros to its LENGTH. -/
def State.padOpen (s : State) (c : Nat) : State :=
  match (s.push c).isOpen with
  | none => s
  | some (q, id) =>
    match (s.queue q).find id with
    | none => s.setPush c { s.push c with isOpen := none }
    | some i => (s.pushData c (List.replicate (i.length - i.data.length) 0)).bump 0x21740

/-- START; none while it waits for space (R361). -/
def State.pushStart (s : State) (c : Nat) (v : BitVec 64) : Option State :=
  let length := field v.toNat 0 15
  let q := field v.toNat 16 12
  let prio := BitVec.ofNat 3 (field v.toNat 59 3)
  let s := s.padOpen c
  if length = 0 ∨ 16384 < length ∨ !(s.qEnable q) ∨ s.qProducer q = 1 then some (s.bump 0x21748)
  else if s.qFits q length then
    some ((s.setPush c { s.push c with isOpen := some (q, s.storage.nextItem) }).placeItem q prio length [])
  else if s.qDropNewest q then some (s.dropItem q prio false)
  else none

/-- A write to a push window: held while an earlier one waits. -/
def State.pushWrite (s : State) (c : Nat) (w : PushWrite) : State :=
  let p := s.push c
  if p.held ≠ [] then s.setPush c { p with held := p.held ++ [(s.port.tag, w)] }
  else match w with
    | .data b => s.pushData c b
    | .start v => match s.pushStart c v with
      | some s' => s'
      | none => (s.padOpen c).setPush c { (s.padOpen c).push c with held := [(s.port.tag, w)] }

/-- The held writes of a window go in, as far as they fit; each is answered as it does (R397). -/
def State.pushDrain : Nat → State → Nat → State
  | 0, s, _ => s
  | n + 1, s, c =>
    let p := s.push c
    match p.held with
    | [] => s
    | (tag, .data b) :: rest => State.pushDrain n (((s.setPush c { p with held := rest }).pushData c b).lateAnswer tag 0) c
    | (tag, .start v) :: rest =>
      match (s.setPush c { p with held := rest }).pushStart c v with
      | some s' => State.pushDrain n (s'.lateAnswer tag 0) c
      | none => s

/-- Space freed in a queue (R361): windows that wait with a START for it go on. -/
def State.spaceFreed (s : State) (q : Nat) : State :=
  s.each (List.range 16) (fun s c =>
    match (s.push c).held with
    | (_, .start v) :: _ => if field v.toNat 16 12 = q then s.pushDrain (s.push c).held.length c else s
    | _ => s)

/-! ### Reads (R360, R362, R364) -/

/-- Whether an entry is readable by its own contents (R364). -/
def State.entryReady (s : State) (q : Nat) : QEntry → Bool
  | .item i => i.data.length == i.length ||
      (s.qCutThrough q && min i.length (s.qCtUnits q * 64) ≤ i.data.length)
  | _ => true

def QEntry.prio : QEntry → Nat
  | .item i => i.prio.toNat
  | .gap p _ => p.toNat
  | .flush _ => 7

/-- Position of the next readable entry (R362): with PRIO clear the first in order; with PRIO set the first of the highest
priority whose first entry is ready. -/
def State.nextEntry (s : State) (q : Nat) : Option Nat :=
  let k := s.queue q
  let ok (i : Nat) : Option Nat := match k.entries[i]? with
    | some e => if s.entryReady q e then some i else none
    | none => none
  if s.qPrio q then
    ([7, 6, 5, 4, 3, 2, 1, 0].map (fun p =>
      match k.entries.findIdx? (fun e => e.prio == p) with
      | some i => ok i
      | none => none)).findSome? id
  else ok 0

/-- The header EMPTY (R360). -/
def emptyHeader : Nat := 3 * 2 ^ 62

/-- Reads entry i: it leaves the queue and becomes current; the cells of the previous current item are freed. -/
def State.takeEntry (s : State) (q i : Nat) (e : QEntry) : State :=
  let k := s.queue q
  let cur := match e with
    | .item it => some it
    | _ => none
  s.setQueue q { k with entries := k.entries.eraseIdx i, cur := cur, curPos := 0 }

/-- A header read (R360). -/
def State.headerRead (s : State) (q : Nat) : State :=
  let k := s.queue q
  match (if k.stalls.any (·.header) then none else s.nextEntry q) with
  | some i => match k.entries[i]? with
    | some e => (s.takeEntry q i e).answer e.header
    | none => s
  | none =>
    ((s.setQueue q { k with stalls := k.stalls ++ [⟨true, 8, s.tb, s.port.tag⟩] }).bump 0x21750).stall

/-- Whether a data read of n bytes can return (R364). -/
def Queue.dataReady (k : Queue) (n : Nat) : Bool :=
  match k.cur with
  | none => true
  | some i => min (k.curPos + n) i.length ≤ i.data.length

/-- The next n bytes of the current item; bytes beyond LENGTH, and those of no item, read as 0. -/
def Queue.dataBytes (k : Queue) (n : Nat) : Nat :=
  match k.cur with
  | none => 0
  | some i => ofLe (slice i.data k.curPos n)

/-- A data read takes n bytes of the current item. -/
def State.dataTake (s : State) (q n : Nat) : State :=
  let k := s.queue q
  if k.cur.isNone then s else s.setQueue q { k with curPos := k.curPos + n }

/-- A data read of the queue stalls. -/
def Queue.dataStalled (k : Queue) : Bool := k.stalls.any (fun r => !r.header)

/-- A data read (R360, R364): its bytes follow those of a data read that stalls. -/
def State.dataRead (s : State) (q n : Nat) : State :=
  let k := s.queue q
  if k.dataReady n && !k.dataStalled then (s.dataTake q n).answer (k.dataBytes n)
  else (s.setQueue q { k with stalls := k.stalls ++ [⟨false, n, s.tb, s.port.tag⟩] }).stall

/-- The oldest stalled read of a queue for which what it waits for has come returns; data reads return in their order. -/
def State.stalledReturn (s : State) (q : Nat) : State :=
  let k := s.queue q
  let ready (r : QStall) : Bool :=
    if r.header then (s.nextEntry q).isSome else k.stalls.find? (fun x => !x.header) == some r && k.dataReady r.bytes
  match k.stalls.find? ready with
  | none => s
  | some r =>
    let rest := k.stalls.erase r
    if r.header then
      match s.nextEntry q with
      | some i => match k.entries[i]? with
        | some e => ((s.putQueue q { k with stalls := rest }).takeEntry q i e).lateAnswer r.tag e.header
        | none => s
      | none => s
    else ((s.putQueue q { k with stalls := rest }).dataTake q r.bytes).lateAnswer r.tag (k.dataBytes r.bytes)

/-- STALL_LIMIT_TB passes for the oldest stalled header read: it returns EMPTY (R360). With the limit 0 it stalls on. -/
def State.stallExpiry (s : State) (q : Nat) : State :=
  match (s.queue q).stalls.find? (·.header) with
  | none => s
  | some r =>
    if s.stallLimit = 0 then s
    else
      let s := s.until (r.since + s.stallLimit)
      let k := s.queue q
      (s.setQueue q { k with stalls := k.stalls.erase r }).lateAnswer r.tag emptyHeader

/-- What an unread marker or an item adds to a flush marker (R365). -/
def QEntry.flushCount : QEntry → Nat
  | .item _ => 1
  | .gap _ n => n
  | .flush n => n

/-- The frames that wait in an egress queue go with their descriptors (R356, R365); their timers send them again (R258). -/
def State.emptyEgress (s : State) (q : Nat) : State :=
  let k : MacPort := Tab.get (fun _ => {}) s.net.ports (q / 4)
  let left : MacPort := { k with egress := k.egress.filter (fun e => e.vc.toNat != q % 4) }
  if q < 0x40 then { s with net := { s.net with ports := Tab.set (fun _ => {}) s.net.ports (q / 4) left } } else s

/-- FLUSH (R365). It ends every stalled read (R360): header reads with the flush marker, which the first takes, data reads with 0. -/
def State.flushQueue (s : State) (q : Nat) : State :=
  let k := s.queue q
  let n := k.entries.foldl (fun a e => a + e.flushCount) 0 + b2n k.cur.isSome
  let s := s.each (List.range 16) (fun s c =>
    match (s.push c).isOpen with
    | some (q', _) => if q' = q then s.setPush c { s.push c with isOpen := none } else s
    | none => s)
  let s := (s.emptyEgress q).setQueue q
    { entries := if k.stalls.any (·.header) then [] else [.flush n], drops := k.drops, flushes := k.flushes + 1 }
  s.each k.stalls (fun s r => s.lateAnswer r.tag (if r.header then (QEntry.flush n).header else 0))

/-- A write of Q_CONFIG (R368): ignored while ENABLE is set when it changes another field; clearing ENABLE flushes. For a
block-owned queue the write is staged, and one that would make a queue block-owned keeps the queue as it is until a restart. -/
def State.configureQueue (s : State) (q : Nat) (v : BitVec 64) : State :=
  let k := bankWord (queueBank q) 0xD008
  let old := s.qNow q
  if s.blockOwned q then s.setWord k v
  else if bit old.toNat 0 && (old >>> 1 != v >>> 1 || bit v.toNat 0) then s
  else if bit old.toNat 0 then (s.flushQueue q).setWord k v
  else if ownedWord q v then ({ s with effect := Tab.set regReset s.effect k old } : State).setWord k v
  else s.setWord k v

end Sys2Proof.Machine
end

