-- ==== Sys2Proof/Machine/Ledger.lean ====
section
/-! DEFINITION. The error ledger (19, R439 to R441): placement of raises, releases, the held state. -/

namespace Sys2Proof.Machine

/-- The 32 bytes of a ledger record (R440). -/
def LedgerRec.bytes (r : LedgerRec) : List Byte :=
  leBytes 8 r.time ++ leBytes 1 r.code.toNat ++
  leBytes 1 (r.sev.toNat + 4 * b2n r.remote + 8 * b2n r.selfLost) ++ leBytes 2 r.gen.toNat ++
  leBytes 1 (r.attempt.toNat + 4 * r.prog.toNat + 64 * b2n r.inPass) ++ leBytes 1 r.unit.toNat ++
  leBytes 2 (match r.member with
    | some m => m.toNat + 0x8000
    | none => 0) ++
  leBytes 8 r.detail.toNat ++ leBytes 4 r.count.toNat ++ leBytes 1 r.layer.toNat ++ leBytes 1 r.chunk.toNat ++
  leBytes 2 r.seq.toNat

/-- Highest severity that FIRST and ESCALATED hold (R439). -/
def Ledger.heldSev (l : Ledger) : Nat :=
  max ((l.first.map (fun r => r.sev.toNat)).getD 0) ((l.esc.map (fun r => r.sev.toNat)).getD 0)

/-- The overflow course queue (R440). -/
def State.ledgerQueue (s : State) : Nat := s.reg 0x2000C 0 12

/-- FIRST's COUNT rises by 1, saturating (R439). -/
def LedgerRec.fold (r : LedgerRec) : LedgerRec := if r.count = 0xFFFFFFFF then r else { r with count := r.count + 1 }

/-- Directs a record to the overflow queue with its severity as priority; source 0x002 fires whether the queue takes it or
drops it (R439). None while the queue makes the ledger wait. -/
def State.directRecord (s : State) (r : LedgerRec) : Option State :=
  let took := (s.qEnable s.ledgerQueue && s.qFits s.ledgerQueue 32)
  match s.engineItem s.ledgerQueue (r.sev.setWidth 3) r.bytes true with
  | none => none
  | some s =>
    let s := if took then s.bump 0x20120 else s
    some (s.fire 2)

/-- Placement of one raise (R439). -/
def State.place (s : State) (r : LedgerRec) : Option State :=
  match s.ledger.first with
  | none => some ({ s with ledger := { s.ledger with first := some r } }.fire 0)
  | some _ =>
    if r.sev.toNat ≤ s.ledger.heldSev then
      (s.directRecord r).map (fun s => { s with ledger := { s.ledger with first := s.ledger.first.map LedgerRec.fold } })
    else
      let latched (s : State) : State := { s with ledger := { s.ledger with esc := some r } }.fire 1
      match s.ledger.esc with
      | none => some (latched s)
      | some old => (s.directRecord old).map latched

/-- The ledger processes the head of its input queue (R439). -/
def State.ledgerStep (s : State) : State :=
  match s.ledger.input with
  | [] => s
  | r :: rest =>
    let r := { r with seq := s.ledger.nextSeq }
    match s.place r with
    | none => s
    | some s =>
      let s := { s with ledger := { s.ledger with input := rest, nextSeq := s.ledger.nextSeq + 1 } }
      if holds r.code then s.hold r.code else s

/-- RELEASE_FIRST and RELEASE_ESC (R439). -/
def Ledger.release (l : Ledger) (first esc : Bool) : Ledger :=
  if first && esc then { l with first := none, esc := none }
  else if first then { l with first := l.esc, esc := none }
  else if esc then { l with esc := none }
  else l

end Sys2Proof.Machine
end

