-- ==== Sys2Proof/Machine/Wire.lean ====
section
/-! DEFINITION. The bytes of Uhlesh payloads, frame headers and mortar messages, little-endian (R244), for their lengths and
their CRC-32Cs (R101, R109, R246, R299). -/

namespace Sys2Proof

open Machine

/-- A member field of 2 B with ATTEMPT in bits [15:14]. -/
def memberAttempt (m : MemberId) (a : BitVec 2) : List Byte := leBytes 2 (m.toNat + 0x4000 * a.toNat)

/-- Offsets 0x00 to 0x07 of a cell of a kind. -/
def CellHdr.bytes (h : CellHdr) (kind : Nat) : List Byte :=
  leBytes 1 kind ++ leBytes 1 h.format.toNat ++ leBytes 2 h.gen.toNat ++ memberAttempt h.source h.attempt ++
  leBytes 1 h.layer.toNat ++ leBytes 1 h.chunk.toNat

/-- Target entry (R109). -/
def TargetEntry.bytes (t : TargetEntry) : List Byte :=
  leBytes 2 t.member.toNat ++ leBytes 2 (t.expert.toNat + 0x1000 * t.rank.toNat) ++ leBytes 2 t.row.toNat ++ leBytes 2 0

/-- Dispatch cell (R109), with a value for CELL_CRC. -/
def DispatchCell.bytes (c : DispatchCell) (crc : BitVec 32) : List Byte :=
  c.h.bytes 1 ++ leBytes 4 c.ordinal.toNat ++ leBytes 4 c.pos.toNat ++ leBytes 2 c.token.toNat ++
  leBytes 1 (c.cell.toNat + 16 * c.cellsM1.toNat) ++ leBytes 1 c.targets.length ++ leBytes 2 c.gFirst.toNat ++
  leBytes 2 c.gCount.toNat ++ leBytes 4 0 ++ leBytes 4 crc.toNat ++ c.targets.flatMap TargetEntry.bytes ++ c.data

/-- Return cell (R131). -/
def ReturnCell.bytes (c : ReturnCell) (crc : BitVec 32) : List Byte :=
  c.h.bytes 2 ++ leBytes 2 c.owner.toNat ++ leBytes 2 c.token.toNat ++
  leBytes 2 (c.expert.toNat + 0x1000 * c.rank.toNat) ++ leBytes 1 (c.cell.toNat + 16 * c.cellsM1.toNat) ++ leBytes 1 0 ++
  leBytes 2 c.gFirst.toNat ++ leBytes 2 c.gCount.toNat ++ leBytes 4 c.tile.toNat ++ leBytes 4 0 ++ leBytes 4 crc.toNat ++
  c.data

/-- Rack partial cell (R146). -/
def PartialCell.bytes (c : PartialCell) (crc : BitVec 32) : List Byte :=
  c.h.bytes 3 ++ leBytes 2 c.owner.toNat ++ leBytes 2 c.token.toNat ++ leBytes 1 c.parts.toNat ++
  leBytes 1 c.residue.toNat ++ leBytes 1 (c.cell.toNat + 16 * c.cellsM1.toNat) ++ leBytes 1 0 ++
  leBytes 2 c.gFirst.toNat ++ leBytes 2 c.gCount.toNat ++ leBytes 2 c.ranks.toNat ++ leBytes 6 0 ++
  leBytes 4 crc.toNat ++ c.words.flatMap (fun w => leBytes 8 w.toNat)

/-- Manifest entry (R111). -/
def ManifestEntry.bytes (e : ManifestEntry) : List Byte :=
  leBytes 2 e.expert.toNat ++ leBytes 1 e.chunk.toNat ++ leBytes 1 0 ++ leBytes 4 e.rows.toNat

/-- Manifest cell (R111): TARGETS 0. Bytes 0x08 to 0x0F, SESSION_ORDINAL and POSITION of a row's cell, are 0 too: a manifest has no token
(DESIGN CHOICE, log entry 78). -/
def ManifestCell.bytes (c : ManifestCell) (crc : BitVec 32) : List Byte :=
  c.h.bytes 4 ++ leBytes 12 0 ++ leBytes 4 c.first.toNat ++ leBytes 4 c.total.toNat ++ leBytes 4 crc.toNat ++
  c.entries.flatMap ManifestEntry.bytes

/-- A cell, with a value for CELL_CRC. -/
def Cell.bytes : Cell → BitVec 32 → List Byte
  | .dispatch c, x => c.bytes x
  | .ret c, x => c.bytes x
  | .part c, x => c.bytes x
  | .manifest c, x => c.bytes x

/-- The CELL_CRC that a cell carries. -/
def Cell.crc : Cell → BitVec 32
  | .dispatch c => c.crc
  | .ret c => c.crc
  | .part c => c.crc
  | .manifest c => c.crc

/-- KIND of a cell. -/
def Cell.kind : Cell → Nat
  | .dispatch _ => 1
  | .ret _ => 2
  | .part _ => 3
  | .manifest _ => 4

/-- Header fields that all cells share. -/
def Cell.hdr : Cell → CellHdr
  | .dispatch c => c.h
  | .ret c => c.h
  | .part c => c.h
  | .manifest c => c.h

/-- The end-to-end check of a cell: CELL_CRC over the cell with that field 0. -/
def Cell.good (c : Cell) : Bool := crc32c (c.bytes 0) == c.crc

/-- Exchange frame payload (R78); KIND 1 entries of 4 B, KIND 2 entries of 2 B. -/
def ExchMsg.bytes (m : ExchMsg) (kind : Nat) : List Byte :=
  leBytes 2 m.gen.toNat ++ memberAttempt m.sender m.attempt ++ leBytes 1 m.layer.toNat ++ leBytes 1 kind ++
  leBytes 1 (b2n m.last) ++ leBytes 1 0 ++ leBytes 4 m.first.toNat ++ leBytes 4 m.total.toNat ++
  m.entries.flatMap (fun e => leBytes (if kind = 1 then 4 else 2) e.toNat)

/-- Gate note entry (R145). -/
def GateEntry.bytes (e : GateEntry) : List Byte :=
  leBytes 2 e.token.toNat ++ leBytes 2 e.eTok.toNat ++ leBytes 1 e.targets.toNat ++ leBytes 1 e.chunk.toNat ++
  leBytes 2 0 ++ e.gates.flatMap (fun g => leBytes 4 g.toNat)

/-- Gate note frame payload (R145). -/
def GateNote.bytes (n : GateNote) : List Byte :=
  leBytes 2 n.gen.toNat ++ memberAttempt n.sender n.attempt ++ leBytes 1 n.layer.toNat ++ leBytes 1 0 ++
  leBytes 1 (b2n n.last) ++ leBytes 1 0 ++ leBytes 4 n.first.toNat ++ leBytes 4 n.total.toNat ++
  n.entries.flatMap GateEntry.bytes

/-- Window note (R148). -/
def WindowNote.bytes (n : WindowNote) : List Byte :=
  leBytes 2 n.gen.toNat ++ memberAttempt n.sender n.attempt ++ leBytes 1 n.layer.toNat ++ leBytes 1 0 ++
  leBytes 2 n.limit.toNat ++ leBytes 8 0

/-- Cell request entry (R248). -/
def CellReq.bytes (r : CellReq) : List Byte :=
  leBytes 2 r.gen.toNat ++ memberAttempt r.requester r.attempt ++ leBytes 1 r.layer.toNat ++ leBytes 1 r.kind.toNat ++
  leBytes 1 r.cell.toNat ++ leBytes 1 0 ++ leBytes 2 r.token.toNat ++ leBytes 2 r.owner.toNat ++
  leBytes 2 (r.expert.toNat + 0x1000 * r.rank.toNat) ++ leBytes 2 0

/-- Collective frame payload (R281). -/
def CollFrame.bytes (c : CollFrame) : List Byte :=
  leBytes 2 c.gen.toNat ++ memberAttempt c.sender c.attempt ++ leBytes 1 c.layer.toNat ++ leBytes 1 c.opseq.toNat ++
  leBytes 1 c.stage.toNat ++ leBytes 1 0 ++ leBytes 4 c.chunk.toNat ++ leBytes 2 c.piece.toNat ++ leBytes 2 c.step.toNat ++
  leBytes 1 c.sub.toNat ++ leBytes 3 0 ++ leBytes 4 c.pieceBytes.toNat ++ leBytes 4 c.offset.toNat ++
  leBytes 4 c.pieceCrc.toNat ++ c.data

/-- BULK payload (R336). -/
def BulkFrame.bytes (b : BulkFrame) : List Byte :=
  leBytes 1 b.kind.toNat ++ leBytes 1 (b2n b.last + 2 * b2n b.stage) ++ leBytes 2 b.planEpoch.toNat ++
  leBytes 2 b.requester.toNat ++ leBytes 1 b.layer.toNat ++ leBytes 1 (b.srcSlot.toNat % 256) ++ leBytes 2 b.expert.toNat ++
  leBytes 2 (b.srcSlot.toNat / 256) ++ leBytes 4 b.window.toNat ++ leBytes 4 b.offset.toNat ++ leBytes 4 b.length.toNat ++
  leBytes 4 0 ++ leBytes 4 b.windowCrc.toNat ++ b.data

/-- SYNC payload (R260). -/
def SyncBody.bytes (y : SyncBody) : List Byte :=
  leBytes 1 y.mask.toNat ++ leBytes 3 0 ++ leBytes 4 y.base0.toNat ++ leBytes 4 y.base1.toNat ++ leBytes 4 y.base2.toNat ++
  leBytes 4 y.base3.toNat

/-- A payload's bytes. -/
def Payload.bytes : Payload → List Byte
  | .cells cs => cs.flatMap (fun c => c.bytes c.crc)
  | .count m => m.bytes 1
  | .grant m => m.bytes 2
  | .gateNote n => n.bytes
  | .windowNote n => n.bytes
  | .cellRequest rs => rs.flatMap CellReq.bytes
  | .coll c => c.bytes
  | .bulk b => b.bytes
  | .ack => []
  | .sync y => y.bytes

/-- TYPE of a payload (R247). -/
def Payload.type : Payload → BitVec 8
  | .cells _ => 0x01
  | .count _ => 0x02
  | .grant _ => 0x02
  | .gateNote _ => 0x04
  | .windowNote _ => 0x05
  | .cellRequest _ => 0x06
  | .coll _ => 0x08
  | .bulk _ => 0x09
  | .ack => 0x0A
  | .sync _ => 0x0B

/-- The virtual channel of a payload (R247). -/
def Payload.vc : Payload → BitVec 2
  | .cells cs => if cs.all (fun c => c.kind == 4) then 0 else 2
  | .coll _ => 1
  | .bulk _ => 3
  | _ => 0

/-- The payload may travel on a channel (R247): manifest cells on VC0 only, the other kinds on VC2 only. -/
def Payload.fits (p : Payload) (vc : BitVec 2) : Bool :=
  match p with
  | .cells cs => (vc == 0 && cs.all (fun c => c.kind == 4)) || (vc == 2 && cs.all (fun c => c.kind != 4))
  | p => p.vc == vc

/-- The 28-byte Uhlesh header (R246). -/
def FrameHdr.bytes (h : FrameHdr) : List Byte :=
  leBytes 1 h.version.toNat ++ leBytes 1 h.type.toNat ++ leBytes 1 (h.vc.toNat + 4 * b2n h.retx) ++
  leBytes 1 (h.ackVc.toNat + 4 * b2n h.ackValid) ++ leBytes 2 h.src.toNat ++ leBytes 2 h.dst.toNat ++
  leBytes 4 h.seq.toNat ++ leBytes 4 h.ackSeq.toNat ++ leBytes 4 h.sack.toNat ++ leBytes 4 h.tstamp.toNat ++
  leBytes 2 h.length.toNat ++ leBytes 2 0

/-! ### Mortar messages (R299, R300) -/

/-- The 32-bit vote field (R289). -/
def Vote.word (v : Vote) : Nat :=
  b2n v.ok * 2 ^ 31 + v.failCount.toNat * 2 ^ 21 + v.firstFail.toNat * 2 ^ 11 + v.reason.toNat * 2 ^ 3

def BarrierKind.num : BarrierKind → Nat
  | .seal => 0
  | .abort => 1
  | .idle => 2
  | .first => 3

def ArriveBody.bytes (a : ArriveBody) : List Byte :=
  leBytes 4 a.bn.toNat ++ leBytes 2 a.gen.toNat ++ leBytes 1 (a.attempt.toNat + 4 * a.kind.num) ++
  leBytes 1 (b2n a.crcMismatch + 2 * b2n a.neutral + 4 * b2n a.admitReq) ++ leBytes 4 a.vote.word ++
  leBytes 2 a.mask.toNat ++ leBytes 2 0 ++ leBytes 4 a.crc.toNat ++ leBytes 4 a.downDelay.toNat

def ReleaseBody.bytes (r : ReleaseBody) : List Byte :=
  leBytes 4 r.bn.toNat ++ leBytes 2 r.gen.toNat ++ leBytes 1 (r.attempt.toNat + 4 * r.kind.num) ++
  leBytes 1 (b2n r.aborted + 2 * b2n r.crcAgree + 4 * b2n r.admits) ++ leBytes 8 r.tRel.toNat ++ leBytes 4 r.vote.word ++
  leBytes 2 r.mask.toNat ++ leBytes 2 r.membVer.toNat ++ leBytes 4 r.agreedCrc.toNat ++ leBytes 4 0

def ReduceBody.bytes (r : ReduceBody) : List Byte :=
  leBytes 2 r.gen.toNat ++ leBytes 1 r.attempt.toNat ++ leBytes 1 r.opseq.toNat ++ leBytes 1 (b2n r.isMax) ++
  leBytes 1 r.words.length ++ leBytes 2 0 ++ r.words.flatMap (fun w => leBytes 8 w.toNat)

/-- One program of STATE PART 5 to 12 (R428), 32 B. -/
def ProgStateWords.bytes (p : ProgStateWords) : List Byte :=
  leBytes 2 p.passIndex.toNat ++ leBytes 8 p.steps.toNat ++ leBytes 2 p.epoch.toNat ++ leBytes 2 p.stepInEpoch.toNat ++
  leBytes 1 p.cur.toNat ++ leBytes 1 p.pend.toNat ++ leBytes 1 (b2n p.recovering) ++ leBytes 15 0

def StateBody.bytes : StateBody → List Byte
  | .common n bn rr mv mask crc =>
    leBytes 8 0 ++ leBytes 8 n.toNat ++ leBytes 4 bn.toNat ++ leBytes 1 rr.toNat ++ leBytes 1 0 ++ leBytes 2 mv.toNat ++
    leBytes 2 mask.toNat ++ leBytes 2 0 ++ leBytes 4 crc.toNat
  | .deficits g a b c d =>
    leBytes 8 (g.val + 1) ++ leBytes 8 a.toNat ++ leBytes 8 b.toNat ++ leBytes 8 c.toNat ++ leBytes 8 d.toNat
  | .programs g a b => leBytes 8 (g.val + 5) ++ a.bytes ++ b.bytes

/-- A message body (R300). -/
def MortarBody.bytes : MortarBody → List Byte
  | .ident m r p => leBytes 2 m.toNat ++ leBytes 1 r.toNat ++ leBytes 1 0 ++ leBytes 2 p.toNat
  | .heartbeat => []
  | .calReq t => leBytes 8 t.toNat ++ leBytes 16 0
  | .calResp a b c => leBytes 8 a.toNat ++ leBytes 8 b.toNat ++ leBytes 8 c.toNat
  | .arrive a => a.bytes
  | .release r => r.bytes
  | .abort a => leBytes 1 a.code.toNat ++ leBytes 1 a.attempt.toNat ++ leBytes 2 a.gen.toNat
  | .reduce r => r.bytes
  | .suspect m r => leBytes 2 m.toNat ++ leBytes 1 r.toNat
  | .lost m v => leBytes 2 m.toNat ++ leBytes 2 v.toNat
  | .rehome k v => leBytes 1 k.toNat ++ leBytes 1 0 ++ leBytes 2 v.toNat
  | .nak => []
  | .admitMsg m v => leBytes 2 m.toNat ++ leBytes 2 v.toNat
  | .state b => b.bytes

/-- TYPE of a message (R300). -/
def MortarBody.type : MortarBody → Nat
  | .ident .. => 0x01
  | .heartbeat => 0x02
  | .calReq _ => 0x03
  | .calResp .. => 0x04
  | .arrive _ => 0x05
  | .release _ => 0x06
  | .abort _ => 0x07
  | .reduce _ => 0x08
  | .suspect .. => 0x09
  | .lost .. => 0x0A
  | .rehome .. => 0x0B
  | .nak => 0x0C
  | .admitMsg .. => 0x0D
  | .state _ => 0x0E

/-- Header and body of a message, the body filled to 8-byte units (R299); its CRC-32C covers them. -/
def mortarBytes (h : MortarHdr) (b : MortarBody) : List Byte :=
  let body := b.bytes
  let units := ceilDiv body.length 8
  leBytes 1 b.type ++ leBytes 1 units ++ leBytes 2 h.origin.toNat ++ leBytes 1 h.seq.toNat ++
  leBytes 1 (b2n h.copy + 2 * b2n h.resend + 4 * b2n h.down) ++ leBytes 2 0 ++ slice body 0 (8 * units)

end Sys2Proof
end

