-- ==== Sys2Proof/Machine/Transport.lean ====
section
/-! DEFINITION. The Uhlesh transport (11): port sets, sending, acknowledgement, retransmission, purge, links down. What a
received payload does is in the files of its unit. -/

namespace Sys2Proof.Machine

/-! ### Registers in effect (R263) -/

def State.portTier (s : State) (p : Nat) : Bool := s.eff 0x5010 p 1 == 1
def State.portEnable (s : State) (p : Nat) : Bool := s.eff 0x5010 (16 + p) 1 == 1
def State.rtoTb (s : State) : Nat := s.eff 0x5014 0 32
def State.retxMax (s : State) : Nat := s.eff 0x5018 0 8
def State.ackFrames (s : State) : Nat := s.eff 0x5018 8 8
def State.ackDelay (s : State) : Nat := s.eff 0x5018 16 16
def State.frameLife (s : State) : Nat := s.eff 0x501C 0 32
def State.linkHold (s : State) : Nat := s.eff 0x5020 0 32
def State.peerBase (s : State) : Nat := s.eff 0x5028 0 52
/-- PCP of a channel (R250). -/
def State.pcp (s : State) (vc : Nat) : Nat := s.eff 0x5004 (4 * vc) 3

/-- FLAGS of a peer table entry (R245): bit 0 PRESENT, bit 1 UDP, bit 2 FALLBACK. -/
def State.peerFlags (s : State) (m : MemberId) : Nat := (s.byte (s.peerBase + 32 * m.toNat + 6)).toNat

/-! ### Ports and pairs -/

def State.mac (s : State) (p : Nat) : MacPort := Tab.get (fun _ => {}) s.net.ports p

def State.setMac (s : State) (p : Nat) (v : MacPort) : State :=
  { s with net := { s.net with ports := Tab.set (fun _ => {}) s.net.ports p v } }

/-- Number of a (peer, VC). -/
def pairKey (m : MemberId) (vc : BitVec 2) : Nat := 4 * m.toNat + vc.toNat

def State.pair (s : State) (k : Nat) : PairVc := Tab.get (fun _ => {}) s.net.pairs k

def State.setPair (s : State) (k : Nat) (v : PairVc) : State :=
  { s with net := { s.net with pairs := Tab.set (fun _ => {}) s.net.pairs k v } }

/-- Rack of a member (R3). -/
def rackOf (m : MemberId) : Nat := m.toNat / 256

/-- Port p is enabled and in its set (R253, R261, R263). -/
def State.inPortSet (s : State) (p : Nat) : Bool := s.portEnable p && (s.mac p).inSet

/-- Ports of a tier that are enabled, up and in their set (R253, R261). -/
def State.tierPorts (s : State) (cross : Bool) : List Nat :=
  (List.range 16).filter (fun p => s.portTier p == cross && (s.mac p).linkUp && s.inPortSet p)

/-- Ports toward a peer: its tier's, or the other tier's when none is up and FALLBACK is set (R261). A peer whose entry is not PRESENT is
skipped (R414). -/
def State.portsTo (s : State) (m : MemberId) : List Nat :=
  let cross := rackOf m ≠ rackOf s.me
  let t := s.tierPorts cross
  if !(bit (s.peerFlags m) 0) then []
  else if t.isEmpty && bit (s.peerFlags m) 2 then s.tierPorts (!cross) else t

/-! ### Addresses and encapsulation (R242 to R245) -/

/-- n bytes of host memory in network byte order. -/
def State.readBe (s : State) (a n : Nat) : Nat := (s.read a n).foldl (fun x b => x * 256 + b.toNat) 0

/-- MAC address of a member on a port: bits [3:0] of the last byte name the port (R245). -/
def State.macOf (s : State) (m : MemberId) (port : Fin 16) : BitVec 48 :=
  (BitVec.ofNat 48 (s.readBe (s.peerBase + 32 * m.toNat) 6) &&& ~~~(0xF : BitVec 48)) ||| BitVec.ofNat 48 port.val

/-- IPv6 address of a member on a port (R245). -/
def State.ipOf (s : State) (m : MemberId) (port : Fin 16) : BitVec 128 :=
  (BitVec.ofNat 128 (s.readBe (s.peerBase + 32 * m.toNat + 8) 16) &&& ~~~(0xF : BitVec 128)) ||| BitVec.ofNat 128 port.val

def State.etherType (s : State) : BitVec 16 := BitVec.ofNat 16 (s.eff 0x5000 0 16)
def State.udpPort (s : State) : BitVec 16 := BitVec.ofNat 16 (s.eff 0x5002 0 16)
def State.vid (s : State) : Nat := s.eff 0x5004 16 12

/-- The tag's control word: PCP, DEI 0, VID (R242). -/
def State.tagWord (s : State) (vc : BitVec 2) : BitVec 16 := BitVec.ofNat 16 (s.pcp vc.toNat * 2 ^ 13 + s.vid)

/-- The flow label (R243). -/
def flowLabel (src dst : MemberId) (vc : BitVec 2) (port : Fin 16) : BitVec 20 :=
  (crc32c (leBytes 2 src.toNat ++ leBytes 2 dst.toNat ++ leBytes 2 vc.toNat ++ leBytes 2 port.val)).setWidth 20

/-- The IPv6 and UDP headers toward a peer (R243). -/
def State.ipHeader (s : State) (m : MemberId) (vc : BitVec 2) (port : Fin 16) : IpOut :=
  { tclass := BitVec.ofNat 8 (s.pcp vc.toNat * 32), flow := flowLabel s.me m vc port, nextHeader := 17, hopLimit := 64,
    src := s.ipOf s.me port, dst := s.ipOf m port, port := s.udpPort }

/-- A frame comes in an encapsulation that the block reads (R242, R243): its EtherType, tagged or not, or UDP on its port over IPv6 without
extension headers. The others are ignored. -/
def State.wireOk (s : State) (h : FrameHdr) : Bool :=
  match h.encap with
  | .ether t => t == s.etherType
  | .udp next a b => next == 17 && a == s.udpPort && b == s.udpPort

/-- The Uhlesh header of a frame sent (R246). -/
def FrameOut.header (o : FrameOut) : List Byte :=
  leBytes 1 3 ++ leBytes 1 o.payload.type.toNat ++ leBytes 1 (o.vc.toNat + 4 * b2n o.retx) ++
  leBytes 1 (o.ackVc.toNat + 4 * b2n o.ackValid) ++ leBytes 2 o.src.toNat ++ leBytes 2 o.dst.toNat ++ leBytes 4 o.seq.toNat ++
  leBytes 4 o.ackSeq.toNat ++ leBytes 4 o.sack.toNat ++ leBytes 4 o.tstamp.toNat ++ leBytes 2 o.payload.bytes.length ++ leBytes 2 0

/-- FRAME_CRC (R246). -/
def FrameOut.frameCrc (o : FrameOut) : BitVec 32 := crc32c (o.header ++ o.payload.bytes)

/-- n bytes in network byte order. -/
def beBytes (n x : Nat) : List Byte := (leBytes n x).reverse

/-- IPv6 and UDP header bytes before n bytes of Uhlesh data (R243). -/
def IpOut.bytes (i : IpOut) (n : Nat) : List Byte :=
  beBytes 4 (6 * 2 ^ 28 + i.tclass.toNat * 2 ^ 20 + i.flow.toNat) ++ beBytes 2 (n + 8) ++ beBytes 1 i.nextHeader.toNat ++
  beBytes 1 i.hopLimit.toNat ++ beBytes 16 i.src.toNat ++ beBytes 16 i.dst.toNat ++ beBytes 2 i.port.toNat ++ beBytes 2 i.port.toNat ++
  beBytes 2 (n + 8) ++ beBytes 2 0

/-- The bytes that a port presents to its MAC (R242 to R244, R400): from the destination address to the Uhlesh trailer, padded so that the
frame with its FCS has 64 B. -/
def FrameOut.wire (o : FrameOut) : List Byte :=
  let data := o.header ++ o.payload.bytes ++ leBytes 4 o.crc.toNat
  let b := beBytes 6 o.dstMac.toNat ++ beBytes 6 o.srcMac.toNat ++ beBytes 2 0x8100 ++ beBytes 2 o.tci.toNat ++ beBytes 2 o.ethType.toNat ++
    (match o.ip with
     | some i => i.bytes data.length
     | none => []) ++ data
  b ++ List.replicate (60 - b.length) 0

/-- Bytes that a channel's egress queue holds on a port. -/
def MacPort.queued (k : MacPort) (vc : BitVec 2) : Nat :=
  (k.egress.filter (fun e => e.vc == vc)).foldl (fun a e => a + e.bytes) 0

/-- The port a frame goes to (R253): fewest bytes queued, ties to the lower number. -/
def State.choosePort (s : State) (m : MemberId) (vc : BitVec 2) : Option (Fin 16) :=
  (s.portsTo m).foldl (fun best p =>
    match best with
    | none => some (Fin.ofNat 16 p)
    | some b => if (s.mac p).queued vc < (s.mac b.val).queued vc then some (Fin.ofNat 16 p) else some b) none

/-- Group bytes of a payload's VC2 cells (R264). -/
def payloadGroups : Payload → Nat
  | .cells cs => cs.foldl (fun a c => a + (match c with
      | .dispatch c => c.data.length
      | .ret c => c.data.length
      | .part c => 8 * c.words.length
      | .manifest _ => 0)) 0
  | _ => 0

/-- Frame bytes from destination address to FCS (R244), padded to 64. -/
def State.frameBytes (s : State) (m : MemberId) (p : Payload) : Nat :=
  max 64 (p.bytes.length + (if bit (s.peerFlags m) 1 then 102 else 54))

/-! ### Sending -/

/-- The acknowledgement that the next frame to a peer carries (R256): that of the VC that becomes due first, the one with the oldest frame
not yet acknowledged (one that ACK_FRAMES made due has had its own ACK frame), else of the frame's own VC. -/
def State.ackVcFor (s : State) (m : MemberId) (own : BitVec 2) : BitVec 2 :=
  (([0, 1, 2, 3] : List (BitVec 2)).foldl (fun (best : Option (BitVec 2)) vc =>
    let k := s.pair (pairKey m vc)
    if k.ackDue = 0 then best
    else match best with
      | none => some vc
      | some b => if k.ackSince < (s.pair (pairKey m b)).ackSince then some vc else some b) none).getD own

/-- SACK bits of a pair (R256): bit i for frame CUM + 1 + i. -/
def PairVc.sack (k : PairVc) : BitVec 32 := (k.rmap >>> 1).setWidth 32

/-- Cells of a payload that this member sends as their source (R126, R152): dispatch cells and return cells. -/
def ownCells (me : MemberId) : Payload → Nat × Nat
  | .cells cs => (cs.countP (fun c => c.kind == 1 && c.hdr.source == me), cs.countP (fun c => c.kind == 2))
  | _ => (0, 0)

/-- A frame as it leaves on a port now, with the acknowledgement of channel `av` (R242 to R246, R256). -/
def State.frameOut (s : State) (port : Fin 16) (m : MemberId) (vc : BitVec 2) (seq : BitVec 32) (retx : Bool) (p : Payload)
    (av : BitVec 2) : FrameOut :=
  let k := s.pair (pairKey m av)
  let udp := bit (s.peerFlags m) 1
  let o : FrameOut :=
    { port := port, dstMac := s.macOf m port, srcMac := s.macOf s.me port, tci := s.tagWord vc,
      ethType := if udp then 0x86DD else s.etherType, ip := if udp then some (s.ipHeader m vc port) else none,
      src := s.me, dst := m, vc := vc, retx := retx, seq := seq, ackValid := true, ackVc := av, ackSeq := k.cum, sack := k.sack,
      tstamp := BitVec.ofNat 32 s.tb, payload := p, crc := 0 }
  { o with crc := o.frameCrc }

/-- A frame is out on its port, and it is counted (R126, R152, R264). -/
def State.sent (s : State) (o : FrameOut) : State :=
  let n := s.frameBytes o.dst o.payload + 20
  let s := ({ s with net := { s.net with out := s.net.out ++ [o] } } : State).bump 0x21500
  let s := if o.retx then s.bump 0x21520 else s
  let s := if o.vc = 2 then (s.bump 0x21510 (payloadGroups o.payload)).bump 0x21518 n else s
  let s := (s.bump 0x210C8 (ownCells s.me o.payload).1).bump 0x21108 (ownCells s.me o.payload).2
  match o.payload with
  | .ack => (s.bump 0x21548).bump 0x21518 n
  | .sync _ => s.bump 0x21550
  | _ => s

/-- A frame leaves on a port now; it acknowledges `av` where one is named, else the channel whose turn it is (R256). -/
def State.emit (s : State) (port : Fin 16) (m : MemberId) (vc : BitVec 2) (seq : BitVec 32) (retx : Bool) (p : Payload)
    (av : Option (BitVec 2) := none) : State :=
  let a := av.getD (s.ackVcFor m vc)
  let o := s.frameOut port m vc seq retx p a
  (s.setPair (pairKey m a) { s.pair (pairKey m a) with ackDue := 0 }).sent o

/-- A frame leaves at once: its descriptor goes through the egress queue of its port and channel (R356, R371). -/
def State.emitNow (s : State) (port : Fin 16) (m : MemberId) (vc : BitVec 2) (seq : BitVec 32) (retx : Bool) (p : Payload)
    (av : Option (BitVec 2) := none) : State := (s.emit port m vc seq retx p av).bump 0x21730

/-- Number of the egress queue of a port and channel (R356). -/
def egressQueue (p vc : Nat) : Nat := 4 * p + vc

/-- Length of a frame descriptor. Its layout does not leave the block; it takes one cell (DESIGN CHOICE, log entry 51). -/
def descriptorLen : Nat := 32

/-- The frames that wait on a port are those of a list: the others' descriptors leave their queues, and gap markers with the last of them
(R356, R363). -/
def State.setEgress (s : State) (p : Nat) (l : List Egress) : State :=
  let s := s.setMac p { s.mac p with egress := l }
  s.each (List.range 4) (fun s v =>
    let k := s.queue (egressQueue p v)
    let n := l.countP (fun e => e.vc.toNat == v)
    let items := (k.entries.filter QEntry.isItem).drop ((k.entries.countP QEntry.isItem) - n)
    if k.entries.isEmpty then s
    else s.setQueue (egressQueue p v) { k with entries := items ++ (if n = 0 then [] else k.entries.filter QEntry.isGap) })

/-- A frame waits in its egress queue while its channel is paused on the port (R252, R253). A queue that is not enabled refuses the descriptor
(R368), and one without room drops it, which the replay or the retransmission timer repairs (R363, R367). -/
def State.enqueue (s : State) (port : Fin 16) (e : Egress) : State :=
  let q := egressQueue port.val e.vc.toNat
  if !(s.qEnable q) then s
  else if s.qFits q descriptorLen then
    ((s.setMac port.val { s.mac port.val with egress := (s.mac port.val).egress ++ [e] }).placeItem q 0 descriptorLen []).bump 0x21730
  else s.dropItem q 0 false

/-- Starts a frame on a port, or queues it while the channel's priority is paused there (R252). -/
def State.startFrame (s : State) (port : Fin 16) (m : MemberId) (vc : BitVec 2) (seq : BitVec 32) (retx : Bool)
    (p : Payload) : State :=
  if bit (s.mac port.val).pause.toNat (s.pcp vc.toNat) then
    s.enqueue port { peer := m, vc := vc, seq := seq, bytes := s.frameBytes m p }
  else s.emitNow port m vc seq retx p

/-- Sends a frame that carries no sequence number: SYNC, or an ACK of channel `av`, on VC0; it waits while that channel is paused on the
port. -/
def State.sendBare (s : State) (m : MemberId) (p : Payload) (av : Option (BitVec 2) := none) : State :=
  match s.choosePort m 0 with
  | some port =>
    if bit (s.mac port.val).pause.toNat (s.pcp 0) then
      s.enqueue port { peer := m, vc := 0, seq := 0, bytes := s.frameBytes m p, bare := some p, ackFor := av }
    else s.emitNow port m 0 0 false p av
  | none => s

/-- Transmits frame `f` of a pair (first time or again); it is recorded with its port and time. -/
def State.transmit (s : State) (m : MemberId) (vc : BitVec 2) (f : TxFrame) (retx : Bool) : State :=
  let port := s.choosePort m vc
  let key := pairKey m vc
  let f := { f with port := port, sentAt := s.tb, resent := f.resent || retx }
  let k := s.pair key
  let rest := k.unacked.filter (fun g => g.seq ≠ f.seq)
  let s := s.setPair key { k with unacked := rest ++ [f] }
  match port with
  | some p => s.startFrame p m vc f.seq retx f.payload
  | none => s

/-- Where a code names a frame of a pair and the port that it last used (R440). -/
def frameWhere (m : MemberId) (vc : BitVec 2) (port : Option (Fin 16)) : Where :=
  { unit := 6, member := some m, detail := (port.elim 0 (·.val)) + 16 * vc.toNat }

/-! ### Egress staging (R255, R350) -/

/-- A payload of dispatch or return cells, which EGRESS stages; the copies that a mirror forwards lie in FANOUT's buffers. -/
def stagedOut (me : MemberId) : Payload → Bool
  | .cells cs => cs.any (fun c => c.kind == 2 || (c.kind == 1 && c.hdr.source == me))
  | _ => false

/-- What staging says of the next payload of a pair: it goes, with its buffer where it has one, or it waits. -/
inductive Staging where
  | go (handle : Option Nat)
  | wait
  deriving DecidableEq, Repr

/-- The sender stays within its staging quota: a payload that would exceed it waits for acknowledgements (R255). With nothing staged the
request is made; where the quota is too small for it at all it is denied, and the payload leaves unstaged (DESIGN CHOICE, log entry 50). -/
def State.stageOut (s : State) (m : MemberId) (p : Payload) : State × Staging :=
  let n := max 1 p.bytes.length
  if !(stagedOut s.me p) then (s, .go none)
  else if s.jobWaits (.egress m) || (s.overQuota 1 n && s.usedBy 1 != 0) then (s, .wait)
  else match s.requestBuffer 0 n 1 1 false none (some (.egress m)) with
    | (s, .granted h) => (s, .go (some h))
    | (s, .waits) => (s, .wait)
    | (s, _) => (s, .go none)

/-- The channel is held by a SYNC outstanding (R260). -/
def State.syncHeld (s : State) (m : MemberId) (vc : BitVec 2) : Bool :=
  match Tab.get? s.net.syncs m.toNat with
  | some y => bit y.body.mask.toNat vc.toNat
  | none => false

/-- The first waiting payload of a pair leaves with the next number. -/
def State.sendNext (s : State) (m : MemberId) (vc : BitVec 2) (handle : Option Nat) : State :=
  let k := s.pair (pairKey m vc)
  match k.waiting with
  | [] => s.dropOwn handle 1
  | p :: rest =>
    (s.setPair (pairKey m vc) { k with waiting := rest, nextSeq := k.nextSeq + 1 }).transmit m vc
      { seq := k.nextSeq, payload := p, port := none, sentAt := s.tb, retx := 0, handle := handle } false

/-- The pair may send a new frame: fewer than 256 are unacknowledged and no SYNC holds the channel (R255, R260). -/
def State.mayNumber (s : State) (m : MemberId) (vc : BitVec 2) : Bool :=
  (s.pair (pairKey m vc)).unacked.length < 256 && !(s.syncHeld m vc)

/-- Waiting payloads of a pair go out while fewer than 256 frames are unacknowledged and staging lets them (R255). -/
def State.pump : Nat → State → MemberId → BitVec 2 → State
  | 0, s, _, _ => s
  | n + 1, s, m, vc =>
    match (s.pair (pairKey m vc)).waiting with
    | [] => s
    | p :: _ =>
      if !(s.mayNumber m vc) then s
      else match s.stageOut m p with
        | (s, .go h) => State.pump n (s.sendNext m vc h) m vc
        | (s, .wait) => s

/-- Everything that waits on a pair, as far as it may go. -/
def State.pumpPair (s : State) (m : MemberId) (vc : BitVec 2) : State := s.pump (s.pair (pairKey m vc)).waiting.length m vc

/-- STRICT_ACTIVE: the strict policy applies from STRICT_MEMBERS on (R250). -/
def State.strictActive (s : State) : Bool := decide (s.eff 0x500C 0 11 ≤ s.mortar.tree.roster.length)

/-- ETS weight of a channel (R250). -/
def State.etsWeight (s : State) (vc : Nat) : Nat := s.eff 0x5008 (8 * (vc - 1)) 8

/-- The channel whose frame leaves next of those with frames ready (R250): VC0 first; VC1 next under the strict policy; the others by their
shares, the one that has sent the fewest bytes for its weight, of the lower number among equals (DESIGN CHOICE, log entry 121). `done` are the
bytes that each has sent since the port could send. -/
def State.nextChannel (s : State) (done : List Nat) (ready : List Nat) : Option Nat :=
  if ready.contains 0 then some 0
  else if s.strictActive && ready.contains 1 then some 1
  else
    let w (v : Nat) : Nat := s.etsWeight v
    let d (v : Nat) : Nat := done.getD v 0
    ready.foldl (fun best v => match best with
      | none => some v
      | some b => if d v * w b < d b * w v || (w b = 0 && w v ≠ 0) then some v else some b) none

/-- The order in which frames that are ready together leave (R250): per channel as they stand. -/
def State.leaveOrder {α : Type} (s : State) (vc bytes : α → Nat) : Nat → List Nat → List α → List α
  | 0, _, l => l
  | n + 1, done, l =>
    match s.nextChannel done ([0, 1, 2, 3].filter (fun v => l.any (fun x => vc x == v))) with
    | none => []
    | some v => match l.find? (fun x => vc x == v) with
      | none => []
      | some x => x :: s.leaveOrder vc bytes n (done.set v (done.getD v 0 + bytes x)) (l.eraseP (fun x => vc x == v))

/-- The channels of a peer on which a payload waits that may be numbered. -/
def State.readyChannels (s : State) (m : MemberId) (chans : List Nat) : List Nat :=
  chans.filter (fun v => !(s.pair (pairKey m (BitVec.ofNat 2 v))).waiting.isEmpty && s.mayNumber m (BitVec.ofNat 2 v))

/-- Waiting payloads of a peer go out as far as they may, in the order of R250; a channel that waits for staging stands back. -/
def State.pumpAll : Nat → State → MemberId → List Nat → List Nat → State
  | 0, s, _, _, _ => s
  | n + 1, s, m, done, chans =>
    match s.nextChannel done (s.readyChannels m chans) with
    | none => s
    | some v =>
      let vc := BitVec.ofNat 2 v
      match (s.pair (pairKey m vc)).waiting with
      | [] => s
      | p :: _ => match s.stageOut m p with
        | (s, .go h) => State.pumpAll n (s.sendNext m vc h) m (done.set v (done.getD v 0 + s.frameBytes m p)) chans
        | (s, .wait) => State.pumpAll n s m done (chans.erase v)

/-- Everything that waits for a peer, on every channel, as far as it may go. -/
def State.pumpPeer (s : State) (m : MemberId) : State :=
  let n := ([0, 1, 2, 3] : List Nat).foldl (fun a v => a + (s.pair (pairKey m (BitVec.ofNat 2 v))).waiting.length) 4
  s.pumpAll n m [0, 0, 0, 0] [0, 1, 2, 3]

/-- The buffer that a pair waited for is granted: its next payload leaves, and those behind it as far as they may. -/
def State.egressGranted (s : State) (m : MemberId) (handle : Nat) : State :=
  if s.mayNumber m 2 then (s.sendNext m 2 (some handle)).pumpPair m 2 else s.dropOwn (some handle) 1

/-- Pairs that wait for room in staging go on as far as acknowledgements have freed it. -/
def State.pumpStaged (s : State) : State :=
  s.each (s.net.pairs.filter (fun p => p.1 % 4 == 2 && !p.2.waiting.isEmpty)) (fun s p => s.pumpPair (BitVec.ofNat 10 (p.1 / 4)) 2)

/-- A collective frame goes ahead of this one: it is of the same collective and of no later chunk (R277). -/
def chunkBefore (c : CollFrame) : Payload → Bool
  | .coll d => d.opseq != c.opseq || decide (d.chunk.toNat ≤ c.chunk.toNat)
  | _ => true

/-- A payload joins those that wait for a pair: collective frames in ascending chunk order (R277), others in order. -/
def queueOut (l : List Payload) (p : Payload) : List Payload :=
  match p with
  | .coll c => l.takeWhile (chunkBefore c) ++ [p] ++ l.dropWhile (chunkBefore c)
  | _ => l ++ [p]

/-- Sends a payload to a peer on its channel. -/
def State.send (s : State) (m : MemberId) (p : Payload) : State :=
  let vc := p.vc
  let k := s.pair (pairKey m vc)
  let s := s.setPair (pairKey m vc) { k with waiting := queueOut k.waiting p }
  s.pump (k.waiting.length + 1) m vc

/-! ### Acknowledgements received (R256, R258, R259) -/

/-- Number of bits set. -/
def popcount (w n : Nat) : Nat := ((List.range n).filter (bit w)).length

/-- An acknowledgement names a frame: below ACK_SEQ, or marked by SACK. -/
def acked (ackSeq sack seq : BitVec 32) : Bool :=
  let d := (seq - ackSeq).toNat
  2 ^ 31 ≤ d || (1 ≤ d && d ≤ 32 && bit sack.toNat (d - 1))

/-- Base of a channel in a SYNC. -/
def syncBase (y : SyncBody) (vc : BitVec 2) : BitVec 32 :=
  match vc.toNat with
  | 0 => y.base0
  | 1 => y.base1
  | 2 => y.base2
  | _ => y.base3

/-- An acknowledgement whose comparison with a frame not acknowledged, or with the base of a SYNC outstanding, is undefined
(R254). -/
def State.ackUndefined (s : State) (m : MemberId) (vc : BitVec 2) (ackSeq : BitVec 32) : Bool :=
  (s.pair (pairKey m vc)).unacked.any (fun f => decide ((f.seq - ackSeq).toNat = 2 ^ 31)) ||
  (match Tab.get? s.net.syncs m.toNat with
   | none => false
   | some y => bit y.body.mask.toNat vc.toNat && decide ((ackSeq - syncBase y.body vc).toNat = 2 ^ 31))

/-- An acknowledgement at or beyond the base of a SYNC outstanding settles the channel; once every masked one is settled they are held no more
(R260). -/
def State.settleSync (s : State) (m : MemberId) (vc : BitVec 2) (ackSeq : BitVec 32) : State :=
  match Tab.get? s.net.syncs m.toNat with
  | none => s
  | some y =>
    if bit y.body.mask.toNat vc.toNat && (ackSeq - syncBase y.body vc).toNat < 2 ^ 31 then
      let done := y.acked ||| BitVec.ofNat 3 (2 ^ vc.toNat)
      if y.body.mask &&& ~~~done = 0 then { s with net := { s.net with syncs := Tab.erase s.net.syncs m.toNat } }
      else { s with net := { s.net with syncs := Tab.put s.net.syncs m.toNat { y with acked := done } } }
    else s

/-- Buffers of frames that are acknowledged go back (R350). -/
def State.dropStaged (s : State) (l : List TxFrame) : State := s.each l (fun s f => s.dropOwn f.handle 1)

/-- RETRANSMIT_LIMIT (R258); on VC3 it abandons no attempt, and the move fails in its own unit. -/
def State.retransmitLimit (s : State) (m : MemberId) (vc : BitVec 2) (port : Option (Fin 16) := none) : State :=
  s.raise Code.retransmitLimit { frameWhere m vc port with noPass := decide (vc = 3) }

/-- A frame has been sent RETX_MAX times again and would be once more (R258): the frame stays for the purge of R260 and is sent no more; on
VC3 it is given up, and its move is told. -/
def State.frameLimit (s : State) (m : MemberId) (vc : BitVec 2) (f : TxFrame) : State :=
  let key := pairKey m vc
  let k := s.pair key
  let keep := k.unacked.map (fun g => if g.seq = f.seq then { g with retx := s.retxMax + 1 } else g)
  let left := if vc = 3 then k.unacked.filter (fun g => g.seq ≠ f.seq) else keep
  let s := (s.setPair key { k with unacked := left }).retransmitLimit m vc f.port
  if vc = 3 then { s with net := { s.net with limited := s.net.limited ++ [f.payload] } } else s

/-- Sends a frame again, or raises RETRANSMIT_LIMIT instead after RETX_MAX times (R258). -/
def State.sendAgain (s : State) (m : MemberId) (vc : BitVec 2) (f : TxFrame) : State :=
  if s.retxMax ≤ f.retx then s.frameLimit m vc f
  else (s.raiseOnce Code.frameSeq (frameWhere m vc f.port)).transmit m vc { f with retx := f.retx + 1 } true

/-- Acknowledgement of (me, peer, vc): frees frames, sends again the frame that 16 SACK bits pass over when it was not sent
again within the last RTO_TB (DEDUCED, log entry 11), answers a SYNC, and lets waiting payloads go. -/
def State.acknowledge (s : State) (m : MemberId) (vc : BitVec 2) (ackSeq sack : BitVec 32) : State :=
  let key := pairKey m vc
  let k := s.pair key
  let s := s.setPair key { k with unacked := k.unacked.filter (fun f => !(acked ackSeq sack f.seq)) }
  let s := s.dropStaged (k.unacked.filter (fun f => acked ackSeq sack f.seq))
  let s := match (s.pair key).unacked.find? (fun f => f.seq == ackSeq) with
    | none => s
    | some f =>
      if 16 ≤ popcount sack.toNat 32 && (!f.resent || f.sentAt + s.rtoTb ≤ s.tb) && f.retx ≤ s.retxMax then s.sendAgain m vc f else s
  (s.settleSync m vc ackSeq).pumpPeer m

/-! ### Receiving (R249, R255, R257) -/

/-- The checks of R249; `false` discards. FRAME_CRC covers header and payload (R246). -/
def frameGood (s : State) (h : FrameHdr) (p : Payload) : Bool :=
  h.crc == crc32c (h.bytes ++ p.bytes) && h.version == 3 && h.type == p.type && p.fits h.vc && h.dst == s.me &&
  h.length.toNat ≤ 8192 && h.length.toNat ≤ h.got && h.length.toNat == p.bytes.length

/-- Sends an ACK frame for a (peer, VC) (R256). -/
def State.sendAck (s : State) (m : MemberId) (vc : BitVec 2) : State :=
  let k := s.pair (pairKey m vc)
  (s.setPair (pairKey m vc) { k with ackDue := k.ackDue + 1, ackSince := 0 }).sendBare m .ack (some vc)

/-- CUM moves past every received number (R255). -/
def advanceCum : Nat → PairVc → PairVc
  | 0, k => k
  | n + 1, k => if k.rmap.getLsbD 0 then advanceCum n { k with cum := k.cum + 1, rmap := k.rmap >>> 1 } else k

/-- Sequence check of R255; the flag says whether the payload is accepted. -/
def State.sequence (s : State) (h : FrameHdr) : State × Bool :=
  let key := pairKey h.src h.vc
  let k := s.pair key
  let d := (h.seq - k.cum).toNat
  if d = 2 ^ 31 then (s.raise Code.epochWindow { unit := 6, member := some h.src }, false)
  else if 2 ^ 31 < d || (d < 256 && k.rmap.getLsbD d) then ((s.bump 0x21530).sendAck h.src h.vc, false)
  else if 256 ≤ d then (s.bump 0x21538, false)
  else
    let k := advanceCum 256 { k with rmap := k.rmap ||| (BitVec.ofNat 256 (2 ^ d)) }
    let k := { k with ackDue := k.ackDue + 1, ackSince := if k.ackDue = 0 then s.tb else k.ackSince }
    let s := (s.setPair key k).bump 0x21508
    (if s.ackFrames ≤ k.ackDue then s.sendBare h.src .ack (some h.vc) else s, true)

/-- What the transport does with a frame whose FCS is good; the flag says whether its payload is accepted (R249, R255 to R257,
R402). ACK and SYNC carry no sequence number. -/
def State.receiveFrame (s : State) (h : FrameHdr) (p : Payload) : State × Bool :=
  let w : Where := { unit := 6, member := some h.src, detail := h.port.val + 16 * h.vc.toNat }
  if !(frameGood s h p) then ((s.bump 0x21528).raiseOnce Code.frameCrc w, false)
  else
    let age := (s.tb + 2 ^ 32 - h.tstamp.toNat) % 2 ^ 32
    if age = 2 ^ 31 then (s.raise Code.epochWindow w, false)
    else if (age < 2 ^ 31 && s.frameLife < age) || (2 ^ 31 < age && 1250 < 2 ^ 32 - age) then (s.bump 0x21540, false)
    else if h.ackValid && s.ackUndefined h.src h.ackVc h.ackSeq then (s.raise Code.epochWindow w, false)
    else
      let s := if h.ackValid then s.acknowledge h.src h.ackVc h.ackSeq h.sack else s
      match p with
      | .ack => (s, true)
      | .sync _ => (s, true)
      | _ => s.sequence h

/-- A SYNC received (R260). -/
def State.receiveSync (s : State) (m : MemberId) (y : SyncBody) : State :=
  let chans : List (BitVec 2 × BitVec 32) := [(0, y.base0), (1, y.base1), (2, y.base2)]
  let masked := chans.filter (fun c => bit y.mask.toNat c.1.toNat)
  if masked.any (fun c => (c.2 - (s.pair (pairKey m c.1)).cum).toNat = 2 ^ 31) then
    s.raise Code.epochWindow { unit := 6, member := some m }
  else if masked.all (fun c => (c.2 - (s.pair (pairKey m c.1)).cum).toNat ≤ 256) then
    s.each masked (fun s c =>
      let k := s.pair (pairKey m c.1)
      (s.setPair (pairKey m c.1) { k with cum := c.2, rmap := 0, ackDue := 0 }).sendAck m c.1)
  else s.bump 0x21538

/-- ACK_DELAY_TB has passed since the first frame not yet acknowledged (R256). -/
def State.ackExpiry (s : State) (m : MemberId) (vc : BitVec 2) : State :=
  let k := s.pair (pairKey m vc)
  if k.ackDue = 0 then s else (s.until (k.ackSince + s.ackDelay)).sendBare m .ack (some vc)

/-! ### Timers and links -/

/-- A frame's timer expires (R258): a frame that waits in an egress queue, or that met the limit, has none. -/
def State.rtoExpire (s : State) (m : MemberId) (vc : BitVec 2) (seq : BitVec 32) : State :=
  match (s.pair (pairKey m vc)).unacked.find? (fun f => f.seq == seq) with
  | none => s
  | some f =>
    let queued := (List.range 16).any (fun p =>
      (s.mac p).egress.any (fun e => e.peer == m && e.vc == vc && e.seq == seq && e.bare.isNone))
    if queued || s.retxMax < f.retx then s else (s.until (f.sentAt + s.rtoTb)).sendAgain m vc f

/-- The unacknowledged frames, of every peer and channel, whose last transmission was on a port, in the order in which they leave again (R250). -/
def State.framesOn (s : State) (port : Option (Fin 16)) : List (Nat × TxFrame) :=
  let l := s.net.pairs.flatMap (fun p => (p.2.unacked.filter (fun f => f.port == port)).map (fun f => (p.1, f)))
  s.leaveOrder (fun x => x.1 % 4) (fun x => s.frameBytes (BitVec.ofNat 10 (x.1 / 4)) x.2.payload) l.length [0, 0, 0, 0] l

/-- Sends again, on the remaining ports, every unacknowledged frame whose last transmission used a port (R261). -/
def State.resendFrom (s : State) (port : Fin 16) : State :=
  s.each (s.framesOn (some port)) (fun s x => s.transmit (BitVec.ofNat 10 (x.1 / 4)) (BitVec.ofNat 2 (x.1 % 4)) x.2 true)

/-- MAC_LINK_UP falls (R261). -/
def State.portDown (s : State) (p : Fin 16) : State :=
  let k := s.mac p.val
  if k.linkUp then
    let s := (s.setEgress p.val []).setMac p.val { k with linkUp := false, inSet := false, egress := [] }
    let s := (s.bump 0x21558).raiseOnce Code.linkDown { unit := 6, detail := p.val }
    s.resendFrom p
  else s

/-- The port rejoins its set after LINK_HOLD_TB (R261); frames that had no port leave. -/
def State.portHold (s : State) (p : Fin 16) : State :=
  let k := s.mac p.val
  if k.linkUp && !k.inSet then
    let s := (s.until (k.upSince + s.linkHold))
    let s := s.setMac p.val { k with inSet := true }
    s.each (s.framesOn none) (fun s x => s.transmit (BitVec.ofNat 10 (x.1 / 4)) (BitVec.ofNat 2 (x.1 % 4)) x.2 x.2.resent)
  else s

/-- The order in which the frames of an egress queue leave its port (R250, R253): per channel as they entered. -/
def State.egressOrder (s : State) (n : Nat) (done : List Nat) (l : List Egress) : List Egress :=
  s.leaveOrder (fun e => e.vc.toNat) (fun e => e.bytes) n done l

/-- A frame of an egress queue leaves on its port. -/
def State.leave (s : State) (p : Fin 16) (e : Egress) : State :=
  match e.bare with
  | some x => s.emit p e.peer 0 0 false x e.ackFor
  | none =>
    let key := pairKey e.peer e.vc
    match (s.pair key).unacked.find? (fun f => f.seq == e.seq) with
    | none => s
    | some f =>
      let u := (s.pair key).unacked.map (fun g => if g.seq = f.seq then { g with sentAt := s.tb } else g)
      (s.setPair key { s.pair key with unacked := u }).emit p e.peer e.vc f.seq f.resent f.payload

/-- The pause status of a port changes (R252, R402): frames of channels that are no longer paused leave. -/
def State.portPause (s : State) (p : Fin 16) (status : BitVec 8) : State :=
  let k := s.mac p.val
  let held (e : Egress) : Bool := bit status.toNat (s.pcp e.vc.toNat)
  let go := k.egress.filter (fun e => !(held e))
  let s := s.setMac p.val { k with pause := status }
  if go.isEmpty then s
  else (s.setEgress p.val (k.egress.filter held)).each (s.egressOrder go.length [0, 0, 0, 0] go) (fun s e => s.leave p e)

/-- The block requests pause on some port. -/
def State.pausing (s : State) : Bool := (List.range 16).any (fun p => (s.mac p).pauseReq ≠ 0)

/-- The block requests or withdraws pause on VC2 and VC3, on every port (R252). -/
def State.requestPause (s : State) (on : Bool) : State :=
  let mask := BitVec.ofNat 8 (2 ^ s.pcp 2) ||| BitVec.ofNat 8 (2 ^ s.pcp 3)
  let was := s.pausing
  let s := s.each (List.range 16) (fun s p => s.setMac p { s.mac p with pauseReq := if on then mask else 0 })
  if on && !was then s.bump 0x21560 else s

/-! ### Purge at a replay (R260) -/

/-- Sends or repeats a SYNC. -/
def State.sendSync (s : State) (m : MemberId) (y : SyncOut) : State :=
  let s := { s with net := { s.net with syncs := Tab.put s.net.syncs m.toNat { y with sentAt := s.tb, port := s.choosePort m 0 } } }
  s.sendBare m (.sync y.body)

/-- Purges the unacknowledged VC0 to VC2 frames of every pair and sends a SYNC for each pair that had any. A SYNC of the pair that
is still outstanding is sent with it, its channels too (DEDUCED, log entry 33). -/
def State.purgeReplay (s : State) : State :=
  let peers := (s.net.pairs.map (fun p => p.1 / 4)).eraseDups
  let s := s.each (List.range 16) (fun s p => s.setEgress p ((s.mac p).egress.filter (fun e => e.vc == 3)))
  s.each peers (fun s n =>
    let m := BitVec.ofNat 10 n
    let chans : List (BitVec 2) := [0, 1, 2]
    let old := match Tab.get? s.net.syncs n with
      | none => 0
      | some y => (y.body.mask &&& ~~~y.acked).toNat
    let mask := bitsOf 3 (fun v => (s.pair (4 * n + v)).unacked ≠ [] || bit old v)
    let s := s.each chans (fun s vc =>
      let k := s.pair (pairKey m vc)
      (s.dropStaged k.unacked).setPair (pairKey m vc) { k with unacked := [], waiting := [] })
    if mask = 0 then s
    else
      let base (v : Nat) : BitVec 32 := (s.pair (4 * n + v)).nextSeq
      s.sendSync m ⟨{ mask := BitVec.ofNat 3 mask, base0 := base 0, base1 := base 1, base2 := base 2, base3 := base 3 }, s.tb, 0, 0, none⟩)

/-- A SYNC not acknowledged after RTO_TB is repeated, up to RETX_MAX times (R260). At the limit it is repeated no more, and its
channels stay held until an acknowledgement or the next purge (DEDUCED, log entry 33). -/
def State.syncExpire (s : State) (m : MemberId) : State :=
  match Tab.get? s.net.syncs m.toNat with
  | none => s
  | some y =>
    if s.retxMax < y.retx then s
    else
      let s := s.until (y.sentAt + s.rtoTb)
      if s.retxMax ≤ y.retx then
        ({ s with net := { s.net with syncs := Tab.put s.net.syncs m.toNat { y with retx := s.retxMax + 1 } } }).retransmitLimit m 0 y.port
      else s.sendSync m { y with retx := y.retx + 1 }

/-- The state of the pairs with a member is discarded, and starts at 0 when it is admitted (R254, R260). -/
def State.dropPeer (s : State) (m : MemberId) : State :=
  let s := s.dropStaged ((s.net.pairs.filter (fun p => p.1 / 4 == m.toNat)).flatMap (fun p => p.2.unacked))
  { s with net := { s.net with pairs := s.net.pairs.filter (fun p => p.1 / 4 != m.toNat),
                               syncs := Tab.erase s.net.syncs m.toNat } }

end Sys2Proof.Machine
end

