-- ==== Sys2Proof/Machine/Lanes.lean ====
section
/-! DEFINITION. Mortar lanes and the tree (13, R295 to R304, R312): who is parent and child, sending on a lane, what a lane
accepts, resends, calibration. -/

namespace Sys2Proof.Machine

/-! ### The tree (R295, R296) -/

/-- Tree position of a member: its index in the roster. -/
def State.posOf (s : State) (m : MemberId) : Option Nat := s.mortar.tree.roster.findIdx? (· == m)

/-- This member's position. -/
def State.myPos (s : State) : Nat := (s.posOf s.me).getD 0

/-- The member at a position. -/
def State.atPos (s : State) (n : Nat) : MemberId := (s.mortar.tree.roster[n]?).getD 0

/-- Primary parent's position (R295). -/
def parentPos (n : Nat) : Nat := (n - 1) / 4

/-- Level-1 ancestor of a position n ≥ 1 (R295): six levels cover 1,024 members. -/
def level1 (n : Nat) : Nat :=
  (List.range 6).foldl (fun p _ => if 4 < p then parentPos p else p) n

/-- Secondary parent's position, none when the entry has NONE set (R296). -/
def State.secPos (s : State) (n : Nat) : Option Nat :=
  match s.mortar.tree.sec[n]? with
  | none => none
  | some e => if bit e.toNat 15 then none else some (field e.toNat 0 10)

/-- The primary parent; 0 for the root. -/
def State.parent (s : State) : MemberId := s.atPos (parentPos s.myPos)

/-- The secondary parent, if there is one. -/
def State.secParent (s : State) : Option MemberId := (s.secPos s.myPos).map s.atPos

/-- This member is the root or the acting root (R295, R315). -/
def State.isRoot (s : State) : Bool := s.mortar.tree.actingRoot || s.posOf s.me == some 0

/-- Children of this member in the roster: primary by position, secondary by the table. -/
def State.primaryKids (s : State) : List MemberId :=
  (([1, 2, 3, 4] : List Nat).map (4 * s.myPos + ·)).filterMap (fun n => s.mortar.tree.roster[n]?)

def State.secondaryKids (s : State) : List MemberId :=
  ((List.range s.mortar.tree.sec.length).filter (fun n => s.secPos n == some s.myPos)).map s.atPos

/-! ### Lanes -/

def State.lane (s : State) (l : Nat) : Lane := Tab.get (fun _ => {}) s.mortar.lanes l

def State.setLane (s : State) (l : Nat) (v : Lane) : State :=
  { s with mortar := { s.mortar with lanes := Tab.set (fun _ => {}) s.mortar.lanes l v } }

/-- The lane may train (R320). -/
def State.laneEnable (s : State) (l : Nat) : Bool := s.reg (0x4000 + 0x10 * l) 3 1 == 1

/-- The up lane in use (R313): none at the root, U1 after a re-home, else U0. -/
def State.upLane (s : State) : Option Nat :=
  if s.isRoot then none else if s.mortar.tree.rehomed then some 1 else some 0

/-- The current parent. -/
def State.curParent (s : State) : MemberId :=
  if s.mortar.tree.rehomed then s.secParent.getD 0 else s.parent

/-- The trained down lane to a member. -/
def State.laneTo (s : State) (m : MemberId) : Option Nat :=
  [2, 3, 4, 5].find? (fun l => (s.lane l).trained && (s.lane l).partner == m)

/-- Children that this member awaits and forwards to (R307): primary children not lost and not re-homed away, and children
re-homed to it; a neutral child is awaited like a live one (R427). Before the first barrier a child declared lost may still come, and the root
awaits every roster member (R425). -/
def State.liveKids (s : State) : List MemberId :=
  let t := s.mortar.tree
  (s.primaryKids.filter (fun m => !(t.kidsOut.contains m)) ++
    (t.kidsIn.map (fun l => (s.lane l.1).partner))).filter (fun m =>
      !s.mortar.bar.begun || !(t.lost.contains m) || s.mortar.bar.neutralKids.contains m)

/-- Down lanes to the live children. -/
def State.downLanes (s : State) : List Nat := s.liveKids.filterMap s.laneTo

/-- Messages that take no lane SEQ and are sent once (R301). -/
def bareBody : MortarBody → Bool
  | .heartbeat => true
  | .nak => true
  | .ident .. => true
  | _ => false

/-- Puts one message out on a lane. -/
def State.emitMortar (s : State) (o : MortarOut) : State :=
  ({ s with mortar := { s.mortar with out := s.mortar.out ++ [o] } } : State).bump 0x21600

/-- Sends a message on a trained lane (R301): with the next lane SEQ, twice, the second time with COPY set. -/
def State.sendLane (s : State) (l : Nat) (origin : MemberId) (down : Bool) (b : MortarBody) : State :=
  let k := s.lane l
  if !k.trained then s
  else if bareBody b then
    s.emitMortar { lane := l, origin := origin, seq := k.txNext - 1, copy := false, resend := false, down := down, body := b }
  else
    let m : LaneMsg := { seq := k.txNext, origin := origin, down := down, body := b }
    let hist := k.history ++ [m]
    let s := s.setLane l { k with txNext := k.txNext + 1, history := hist.drop (hist.length - 32) }
    let o : MortarOut := { lane := l, origin := origin, seq := k.txNext, copy := false, resend := false, down := down, body := b }
    (s.emitMortar o).emitMortar { o with copy := true }

/-- Sends a message of this member up the tree. -/
def State.sendUp (s : State) (origin : MemberId) (b : MortarBody) : State :=
  match s.upLane with
  | some l => s.sendLane l origin false b
  | none => s

/-- Sends a message down every lane to a live child. -/
def State.sendDown (s : State) (origin : MemberId) (b : MortarBody) : State :=
  s.each s.downLanes (fun s l => s.sendLane l origin true b)

/-- NAK received (R301): every message of the history from the first missing SEQ on is sent again with RESEND set. -/
def State.laneResend (s : State) (l : Nat) (seq : BitVec 8) : State :=
  s.each ((s.lane l).history.filter (fun m => (m.seq - seq).toNat < 128)) (fun s m =>
    let o : MortarOut := { lane := l, origin := m.origin, seq := m.seq, copy := false, resend := true, down := m.down, body := m.body }
    (s.emitMortar o).emitMortar { o with copy := true })

/-- Sends NAK with the first missing SEQ (R301). -/
def State.sendNak (s : State) (l : Nat) : State :=
  (s.emitMortar { lane := l, origin := s.me, seq := (s.lane l).rxNext, copy := false, resend := false, down := decide (2 ≤ l),
                  body := .nak }).bump 0x21610

/-- What a lane does with a message (R301, R318). -/
inductive LaneVerdict where
  /-- Accepted: it is handled. -/
  | accept
  /-- A failed CRC, a second copy, an untrained lane, or a message beyond a gap: discarded. -/
  | discard
  /-- A gap beyond the resend history: a silence. -/
  | silence
  deriving DecidableEq, Repr

/-- Lane-level reception. -/
def State.laneReceive (s : State) (l : Nat) (h : MortarHdr) (b : MortarBody) : State × LaneVerdict :=
  let k := s.lane l
  if !k.trained then (s, .discard)
  else if h.crc ≠ crc32c (mortarBytes h b) then (s.bump 0x21608, .discard)
  else
    -- distance of the first message not yet covered: a HEARTBEAT names the last SEQ sent
    let d := match b with
      | .heartbeat => (h.seq + 1 - k.rxNext).toNat
      | _ => (h.seq - k.rxNext).toNat
    match b with
    | .nak => (s.setLane l { k with lastRx := s.tb }, .accept)
    | .ident .. => (s, .accept)
    | .heartbeat =>
      let s' := s.setLane l { k with lastRx := s.tb }
      if d = 0 ∨ 128 < d then (s', .accept)
      else if d ≤ 32 then (s'.sendNak l, .accept)
      else (s.raise Code.epochWindow { unit := 15, noPass := true }, if d = 128 then .discard else .silence)
    | _ =>
      if d = 0 then (s.setLane l { k with rxNext := k.rxNext + 1, lastRx := s.tb }, .accept)
      else if 128 < d then (s, .discard)
      else if d ≤ 32 then (s.sendNak l, .discard)
      else (s.raise Code.epochWindow { unit := 15, noPass := true }, if d = 128 then .discard else .silence)

/-- Sends IDENT on a lane that trains (R298). -/
def State.sendIdent (s : State) (l : Nat) : State :=
  s.emitMortar { lane := l, origin := s.me, seq := 0, copy := false, resend := false, down := decide (2 ≤ l),
                 body := .ident s.me (if l = 0 then 0 else if l = 1 then 1 else 2) (BitVec.ofNat 16 s.myPos) }

/-- A member that has neither up path, or had none when it began, joins by the lane that trains first (R313, R424, R442). -/
def State.joinBy (s : State) (l : Nat) : State :=
  if l = 1 && s.boot.selfLost && !s.mortar.cal.loaded && !(s.lane 0).trained then
    { s with mortar := { s.mortar with tree := { s.mortar.tree with rehomed := true } } }
  else s

/-- The partner's IDENT: the lane is training, and each end sends its own (R298; DEDUCED, log entry 123). It carries messages from here on, or
is marked MISMATCH when the partner is not the one that the roster and the table name for it. -/
def State.laneIdent (s : State) (l : Nat) (member : MemberId) (role : BitVec 8) (pos : BitVec 16) : State :=
  let named := s.atPos pos.toNat = member && pos.toNat < s.mortar.tree.roster.length
  let fits :=
    if l = 0 then !(s.myPos == 0) && member == s.parent && role == 2
    else if l = 1 then some member == s.secParent && role == 2
    else (role == 0 && s.primaryKids.contains member) || (role == 1 && s.secondaryKids.contains member)
  let k := s.lane l
  if !(s.laneEnable l) then s
  else if named && fits then
    ((s.setLane l { k with trained := true, silent := false, mismatch := false, partner := member, txNext := 0, rxNext := 0,
                           history := [], lastRx := s.tb, clearFrom := s.tb }).sendIdent l).joinBy l
  else (s.setLane l { k with trained := false, mismatch := true, partner := member }).sendIdent l

/-- The timebase counts as loaded; the root's does from reset (R424). -/
def State.tbLoaded (s : State) : Bool := s.mortar.cal.loaded || s.isRoot

/-- The next beat of a lane after now: a multiple of 5,000 tb, or, before the timebase is loaded, of 5,000 tb since the lane trained (R312). -/
def State.laneBeat (s : State) (l : Nat) : Nat :=
  let from_ := if s.tbLoaded then 0 else (s.lane l).clearFrom
  from_ + ((s.tb - from_) / 5000 + 1) * 5000

/-- Trained lanes. -/
def State.trainedLanes (s : State) : List Nat := (List.range 6).filter (fun l => (s.lane l).trained)

/-- The next instant at which some lane's beat is due; with no lane trained, 5,000 tb on. -/
def State.nextBeat (s : State) : Nat := ((sortBy id (s.trainedLanes.map s.laneBeat)).head?).getD (s.tb + 5000)

/-- HEARTBEAT on every lane whose beat is due (R312). -/
def State.heartbeats (s : State) : State :=
  let t := s.nextBeat
  (s.until t).each (s.trainedLanes.filter (fun l => s.laneBeat l == t)) (fun s l => s.sendLane l s.me (decide (2 ≤ l)) .heartbeat)

/-! ### Calibration (R303, R304, R424) -/

/-- A fine timestamp now (R300): 64ths of a tb unit; the fraction is free (DESIGN CHOICE, log entry 124). -/
def State.fine (s : State) : BitVec 64 := BitVec.ofNat 64 (s.tb * 64 + (Config.fineFraction s.freeCtr).toNat)

/-- Interval of the exchanges (R304, R424). -/
def State.calInterval (s : State) : Nat := if s.mortar.cal.loaded then 1250000 else 12500

/-- CAL_REQ on an up lane, stamped as it leaves. -/
def State.calRequest (s : State) (l : Nat) : State := (s.sendLane l s.me false (.calReq s.fine)).useFree

/-- Sends CAL_REQ to each parent whose lane is trained, one interval after the latest (R304). A root has no parent, and an acting root sends
nothing upward (R315). -/
def State.calibrate (s : State) : State :=
  let s := match s.mortar.cal.lastReq with
    | some t => s.until (t + s.calInterval)
    | none => s
  let s : State := { s with mortar := { s.mortar with cal := { s.mortar.cal with lastReq := some s.tb } } }
  if s.isRoot then s else s.each [0, 1] State.calRequest

/-- Answers CAL_REQ once the own timebase counts as loaded (R304, R424). -/
def State.calAnswer (s : State) (l : Nat) (t1 : BitVec 64) : State :=
  if s.tbLoaded then (s.sendLane l s.me true (.calResp t1 s.fine s.fine)).useFree else s

/-- Half of an integer, rounded toward minus infinity. -/
def half (z : Int) : Int := z / 2

/-- A time moved by the step of the timebase. -/
def shifted (d : Int) (t : Nat) : Nat := ((t : Int) + d).toNat

/-- The one step that the timebase takes (R424); the times that the block counts from keep their distance from now. -/
def State.stepTimebase (s : State) (d : Int) : State :=
  let c := s.mortar.cal
  let s : State := { s with
    mortar := { s.mortar with cal := { c with loaded := true, tb := shifted d c.tb, lastReq := c.lastReq.map (shifted d) } }
    boot := { s.boot with releasedAt := s.boot.releasedAt + d, appliedAt := shifted d s.boot.appliedAt } }
  let s := s.each (Tab.keys s.mortar.lanes) (fun s l =>
    s.setLane l { s.lane l with lastRx := shifted d (s.lane l).lastRx, clearFrom := shifted d (s.lane l).clearFrom })
  s.each (Tab.keys s.net.ports) (fun s p => s.setMac p { s.mac p with upSince := shifted d (s.mac p).upSince })

/-- A calibration measures an offset above 1 tb from the current parent (R306). -/
def State.checkOffset (s : State) (offset : Int) : State :=
  if 64 < offset.natAbs then (s.bump 0x21638).raise Code.barrierSkew { unit := 15, noPass := true } else s

/-- An exchange with the current parent (R304, R424): its offset slews the timebase, or loads it after 8 fast exchanges. The slew rate that the
loop sets is a free value within ±200 ppm (DESIGN CHOICE, log entry 12), and so is the parent's PATH_DELAY, which no message carries (DESIGN
CHOICE, log entry 13). -/
def State.parentExchange (s : State) (delay offset : Int) : State :=
  let c := s.mortar.cal
  let loads := !c.loaded && c.fast + 1 == 8
  let c := { c with offset := offset, linkDelay := delay, fast := if c.loaded then c.fast else c.fast + 1,
                    pathDelay := Config.parentPath s.freeCtr + delay.toNat,
                    slewPpb := max (-200000) (min 200000 (Config.slewPpb s.freeCtr)) }
  let s := ({ s with mortar := { s.mortar with cal := c } } : State).checkOffset offset
  if loads then s.stepTimebase (offset / 64) else s

/-- CAL_RESP (R304): link delay and offset. Those of the other parent are kept. -/
def State.calResult (s : State) (l : Nat) (t1 t2 t3 : BitVec 64) : State :=
  let t4 := s.fine
  let a := signed 64 (t2.toNat + 2 ^ 64 - t1.toNat)
  let b := signed 64 (t4.toNat + 2 ^ 64 - t3.toNat)
  let rt := signed 64 (t4.toNat + 2 ^ 64 - t1.toNat) - signed 64 (t3.toNat + 2 ^ 64 - t2.toNat)
  let delay := half rt
  let offset := half (a - b)
  let s := (s.bump 0x21640).useFree
  if some l = s.upLane then s.parentExchange delay offset
  else { s with mortar := { s.mortar with cal := { s.mortar.cal with
      secOffset := offset, secDelay := delay, secPath := Config.parentPath s.freeCtr + delay.toNat } } }

/-- The parent changes: what was measured toward the other one is used, and the reverse (R304). -/
def State.swapParents (s : State) : State :=
  let c := s.mortar.cal
  { s with mortar := { s.mortar with cal := { c with
      offset := c.secOffset, linkDelay := c.secDelay, pathDelay := c.secPath,
      secOffset := c.offset, secDelay := c.linkDelay, secPath := c.pathDelay } } }

end Sys2Proof.Machine
end

