-- ==== Sys2Proof/Machine/Num.lean ====
section
/-! DEFINITION. Number formats: exact values, decoding, and one rounding operation per format (IEEE 754 binary formats and the
OCP Microscaling element formats). Every result of the block is an exact value rounded once, so arithmetic is done on exact
rationals. -/

namespace Sys2Proof.Machine

/-- A value of a floating-point datum: NaN, an infinity, or a signed magnitude (so that −0 is kept). -/
inductive FV where
  | nan
  | inf (neg : Bool)
  | fin (neg : Bool) (q : Rat)
  deriving DecidableEq, Repr

/-- Rounding modes: to nearest with ties to even, toward −∞, toward +∞, toward 0. -/
inductive Rm where
  | rn | rd | ru | rz
  deriving DecidableEq, Repr

/-- How a format uses its top exponent. -/
inductive Specials where
  /-- IEEE 754: infinities and NaNs. -/
  | ieee
  /-- E4M3: no infinity; all ones is NaN. -/
  | nanOnly
  /-- No infinity and no NaN. -/
  | none
  deriving DecidableEq, Repr

/-- A binary format: exponent and fraction bits, bias, special values. -/
structure Fmt where
  ebits : Nat
  mbits : Nat
  bias  : Nat
  spec  : Specials
  deriving DecidableEq, Repr

def fp32 : Fmt := ⟨8, 23, 127, .ieee⟩
def bf16 : Fmt := ⟨8, 7, 127, .ieee⟩
def fp16 : Fmt := ⟨5, 10, 15, .ieee⟩
def e5m2 : Fmt := ⟨5, 2, 15, .ieee⟩
def e4m3 : Fmt := ⟨4, 3, 7, .nanOnly⟩
def e3m2 : Fmt := ⟨3, 2, 3, .none⟩
def e2m3 : Fmt := ⟨2, 3, 1, .none⟩
def e2m1 : Fmt := ⟨2, 1, 1, .none⟩

/-- Bits of a datum. -/
def Fmt.width (f : Fmt) : Nat := 1 + f.ebits + f.mbits

/-- A power of two with an integer exponent. -/
def pow2 (z : Int) : Rat := if 0 ≤ z then ((2 ^ z.toNat : Nat) : Rat) else 1 / ((2 ^ (-z).toNat : Nat) : Rat)

/-- Largest z with 2^z ≤ q, for q > 0. -/
def floorLog2 (q : Rat) : Int :=
  let n := q.num.natAbs
  let z : Int := (Nat.log2 n : Int) - (Nat.log2 q.den : Int)
  if pow2 z ≤ q then (if pow2 (z + 1) ≤ q then z + 1 else z) else z - 1

/-- Smallest normal exponent. -/
def Fmt.emin (f : Fmt) : Int := 1 - (f.bias : Int)

/-- Largest exponent of a finite datum. -/
def Fmt.emax (f : Fmt) : Int :=
  match f.spec with
  | .ieee => (2 ^ f.ebits - 2 : Nat) - (f.bias : Int)
  | _ => (2 ^ f.ebits - 1 : Nat) - (f.bias : Int)

/-- Largest finite magnitude. -/
def Fmt.maxFin (f : Fmt) : Rat :=
  match f.spec with
  | .nanOnly => pow2 (f.emax - f.mbits) * ((2 ^ (f.mbits + 1) - 2 : Nat) : Rat)
  | _ => pow2 (f.emax - f.mbits) * ((2 ^ (f.mbits + 1) - 1 : Nat) : Rat)

/-- An integer from a non-negative rational by a rounding mode, for a value of the given sign. -/
def roundNat (rm : Rm) (neg : Bool) (q : Rat) : Nat :=
  let n := q.floor.toNat
  let r := q - (n : Rat)
  if r = 0 then n
  else
    match rm with
    | .rz => n
    | .rd => if neg then n + 1 else n
    | .ru => if neg then n else n + 1
    | .rn =>
      if r < 1 / 2 then n
      else if 1 / 2 < r then n + 1
      else if n % 2 = 0 then n else n + 1

/-- Exponent of the last place of a magnitude in a format. -/
def Fmt.ulpExp (f : Fmt) (q : Rat) : Int :=
  if q = 0 then f.emin - f.mbits else max (floorLog2 q) f.emin - f.mbits

/-- The magnitude rounded to the format's precision, its exponent range unlimited above. -/
def Fmt.roundMag (f : Fmt) (rm : Rm) (neg : Bool) (q : Rat) : Rat :=
  if q = 0 then 0
  else
    let u := pow2 (f.ulpExp q)
    (roundNat rm neg (q / u) : Rat) * u

/-- Encodes a magnitude that the format holds exactly. -/
def Fmt.encodeMag (f : Fmt) (q : Rat) : Nat :=
  if q = 0 then 0
  else
    let e := max (floorLog2 q) f.emin
    let m := (q / pow2 (e - f.mbits)).floor.toNat
    if m < 2 ^ f.mbits then m else (e + f.bias).toNat * 2 ^ f.mbits + (m - 2 ^ f.mbits)

/-- Code of an infinity (IEEE formats). -/
def Fmt.infCode (f : Fmt) : Nat := (2 ^ f.ebits - 1) * 2 ^ f.mbits

/-- Code of the quiet NaN: 0x7FC0_0000 in FP32, 0x7FC0 in BF16, 0x7E00 in FP16 (R158), 0x7F in E4M3 (R188). R188 states no code of a NaN
element that it converts to FP32, BF16 or FP16: the model writes this one there too, whatever the NaN's sign and payload (DESIGN CHOICE, log
entry 134). -/
def Fmt.nanCode (f : Fmt) : Nat :=
  match f.spec with
  | .ieee => f.infCode + 2 ^ (f.mbits - 1)
  | _ => 2 ^ (f.ebits + f.mbits) - 1

/-- Sign bit of a datum. -/
def Fmt.signBit (f : Fmt) (neg : Bool) : Nat := if neg then 2 ^ (f.ebits + f.mbits) else 0

/-- Rounds a value once and encodes it. Overflow gives an infinity or the largest finite datum as the mode says; a format
without infinities saturates (PRESUMED, log entry 15 for the NaN of a format without one). -/
def FV.encode (f : Fmt) (rm : Rm) : FV → Nat
  | .nan => f.nanCode
  | .inf neg => f.signBit neg + (if f.spec = .ieee then f.infCode else f.encodeMag f.maxFin)
  | .fin neg q =>
    let m := f.roundMag rm neg q
    if m ≤ f.maxFin then f.signBit neg + f.encodeMag m
    else if f.spec = .ieee ∧ (rm = .rn ∨ (rm = .ru ∧ !neg) ∨ (rm = .rd ∧ neg)) then f.signBit neg + f.infCode
    else f.signBit neg + f.encodeMag f.maxFin

/-- Value of a datum. -/
def FV.decode (f : Fmt) (w : Nat) : FV :=
  let neg := bit w (f.ebits + f.mbits)
  let e := field w f.mbits f.ebits
  let m := field w 0 f.mbits
  if f.spec = .ieee ∧ e = 2 ^ f.ebits - 1 then (if m = 0 then .inf neg else .nan)
  else if f.spec = .nanOnly ∧ e = 2 ^ f.ebits - 1 ∧ m = 2 ^ f.mbits - 1 then .nan
  else if e = 0 then .fin neg ((m : Rat) * pow2 (f.emin - f.mbits))
  else .fin neg (((2 ^ f.mbits + m : Nat) : Rat) * pow2 ((e : Int) - f.bias - f.mbits))

/-- Rounds a value to a format and gives the value of the result. -/
def FV.round (f : Fmt) (rm : Rm) (v : FV) : FV := FV.decode f (v.encode f rm)

/-- A value from an exact rational. -/
def FV.ofRat (q : Rat) : FV := if q < 0 then .fin true (-q) else .fin false q

/-- The exact rational of a finite value; 0 for the others. -/
def FV.rat : FV → Rat
  | .fin neg q => if neg then -q else q
  | _ => 0

def FV.isNan : FV → Bool
  | .nan => true
  | _ => false

def FV.isInf : FV → Bool
  | .inf _ => true
  | _ => false

def FV.isFin : FV → Bool
  | .fin _ _ => true
  | _ => false

def FV.isNeg : FV → Bool
  | .inf n => n
  | .fin n _ => n
  | .nan => false

/-- +0. -/
def FV.zero : FV := .fin false 0

def FV.neg : FV → FV
  | .nan => .nan
  | .inf n => .inf (!n)
  | .fin n q => .fin (!n) q

def FV.abs : FV → FV
  | .nan => .nan
  | .inf _ => .inf false
  | .fin _ q => .fin false q

/-- Exact sum (IEEE 754): opposite infinities give NaN; a zero sum is −0 only when both terms are −0. -/
def FV.add : FV → FV → FV
  | .nan, _ => .nan
  | _, .nan => .nan
  | .inf a, .inf b => if a = b then .inf a else .nan
  | .inf a, _ => .inf a
  | _, .inf b => .inf b
  | .fin a p, .fin b q =>
    let r := (if a then -p else p) + (if b then -q else q)
    if r = 0 then .fin (a && b) 0 else FV.ofRat r

/-- Exact product (IEEE 754): an infinity times a zero is NaN. -/
def FV.mul : FV → FV → FV
  | .nan, _ => .nan
  | _, .nan => .nan
  | .inf a, .inf b => .inf (a != b)
  | .inf a, .fin b q => if q = 0 then .nan else .inf (a != b)
  | .fin a p, .inf b => if p = 0 then .nan else .inf (a != b)
  | .fin a p, .fin b q => .fin (a != b) (p * q)

/-- Exact sum of a list, from +0 only when the list is empty. -/
def FV.sum : List FV → FV
  | [] => .zero
  | v :: t => t.foldl FV.add v

/-- a < b; false when either is NaN. -/
def FV.lt : FV → FV → Bool
  | .nan, _ => false
  | _, .nan => false
  | .inf a, .inf b => a && !b
  | .inf a, _ => a
  | _, .inf b => !b
  | .fin a p, .fin b q => decide ((if a then -p else p) < (if b then -q else q))

/-- a ≤ b; false when either is NaN. -/
def FV.le (a b : FV) : Bool := !a.isNan && !b.isNan && !(FV.lt b a)

/-- Value of an FP32 word, of a BF16 halfword. -/
def f32 (w : Nat) : FV := FV.decode fp32 w
def b16 (w : Nat) : FV := FV.decode bf16 w

/-- FP32 word of a value, rounded to nearest. -/
def toF32 (v : FV) : Nat := v.encode fp32 .rn

/-- BF16 halfword of a value, rounded to nearest. -/
def toB16 (v : FV) : Nat := v.encode bf16 .rn

def f32Inf : Nat := 0x7F800000
def f32Nan : Nat := 0x7FC00000

/-- Rounds to FP32. -/
def FV.rn32 (v : FV) : FV := v.round fp32 .rn

/-- Scale of an E8M0 code (R28); 0xFF marks no number. -/
def e8m0 (c : Nat) : FV := if c = 0xFF then .nan else .fin false (pow2 ((c : Int) - 127))

/-- Smallest integer e with a ≤ m × 2^e, for a > 0. -/
def minExp (m a : Rat) : Int :=
  let e := floorLog2 (a / m)
  if a ≤ m * pow2 e then e else e + 1

/-- An integer limited to a range. -/
def clampInt (lo hi z : Int) : Int := max lo (min hi z)

/-- RN of a rational to an integer, ties to even. -/
def rnInt (q : Rat) : Int :=
  if q < 0 then -((roundNat .rn false (-q) : Nat) : Int) else ((roundNat .rn false q : Nat) : Int)

end Sys2Proof.Machine
end

