-- ==== Sys2Proof/Machine/Formats.lean ====
section
/-! DEFINITION. Element formats of tensors (R180), microscaled groups (R106) and the 4-bit quantisation rule (R27, R28, R31). -/

namespace Sys2Proof.Machine

/-- Number of bits of a packed element: element i lies at bit w × i of the little-endian run of bytes (R28, R180). -/
def packBits (w : Nat) (codes : List Nat) : Nat :=
  (codes.foldl (fun (st : Nat × Nat) c => (st.1 + c * 2 ^ st.2, st.2 + w)) (0, 0)).1

/-- n packed codes of w bits. -/
def unpackBits (w n v : Nat) : List Nat := (List.range n).map (fun i => field v (w * i) w)

/-- Largest magnitude of a list of finite values. -/
def amax (l : List FV) : Rat := l.foldl (fun a v => max a v.abs.rat) 0

/-- A microscaled group of 32 elements (R106, R188): the E8M0 code and the element codes. -/
def mxGroup (f : Fmt) (emax : Int) (vs : List FV) : Nat × List Nat :=
  if vs.any (fun v => !v.isFin) then (0xFF, vs.map (fun _ => 0))
  else
    let a := amax vs
    if a = 0 then (0, vs.map (fun _ => 0))
    else
      let x := clampInt (-127) 127 (floorLog2 a - emax)
      ((x + 127).toNat, vs.map (fun v => (FV.mul v (.fin false (pow2 (-x)))).encode f .rn))

/-- Block exponent of R27 for a largest magnitude, limited to −127 to 127. -/
def quantExp (a : Rat) : Int := if a = 0 then -127 else clampInt (-127) 127 (minExp 7 a)

/-- The 4-bit quotient of R27: RN(v / 2^e) clamped to ±7; an infinity by its sign, a NaN as 0 (R31). -/
def quantElem (e : Int) : FV → Int
  | .nan => 0
  | .inf n => if n then -7 else 7
  | v => clampInt (-7) 7 (rnInt (v.rat * pow2 (-e)))

/-- A block of R27: exponent from its finite values, quotients, and whether it is saturated: it needs an exponent above 127,
or holds an infinity or a NaN (R31). -/
def quantBlock (vs : List FV) : Int × List Int × Bool :=
  let a := amax (vs.filter FV.isFin)
  let e := quantExp a
  (e, vs.map (quantElem e), vs.any (fun v => !v.isFin) || decide (7 * pow2 127 < a))

/-- Two's-complement 4-bit code (R28). -/
def code4 (q : Int) : Nat := twos 4 q

/-! ### Element formats of tensors (R180) -/

/-- Bits of an ungrouped element of codes 0 to 5. -/
def elemBits (code : Nat) : Nat :=
  match code with
  | 0 => 32
  | 1 => 16
  | 2 => 16
  | 3 => 8
  | 4 => 8
  | _ => 32

/-- A group format (codes 6 to 10). -/
def isGroup (code : Nat) : Bool := 6 ≤ code && code ≤ 10

/-- Element bits of a group format. -/
def groupBits (code : Nat) : Nat :=
  match code with
  | 6 => 8
  | 7 => 6
  | 8 => 6
  | _ => 4

/-- Element format of an MX group format, and its e_max (R188). -/
def groupFmt (code : Nat) : Fmt × Int :=
  match code with
  | 6 => (e4m3, 8)
  | 7 => (e3m2, 4)
  | 8 => (e2m3, 2)
  | _ => (e2m1, 2)

/-- Bytes of a group of 32 elements, the scale included. -/
def groupBytes (code : Nat) : Nat := 1 + 4 * groupBits code

/-- RB of a row of n elements (R180). -/
def rowBytes (code n : Nat) : Nat := if isGroup code then groupBytes code * n / 32 else elemBits code / 8 * n

/-- Value of an ungrouped element. -/
def elemValue (code w : Nat) : FV :=
  match code with
  | 0 => FV.decode fp32 w
  | 1 => FV.decode bf16 w
  | 2 => FV.decode fp16 w
  | 3 => FV.decode e4m3 w
  | 4 => FV.ofRat (signed 8 w : Rat)
  | _ => FV.ofRat (signed 32 w : Rat)

/-- An integer element of a value (R188): RN, saturating, NaN as 0. An integer that is narrowed, which R188 does not list, saturates too (DESIGN
CHOICE, log entry 134). -/
def intElem (n : Nat) : FV → Nat
  | .nan => 0
  | .inf neg => twos n (if neg then -((2 ^ (n - 1) : Nat) : Int) else ((2 ^ (n - 1) : Nat) : Int) - 1)
  | v => twos n (clampInt (-((2 ^ (n - 1) : Nat) : Int)) (((2 ^ (n - 1) : Nat) : Int) - 1) (rnInt v.rat))

/-- An ungrouped element from an exact value, with one rounding (R188). -/
def elemCode (code : Nat) (v : FV) : Nat :=
  match code with
  | 0 => v.encode fp32 .rn
  | 1 => v.encode bf16 .rn
  | 2 => v.encode fp16 .rn
  | 3 => v.encode e4m3 .rn
  | 4 => intElem 8 v
  | _ => intElem 32 v

/-- Values of one 32-element group (R180, R188). -/
def groupValues (code : Nat) (b : List Byte) : List FV :=
  let x := le b 0 1
  let codes := unpackBits (groupBits code) 32 (le b 1 (4 * groupBits code))
  if x = 0xFF then codes.map (fun _ => .nan)
  else if code = 10 then codes.map (fun c => FV.ofRat ((signed 4 c : Rat) * pow2 ((x : Int) - 127)))
  else codes.map (fun c => FV.mul (FV.decode (groupFmt code).1 c) (e8m0 x))

/-- Bytes of one 32-element group from exact values (R188). To SINT4, only a NaN or an infinity gives scale code 0xFF: a finite group that
asks for more than the largest exponent saturates at code 0xFE, as R27 has it. -/
def groupData (code : Nat) (vs : List FV) : List Byte :=
  let w := groupBits code
  let g : Nat × List Nat :=
    if code = 10 then
      let q := quantBlock vs
      (if vs.all FV.isFin then (q.1 + 127).toNat else 0xFF, q.2.1.map code4)
    else mxGroup (groupFmt code).1 (groupFmt code).2 vs
  leBytes 1 g.1 ++ leBytes (4 * w) (packBits w g.2)

/-- Cuts a list into runs of n. -/
def chunksOf {α : Type} (n : Nat) (l : List α) : List (List α) :=
  (List.range (ceilDiv l.length n)).map (fun i => (l.drop (n * i)).take n)

/-- Values of a row of n elements. -/
def rowValues (code n : Nat) (b : List Byte) : List FV :=
  if isGroup code then ((chunksOf (groupBytes code) b).flatMap (groupValues code)).take n
  else
    let w := elemBits code
    (List.range n).map (fun i => elemValue code (le b (w / 8 * i) (w / 8)))

/-- Bytes of a row from exact values. -/
def rowData (code : Nat) (vs : List FV) : List Byte :=
  if isGroup code then (chunksOf 32 vs).flatMap (groupData code)
  else vs.flatMap (fun v => leBytes (elemBits code / 8) (elemCode code v))

end Sys2Proof.Machine
end

