-- ==== Sys2Proof/Machine/Func.lean ====
section
/-! DEFINITION. The function unit's numerics (07, R153 to R176): the seven built-in functions, correctly rounded, and the
interpreter of micro-programmed functions. Results are values; jobs are in Machine/Jobs.lean. -/

namespace Sys2Proof.Machine

/-! ### Enclosures of e^a and ln a -/

/-- Integer part of the square root of a number below 4^n. -/
def isqrt (n x : Nat) : Nat :=
  (List.range n).foldl (fun r i =>
    let t := r + 2 ^ (n - 1 - i)
    if t * t ≤ x then t else r) 0

/-- 2 artanh(z) in fixed point with n fraction bits, for 0 ≤ z ≤ 1/3. -/
def artanh2 (n : Nat) (z : Int) : Int :=
  let one : Int := (2 ^ n : Nat)
  let zz := z * z / one
  let r := (List.range (n / 3 + 1)).foldl (fun (st : Int × Int) i =>
    (st.1 + st.2 / ((2 * i + 1 : Nat) : Int), st.2 * zz / one)) (0, z)
  2 * r.1

/-- ln 2 in fixed point. -/
def ln2Fix (n : Nat) : Int := artanh2 n ((2 ^ n : Nat) / 3 : Int)

/-- e^r in fixed point for |r| below 1. -/
def expFix (n : Nat) (r : Int) : Int :=
  let one : Int := (2 ^ n : Nat)
  let st := (List.range n).foldl (fun (st : Int × Int) i =>
    (st.1 + st.2, st.2 * r / one / ((i + 1 : Nat) : Int))) (0, one)
  st.1

/-- Width of an enclosure in units of the working precision: a bound on the accumulated truncation errors. -/
def slop : Int := (2 ^ 26 : Nat)

/-- Lower and upper bound of e^a at a working precision of n bits, for |a| below 300. -/
def expBounds (n : Nat) (a : Rat) : Rat × Rat :=
  let w := n + 64
  let one : Rat := ((2 ^ w : Nat) : Rat)
  let l := ln2Fix w
  let k := (a * one / (l : Rat)).floor
  let v := expFix w ((a * one).floor - k * l)
  (((v - slop : Int) : Rat) * pow2 (k - w), ((v + slop : Int) : Rat) * pow2 (k - w))

/-- Lower and upper bound of ln a, for a > 0. -/
def logBounds (n : Nat) (a : Rat) : Rat × Rat :=
  let w := n + 64
  let one : Rat := ((2 ^ w : Nat) : Rat)
  let e := floorLog2 a
  let m := a * pow2 (-e)
  let v := artanh2 w (((m - 1) / (m + 1)) * one).floor + e * ln2Fix w
  (((v - slop : Int) : Rat) / one, ((v + slop : Int) : Rat) / one)

/-- The correctly rounded code of a value that bounds enclose at rising precision (R156). The values concerned are
irrational, so some precision separates them from every rounding boundary; UNVERIFIED, log entry 17 takes 2,048 bits to suffice. -/
def settleCode (f : Fmt) (bounds : Nat → Rat × Rat) : List Nat → Nat
  | [] => 0
  | n :: rest =>
    let b := bounds n
    let lo := (FV.ofRat b.1).encode f .rn
    if lo = (FV.ofRat b.2).encode f .rn ∨ rest = [] then lo else settleCode f bounds rest

/-- The precisions tried. -/
def precisions : List Nat := [64, 192, 640, 2048]

/-! ### Built-in functions (R156 to R159) -/

/-- Function ids. -/
abbrev fnExp : Nat := 0
abbrev fnLog : Nat := 1
abbrev fnRcp : Nat := 2
abbrev fnRsqrt : Nat := 3
abbrev fnTanh : Nat := 4
abbrev fnLogistic : Nat := 5
abbrev fnIdent : Nat := 6

/-- e^a of a finite a. -/
def expCode (f : Fmt) (a : Rat) : Nat :=
  if a = 0 then (FV.ofRat 1).encode f .rn
  else if 256 ≤ a then (FV.ofRat (pow2 300)).encode f .rn
  else if a ≤ -256 then (FV.ofRat (pow2 (-300))).encode f .rn
  else settleCode f (fun n => expBounds n a) precisions

/-- ln a of a finite a > 0. -/
def logCode (f : Fmt) (a : Rat) : Nat :=
  if a = 1 then 0 else settleCode f (fun n => logBounds n a) precisions

/-- tanh a of a finite a, not 0; the sign is that of a. -/
def tanhCode (f : Fmt) (a : Rat) : Nat :=
  let m := if a < 0 then -a else a
  let c := if 128 ≤ m then (FV.ofRat (1 - pow2 (-180))).encode f .rn
    else settleCode f (fun n =>
      let b := expBounds n (2 * m)
      ((b.1 - 1) / (b.1 + 1), (b.2 - 1) / (b.2 + 1))) precisions
  f.signBit (decide (a < 0)) + c

/-- 1/(1 + e^(−a)) of a finite a. -/
def logisticCode (f : Fmt) (a : Rat) : Nat :=
  if a = 0 then (FV.ofRat (1 / 2)).encode f .rn
  else if 256 ≤ a then (FV.ofRat (1 - pow2 (-300))).encode f .rn
  else if a ≤ -256 then (FV.ofRat (pow2 (-300))).encode f .rn
  else settleCode f (fun n =>
    let b := expBounds n a
    (b.1 / (1 + b.1), b.2 / (1 + b.2))) precisions

/-- 1/√q, q > 0, exact where it is rational with few bits; else the midpoint of an interval of width 2^−256, inside which no
rounding boundary of the formats lies. -/
def rsqrtMid (q : Rat) : Rat :=
  let x := (((4 ^ 256 : Nat) : Rat) / q).floor.toNat
  let t := isqrt 400 x
  let tr : Rat := (t : Rat) / ((2 ^ 256 : Nat) : Rat)
  if tr * tr * q = 1 then tr else tr + 1 / ((2 ^ 257 : Nat) : Rat)

/-- Result code of a built-in function, for an FP32 value, a rounding mode and an output format. -/
def builtin (id : Nat) (rm : Rm) (f : Fmt) (x : FV) : Nat :=
  match x with
  | .nan => f.nanCode
  | .inf neg =>
    match id with
    | 0 => if neg then 0 else (FV.inf false).encode f rm
    | 1 => if neg then f.nanCode else (FV.inf false).encode f rm
    | 2 => f.signBit neg
    | 3 => if neg then f.nanCode else 0
    | 4 => (FV.fin neg 1).encode f rm
    | 5 => if neg then 0 else (FV.fin false 1).encode f rm
    | _ => (FV.inf neg).encode f rm
  | .fin neg q =>
    if q = 0 then
      match id with
      | 0 => (FV.ofRat 1).encode f rm
      | 1 => (FV.inf true).encode f rm
      | 2 => (FV.inf neg).encode f rm
      | 3 => (FV.inf neg).encode f rm
      | 4 => f.signBit neg
      | 5 => (FV.ofRat (1 / 2)).encode f rm
      | _ => f.signBit neg
    else
      let a := if neg then -q else q
      match id with
      | 0 => expCode f a
      | 1 => if neg then f.nanCode else logCode f a
      | 2 => (FV.fin neg (1 / q)).encode f rm
      | 3 => if neg then f.nanCode else (FV.fin false (rsqrtMid q)).encode f rm
      | 4 => tanhCode f a
      | 5 => logisticCode f a
      | _ => x.encode f rm

/-- A built-in function in FP32, RN, as a value. -/
def fn32 (id : Nat) (x : FV) : FV := f32 (builtin id .rn fp32 x)

/-- FMA and other lane operations, rounded once to FP32 (RN). -/
def fma32 (a b c : FV) : FV := (FV.add (FV.mul a b) c).rn32

/-! ### Micro-programmed functions (R165 to R169) -/

/-- A directory entry (R165). -/
structure FnEntry where
  first    : Nat
  count    : Nat
  flags    : Nat
  special  : Nat
  deriving DecidableEq, Repr

def FnEntry.valid (e : FnEntry) : Bool := bit e.flags 0

/-- SPECIAL code of an input: −Inf, +Inf, −0, +0 by position 0 to 3. -/
def FnEntry.code (e : FnEntry) (i : Nat) : Nat := field e.special (4 * i) 4

/-- Entry j of a micro-program store. -/
def fnEntry (store : List Byte) (j : Nat) : FnEntry :=
  { first := le store (16 * j) 2, count := le store (16 * j + 2) 1, flags := le store (16 * j + 3) 1,
    special := le store (16 * j + 4) 2 }

/-- Step word n of a micro-program store. -/
def fnStep (store : List Byte) (n : Nat) : Nat := le store (0x200 + 8 * n) 8

/-! Fields of a step word (R166). -/

def stepKind (w : Nat) : Nat := field w 60 4
def stepMode (w : Nat) : Nat := field w 56 4
def stepDeg (w : Nat) : Nat := field w 52 4
def stepNseg (w : Nat) : Nat := field w 46 6
def stepElo (w : Nat) : Int := signed 8 (field w 32 8)
def stepOffset (w : Nat) : Nat := field w 0 32

/-- Registers of a chain (R166). -/
structure MicroRegs where
  x    : FV
  r    : FV
  k    : Int
  neg  : Bool
  p    : FV
  coef : List FV
  deriving DecidableEq, Repr

/-- An integer that R166 leaves unstated, within ±2^15 (DESIGN CHOICE, log entry 16). -/
def openInt (which : Nat) (x : FV) : Int := clampInt (-32768) 32767 (signed 32 (Sys2Proof.Config.microOpen which (toF32 x)).toNat)

/-- Registers before the first step. k, the saved sign and p have no stated start (DESIGN CHOICE, log entry 16). -/
def MicroRegs.start (x : FV) : MicroRegs :=
  { x := x, r := x, k := openInt 0 x, neg := (Sys2Proof.Config.microOpen 1 (toF32 x)).toNat % 2 == 1,
    p := f32 (Sys2Proof.Config.microOpen 2 (toF32 x)).toNat, coef := [] }

/-- floor(log2 |r|); open for a NaN or an infinity (DESIGN CHOICE, log entry 16). -/
def exponentOf (r : FV) : Int :=
  match r with
  | .fin _ q => if q = 0 then openInt 3 r else floorLog2 q
  | _ => openInt 3 r

/-- One step other than END; `tab off` is the FP32 value at a byte offset of the table store. REDUCE CLAMP keeps r where r and a limit compare
equal with zeros of different sign, and gives a free value where r or a limit is a NaN (DESIGN CHOICE, log entry 16). -/
def microStep (tab : Nat → FV) (w : Nat) (m : MicroRegs) : MicroRegs :=
  let off := stepOffset w
  match stepKind w, stepMode w with
  | 1, 0 =>
    if m.r.isFin && m.r.rat = 0 then m
    else
      let k := exponentOf m.r
      { m with k := k, r := FV.mul m.r (.fin false (pow2 (-k))) }
  | 1, 1 =>
    let prod := (FV.mul m.r (tab off)).rn32
    let k : Int := match prod with
      | .nan => openInt 4 m.r
      | .inf n => if n then -32768 else 32768
      | .fin _ _ => clampInt (-32768) 32768 (rnInt prod.rat)
    let mk := FV.ofRat (-(k : Rat))
    { m with k := k, r := fma32 mk (tab (off + 8)) (fma32 mk (tab (off + 4)) m.r) }
  | 1, 2 => { m with neg := m.r.isNeg, r := m.r.abs }
  | 1, 3 =>
    let lo := tab off
    let hi := tab (off + 4)
    if m.r.isNan || lo.isNan || hi.isNan then { m with r := f32 (Sys2Proof.Config.microOpen 5 (toF32 m.r)).toNat }
    else
      let a := if FV.lt m.r lo then lo else m.r
      { m with r := if FV.lt hi a then hi else a }
  | 2, 0 =>
    let low := FV.lt m.r.abs (.fin false (pow2 (stepElo w)))
    let top : Int := (stepNseg w : Int) - 1
    let j : Int := if low then 0
      else match m.r with
        | .inf _ => top
        | .nan => clampInt 0 top (openInt 6 m.r)
        | r => min (exponentOf r - stepElo w + 1) top
    let base := off + 4 * j.toNat * (stepDeg w + 1)
    { m with coef := (List.range (stepDeg w + 1)).map (fun i => tab (base + 4 * i)) }
  | 3, 0 =>
    -- coefficients beyond those of the set are unstated (DESIGN CHOICE, log entry 16)
    let beyond := (List.range 16).map (fun i => f32 (Sys2Proof.Config.microOpen (8 + i) (toF32 m.x)).toNat)
    match ((m.coef ++ beyond).take (stepDeg w + 1)).reverse with
    | [] => m
    | c :: rest => { m with p := rest.foldl (fun p c => fma32 p m.r c) c }
  | 4, 0 => { m with p := (FV.mul m.p (.fin false (pow2 m.k))).rn32 }
  | 4, 1 => { m with p := fma32 (FV.ofRat (m.k : Rat)) (tab off) m.p }
  | 4, 2 => if m.neg then { m with p := m.p.neg } else m
  | 4, 3 => { m with p := (FV.add (.fin false 1) m.p.neg).rn32 }
  | 4, 4 => { m with p := (FV.mul m.p m.r).rn32 }
  | 4, 5 => { m with p := (FV.mul m.p m.x).rn32 }
  | _, _ => m

/-- The result of a SPECIAL code other than 0 (R165). -/
def specialValue (c : Nat) : FV :=
  match c with
  | 1 => .fin false 0
  | 2 => .fin true 0
  | 3 => .fin false 1
  | 4 => .fin true 1
  | 5 => .inf false
  | 6 => .inf true
  | _ => .nan

/-- SPECIAL code that applies to an input (R167); 0 runs the steps. -/
def FnEntry.applies (e : FnEntry) (x : FV) : Nat :=
  match x with
  | .nan => 0
  | .inf n => if n then e.code 0 else e.code 1
  | .fin n q => if q = 0 then (if n then e.code 2 else e.code 3) else 0

/-- A micro-programmed evaluation (R167): the result code. -/
def micro (store : List Byte) (tab : Nat → FV) (e : FnEntry) (rm : Rm) (f : Fmt) (x : FV) : Nat :=
  if x.isNan then f.nanCode
  else if e.applies x ≠ 0 then (specialValue (e.applies x)).encode f rm
  else
    let steps := (List.range (e.count - 1)).map (fun i => fnStep store (e.first + i))
    (steps.foldl (fun m w => microStep tab w m) (MicroRegs.start x)).p.encode f rm

/-- Weighted step count (R168). -/
def stepWeight (ws : List Nat) : Nat :=
  ws.foldl (fun a w => a + (if stepKind w = 3 then stepDeg w + 1 else 1)) 0

/-- Size of the table store (R165). -/
def tableStoreSize : Nat := 2093056

/-- A KIND and MODE of R166. -/
def stepKnown (w : Nat) : Bool :=
  match stepKind w, stepMode w with
  | 0, 0 => true
  | 1, m => m ≤ 3
  | 2, 0 => true
  | 3, 0 => true
  | 4, m => m ≤ 5
  | _, _ => false

/-- Bytes of the table store that a step reads from OFFSET on. -/
def stepReach (w : Nat) : Option Nat :=
  match stepKind w, stepMode w with
  | 1, 1 => some 12
  | 1, 3 => some 8
  | 2, 0 => some (4 * stepNseg w * (stepDeg w + 1))
  | 4, 1 => some 4
  | _, _ => none

/-- The chain's HORNER steps each follow a LOOKUP. -/
def hornerOk : Bool → List Nat → Bool
  | _, [] => true
  | seen, w :: t => (stepKind w != 3 || seen) && hornerOk (seen || stepKind w == 2) t

/-- Checks of R169 on a directory entry with VALID set. -/
def entryOk (store : List Byte) (e : FnEntry) : Bool :=
  e.first + e.count ≤ 448 && 2 ≤ e.count && e.count ≤ 16 &&
  (let ws := (List.range e.count).map (fun i => fnStep store (e.first + i))
   ws.all stepKnown &&
   (stepKind (ws.getLastD 1) == 0 && (ws.dropLast).all (fun w => stepKind w != 0)) &&
   [0, 1, 2, 3].all (fun i => e.code i ≤ 7) &&
   hornerOk false ws &&
   ws.all (fun w => stepKind w != 2 || stepNseg w != 0) &&
   ws.all (fun w => match stepReach w with
     | some n => stepOffset w + n ≤ tableStoreSize
     | none => true) &&
   ws.all (fun w => stepOffset w % 4 == 0) &&
   stepWeight ws ≤ 48)

/-- The directory of a store passes R169. -/
def directoryOk (store : List Byte) : Bool :=
  (List.range 32).all (fun j => !(fnEntry store j).valid || entryOk store (fnEntry store j))

end Sys2Proof.Machine
end

