-- ==== Sys2Proof/Machine/Layout.lean ====
section
/-! DEFINITION. The layout engine (08, R177 to R199): allocations, descriptors, the request windows and the moves. -/

namespace Sys2Proof.Machine

/-! ### Allocations and descriptors (R177 to R184) -/

/-- A tensor descriptor (R179). -/
structure Desc where
  base    : Nat
  sizes   : List Nat
  strides : List Nat
  alloc   : Nat
  format  : Nat
  rank    : Nat
  deriving DecidableEq, Repr

/-- The descriptor that 64 bytes spell. -/
def Desc.parse (b : List Byte) : Desc :=
  { base := field (le b 0 8) 0 52
    sizes := [le b 0x08 4, le b 0x0C 4, le b 0x10 4, le b 0x14 4]
    strides := [le b 0x18 8, le b 0x20 8, le b 0x28 8]
    alloc := field (le b 0x30 2) 0 10
    format := field (le b 0x32 1) 0 4
    rank := le b 0x33 1 }

def Desc.size (d : Desc) (k : Nat) : Nat := d.sizes.getD k 1
def Desc.stride (d : Desc) (k : Nat) : Nat := d.strides.getD (k - 1) 0

/-- RB (R180). -/
def Desc.rb (d : Desc) : Nat := rowBytes d.format (d.size 0)

/-- SPAN (R179). -/
def Desc.span (d : Desc) : Nat :=
  ([1, 2, 3] : List Nat).foldl (fun a k => if k < d.rank then a + (d.size k - 1) * d.stride k else a) d.rb

/-- Address of row (i1, i2, i3). -/
def Desc.row (d : Desc) (i1 i2 i3 : Nat) : Nat :=
  d.base + (if 1 < d.rank then i1 * d.stride 1 else 0) + (if 2 < d.rank then i2 * d.stride 2 else 0) +
    (if 3 < d.rank then i3 * d.stride 3 else 0)

/-- Row addresses in index order. -/
def Desc.rows (d : Desc) : List Nat :=
  (List.range (d.size 3)).flatMap (fun i3 => (List.range (d.size 2)).flatMap (fun i2 =>
    (List.range (d.size 1)).map (fun i1 => d.row i1 i2 i3)))

/-- Host address of the record of allocation a, and of descriptor h (R178). -/
def State.allocAddr (s : State) (a : Nat) : Nat := s.boot.layoutBase + 32 * a
def State.descAddr (s : State) (h : Nat) : Nat := s.boot.layoutBase + 32768 + 64 * h

/-- Base and size of a live allocation, as the layout table holds them (DEDUCED, log entry 18: BASE at 0x00, SIZE at 0x08). -/
def State.allocRange (s : State) (a : Nat) : Nat × Nat :=
  (s.readLe (s.allocAddr a) 8, s.readLe (s.allocAddr a + 8) 8)

/-- A byte range lies wholly inside one live allocation (R185). -/
def State.insideAlloc (s : State) (base len : Nat) : Bool :=
  s.layout.allocs.any (fun a =>
    let r := s.allocRange a
    r.1 ≤ base && base + len ≤ r.1 + r.2)

/-- Inserts a number into a rising list. -/
def insertNat (n : Nat) : List Nat → List Nat
  | [] => [n]
  | x :: t => if n < x then n :: x :: t else if n = x then x :: t else x :: insertNat n t

/-- The lowest number below `limit` that a rising list does not hold (R182). -/
def lowestFree (limit : Nat) (l : List Nat) : Option Nat :=
  (l.foldl (fun (st : Nat × Bool) x => if st.2 then st else if x = st.1 then (st.1 + 1, false) else (st.1, true))
    (0, false)).1 |> fun n => if n < limit then some n else none

/-- Reserved bits of a descriptor's bytes 0x00 to 0x3B are clear. -/
def descReservedOk (b : List Byte) : Bool :=
  field (le b 0 8) 52 12 = 0 && field (le b 0x30 2) 10 6 = 0 && field (le b 0x32 1) 4 4 = 0 && le b 0x34 8 = 0

/-- Reason 3 of CREATE_DESCRIPTOR (R183). -/
def descShapeOk (b : List Byte) (d : Desc) : Bool :=
  1 ≤ d.rank && d.rank ≤ 4 && d.sizes.all (· ≠ 0) &&
  [1, 2, 3].all (fun k => k < d.rank || d.size k == 1) && d.format ≤ 10 && descReservedOk b &&
  (!(isGroup d.format) || d.size 0 % 32 == 0)

/-- Strides keep rows apart (R183). A RANK 1 descriptor has one row, and its STRIDE1 is not looked at (DEDUCED, log entry 117); one of RANK 2
with SIZE1 = 1 is refused as the clause says. -/
def Desc.stridesOk (d : Desc) : Bool :=
  (d.rank ≤ 1 || d.rb ≤ d.stride 1) &&
  [2, 3].all (fun k => d.rank ≤ k || d.size (k - 1) * d.stride (k - 1) ≤ d.stride k)

/-- Why CREATE_DESCRIPTOR is refused, in the order of R183. -/
def State.createReason (s : State) (b : List Byte) : Option Nat :=
  let d := Desc.parse b
  let r := s.allocRange d.alloc
  if !(s.layout.allocs.contains d.alloc) then some 1
  else if d.base < r.1 || r.1 + r.2 < d.base + d.span then some 2
  else if !(descShapeOk b d) then some 3
  else if !d.stridesOk then some 4
  else if (lowestFree 16384 s.layout.descs).isNone then some 5
  else none

/-- Why REGISTER_ALLOCATION is refused. -/
def State.registerReason (s : State) (b : List Byte) : Option Nat :=
  let base := le b 0 8
  let size := le b 8 8
  if (b.drop 16).take 44 |>.any (· ≠ 0) then some 3
  else if size = 0 || hostTop < base + size || s.layout.allocs.any (fun a =>
      let r := s.allocRange a
      base < r.1 + r.2 && r.1 < base + size) then some 6
  else if (lowestFree 1024 s.layout.allocs).isNone then some 5
  else none

/-- Why a release is refused. -/
def State.releaseReason (s : State) (b : List Byte) (desc : Bool) : Option Nat :=
  let id := le b 0 2
  if (b.drop 2).take 58 |>.any (· ≠ 0) then some 3
  else if desc then (if s.layout.descs.contains id then none else some 8)
  else if !(s.layout.allocs.contains id) then some 8
  else if s.layout.descs.any (fun h => (Desc.parse (s.read (s.descAddr h) 64)).alloc == id) then some 7
  else none

/-! ### The request windows (R181, R182) -/

def State.layoutWindow (s : State) (c : Fin 16) : LayoutWindow := Tab.get (fun _ => {}) s.layout.windows c.val

def State.setLayoutWindow (s : State) (c : Fin 16) (v : LayoutWindow) : State :=
  { s with layout := { s.layout with windows := Tab.set (fun _ => {}) s.layout.windows c.val v } }

/-- The RESULT word. -/
def LayoutWindow.result (w : LayoutWindow) : Nat :=
  b2n w.done * 2 ^ 63 + (if w.refused then 0x70 else 0) * 2 ^ 48 + w.reason.toNat * 2 ^ 40 + w.id.toNat

/-- A request completes: RESULT is set and stalled reads return (R182). -/
def State.layoutDone (s : State) (c : Fin 16) (reason : Option Nat) (id : Nat) : State :=
  let w : LayoutWindow :=
    { done := true, refused := reason.isSome, reason := BitVec.ofNat 8 (reason.getD 0),
      id := if reason.isSome then 0 else BitVec.ofNat 16 id }
  let tags := (s.layoutWindow c).stalled
  let s := s.setLayoutWindow c w
  let s := if reason.isSome then s.bump 0x21408 else s
  s.each tags (fun s t => s.lateAnswer t w.result)

/-- The window's record has its KIND and its reserved bytes as R181 states. -/
def kindOk (kind : Nat) (b : List Byte) : Bool := le b 0x3C 1 == kind && le b 0x3D 3 == 0

/-- CREATE_DESCRIPTOR. -/
def State.createDesc (s : State) (c : Fin 16) (b : List Byte) : State :=
  match (if kindOk 1 b then s.createReason b else some 3) with
  | some r => (s.raise Code.descriptorInvalid { unit := 10, noPass := true }).layoutDone c (some r) 0
  | none =>
    let h := (lowestFree 16384 s.layout.descs).getD 0
    let body := b.take 0x3C
    let s := (s.write (s.descAddr h) (body ++ leBytes 4 (crc32c body).toNat)).hostIssue (.descriptor (BitVec.ofNat 14 h))
    ({ s with layout := { s.layout with descs := insertNat h s.layout.descs, damaged := s.layout.damaged.erase h } }).layoutDone c none h

/-- REGISTER_ALLOCATION. -/
def State.registerAlloc (s : State) (c : Fin 16) (b : List Byte) : State :=
  match (if kindOk 2 b then s.registerReason b else some 3) with
  | some r => s.layoutDone c (some r) 0
  | none =>
    let a := (lowestFree 1024 s.layout.allocs).getD 0
    let s := s.write (s.allocAddr a) (b.take 16 ++ List.replicate 16 0)
    ({ s with layout := { s.layout with allocs := insertNat a s.layout.allocs } }).layoutDone c none a

/-- RELEASE_DESCRIPTOR. -/
def State.releaseDesc (s : State) (c : Fin 16) (b : List Byte) : State :=
  match (if kindOk 3 b then s.releaseReason b true else some 3) with
  | some r => s.layoutDone c (some r) 0
  | none => ({ s with layout := { s.layout with descs := s.layout.descs.erase (le b 0 2) } }).layoutDone c none (le b 0 2)

/-- RELEASE_ALLOCATION. -/
def State.releaseAlloc (s : State) (c : Fin 16) (b : List Byte) : State :=
  match (if kindOk 4 b then s.releaseReason b false else some 3) with
  | some r => s.layoutDone c (some r) 0
  | none => ({ s with layout := { s.layout with allocs := s.layout.allocs.erase (le b 0 2) } }).layoutDone c none (le b 0 2)

/-- A 64-byte write at offset 0x00 of a window, by its KIND; a reserved KIND is refused with reason 3. -/
def State.layoutRequest (s : State) (c : Fin 16) (b : List Byte) : State :=
  match le b 0x3C 1 with
  | 1 => s.createDesc c b
  | 2 => s.registerAlloc c b
  | 3 => s.releaseDesc c b
  | 4 => s.releaseAlloc c b
  | _ => s.layoutDone c (some 3) 0

/-- A read of RESULT: it stalls until DONE is set (R182). -/
def State.layoutRead (s : State) (c : Fin 16) : State :=
  let w := s.layoutWindow c
  if w.done then s.answer w.result
  else (s.setLayoutWindow c { w with stalled := w.stalled ++ [s.port.tag] }).stall

/-! ### Moves (R186 to R198) -/

/-- A move record (R186). -/
structure MoveRec where
  op    : Nat
  acc   : Nat
  block : Nat
  src   : Nat
  dst   : Nat
  index : Nat
  init  : Nat
  aux   : Nat
  /-- Reserved bits are clear. -/
  clean : Bool
  deriving DecidableEq, Repr

def MoveRec.parse (b : List Byte) : MoveRec :=
  { op := le b 0 1, acc := field (le b 1 1) 0 2, block := field (le b 1 1) 2 2, src := le b 2 2, dst := le b 4 2,
    index := le b 6 2, init := le b 8 2, aux := le b 0x10 8
    clean := field (le b 1 1) 4 4 = 0 && ((b.drop 0x0A).take 6).all (· == 0) && ((b.drop 0x18).take 40).all (· == 0) &&
      field (le b 0x10 8) 52 12 = 0 }

/-- Operations of MOVE (R187), with the operands they take. -/
abbrev opConvert : Nat := 0
abbrev opTranspose : Nat := 1
abbrev opScatter : Nat := 2
abbrev opGather : Nat := 3
abbrev opBlocksOut : Nat := 4
abbrev opBlocksIn : Nat := 5
abbrev opRouter : Nat := 6

/-- Block size B. -/
def MoveRec.bsize (m : MoveRec) : Nat := 16 * 2 ^ m.block

def noHandle : Nat := 0xFFFF

/-- The record alone is legal (R189, first row, as far as no descriptor is needed). -/
def MoveRec.legal (m : MoveRec) (cls : Nat) : Bool :=
  m.op ≤ 6 && m.acc ≤ 1 && m.block ≤ 2 && m.clean && (m.acc == 0 || cls == 2) &&
  (if m.op = opRouter then
    m.src == noHandle && m.dst == noHandle && m.index == noHandle && m.init == noHandle && m.aux != 0
   else
    m.src != noHandle && m.dst != noHandle && m.aux == 0 &&
    (if 2 ≤ m.op then m.index != noHandle else m.index == noHandle) &&
    (m.op == opScatter || m.op == opBlocksIn || m.init == noHandle))

/-- The write of a live descriptor's table entry failed (R394): the entry is damaged until the handle is made again. -/
def State.damageDesc (s : State) (h : Nat) : State :=
  if s.layout.descs.contains h then { s with layout := { s.layout with damaged := insertNat h (s.layout.damaged.erase h) } } else s

/-- The descriptor of a live handle whose CHECK matches (R189); a damaged entry's does not (R394). -/
def State.descOf (s : State) (h : Nat) : Option Desc :=
  let b := s.read (s.descAddr h) 64
  if s.layout.descs.contains h && !(s.layout.damaged.contains h) && le b 0x3C 4 == (crc32c (b.take 0x3C)).toNat then some (Desc.parse b) else none

/-- Operands of a move. -/
structure MoveArgs where
  src   : Desc
  dst   : Desc
  index : Option Desc
  init  : Option Desc
  deriving DecidableEq, Repr

/-- A handle that may be none. -/
def State.optDesc (s : State) (h : Nat) : Option (Option Desc) :=
  if h = noHandle then some none else (s.descOf h).map some

def State.moveArgs (s : State) (m : MoveRec) : Option MoveArgs :=
  match s.descOf m.src, s.descOf m.dst, s.optDesc m.index, s.optDesc m.init with
  | some a, some b, some c, some d => some ⟨a, b, c, d⟩
  | _, _, _, _ => none

/-- Rank and extents agree. -/
def Desc.sameShape (a b : Desc) : Bool :=
  a.rank == b.rank && [0, 1, 2, 3].all (fun k => a.size k == b.size k)

def Desc.isList (d : Desc) : Bool := d.rank == 1 && d.format == 5

/-- Extents and formats follow R187, and ATOMIC has an FP32 destination (R189). -/
def MoveArgs.fits (a : MoveArgs) (m : MoveRec) : Bool :=
  let n := (a.index.map (fun d => d.size 0)).getD 0
  let listOk := (a.index.map Desc.isList).getD true
  let initOk := match a.init with
    | none => true
    | some i => i.sameShape a.dst && i.format == a.dst.format
  let b := m.bsize
  listOk && initOk && (m.acc == 0 || a.dst.format == 0) &&
  (match m.op with
   | 0 => a.src.sameShape a.dst
   | 1 => a.src.rank == 2 && a.dst.rank == 2 && a.dst.size 0 == a.src.size 1 && a.dst.size 1 == a.src.size 0 &&
          a.src.format ≤ 5 && a.dst.format ≤ 5
   | 2 => a.src.rank == 2 && a.src.format ≤ 2 && n == a.src.size 1 && a.dst.rank == 2 &&
          a.dst.size 0 == a.src.size 0 && a.dst.format ≤ 2
   | 3 => a.src.rank == 2 && a.dst.rank == 2 && a.dst.size 0 == a.src.size 0 && a.dst.size 1 == n
   | 4 => a.src.rank == 2 && a.dst.rank == 3 && a.dst.size 0 == b && a.dst.size 1 == b && a.dst.size 2 == n
   | _ => a.src.rank == 3 && a.src.size 0 == b && a.src.size 1 == b && a.src.size 2 == n && a.dst.rank == 2 &&
          a.dst.format ≤ 2)

/-- Two byte ranges share a byte. -/
def meets (a la b lb : Nat) : Bool := 0 < la && 0 < lb && a < b + lb && b < a + la

/-- Ranges [BASE, BASE + SPAN) share a byte. -/
def Desc.overlaps (a b : Desc) : Bool := meets a.base a.span b.base b.span

/-- SRC and DST coincide exactly (R194). -/
def Desc.coincides (a b : Desc) : Bool :=
  a.base == b.base && a.sameShape b && a.rb == b.rb &&
  [1, 2, 3].all (fun k => a.rank ≤ k || a.stride k == b.stride k)

/-- A forbidden overlap (R194). -/
def MoveArgs.clash (a : MoveArgs) (m : MoveRec) : Bool :=
  let inPlace := (m.op == opConvert && a.src.coincides a.dst) ||
    (m.op == opTranspose && a.src.coincides a.dst && a.src.format == a.dst.format && a.src.size 0 == a.src.size 1 &&
      a.src.size 0 ≤ 64)
  (a.dst.overlaps a.src && !inPlace) || (a.index.map a.dst.overlaps).getD false || (a.init.map a.dst.overlaps).getD false

/-- Every row of a tensor starts at a multiple of 64 (R196). -/
def Desc.aligned (d : Desc) : Bool :=
  d.base % 64 == 0 && [1, 2, 3].all (fun k => d.rank ≤ k || d.size k ≤ 1 || d.stride k % 64 == 0)

/-- What a move does: byte runs written in order, host bytes read, elements clamped and dropped. -/
structure MoveOut where
  writes  : List (Nat × List Byte) := []
  read    : Nat := 0
  clamped : Nat := 0
  dropped : Nat := 0
  deriving DecidableEq, Repr

/-- Values of the row at an address. -/
def State.rowAt (s : State) (d : Desc) (addr : Nat) : List FV := rowValues d.format (d.size 0) (s.read addr d.rb)

/-- Row i of a rank-2 tensor. -/
def State.row2 (s : State) (d : Desc) (i : Nat) : List FV := s.rowAt d (d.row i 0 0)

/-- The entries of an INT32 list, unsigned. -/
def State.listOf (s : State) (d : Desc) : List Nat :=
  (List.range (d.size 0)).map (fun i => s.readLe (d.base + 4 * i) 4)

/-- Bytes read of a tensor's rows. -/
def Desc.volume (d : Desc) : Nat := d.rb * d.rows.length

/-- CONVERT (R187, R188). -/
def State.moveConvert (s : State) (a : MoveArgs) : MoveOut :=
  { writes := (a.src.rows.zip a.dst.rows).map (fun p => (p.2, rowData a.dst.format (s.rowAt a.src p.1))),
    read := a.src.volume }

/-- TRANSPOSE: DST(j, i) = SRC(i, j). -/
def State.moveTranspose (s : State) (a : MoveArgs) : MoveOut :=
  let rows := (List.range (a.src.size 1)).map (s.row2 a.src)
  { writes := (List.range (a.dst.size 1)).map (fun j =>
      (a.dst.row j 0 0, rowData a.dst.format (rows.map (fun r => r.getD j .zero)))),
    read := a.src.volume }

/-- GATHER (R187, R191). -/
def State.moveGather (s : State) (a : MoveArgs) (idx : List Nat) : MoveOut :=
  let last := a.src.size 1 - 1
  { writes := (idx.zipIdx).map (fun p =>
      (a.dst.row p.2 0 0, rowData a.dst.format (s.row2 a.src (min p.1 last)))),
    read := 4 * idx.length + idx.length * a.src.rb,
    clamped := (idx.filter (fun i => last < i)).length * a.src.size 0 }

/-- A contribution to a destination element: row, column, value, and its number in issue order. -/
structure Contribution where
  row : Nat
  col : Nat
  val : FV
  num : Nat
  deriving DecidableEq, Repr

/-- The destination rows of SCATTER and BLOCKS_IN (R190, R192): an element without a contribution receives INIT exactly;
the others the exact sum rounded once, or, with ATOMIC, the FP32 sums in arrival order, a free value (DESIGN CHOICE, log entry 6). -/
def State.accumulate (s : State) (a : MoveArgs) (atomic : Bool) (occasion : Nat) (cs : List Contribution) :
    List (Nat × List Byte) :=
  let w := elemBits a.dst.format / 8
  (List.range (a.dst.size 1)).map (fun r =>
    let init := match a.init with
      | some i => s.read (i.row r 0 0) i.rb
      | none => List.replicate a.dst.rb 0
    let mine := cs.filter (fun c => c.row == r)
    (a.dst.row r 0 0,
      if mine.isEmpty then init
      else (List.range (a.dst.size 0)).flatMap (fun j =>
        let raw := (init.drop (w * j)).take w
        let start := elemValue a.dst.format (ofLe raw)
        match mine.filter (fun c => c.col == j) with
        | [] => raw
        | l =>
          if atomic then
            leBytes w (toF32 ((sortBy (fun c => Sys2Proof.Config.arrivalKey occasion c.num) l).foldl
              (fun v c => (FV.add v c.val).rn32) start))
          else leBytes w (elemCode a.dst.format (FV.sum (start :: l.map (·.val)))))))

/-- SCATTER (R190, R191). What counts as read beside the source rows is log entry 66 (DESIGN CHOICE). -/
def State.moveScatter (s : State) (a : MoveArgs) (m : MoveRec) (idx : List Nat) : MoveOut :=
  let keep := idx.zipIdx.filter (fun p => p.1 < a.dst.size 1)
  let cs := keep.flatMap (fun p => (s.row2 a.src p.2).zipIdx.map (fun e =>
    ({ row := p.1, col := e.2, val := e.1, num := p.2 * a.src.size 0 + e.2 } : Contribution)))
  { writes := s.accumulate a (m.acc == 1) s.freeCtr cs,
    read := 4 * idx.length + a.src.volume + (a.init.map Desc.volume).getD 0,
    dropped := (idx.length - keep.length) * a.src.size 0 }

/-- Entries of a coordinate list up to its end mark (R192), each a block row and column. -/
def coordinates (l : List Nat) : List (Nat × Nat) :=
  (l.takeWhile (· ≠ 0xFFFFFFFF)).map (fun e => (e / 65536, e % 65536))

/-- BLOCKS_OUT (R192, R193): coordinates beyond the source read the last valid index of their dimension. -/
def State.moveBlocksOut (s : State) (a : MoveArgs) (m : MoveRec) (l : List (Nat × Nat)) : MoveOut :=
  let b := m.bsize
  let lastR := a.src.size 1 - 1
  let lastC := a.src.size 0 - 1
  { writes := l.zipIdx.flatMap (fun p => (List.range b).map (fun i =>
      let r := s.row2 a.src (min (p.1.1 * b + i) lastR)
      (a.dst.row i p.2 0, rowData a.dst.format ((List.range b).map (fun j => r.getD (min (p.1.2 * b + j) lastC) .zero))))),
    read := 4 * (a.index.map (fun d => d.size 0)).getD 0 + l.length * b * rowBytes a.src.format b,
    clamped := l.foldl (fun n p => n + ((List.range (b * b)).filter (fun k =>
      lastR < p.1 * b + k / b || lastC < p.2 * b + k % b)).length) 0 }

/-- BLOCKS_IN (R192, R193). -/
def State.moveBlocksIn (s : State) (a : MoveArgs) (m : MoveRec) (l : List (Nat × Nat)) : MoveOut :=
  let b := m.bsize
  let all := l.zipIdx.flatMap (fun p => (List.range b).flatMap (fun i =>
    (s.rowAt a.src (a.src.row i p.2 0)).zipIdx.map (fun e =>
      ({ row := p.1.1 * b + i, col := p.1.2 * b + e.2, val := e.1, num := (p.2 * b + i) * b + e.2 } : Contribution))))
  let keep := all.filter (fun c => c.row < a.dst.size 1 && c.col < a.dst.size 0)
  { writes := s.accumulate a (m.acc == 1) s.freeCtr keep,
    read := 4 * (a.index.map (fun d => d.size 0)).getD 0 + l.length * b * a.src.rb + (a.init.map Desc.volume).getD 0,
    dropped := all.length - keep.length }

/-- The effect of a legal move on descriptors. -/
def State.moveOut (s : State) (a : MoveArgs) (m : MoveRec) : MoveOut :=
  let idx := (a.index.map s.listOf).getD []
  match m.op with
  | 0 => s.moveConvert a
  | 1 => s.moveTranspose a
  | 2 => s.moveScatter a m idx
  | 3 => s.moveGather a idx
  | 4 => s.moveBlocksOut a m (coordinates idx)
  | _ => s.moveBlocksIn a m (coordinates idx)

/-- Refused with a notice: nothing is written and the next instruction runs (R185, R189). -/
def State.moveRefused (s : State) (code : BitVec 8) (unit : Nat) : State := (s.bump 0x21408).raise code { unit := unit }

/-- Counts of a completed move, and its notices (R193, R196, R199). -/
def State.moveDone (s : State) (o : MoveOut) (aligned : Bool) : State :=
  let s := s.each o.writes (fun s w => s.write w.1 w.2)
  let s := (s.bump 0x21400).bump 0x21410 o.read
  let s := s.bump 0x21418 (o.writes.foldl (fun n w => n + w.2.length) 0)
  let s := (s.bump 0x21420 o.clamped).bump 0x21428 o.dropped
  let s := if o.dropped = 0 then s else s.raise Code.outOfBoundsWrite { unit := 10 }
  if aligned then s else (s.bump 0x21430).raise Code.misaligned { unit := 10 }

/-! ### ROUTER_QUANTISE (R31) -/

/-- A scoring block (R19). -/
structure ScoringBlock where
  int4  : Nat
  bf16  : Nat
  gain  : Nat
  bias  : Nat
  scale : FV
  eps   : FV
  tau   : FV
  d     : Nat
  e     : Nat
  mode  : Nat
  outMax : Nat
  resPairs : Nat
  resRows  : Nat
  deriving DecidableEq, Repr

def ScoringBlock.parse (b : List Byte) : ScoringBlock :=
  { int4 := field (le b 0 8) 0 52, bf16 := field (le b 8 8) 0 52, gain := field (le b 0x10 8) 0 52,
    bias := field (le b 0x18 8) 0 52, scale := f32 (le b 0x20 4), eps := f32 (le b 0x24 4), tau := f32 (le b 0x28 4),
    d := le b 0x2C 2, e := le b 0x2E 2, mode := le b 0x30 1, outMax := le b 0x31 1, resPairs := le b 0x32 2,
    resRows := le b 0x34 2 }

/-- The checks of R20. -/
def ScoringBlock.ok (b : ScoringBlock) : Bool :=
  b.mode ≤ 2 && b.outMax ≤ 64 && 32 ≤ b.d && b.d ≤ 16384 && b.d % 32 == 0 && 1 ≤ b.e && b.e ≤ 4096 &&
  b.scale.isFin && b.scale.rat ≠ 0

/-- Row tiles of the INT4 section. -/
def ScoringBlock.tiles (b : ScoringBlock) : Nat := ceilDiv b.d 1024

/-- Experts of column group g. -/
def ScoringBlock.cols (b : ScoringBlock) (g : Nat) : Nat := min 512 (b.e - 512 * g)

/-- Offset of tile record (g, t) in the INT4 section (R29). -/
def ScoringBlock.tileOff (b : ScoringBlock) (g t : Nat) : Nat := 512 * g * b.tiles * 576 + t * b.cols g * 576

/-- Bytes of the INT4 section. -/
def ScoringBlock.int4Bytes (b : ScoringBlock) : Nat := b.e * b.tiles * 576

/-- BF16 weights of block k (32 channels) of expert e. -/
def State.weightBlock (s : State) (b : ScoringBlock) (e k : Nat) : List FV :=
  (List.range 32).map (fun i => b16 (s.readLe (b.bf16 + e * 2 * b.d + 2 * (32 * k + i)) 2))

/-- Block k of expert e quantised (R27, R31): E8M0 code, 4-bit codes, L1 byte. Beyond d all are 0. -/
def State.quantWeight (s : State) (b : ScoringBlock) (e k : Nat) : Nat × List Nat × Nat :=
  if b.d ≤ 32 * k then (0, List.replicate 32 0, 0)
  else
    let inv : FV := FV.ofRat (1 / b.scale.rat)
    let q := quantBlock ((s.weightBlock b e k).map (fun w => FV.mul w inv))
    ((q.1 + 127).toNat, q.2.1.map code4,
      if q.2.2 then 0xFF else q.2.1.foldl (fun n z => n + z.natAbs) 0)

/-- The bytes of tile record (g, t). -/
def tileBytes (quant : Nat → Nat → Nat × List Nat × Nat) (b : ScoringBlock) (g t : Nat) : List Byte :=
  let cols := (List.range (b.cols g)).map (fun j => (List.range 32).map (fun k => quant (512 * g + j) (32 * t + k)))
  cols.flatMap (fun c => leBytes 512 (packBits 4 (c.flatMap (fun q => q.2.1)))) ++
  cols.flatMap (fun c => c.flatMap (fun q => leBytes 1 q.1)) ++
  cols.flatMap (fun c => c.flatMap (fun q => leBytes 1 q.2.2))

/-- ROUTER_QUANTISE (R31, R185, R189, R194). A scoring block that fails the checks of R20 is illegal (DEDUCED, log entry 19). BLOCK_SATURATE is
raised once for the MOVE, which has no chunk: CHUNK 0xFF, UNIT 10 (DESIGN CHOICE, log entry 113: R51 counts by chunk). -/
def State.routerQuantise (s : State) (aux : Nat) : State :=
  let b := ScoringBlock.parse (s.read aux 64)
  if !b.ok then s.raise Code.illegalInstruction { unit := 10 }
  else if !(s.insideAlloc b.bf16 (b.e * 2 * b.d) && s.insideAlloc b.int4 b.int4Bytes) then
    s.moveRefused Code.descriptorInvalid 10
  else if meets b.bf16 (b.e * 2 * b.d) b.int4 b.int4Bytes then s.moveRefused Code.overlap 10
  else
    let sat := ((List.range b.e).flatMap (fun e => (List.range (b.d / 32)).filter (fun k =>
      (s.quantWeight b e k).2.2 = 0xFF))).length
    let writes := (List.range (ceilDiv b.e 512)).flatMap (fun g => (List.range b.tiles).map (fun t =>
      (b.int4 + b.tileOff g t, tileBytes (s.quantWeight b) b g t)))
    let s := if sat = 0 then s else (s.bump 0x21030 sat).raise Code.blockSaturate { unit := 10 }
    s.moveDone { writes := writes, read := 64 + b.e * 2 * b.d } (b.bf16 % 64 == 0 && b.int4 % 64 == 0)

/-- The writes of a TRANSPOSE with the words lost that the buffer could not correct (R195): which word of the result each one was, and what is
written for it, are free (DESIGN CHOICE, log entry 110). -/
def loseWrites (occ : Nat) (finds : List ReadFind) (ws : List (Nat × List Byte)) : List (Nat × List Byte) :=
  (finds.filter (·.hard)).zipIdx.foldl (fun ws f =>
    let pick (k : Nat) : BitVec 64 := Config.lostWord occ (3 * f.2 + k)
    ws.zipIdx.map (fun w =>
      if w.2 = (pick 0).toNat % ws.length then (w.1.1, loseBytes (pick 2) (8 * ((pick 1).toNat % ceilDiv w.1.2.length 8)) w.1.2)
      else w.1)) ws

/-- A TRANSPOSE reads its tiles back from the transposition buffer (R195). -/
def State.bufferFinds (s : State) (m : MoveRec) (o : MoveOut) (finds : List ReadFind) : State × MoveOut :=
  if m.op = opTranspose && !finds.isEmpty then
    ((s.foundWords 7 10 finds).useFree, { o with writes := loseWrites s.freeCtr finds o.writes })
  else (s, o)

/-- A MOVE (R186 to R196) with its record address and the instruction's determinism class. -/
def State.runMove (s : State) (addr cls : Nat) (finds : List ReadFind) : State :=
  let m := MoveRec.parse (s.read addr 64)
  if !(m.legal cls) then s.raise Code.illegalInstruction { unit := 10 }
  else if m.op = opRouter then s.routerQuantise m.aux
  else match s.moveArgs m with
    | none => s.moveRefused Code.descriptorInvalid 10
    | some a =>
      if !(a.fits m) then s.raise Code.illegalInstruction { unit := 10 }
      else if a.clash m then s.moveRefused Code.overlap 10
      else
        let x := (if m.acc = 1 then s.useFree else s).bufferFinds m (s.moveOut a m) finds
        x.1.moveDone x.2 (a.src.aligned && a.dst.aligned && (a.index.map Desc.aligned).getD true &&
          (a.init.map Desc.aligned).getD true)

end Sys2Proof.Machine
end

