-- ==== Sys2Proof/Machine/Jobs.lean ====
section
/-! DEFINITION. Function jobs (07, R155 to R164, R176): MAP, GATE_ACT and SOFTMAX of FUNC, and the counters of results. -/

namespace Sys2Proof.Machine

/-- FP32 value at a byte offset of the table store. -/
def State.tableValue (s : State) (off : Nat) : FV := f32 (le s.funcs.table off 4)

/-- Directory entry of a micro-programmed function id (0x20 to 0x3F). -/
def State.fnDirectory (s : State) (id : Nat) : FnEntry := fnEntry s.funcs.micro (id - 0x20)

/-- An evaluation (R155): the result code. -/
def State.evalFn (s : State) (id : Nat) (rm : Rm) (f : Fmt) (x : FV) : Nat :=
  if id < 0x20 then builtin id rm f x
  else micro s.funcs.micro s.tableValue (s.fnDirectory id) rm f x

/-- The result is a canonical NaN under R158 or R167. -/
def State.nanResult (s : State) (id : Nat) (f : Fmt) (x : FV) (code : Nat) : Bool :=
  (FV.decode f code).isNan && (id < 0x20 || x.isNan || (s.fnDirectory id).applies x == 7)

/-- Counts function results (R176): inputs with their result codes in format f. -/
def State.countResults (s : State) (id : Nat) (f : Fmt) (l : List (FV × Nat)) : State :=
  let s' := s.bump 0x21140 l.length
  let s' := s'.bump 0x21150 (l.filter (fun p => s.nanResult id f p.1 p.2)).length
  s'.bump 0x21158 (l.filter (fun p => p.1.isFin && (FV.decode f p.2).isInf)).length

/-- A function job record (R162). -/
structure FuncJob where
  op      : Nat
  id      : Nat
  formats : Nat
  n       : Nat
  rows    : Nat
  a       : Nat
  b       : Nat
  y       : Nat
  aStride : Nat
  bStride : Nat
  yStride : Nat
  deriving DecidableEq, Repr

def FuncJob.parse (r : List Byte) : FuncJob :=
  { op := le r 0 1, id := le r 1 1, formats := le r 2 1, n := le r 4 4, rows := le r 8 4,
    a := field (le r 0x10 8) 0 52, b := field (le r 0x18 8) 0 52, y := field (le r 0x20 8) 0 52,
    aStride := le r 0x28 4, bStride := le r 0x2C 4, yStride := le r 0x30 4 }

def FuncJob.inFmt (j : FuncJob) : Nat := field j.formats 0 2
def FuncJob.outFmt (j : FuncJob) : Nat := field j.formats 2 2
def FuncJob.rounding (j : FuncJob) : Nat := field j.formats 4 2
def FuncJob.self (j : FuncJob) : Bool := bit j.formats 6
def FuncJob.scalar (j : FuncJob) : Bool := bit j.formats 7

/-- Format of codes 0 to 2. -/
def ioFmt (c : Nat) : Fmt := if c = 0 then fp32 else if c = 1 then bf16 else fp16

/-- Bytes of an element of codes 0 to 2. -/
def ioSize (c : Nat) : Nat := if c = 0 then 4 else 2

def FuncJob.rm (j : FuncJob) : Rm := if j.rounding = 1 then .rd else if j.rounding = 2 then .ru else .rn

/-- Elements in a row of A. -/
def FuncJob.aLen (j : FuncJob) : Nat := if j.op = 1 && j.scalar then 1 else j.n

/-- The function id may run: SOFTMAX ignores it. -/
def State.jobFnOk (s : State) (j : FuncJob) : Bool :=
  j.op == 2 || j.id ≤ 6 || (0x20 ≤ j.id && j.id ≤ 0x3F && (s.fnDirectory j.id).valid)

/-- The checks of R163. B_BASE and B_STRIDE, which only GATE_ACT uses, are tested in its jobs alone (DESIGN CHOICE, log entry 133). -/
def State.jobLegal (s : State) (j : FuncJob) : Bool :=
  j.op ≤ 2 && j.inFmt ≤ 2 && j.outFmt ≤ 2 && j.rounding ≤ 2 && s.jobFnOk j &&
  (j.rounding == 0 || (j.op != 2 && (j.id == fnRcp || j.id == fnRsqrt))) &&
  (j.op == 1 || (!j.self && !j.scalar)) &&
  1 ≤ j.n && j.n ≤ 65536 && 1 ≤ j.rows && j.rows ≤ 16777215 &&
  j.a % ioSize j.inFmt == 0 && j.aStride % ioSize j.inFmt == 0 &&
  (j.op != 1 || (j.b % ioSize j.inFmt == 0 && j.bStride % ioSize j.inFmt == 0)) &&
  j.y % ioSize j.outFmt == 0 && j.yStride % ioSize j.outFmt == 0

/-- A strided run of rows: base, stride, bytes per row, rows. -/
structure RowRun where
  base   : Nat
  stride : Nat
  bytes  : Nat
  rows   : Nat
  deriving DecidableEq, Repr

def FuncJob.runA (j : FuncJob) : RowRun := ⟨j.a, j.aStride, j.aLen * ioSize j.inFmt, j.rows⟩
def FuncJob.runB (j : FuncJob) : RowRun := ⟨j.b, j.bStride, j.n * ioSize j.inFmt, j.rows⟩
def FuncJob.runY (j : FuncJob) : RowRun := ⟨j.y, j.yStride, j.n * ioSize j.outFmt, j.rows⟩

/-- Bytes from a run's base to its end. -/
def RowRun.span (r : RowRun) : Nat := (r.rows - 1) * r.stride + r.bytes

/-- Two runs share a byte. -/
def RowRun.meets (p q : RowRun) : Bool :=
  (List.range p.rows).any (fun i => (List.range q.rows).any (fun k =>
    Sys2Proof.Machine.meets (p.base + i * p.stride) p.bytes (q.base + k * q.stride) q.bytes))

/-- Y overlaps an operand other than by exact coincidence (R164). -/
def RowRun.badOverlap (y q : RowRun) : Bool :=
  !(y.base == q.base && y.bytes == q.bytes && (y.rows == 1 || y.stride == q.stride)) && y.meets q

/-- Row i of a run as values. -/
def State.runRow (s : State) (r : RowRun) (fmt i : Nat) : List FV :=
  rowValues fmt (r.bytes / ioSize fmt) (s.read (r.base + i * r.stride) r.bytes)

/-- The running maximum and sum of pass 1 of R161. -/
structure SoftSum where
  m    : FV
  sum  : FV
  nan  : Bool
  pinf : Nat
  deriving DecidableEq, Repr

def SoftSum.step (st : SoftSum) (x : FV) : SoftSum :=
  match x with
  | .nan => { st with nan := true }
  | .inf false => { st with pinf := st.pinf + 1 }
  | .inf true => st
  | _ =>
    if FV.lt st.m x then
      { st with sum := fma32 st.sum (fn32 fnExp (FV.add st.m x.neg).rn32) (.fin false 1), m := x }
    else { st with sum := (FV.add st.sum (fn32 fnExp (FV.add x st.m.neg).rn32)).rn32 }

/-- The result codes of one row of a softmax (R161). -/
def softmaxRow (f : Fmt) (a : List FV) : List Nat :=
  let st := a.foldl SoftSum.step ⟨.inf true, .zero, false, 0⟩
  let zero := st.sum.rat = 0
  let r := if zero then FV.zero else fn32 fnRcp st.sum
  a.map (fun x =>
    if st.nan || 1 < st.pinf then f.nanCode
    else if st.pinf = 1 then (if x = .inf false then (FV.fin false 1).encode f .rn else 0)
    else if x = .inf true || zero then 0
    else (FV.mul (fn32 fnExp (FV.add x st.m.neg).rn32) r).encode f .rn)

/-- The writes of a job's rows, and its function results as inputs with codes. Every row of A and B reads as it was before the job, also where
rows of A share bytes while Y coincides with A (DESIGN CHOICE, log entry 114: R164 orders the work within an element only). -/
def State.jobRows (s : State) (j : FuncJob) : List ((Nat × List Byte) × List (FV × Nat)) :=
  let fo := ioFmt j.outFmt
  (List.range j.rows).map (fun i =>
    let a := s.runRow j.runA j.inFmt i
    let at_ := j.y + i * j.yStride
    let bytes (l : List Nat) : List Byte := l.flatMap (fun c => leBytes (ioSize j.outFmt) c)
    match j.op with
    | 0 =>
      let r := a.map (fun x => (x, s.evalFn j.id j.rm fo x))
      ((at_, bytes (r.map (·.2))), r)
    | 1 =>
      let b := s.runRow j.runB j.inFmt i
      let r := a.map (fun x => (x, s.evalFn j.id j.rm fp32 x))
      let g (k : Nat) : FV × Nat := if j.scalar then r.getD 0 (.zero, 0) else r.getD k (.zero, 0)
      let y := b.zipIdx.map (fun p =>
        let q := g p.2
        let fv := f32 q.2
        (FV.mul (if j.self then FV.mul q.1 fv else fv) p.1).encode fo j.rm)
      ((at_, bytes y), r)
    | _ => ((at_, bytes (softmaxRow fo a)), []))

/-- The function stores as a job reads them, a word lost at each error that SECDED cannot correct (R174). -/
def FuncStore.lose (f : FuncStore) (occ : Nat) (finds : List ReadFind) : FuncStore :=
  (finds.filter (·.hard)).zipIdx.foldl (fun f x =>
    let o := 64 * x.1.line.toNat + 8 * x.1.word.toNat
    { micro := loseBytes (Config.lostWord occ x.2) o f.micro,
      table := if o < 4096 then f.table else loseBytes (Config.lostWord occ x.2) (o - 4096) f.table }) f

/-- FUNC (R162 to R164) with its record address. A job that both lies outside an allocation (R185) and overlaps (R164) is refused with
DESCRIPTOR_INVALID (DESIGN CHOICE, log entry 133). -/
def State.runFunc (s : State) (addr : Nat) (finds : List ReadFind) : State :=
  let j := FuncJob.parse (s.read addr 64)
  if !(s.jobLegal j) then s.raise Code.illegalInstruction { unit := 11 }
  else
    let runs := [j.runA, j.runY] ++ (if j.op = 1 then [j.runB] else [])
    if !(runs.all (fun r => s.insideAlloc r.base r.span)) then s.moveRefused Code.descriptorInvalid 11
    else if j.runY.badOverlap j.runA || (j.op == 1 && j.runY.badOverlap j.runB) then s.moveRefused Code.overlap 11
    else
      let out := ({ s with funcs := s.funcs.lose s.freeCtr finds } : State).jobRows j
      let s := (s.foundWords 6 11 finds).useFree
      let s' := s.each out (fun s o => s.write o.1.1 o.1.2)
      let s' := if j.op = 2 then
          let codes := out.flatMap (fun o => unpackBits (8 * ioSize j.outFmt) j.n (ofLe o.1.2))
          (s'.bump 0x21140 (j.rows * (2 * j.n + 1))).bump 0x21150
            (codes.filter (fun c => (FV.decode (ioFmt j.outFmt) c).isNan)).length
        else s'.countResults j.id (if j.op = 1 then fp32 else ioFmt j.outFmt) (out.flatMap (·.2))
      s'.bump 0x21148

end Sys2Proof.Machine
end

