-- ==== Sys2Proof/Machine/Scoring.lean ====
section
/-! DEFINITION. Router scoring (02, R19 to R52): normalisation, quantised activations, the sketch score and its certified bound,
the classifier and the exact pass. -/

namespace Sys2Proof.Machine

/-! ### The layer table (R207) -/

/-- Bytes of the open pass's layer table. -/
def State.ltab (s : State) (off len : Nat) : List Byte := s.read (s.att.table + off) len

def State.chunkTokens (s : State) : Nat := le (s.ltab 2 2) 0 2
def State.inputBase (s : State) : Nat := field (le (s.ltab 8 8) 0 8) 0 52
def State.tokmapBase (s : State) : Nat := field (le (s.ltab 0x10 8) 0 8) 0 52
def State.scoring (s : State) : ScoringBlock := ScoringBlock.parse (s.ltab 0x40 64)

/-- Tokens of the pass; 0 before chunk 0's doorbell. -/
def State.passTokens (s : State) : Nat := s.att.tokens.getD 0

/-- Token indices of chunk c. -/
def State.chunkRange (s : State) (c : Nat) : List Nat :=
  let n := s.chunkTokens
  (List.range (min n (s.passTokens - c * n))).map (c * n + ·)

/-- A selection block (R53). -/
structure SelectionBlock where
  mode   : Nat
  renorm : Bool
  kMin   : Nat
  kMax   : Nat
  theta  : FV
  pCum   : FV
  base   : Nat
  deriving DecidableEq, Repr

def State.selection (s : State) : SelectionBlock :=
  let b := s.ltab 0x80 32
  { mode := le b 0 1, renorm := bit (le b 1 1) 0, kMin := le b 2 1, kMax := le b 3 1, theta := f32 (le b 4 4),
    pCum := f32 (le b 8 4), base := field (le b 0x10 8) 0 52 }

/-! ### NORM (R20 to R25, R32 to R35) -/

/-- BF16 vector of n elements. -/
def State.bf16Row (s : State) (base n : Nat) : List FV := (List.range n).map (fun i => b16 (s.readLe (base + 2 * i) 2))

/-- The router input row of token t. -/
def State.routerRow (s : State) (b : ScoringBlock) (t : Nat) : List FV := s.bf16Row (s.inputBase + t * 2 * b.d) b.d

/-- What R21 and R22 find for a finite row: μ, k and r. -/
structure NormRec where
  mu : FV
  k  : Int
  r  : FV
  deriving DecidableEq, Repr

/-- Centred row (R21). -/
def centred (b : ScoringBlock) (mu : FV) (x : List FV) : List FV :=
  if b.mode = 2 then x.map (fun v => FV.add v mu.neg) else x

/-- Norm record of a finite row in RMS or LAYER mode (R21, R22). The flag says that the function unit was asked. A row whose exact sum is zero
has μ = +0 (DESIGN CHOICE, log entry 130). -/
def normOf (b : ScoringBlock) (x : List FV) : NormRec × Option FV :=
  let d : Rat := (b.d : Rat)
  let mu := if b.mode = 2 then (FV.ofRat ((x.foldl (fun a v => a + v.rat) 0) / d)).rn32 else .zero
  let v := centred b mu x
  let top := amax v
  let k := if top = 0 then 0 else floorLog2 top
  let sq := v.foldl (fun a y => a + y.rat * y.rat) 0 * pow2 (-2 * k)
  let m := (FV.ofRat (sq / d)).rn32
  let eps := (FV.mul b.eps (.fin false (pow2 (-2 * k)))).rn32
  let sum := (FV.add m eps).rn32
  if sum.isFin && sum.rat = 0 then (⟨mu, k, .zero⟩, none) else (⟨mu, k, fn32 fnRsqrt sum⟩, some sum)

/-- x̂ of a row from its norm record (R22, R26). -/
def State.xhat (s : State) (b : ScoringBlock) (n : NormRec) (x : List FV) : List FV :=
  if b.mode = 0 then x
  else
    let gain := if b.gain = 0 then [] else s.bf16Row b.gain b.d
    let bias := if b.bias = 0 then [] else s.bf16Row b.bias b.d
    (centred b n.mu x).zipIdx.map (fun p =>
      let u := FV.mul p.1 (.fin false (pow2 (-n.k)))
      let g := gain.getD p.2 (.fin false 1)
      let y := FV.mul (FV.mul u g) n.r
      let y := if b.mode = 2 then FV.add y (bias.getD p.2 .zero) else y
      y.round bf16 .rn)

/-- Whether a row is invalid before x̂ is formed (R24). -/
def rowInvalid (b : ScoringBlock) (x : List FV) : Bool :=
  x.any FV.isNan || (b.mode != 0 && x.any FV.isInf)

/-- Larger magnitude first; an infinity outranks every finite value (R32). -/
def magBefore (a b : FV) : Bool := FV.lt b.abs a.abs

/-- Inserts a candidate after every one it does not outrank. -/
def rankInsert (x : Nat × FV) : List (Nat × FV) → List (Nat × FV)
  | [] => [x]
  | y :: t => if magBefore x.2 y.2 then x :: y :: t else y :: rankInsert x t

/-- Outlier candidates ranked by magnitude, ties by the lower channel (R32). -/
def outlierRank (tau : FV) (xh : List FV) : List (Nat × FV) :=
  ((xh.zipIdx.map (fun p => (p.2, p.1))).filter (fun p => FV.lt tau p.2.abs)).foldl (fun l x => rankInsert x l) []

/-- A quantised activation block (R27): an infinity asks for the largest exponent. E8M0 code, codes, saturated. -/
def actBlock (vs : List FV) : Nat × List Nat × Bool :=
  let sat := vs.any FV.isInf
  let e := if sat then 127 else quantExp (amax vs)
  ((e + 127).toNat, vs.map (fun v => code4 (quantElem e v)), sat || decide (7 * pow2 127 < amax (vs.filter FV.isFin)))

/-- What NORM finds in one token beside its records. -/
structure NormFlags where
  overflow  : Bool := false
  underflow : Nat := 0
  saturate  : Nat := 0
  asked     : Option FV := none
  deriving DecidableEq, Repr

/-- Records of a token from its x̂ (R25, R32 to R35). -/
def actRecords (b : ScoringBlock) (n : NormRec) (xh : List FV) : TokScore × NormFlags :=
  let rank := outlierRank b.tau xh
  let out := sortBy (·.1) (rank.take b.outMax)
  let narrow := xh.zipIdx.map (fun p => if out.any (fun o => o.1 == p.2) then FV.zero else p.1)
  let blocks := chunksOf 32 narrow
  let q := blocks.map actBlock
  ({ mu := BitVec.ofNat 32 (toF32 n.mu), k := n.k, r := BitVec.ofNat 32 (toF32 n.r), nonfinite := xh.any FV.isInf,
     codes := q.flatMap (fun x => x.2.1), exps := q.map (·.1),
     outliers := out.map (fun o => (o.1, BitVec.ofNat 16 (toB16 o.2))) },
   { overflow := decide (b.outMax < rank.length),
     underflow := ((blocks.zip q).filter (fun p =>
       p.1.any (fun v => v.isInf || v.rat ≠ 0) && p.2.2.1.all (· == 0))).length,
     saturate := (q.filter (fun x => x.2.2)).length })

/-- NORM of one token. -/
def State.normToken (s : State) (b : ScoringBlock) (t : Nat) : TokScore × NormFlags :=
  let x := s.routerRow b t
  if rowInvalid b x then ({ invalid := true }, {})
  else
    let n : NormRec × Option FV := if b.mode = 0 then (⟨.zero, 0, .zero⟩, none) else normOf b x
    let xh := s.xhat b n.1 x
    if xh.any FV.isNan then ({ invalid := true }, { asked := n.2 })
    else
      let r := actRecords b n.1 xh
      (r.1, { r.2 with asked := n.2 })

/-- Raises a notice once for a chunk in which n tokens or blocks incurred it, and counts them (R51). -/
def State.chunkNotice (s : State) (code : BitVec 8) (ctr n unit c : Nat) : State :=
  if n = 0 then s else (s.bump ctr n).raise code { unit := unit, chunk := some c }

/-- NORM of chunk c. -/
def State.normChunk (s : State) (c : Nat) : State :=
  let b := s.scoring
  if !b.ok then s.raise Code.illegalInstruction { unit := 1, chunk := some c }
  else
    let r : List (TokScore × NormFlags) := (s.chunkRange c).map (s.normToken b)
    let f : List NormFlags := r.map (fun x => x.2)
    let toks : List TokScore := r.map (fun x => x.1)
    let s : State := { s with att := { s.att with score := Tab.put s.att.score c toks } }
    let s := s.countResults fnRsqrt fp32 ((f.filterMap (·.asked)).map (fun x => (x, builtin fnRsqrt .rn fp32 x)))
    let s := s.chunkNotice Code.outlierOverflow 0x21020 (f.filter (·.overflow)).length 1 c
    let s := s.chunkNotice Code.blockUnderflow 0x21028 (f.foldl (fun n x => n + x.underflow) 0) 1 c
    s.chunkNotice Code.blockSaturate 0x21030 (f.foldl (fun n x => n + x.saturate) 0) 1 c

/-! ### SCORE (R36, R39, R40) -/

/-- A weight block as the INT4 section holds it: 4-bit codes, exponent, L1 byte. -/
structure WeightBlock where
  q   : List Int
  e   : Int
  l1  : Nat
  deriving DecidableEq, Repr

/-- Bytes of the INT4 region of the router weight buffer (R49). -/
def int4Region : Nat := 6291456

/-- The section of a layer that fits the INT4 region becomes resident; a larger one is streamed from host memory once per chunk (R49, R50;
DESIGN CHOICE, log entry 112: it is loaded when an attempt of the pass first opens here). A replay finds it resident. -/
def State.loadInt4 (s : State) (count : BitVec 64) : State :=
  let b := s.scoring
  if s.weights.pass = some count then s else
  { s with weights := { int4 := if b.ok && b.int4Bytes ≤ int4Region then some (s.read b.int4 b.int4Bytes) else none, pass := some count } }

/-- A little-endian number at an offset of the INT4 section: from the resident section, or as the ring streams it (R49). -/
def State.int4Le (s : State) (b : ScoringBlock) (off n : Nat) : Nat :=
  match s.weights.int4 with
  | some l => le l off n
  | none => s.readLe (b.int4 + off) n

/-- Block k of expert e in the INT4 section (R28, R29). A scale code 0xFF reads as a saturated block. -/
def State.sketchBlock (s : State) (b : ScoringBlock) (e k : Nat) : WeightBlock :=
  let g := e / 512
  let j := e % 512
  let c := b.cols g
  let base := b.tileOff g (k / 32)
  let i := k % 32
  let code := s.int4Le b (base + c * 512 + j * 32 + i) 1
  { q := (unpackBits 4 32 (s.int4Le b (base + j * 512 + 16 * i) 16)).map (signed 4),
    e := (code : Int) - 127,
    l1 := if code = 0xFF then 0xFF else s.int4Le b (base + c * 544 + j * 32 + i) 1 }

/-- Product rounded toward +∞; a factor of +0 gives +0 (R39). -/
def ruMul (a b : FV) : FV :=
  if a = .zero || b = .zero then .zero else (FV.mul a b).round fp32 .ru

/-- Sum rounded toward +∞. -/
def ruAdd (a b : FV) : FV := (FV.add a b).round fp32 .ru

/-- Block k of a token's narrow activations: signed codes and exponent. -/
def TokScore.block (t : TokScore) (k : Nat) : List Int × Int :=
  (((t.codes.drop (32 * k)).take 32).map (signed 4), ((t.exps.getD k 0 : Nat) : Int) - 127)

/-- A token's outliers in block k. -/
def TokScore.outliersIn (t : TokScore) (k : Nat) : List (Nat × BitVec 16) := t.outliers.filter (fun o => o.1 / 32 == k)

/-- Integer dot product of two lists. -/
def dotInt (a b : List Int) : Int := (a.zip b).foldl (fun n p => n + p.1 * p.2) 0

/-- Mod-255 residue of an integer (R38). -/
def resOf (z : Int) : Nat := (z % 255).toNat

/-- The residue that a block sum should have, formed from the residues of the operands (R38). -/
def dotResidue (a b : List Int) : Nat := (a.zip b).foldl (fun n p => (n + resOf p.1 * resOf p.2) % 255) 0

/-- What faults add to the block sum of a token and an expert. -/
def deltaOf (errs : List ColumnError) (t e k : Nat) : Int :=
  (errs.filter (fun x => x.token.toNat == t && x.expert.toNat == e && x.block.toNat == k)).foldl (fun n x => n + x.delta) 0

/-- The sketch sum of one block before s_T: finite part and the outlier products (R36); `err` is what a fault adds to the integer sum. -/
def blockSum (t : TokScore) (k : Nat) (w : WeightBlock) (err : Int) : FV :=
  let x := t.block k
  let main := FV.ofRat (((dotInt x.1 w.q + err : Int) : Rat) * pow2 (x.2 + w.e))
  (t.outliersIn k).foldl (fun a o =>
    FV.add a (FV.mul (b16 o.2.toNat) (FV.ofRat ((w.q.getD (o.1 % 32) 0 : Rat) * pow2 w.e)))) main

/-- The exact value of S of a pair (R36); `err` gives the faults by block. An exact sum of zero is +0 before s_T, whose sign S then has (DESIGN
CHOICE, log entry 130). -/
def sketchExact (b : ScoringBlock) (t : TokScore) (ws : List WeightBlock) (err : Nat → Int) : FV :=
  FV.mul b.scale (ws.zipIdx.foldl (fun a p => FV.add a (blockSum t p.2 p.1 (err p.2))) FV.zero)

/-- The three terms of block k (R39). X1 starts from 2^e_x × Σ|q_x| and adds the outlier magnitudes one by one, by rising channel, each sum
rounded up (DESIGN CHOICE, log entry 29: the formula states no order). -/
def blockBound (b : ScoringBlock) (t : TokScore) (k : Nat) (w : WeightBlock) : FV :=
  let x := t.block k
  let sT := b.scale.abs
  let hx : FV := .fin false (pow2 (x.2 - 1))
  let hw := (FV.mul (.fin false (pow2 (w.e - 1))) sT).round fp32 .ru
  let w1 := (FV.mul (.fin false ((w.l1 : Rat) * pow2 w.e)) sT).round fp32 .ru
  let x1 := (t.outliersIn k).foldl (fun a o => ruAdd a (b16 o.2.toNat).abs)
    (FV.round fp32 .ru (.fin false ((x.1.foldl (fun n q => n + q.natAbs) 0 : Nat) * pow2 x.2)))
  let t1 := ruMul hx w1
  let t2 := ruMul hw x1
  let t3 := ruMul (ruMul (.fin false 32) hx) hw
  ruAdd (ruAdd t1 t2) t3

/-- B of a pair (R39). -/
def sketchBound (b : ScoringBlock) (t : TokScore) (ws : List WeightBlock) (sc : FV) : FV :=
  if t.nonfinite || ws.any (fun w => w.l1 == 0xFF) || !sc.isFin then .inf false
  else
    let sum := ws.zipIdx.foldl (fun a p => ruAdd a (blockBound b t p.2 p.1)) FV.zero
    ruAdd sum (.fin false (pow2 (fp32.ulpExp sc.abs.rat - 1)))

/-- The pair record of a token and an expert. Of an invalid token R24 states the NaN score only; its bound is +Inf (DESIGN CHOICE, log entry
130). -/
def scorePair (b : ScoringBlock) (t : TokScore) (ws : List WeightBlock) (err : Nat → Int) : PairRec :=
  if t.invalid then { s := BitVec.ofNat 32 f32Nan, b := BitVec.ofNat 32 f32Inf }
  else
    let x := sketchExact b t ws err
    { s := BitVec.ofNat 32 (toF32 x), b := BitVec.ofNat 32 (toF32 (sketchBound b t ws x.rn32)) }

/-- A block sum disagrees with its residue (R38). -/
def columnBad (toks : List TokScore) (ws : List (List WeightBlock)) (errs : List ColumnError) (x : ColumnError) : Bool :=
  match toks[x.token.toNat]?, (ws.getD x.expert.toNat [])[x.block.toNat]? with
  | some t, some w =>
    let a := (t.block x.block.toNat).1
    !t.invalid && resOf (dotInt a w.q + deltaOf errs x.token.toNat x.expert.toNat x.block.toNat) != dotResidue a w.q
  | _, _ => false

/-- RESIDUE_MISMATCH of a column (R38): it is the next to go out for test; with every spare column retired the fault holds the member
(R432). -/
def State.columnFault (s : State) (c : Nat) (x : ColumnError) : State :=
  let s := s.raise Code.residueMismatch { unit := 2, detail := x.column.val + 2 ^ 14 * (x.expert.toNat / 512), chunk := some c }
  let s : State := { s with boot := { s.boot with suspect := some x.column.val } }
  if 16 ≤ s.boot.retired.length then s.raise Code.repairExhausted { unit := 2, chunk := some c } else s

/-- Pair records that come from a word that cannot be corrected: what stands in them is free (DESIGN CHOICE, log entry 110). -/
def losePairs (occ : Nat) (hit : PairRec → Bool) (toks : List TokScore) : List TokScore :=
  toks.zipIdx.map (fun t => { t.1 with pairs := t.1.pairs.zipIdx.map (fun p =>
    let n := p.2 * toks.length + t.2
    if hit p.1 then { p.1 with s := (Config.lostWord occ (2 * n)).setWidth 32, b := (Config.lostWord occ (2 * n + 1)).setWidth 32 }
    else p.1) })

/-- Words that an engine finds wrong in the token store or in the weight buffer while it computes a chunk's pair records (R436). -/
def State.readOperands (s : State) (unit c : Nat) (hit : PairRec → Bool) (finds : List ReadFind) : State :=
  (s.foundWords 0 unit finds (some c)).each (finds.filter (·.hard)) (fun s _ =>
    ({ s with att := { s.att with
      score := Tab.put s.att.score c (losePairs s.freeCtr hit ((Tab.get? s.att.score c).getD [])) } }).useFree)

/-- SCORE of chunk c. It reads the narrow activations from the token store and the weights from the weight buffer. -/
def State.scoreChunk (s : State) (c : Nat) (errs : List ColumnError) (finds : List ReadFind := []) : State :=
  let b := s.scoring
  let toks := (Tab.get? s.att.score c).getD []
  let ws := (List.range b.e).map (fun e => (List.range (b.d / 32)).map (s.sketchBlock b e))
  let scored := toks.zipIdx.map (fun t => { t.1 with pairs := ws.zipIdx.map (fun w => scorePair b t.1 w.1 (deltaOf errs t.2 w.2)) })
  let s := s.each (errs.filter (columnBad toks ws errs)) (fun s x => s.columnFault c x)
  let s := ({ s with att := { s.att with score := Tab.put s.att.score c scored } }).bump 0x21000 (toks.length * b.e)
  s.readOperands 2 c (fun _ => true) finds

/-! ### RESCORE (R40 to R48) -/

/-- The interval of a pair (R40). -/
def PairRec.lo (p : PairRec) : FV :=
  let b := f32 p.b.toNat
  if b.isInf then .inf true else (FV.add (f32 p.s.toNat) b.neg).round fp32 .rd

def PairRec.hi (p : PairRec) : FV :=
  let b := f32 p.b.toNat
  if b.isInf then .inf false else (FV.add (f32 p.s.toNat) b).round fp32 .ru

/-- A pair with its expert and interval. -/
structure Ranged where
  e  : Nat
  lo : FV
  hi : FV
  deriving DecidableEq, Repr

def rangedOf (ps : List PairRec) : List Ranged := ps.zipIdx.map (fun p => ⟨p.2, p.1.lo, p.1.hi⟩)

/-- a = b as numbers. -/
def FV.same (a b : FV) : Bool := FV.le a b && FV.le b a

/-- q surely beats p (R41). -/
def surelyBeats (q p : Ranged) : Bool := FV.lt p.hi q.lo || (FV.same q.lo p.hi && q.e < p.e)

/-- CB(p) (R41). -/
def surelyBeaten (l : List Ranged) (p : Ranged) : Nat := (l.filter (fun q => q.e != p.e && surelyBeats q p)).length

/-- Settled out (R42). -/
def settledOut (k : SelectionBlock) (l : List Ranged) (p : Ranged) : Bool :=
  let cb := surelyBeaten l p
  p.hi != .inf false &&
  (k.kMax ≤ cb || (k.mode != 3 && FV.lt p.hi k.theta && k.kMin ≤ cb))

/-- The number of pairs that could beat p (R52). -/
def couldBeat (l : List Ranged) (p : Ranged) : Nat :=
  (l.filter (fun q => q.e != p.e && (FV.lt p.lo q.hi || (FV.same q.hi p.lo && q.e < p.e)))).length

/-- The selection of p is certain from the intervals (R52). -/
def certain (k : SelectionBlock) (l : List Ranged) (p : Ranged) : Bool :=
  let n := couldBeat l p
  k.mode != 3 && n < k.kMax && (FV.le k.theta p.lo || n < k.kMin)

/-- Undecided experts of a token, by rising expert; an invalid token is skipped (R24). -/
def TokScore.undecidedOf (t : TokScore) (k : SelectionBlock) : List Ranged :=
  if t.invalid then [] else
    let l := rangedOf t.pairs
    l.filter (fun p => !(settledOut k l p))

/-- The reference score (R45). -/
def refScore (xh w : List FV) : FV := (FV.sum ((xh.zip w).map (fun p => FV.mul p.1 p.2))).rn32

/-- Rows in a half of the exact-row region (R47). -/
def rowsPerHalf (d : Nat) : Nat := 1048576 / (2 * d)

/-- The BF16 section row of an expert, as fetched (R47). -/
def State.fetchRow (s : State) (b : ScoringBlock) (e : Nat) : Nat × List Byte := (e, s.read (b.bf16 + e * 2 * b.d) (2 * b.d))

/-- The halves of the exact-row region fill in turn (R47). -/
def WeightBuffer.fill (w : WeightBuffer) (batches : List (List (Nat × List Byte))) : WeightBuffer :=
  batches.zipIdx.foldl (fun w p => if p.2 % 2 = 0 then { w with halfA := p.1 } else { w with halfB := p.1 }) w

/-- The undecided pairs of a token whose rows a half holds get their reference scores and the bound 0 (R43, R47). -/
def rescorePairs (xh : List FV) (und : List Ranged) (ps : List PairRec) (half : List (Nat × List Byte)) : List PairRec :=
  ps.zipIdx.map (fun p => match half.lookup p.2 with
    | some row =>
      if und.any (fun u => u.e == p.2) then
        { s := BitVec.ofNat 32 (toF32 (refScore xh (rowValues 1 (row.length / 2) row))), b := 0, undecided := true }
      else p.1
    | none => p.1)

/-- RESCORE of one token, half by half, from x̂ rebuilt from the record (R26, R43, R47). -/
def State.rescoreToken (s : State) (b : ScoringBlock) (halves : List (List (Nat × List Byte))) (t : Nat) (tok : TokScore)
    (und : List Ranged) : TokScore :=
  if und.isEmpty then tok
  else
    let xh := s.xhat b ⟨f32 tok.mu.toNat, tok.k, f32 tok.r.toNat⟩ (s.routerRow b t)
    { tok with pairs := halves.foldl (rescorePairs xh und) tok.pairs }

/-- The pair records of a chunk, one of them lost: which, and what is read for it, are free (DESIGN CHOICE, log entry 110). -/
def losePair (occ : Nat) (toks : List TokScore) : List TokScore :=
  let n := (Config.lostWord occ 0).toNat
  toks.zipIdx.map (fun t =>
    if t.2 = n % toks.length then { t.1 with pairs := t.1.pairs.zipIdx.map (fun p =>
      if p.2 = n / toks.length % t.1.pairs.length then
        { s := (Config.lostWord occ 1).setWidth 32, b := (Config.lostWord occ 2).setWidth 32 }
      else p.1) }
    else t.1)

/-- RESCORE or SELECT reads the chunk's pair records from the token store; a word that cannot be corrected is lost (R436). -/
def State.readPairs (s : State) (c : Nat) (finds : List ReadFind) (unit : Nat := 3) : State :=
  (s.foundWords 0 unit finds (some c)).each (finds.filter (·.hard)) (fun s _ =>
    ({ s with att := { s.att with score := Tab.put s.att.score c (losePair s.freeCtr ((Tab.get? s.att.score c).getD [])) } }).useFree)

/-- The word lies in the router weight buffer. -/
def inWeights (f : ReadFind) : Bool := f.store == some 3

/-- RESCORE of chunk c (R43, R47, R48). -/
def State.rescoreChunk (s : State) (c : Nat) (finds : List ReadFind) : State :=
  let b := s.scoring
  let k := s.selection
  let s := s.readPairs c (finds.filter (fun f => !(inWeights f)))
  let toks := (Tab.get? s.att.score c).getD []
  let und := toks.map (fun t => t.undecidedOf k)
  let experts := sortBy id (und.flatMap (fun l => l.map (·.e))).eraseDups
  let rows := experts.length
  let halves := chunksOf (rowsPerHalf b.d) (experts.map (s.fetchRow b))
  let n := und.foldl (fun a l => a + l.length) 0
  let band := (toks.zip und).foldl (fun a p =>
    a + (p.2.filter (fun u => !(certain k (rangedOf p.1.pairs) u))).length) 0
  let toks' := ((s.chunkRange c).zip (toks.zip und)).map (fun p => s.rescoreToken b halves p.1 p.2.1 p.2.2)
  let s : State := { s with att := { s.att with score := Tab.put s.att.score c toks' }, weights := s.weights.fill halves }
  let s := (((s.bump 0x21008 n).bump 0x21010 band).bump 0x21018 rows).readOperands 3 c (·.undecided) (finds.filter inWeights)
  if (b.resPairs ≠ 0 && b.resPairs * toks.length < n) || (b.resRows ≠ 0 && b.resRows < rows) then s.bump 0x21038 else s

end Sys2Proof.Machine
end

