-- ==== Sys2Proof/Machine/Selection.lean ====
section
/-! DEFINITION. Choosing experts (03, R53 to R72): ranking, the number of choices, gate weights, selection records. -/

namespace Sys2Proof.Machine

/-- The checks of R54. -/
def SelectionBlock.ok (k : SelectionBlock) (e : Nat) : Bool :=
  k.mode ≤ 3 && 1 ≤ k.kMin && k.kMin ≤ 16 && k.kMin ≤ k.kMax && k.kMax ≤ 16 && k.kMax ≤ e &&
  (k.mode == 3 || !k.theta.isNan) &&
  (k.mode != 3 || (FV.lt .zero k.pCum && FV.le k.pCum (.fin false 1))) && k.base % 16 == 0

/-- A pair in the ranking: expert, score, and its record. -/
structure Scored where
  e   : Nat
  s   : FV
  pair : PairRec
  deriving DecidableEq, Repr

/-- Inserts after every pair of an equal or higher score (R55: +0 and −0 are equal). -/
def scoreInsert (x : Scored) : List Scored → List Scored
  | [] => [x]
  | y :: t => if FV.lt y.s x.s then x :: y :: t else y :: scoreInsert x t

/-- The ranking (R55). -/
def ranking (ps : List PairRec) : List Scored :=
  (ps.zipIdx.map (fun p => (⟨p.2, f32 p.1.s.toNat, p.1⟩ : Scored))).foldl (fun l x => scoreInsert x l) []

/-- An evaluation of the function unit for SELECT: function, input, result. -/
abbrev Eval := Nat × FV × Nat

/-- Evaluates in FP32, RN. -/
def evalOf (id : Nat) (x : FV) : Eval := (id, x, builtin id .rn fp32 x)

def Eval.val (v : Eval) : FV := f32 v.2.2

/-- e_j of R59. -/
def expOf (m x : FV) : Eval := evalOf fnExp (FV.add x m.neg).rn32

/-- ΣX (R59). -/
def sumX (l : List FV) : FV := (FV.sum l).rn32

/-- What SELECT decides for a token. -/
structure Choice where
  chosen  : List (Nat × FV) := []
  invalid : Bool := false
  infOne  : Bool := false
  raised  : Bool := false
  cut     : Bool := false
  bound   : FV := .zero
  evals   : List Eval := []
  deriving DecidableEq, Repr

/-- Drops pairs of score −Inf from the end of the chosen prefix (R58). -/
def dropNegInf (n : Nat) (r : List Scored) : List Scored := (r.take n).filter (fun p => p.s != .inf true)

/-- Softmax gates over a set of exponentials with their normaliser (R60). -/
def softGates (es : List Eval) (z : FV) : List FV × List Eval :=
  let r := evalOf fnRcp z
  (es.map (fun e => (FV.mul e.val r.val).rn32), [r])

/-- RENORM (R61). RCP(G) is formed for every token, as R69 counts it, and scales nothing when G is 0. -/
def renormalise (g : List FV) : List FV × List Eval :=
  let r := evalOf fnRcp (sumX g)
  (if (sumX g).rat = 0 then g else g.map (fun x => (FV.mul x r.val).rn32), [r])

/-- Quotient rounded toward +∞, of non-negative values with a divisor above 0. -/
def ruDiv (a b : FV) : FV :=
  if b.isFin && b.rat ≠ 0 then (FV.mul a (FV.ofRat (1 / b.rat))).round fp32 .ru
  else if b.isInf && a.isFin then .zero else .nan

/-- Δ of R63, from the tail and the undecided pairs of the ranking; `m` is the score at rank 0. EXP and RCP are asked for U and L with an
empty tail too, whose largest bound is +0 (R69). -/
def gateBound (m : FV) (r : List Scored) : FV × List Eval :=
  let tail := r.filter (fun p => !p.pair.undecided)
  let t := sumX (tail.map (fun p => (expOf m p.s).val))
  let zx := sumX ((r.filter (fun p => p.pair.undecided)).map (fun p => (expOf m p.s).val))
  let bmax := tail.foldl (fun a p => let b := f32 p.pair.b.toNat
                                     if FV.lt a b then b else a) FV.zero
  let ue := evalOf fnExp bmax
  let u := (FV.mul ue.val (FV.ofRat (1 + pow2 (-22)))).round fp32 .ru
  let l : Eval := (fnRcp, u, builtin fnRcp .rd fp32 u)
  let num := (FV.mul t (ruAdd u l.val.neg)).round fp32 .ru
  let den := ruAdd zx ((FV.mul t l.val).round fp32 .ru)
  (if tail.isEmpty then .zero else ruDiv num den, [ue, l])

/-- m of R59: the score at rank 0. -/
def topScore (r : List Scored) : FV := (r.head?.map (·.s)).getD .zero

/-- Gate weights in the threshold modes for the chosen prefix (R60, R61), and the function results that R69 counts, also of a token that
chooses nothing. -/
def gatesOf (k : SelectionBlock) (r ch : List Scored) : List FV × FV × List Eval :=
  let m := topScore r
  if k.mode = 0 then
    let es := ch.map (fun p => evalOf fnLogistic p.s)
    let g := es.map Eval.val
    let n : List FV × List Eval := if k.renorm then renormalise g else (g, [])
    (n.1, .zero, es ++ n.2)
  else if k.mode = 1 || k.renorm then
    let es := ch.map (fun p => expOf m p.s)
    let g := softGates es (sumX (es.map Eval.val))
    (g.1, .zero, es ++ g.2)
  else
    let all := r.map (fun p => expOf m p.s)
    let g := softGates (ch.map (fun p => expOf m p.s)) (sumX (all.map Eval.val))
    let d := gateBound m r
    (g.1, d.1, all ++ g.2 ++ d.2)

/-- The threshold modes (R56, R58). -/
def chooseThreshold (k : SelectionBlock) (r : List Scored) : Choice :=
  let c := (r.filter (fun p => FV.le k.theta p.s)).length
  let ch := dropNegInf (min (max c k.kMin) k.kMax) r
  let g := gatesOf k r ch
  { chosen := (ch.map (·.e)).zip g.1, raised := decide (c < k.kMin), cut := decide (k.kMax < c), bound := g.2.1,
    evals := g.2.2 }

/-- Smallest count whose exact sum reaches a target (R57). -/
def reachCount (target : Rat) : Nat → Rat → List Rat → Nat
  | n, _, [] => n
  | n, acc, x :: t => if target ≤ acc then n else reachCount target (n + 1) (acc + x) t

/-- CUMULATIVE (R57, R58, R60). Of a token whose scores are all −Inf every e_j is EXP of a NaN; no candidate is counted, so KMIN_RAISED is set
and KMAX_CUT clear (DESIGN CHOICE, log entry 60). -/
def chooseCumulative (k : SelectionBlock) (r : List Scored) : Choice :=
  let cand := r.take k.kMax
  let es := cand.map (fun p => expOf (topScore r) p.s)
  let ex := es.map (fun e => e.val.rat)
  let n0 := reachCount (k.pCum.rat * ex.foldl (· + ·) 0) 0 0 ex
  let ch := dropNegInf (max n0 k.kMin) cand
  let g := softGates es (sumX (es.map Eval.val))
  let g1 := g.1.take ch.length
  let n : List FV × List Eval := if k.renorm then renormalise g1 else (g1, [])
  { chosen := (ch.map (·.e)).zip n.1, raised := decide (n0 < k.kMin), cut := n0 == cand.length, evals := es ++ g.2 ++ n.2 }

/-- The choice of one token (R56 to R65). Of an INVALID or INF_SINGLE record KMIN_RAISED and KMAX_CUT are clear and GATE_BOUND is +0, whatever
the mode, RENORM and the tail, and no function result is formed (DESIGN CHOICE, log entry 60). -/
def chooseToken (k : SelectionBlock) (t : TokScore) : Choice :=
  let sc := t.pairs.map (fun p => f32 p.s.toNat)
  let infs := (sc.zipIdx.filter (fun p => p.1 == .inf false)).map (·.2)
  if t.invalid || sc.any FV.isNan then { invalid := true }
  else match infs with
    | [] => if k.mode = 3 then chooseCumulative k (ranking t.pairs) else chooseThreshold k (ranking t.pairs)
    | [e] => { chosen := [(e, .fin false 1)], infOne := true }
    | _ => { invalid := true }

/-- FLAGS of a selection record (R67). -/
def Choice.flags (c : Choice) : Nat :=
  b2n c.invalid + 2 * b2n c.infOne + 4 * b2n c.raised + 8 * b2n c.cut + 16 * b2n (!c.invalid && c.chosen.isEmpty)

/-- Session table record of index i (R210), as applied. -/
def State.session (s : State) (i : Nat) : Nat := (Tab.get (fun _ => 0) s.sched.sessions i).toNat

/-- Session and position of token t through the token map (R209, R210): record index, position. -/
def State.tokenEntry (s : State) (t : Nat) : Nat × Nat :=
  (field (s.readLe (s.tokmapBase + 0x10 + 8 * t) 4) 0 18, field (s.readLe (s.tokmapBase + 0x14 + 8 * t) 4) 0 24)

/-- The session record of a token has VALID set. -/
def State.sessionValid (s : State) (t : Nat) : Bool := bit (s.session (s.tokenEntry t).1) 32

/-- The 144 bytes of a selection record (R67). -/
def State.selectionRecord (s : State) (t : Nat) (c : Choice) : List Byte :=
  let m := s.tokenEntry t
  let sess := s.session m.1
  leBytes 4 (field sess 0 32) ++ leBytes 4 (m.2 + field sess 33 2 * 2 ^ 24) ++ leBytes 1 c.chosen.length ++
  leBytes 1 c.flags ++ leBytes 2 t ++ leBytes 4 (toF32 c.bound) ++
  (c.chosen.flatMap (fun g => leBytes 2 (0x8000 + g.1) ++ leBytes 2 0 ++ leBytes 4 (toF32 g.2))) ++
  List.replicate (8 * (16 - c.chosen.length)) 0

/-- SELECT of chunk c. A session record without VALID stops the instruction before any record is written (R210). -/
def State.selectChunk (s : State) (c : Nat) : State :=
  let b := s.scoring
  let k := s.selection
  let ts := s.chunkRange c
  if !(k.ok b.e) || ts.any (fun t => !(s.sessionValid t)) then s.raise Code.illegalInstruction { unit := 4, chunk := some c }
  else
    let toks := (Tab.get? s.att.score c).getD []
    let cs := toks.map (chooseToken k)
    let count (p : Choice → Bool) : Nat := (cs.filter p).length
    let s' := s.each (ts.zip cs) (fun s' p => s'.write (k.base + p.1 * 144) (s.selectionRecord p.1 p.2))
    let s' : State := { s' with att := { s'.att with score := Tab.erase s'.att.score c } }
    let s' := (s'.bump 0x21040 cs.length).bump 0x21048 (cs.foldl (fun n x => n + x.chosen.length) 0)
    let s' := (s'.bump 0x21058 (count (·.infOne))).bump 0x21060 (count (·.raised))
    let s' := (s'.bump 0x21068 (count (·.cut))).bump 0x21070 (count (fun x => !x.invalid && x.chosen.isEmpty))
    let s' := s'.each (cs.flatMap (·.evals)) (fun s' e => s'.countResults e.1 fp32 [e.2])
    s'.chunkNotice Code.nanToken 0x21050 (count (·.invalid)) 4 c

end Sys2Proof.Machine
end

