-- ==== Sys2Proof/Machine/Tables.lean ====
section
/-! DEFINITION. What the engines read of a pass: its generation window (R318, R480), its group, the placement header and
entries (R325), owners (R75), local experts (R112); inbound buffers (R352) and early items. -/

namespace Sys2Proof.Machine

/-! ### SCORING's buffers (R10, R350) -/

/-- Bytes of a chunk's scoring records: by token, d / 2 + d / 32 B of narrow activations, 256 B of outliers, 16 B of norm record and 8 B for
each expert's pair (R10). -/
def State.scoreBytes (s : State) (c : Nat) : Nat :=
  let b := s.scoring
  (s.chunkRange c).length * (b.d / 2 + b.d / 32 + 256 + 16 + 8 * b.e)

/-- The buffers that SCORING asks for: as many of 256 KiB as its records fill, and one for the rest (DESIGN CHOICE, log entry 50). -/
def bufferSizes (n : Nat) : List Nat :=
  List.replicate (n / classSize 5) (classSize 5) ++ (if n % classSize 5 = 0 then [] else [n % classSize 5])

/-- A buffer of a chunk's scoring records. -/
def State.scoreGranted (s : State) (c handle : Nat) : State :=
  { s with att := { s.att with scoreBufs := Tab.put s.att.scoreBufs c (((Tab.get? s.att.scoreBufs c).getD []) ++ [handle]) } }

/-- NORM asks for the chunk's buffers (R10, R350); a request above the quota leaves its notice. -/
def State.takeScoring (s : State) (c : Nat) : State :=
  s.each (bufferSizes (s.scoreBytes c)) (fun s n =>
    match s.requestBuffer 0 n 0 0 false none (some (.scoring c)) with
    | (s, .granted h) => s.scoreGranted c h
    | (s, _) => s)

/-- The chunk's buffers go back when SELECT has its records written (R10, R48). -/
def State.freeScoring (s : State) (c : Nat) : State :=
  let s' := s.each ((Tab.get? s.att.scoreBufs c).getD []) (fun s h => s.dropOwn (some h) 0)
  { s' with att := { s'.att with scoreBufs := Tab.erase s'.att.scoreBufs c } }

/-! ### Membership and groups -/

/-- The settled membership (R311). -/
def State.settled (s : State) : List MemberId := s.mortar.tree.settled

def State.isSettled (s : State) (m : MemberId) : Bool := s.settled.contains m

/-- A group in use (R266). -/
def State.groupList (s : State) (g : Nat) : List MemberId := (Tab.get? s.groups g).getD []

/-- The members of the open pass's group that are in the settled membership: a lost member sends and receives no message
(R92), and is passed over in every list (R267). -/
def State.passGroup (s : State) : List MemberId :=
  match s.openSeq with
  | some q => (s.groupList (q.group.getD 0)).filter s.isSettled
  | none => []

/-! ### Placement (R325) -/

/-- An expert entry of a placement table. -/
structure PlaceEntry where
  copies : Nat
  home   : MemberId
  homeRaw : Nat
  slotHi : Nat
  reps   : List Nat
  slots  : List Nat
  deriving DecidableEq, Repr

def PlaceEntry.parse (b : List Byte) : PlaceEntry :=
  { copies := field (le b 0 1) 0 4, home := BitVec.ofNat 10 (le b 2 2), homeRaw := le b 2 2, slotHi := le b 4 1,
    reps := (List.range 8).map (fun k => le b (8 + 2 * k) 2), slots := (List.range 8).map (fun k => le b (0x18 + k) 1) }

/-- Member of replica k. -/
def PlaceEntry.rep (e : PlaceEntry) (k : Nat) : MemberId := BitVec.ofNat 10 (e.reps.getD k 0)

/-- Tier of replica k. -/
def PlaceEntry.tier (e : PlaceEntry) (k : Nat) : Nat := field (e.reps.getD k 0) 10 1

/-- Weight slot of replica k. -/
def PlaceEntry.slot (e : PlaceEntry) (k : Nat) : Nat := b2n (bit e.slotHi k) * 256 + e.slots.getD k 0

/-- The replica list (R100). -/
def PlaceEntry.replicas (e : PlaceEntry) : List MemberId := (List.range (min e.copies 8)).map e.rep

def State.placeBase (s : State) : Nat := field (le (s.ltab 0x18 8) 0 8) 0 52

/-- Entry of expert e in table k of a placement base. -/
def State.entryAt (s : State) (base n k e : Nat) : PlaceEntry :=
  PlaceEntry.parse (s.read (base + 64 + k * n * 32 + e * 32) 32)

/-- CUR and PEND of the placement header. -/
def State.placeCur (s : State) : Nat := s.readLe (s.placeBase + 4) 1
def State.placePend (s : State) : Nat := s.readLe (s.placeBase + 5) 1

/-- Current entry of expert e in the open pass's layer. -/
def State.placeEntry (s : State) (e : Nat) : PlaceEntry := s.entryAt s.placeBase s.scoring.e s.placeCur e

/-- Planner of program p (R322), as last taken. -/
def State.plannerOf (s : State) (p : Fin 16) : Fin 16 := Fin.ofNat 16 (s.eff (0xEC08 + 0x40 * p.val) 0 4)

/-- Placement state of program p. -/
def State.placementOf (s : State) (p : Fin 16) : Placement := Tab.get (fun _ => {}) s.placement p.val

/-- A member's copies in the tables of the open pass, and its cold experts, are live: it is settled, and has not been admitted since they came
into use (R92, R421, R428). -/
def State.holdsCopies (s : State) (m : MemberId) : Bool :=
  s.isSettled m && !(s.openSeq.any (fun q => (s.placementOf (s.plannerOf q.prog)).stale.contains m))

/-- The owner of an expert (R75, R92): the first surviving replica, or HOME while cold; none when lost. A HOME that was lost and comes back stays none
until a plan gives the expert a new one. -/
def State.ownerOf (s : State) (e : Nat) : Option MemberId :=
  let p := s.placeEntry e
  (if p.copies = 0 then [p.home] else p.replicas).find? s.holdsCopies

/-- An expert that the current table holds in the quarry tier only. -/
def State.isCold (s : State) (e : Nat) : Bool := (s.placeEntry e).copies == 0

/-- The experts of a member, ascending (R112): position is the local expert number. -/
def State.localExperts (s : State) (m : MemberId) : List Nat :=
  (List.range s.scoring.e).filter (fun e =>
    let p := s.placeEntry e
    if p.copies = 0 then p.home == m else p.replicas.contains m)

/-- SLOTS of the plan record of the planner of program p (R323). -/
def State.planSlots (s : State) (p : Fin 16) : Nat := le (s.placementOf (s.plannerOf p)).plan 6 2

/-- The checks of R479 on one entry. -/
def State.entryOk (s : State) (slots : Nat) (p : PlaceEntry) : Bool :=
  let roster := s.mortar.tree.roster
  p.copies ≤ 8 &&
  (List.range 8).all (fun k => bit (p.reps.getD k 0) 15 == decide (k < p.copies)) &&
  (List.range p.copies).all (fun k => roster.contains (p.rep k) && p.slot k < slots) &&
  decide (p.replicas.eraseDups = p.replicas) &&
  (p.copies != 0 || roster.contains p.home)

/-- The checks of R479. -/
def State.placementOk (s : State) (q : Sequencer) : Bool :=
  let b := s.placeBase
  s.readLe b 1 == q.layer.toNat && s.readLe (b + 2) 2 == s.scoring.e && s.placeCur ≤ 2 &&
  (s.placePend == 3 || s.placePend != s.placeCur) &&
  (List.range s.scoring.e).all (fun e => s.entryOk (s.planSlots q.prog) (s.placeEntry e))

/-! ### Items of a pass (R89, R119, R318, R480) -/

/-- What a member does with an item of a pass. -/
inductive ItemVerdict where
  /-- It belongs to the open attempt. -/
  | use
  /-- Discarded silently. -/
  | discard
  /-- Early: held until its pass or attempt opens. -/
  | hold
  /-- Outside the window of R318: EPOCH_WINDOW. -/
  | window
  deriving DecidableEq, Repr

/-- Judges an item by its GEN, LAYER and ATTEMPT. -/
def State.judge (s : State) (gen : BitVec 16) (layer : BitVec 8) (attempt : BitVec 2) : ItemVerdict :=
  let d := (gen - s.sched.curGen).toNat
  if d = 1 then .hold
  else if d = 0 then
    if layer ≠ s.sched.curLayer then .discard
    else match s.openSeq with
      | none => .discard
      | some _ =>
        if s.sched.curAttempt.toNat < attempt.toNat then .hold
        else if attempt = s.sched.curAttempt ∧ s.attemptOpen then .use
        else .discard
  else if 65536 - 1023 ≤ d then .discard
  else .window

/-- The request that stages an inbound frame (R350, R352): requester, level and size. VC0 and VC1 take a reserved buffer, VC2 one of INBOUND at
level 1, VC3 at level 2. -/
def inboundNeeds (vc : BitVec 2) (p : Payload) : Nat × Nat × Nat :=
  if vc.toNat ≤ 1 then (4, 0, 16384) else (2, vc.toNat - 1, max 1 p.bytes.length)

/-- The buffer of the frame under way. -/
def State.rxHandle (s : State) : Option Nat := s.net.rx.bind (·.handle)

/-- DETAIL of a code about the frame under way on a channel (R440): its port and the channel. -/
def State.rxDetail (s : State) (vc : Nat) : Nat := s.net.rx.elim 0 (·.port.val) + 16 * vc

/-- Something that came in a frame still lies in its buffer: cells in staging or waiting for the combine, frames that wait
for a collective's count, early items. -/
def State.inboundHeld (s : State) (h : Nat) : Bool :=
  s.rxHandle == some h || s.early.any (fun e => e.handle == some h) || s.att.staged.any (fun c => c.handle == some h) ||
  s.att.comb.waiting.any (fun w => w.handle == some h) || s.att.collWait.any (fun w => w.handle == some h)

/-- An inbound buffer goes back once nothing lies in it. -/
def State.releaseInbound (s : State) (h : Option Nat) : State :=
  match h with
  | none => s
  | some x => if s.inboundHeld x then s else (s.dropOwn h 2).dropOwn h 4

/-- The frame under way has its place. -/
def State.openRx (s : State) (port : Fin 16) (handle : Option Nat) : State :=
  { s with net := { s.net with rx := some { port := port, handle := handle } } }

/-- The frame under way is handled: its buffer goes back unless something of it stays. -/
def State.closeRx (s : State) : State := ({ s with net := { s.net with rx := none } } : State).releaseInbound s.rxHandle

/-- An accepted frame is staged (R352). -/
def State.stageFrame (s : State) (h : FrameHdr) (p : Payload) : State :=
  let n := inboundNeeds h.vc p
  match s.requestBuffer 0 n.2.2 n.1 n.2.1 true none with
  | (s, .granted b) => s.openRx h.port (some b)
  | (s, _) => s.openRx h.port none

/-- Whether inbound staging is across a level (R352): some class in which INBOUND holds a buffer has reached it. -/
def State.inboundAcross (s : State) (level : Nat → Nat) : Bool :=
  (List.range 6).any (fun c =>
    let k := s.poolClass 0 c
    k.used.any (fun e => e.2 == 2) && level c ≤ k.used.length)

/-- Requests pause on VC2 and VC3 at the throttle watermark and withdraws it below the warn watermark (R252, R352). -/
def State.updatePause (s : State) : State :=
  if s.inboundAcross (s.throttleLevel 0) then s.requestPause true
  else if !(s.inboundAcross (s.warnLevel 0)) && s.pausing then s.requestPause false
  else s

/-- Holds an early item in its frame's buffer (R480). -/
def State.holdEarly (s : State) (h : FrameHdr) (p : Payload) : State :=
  ({ s with early := s.early ++ [{ hdr := h, payload := p, handle := s.rxHandle }] } : State).updatePause

/-- Raises EPOCH_WINDOW for an item outside its window. -/
def State.windowFault (s : State) (m : MemberId) (unit : Nat) : State :=
  s.raise Code.epochWindow { unit := unit, member := some m }

/-- Bytes of a frame in a port's buffer: what the MAC presents, without the FCS (R400). -/
def State.bufferBytes (s : State) (h : FrameHdr) (p : Payload) : Nat := s.frameBytes h.src p - 4

/-- A frame that arrives while the core sleeps (R403): into its port's buffer of 64 KiB; from 32 KiB on the port requests pause
on VC2 and VC3. A VC0 or VC1 frame that finds the buffer full counts as a reserve discard. -/
def State.bufferFrame (s : State) (h : FrameHdr) (p : Payload) : State :=
  let had := (s.power.rxBuffer.filter (fun x => x.1.port == h.port)).foldl (fun n x => n + s.bufferBytes x.1 x.2) 0
  let now := had + s.bufferBytes h p
  if 65536 < now then (if h.vc.toNat ≤ 1 then s.bump 0x21728 else s)
  else
    let s : State := { s with power := { s.power with rxBuffer := s.power.rxBuffer ++ [(h, p)] } }
    if now < 32768 then s
    else
      let k := s.mac h.port.val
      let s := if k.pauseReq = 0 then s.bump 0x21560 else s
      s.setMac h.port.val { k with pauseReq := BitVec.ofNat 8 (2 ^ s.pcp 2) ||| BitVec.ofNat 8 (2 ^ s.pcp 3) }

/-- A frame with its buffer `b` passes the transport's checks and reaches its handler, or is discarded and the buffer goes back. -/
def State.receiveStaged (s : State) (h : FrameHdr) (p : Payload) (b : Nat) (f : State → State) : State :=
  match s.receiveFrame h p with
  | (s, true) => (f (s.openRx h.port (some b))).closeRx
  | (s, false) => s.releaseInbound (some b)

/-- A received frame reaches the payload's handler (R242, R249, R255 to R257, R263, R347, R350 to R352, R402, R403). Frames in another
encapsulation, or on a port that is not enabled, are ignored. Every frame needs a buffer, ACK and SYNC on VC0 too: without one, on VC0 and VC1 it
is discarded and counted, on VC2 and VC3 it waits; where the quota refuses the request it is discarded unacknowledged (DESIGN CHOICE, log
entry 50). -/
def State.receive (s : State) (h : FrameHdr) (p : Payload) (f : State → State) : State :=
  let n := inboundNeeds h.vc p
  if !s.boot.powered || s.held || !s.boot.ready || h.fcsErr || !(s.wireOk h) || !(s.portEnable h.port.val) then s
  else if s.power.state ≠ .run then
    s.bufferFrame h p
  else if !(frameGood s h p) then (s.receiveFrame h p).1
  else if s.overQuota n.1 n.2.2 then (s.bump 0x21708).raise Code.quotaDenied { unit := 13 }
  else if s.hasRoom 0 n.2.2 n.1 n.2.1 then
    match s.receiveFrame h p with
    | (s, true) => (f (s.stageFrame h p)).closeRx
    | (s, false) => s
  else if h.vc.toNat ≤ 1 then s.bump 0x21728
  else (s.requestBuffer 0 n.2.2 n.1 n.2.1 false none (some (.frame h p))).1

end Sys2Proof.Machine
end

