-- ==== Sys2Proof/Machine/Exchange.lean ====
section
/-! DEFINITION. Counts, grants and capacity (04, R73 to R97): count messages, allocation at the owner, application at the
source, replica resolution and first hops (R100 to R103). -/

namespace Sys2Proof.Machine

/-- Changes the open attempt's engine state. -/
def State.modAtt (s : State) (f : Attempt → Attempt) : State := { s with att := f s.att }

/-- A grant block (R73). -/
structure GrantBlock where
  capacity : Nat
  cold     : Nat
  base     : Nat
  timeout  : Nat
  deriving DecidableEq, Repr

def State.grantBlock (s : State) : GrantBlock :=
  let b := s.ltab 0xA0 32
  { capacity := le b 0 4, cold := le b 4 1, base := field (le b 8 8) 0 52, timeout := le b 0x10 4 }

/-- The checks of R74. -/
def GrantBlock.ok (g : GrantBlock) : Bool :=
  g.capacity ≤ 16777215 && g.cold ≤ 8 && g.base % 8 == 0 && 1250 ≤ g.timeout

/-! ### The source's choices -/

/-- What a selection record says (R67). -/
structure SelRec where
  token   : Nat
  ordinal : Nat
  pos     : Nat
  cls     : Nat
  invalid : Bool
  experts : List Nat
  gates   : List Nat
  deriving DecidableEq, Repr

/-- The selection record of token t, as SELECT wrote it. -/
def State.selRec (s : State) (t : Nat) : SelRec :=
  let b := s.read (s.selection.base + t * 144) 144
  let n := min 16 (le b 8 1)
  { token := t, ordinal := le b 0 4, pos := field (le b 4 4) 0 24, cls := field (le b 4 4) 24 2, invalid := bit (le b 9 1) 0,
    experts := (List.range n).map (fun j => field (le b (0x10 + 8 * j) 2) 0 12),
    gates := (List.range n).map (fun j => le b (0x14 + 8 * j) 4) }

/-- The pass's tokens in token order (R81). -/
def State.tokenOrder (s : State) : List SelRec :=
  sortBy (fun r => r.ordinal * 2 ^ 38 + r.pos * 2 ^ 14 + r.token) ((List.range s.passTokens).map s.selRec)

/-- A triple (expert, class, rank) as one number, in the order of R76. -/
def tripleKey (e c r : Nat) : Nat := e * 64 + c * 16 + r

/-- The triples of the source's choices with their counts, for the experts that have an owner, ascending. -/
def State.demandOf (s : State) : Tab Nat :=
  let all := (List.range s.passTokens).flatMap (fun t =>
    let r := s.selRec t
    r.experts.zipIdx.map (fun p => tripleKey p.1 r.cls p.2))
  (sortBy id all.eraseDups).map (fun k => (k, (all.filter (· == k)).length))

/-- A count entry word (R77) of a triple. -/
def countWord (k n : Nat) : Nat := (n - 1) * 2 ^ 18 + k % 16 * 2 ^ 14 + k / 16 % 4 * 2 ^ 12 + k / 64

/-- The triple and the count of a count entry word. -/
def countTriple (w : Nat) : Nat := tripleKey (field w 0 12) (field w 12 2) (field w 14 4)
def countOf (w : Nat) : Nat := field w 18 14 + 1

/-- Cuts a message's entries into frames of at most n (R78); an empty message is one frame. -/
def framesOf {α : Type} (n : Nat) (l : List α) : List (Nat × List α × Bool) :=
  if l.isEmpty then [(0, [], true)]
  else
    let k := ceilDiv l.length n
    (List.range k).map (fun i => (n * i, (l.drop (n * i)).take n, i + 1 == k))

/-- An exchange message's frames. -/
def exchFrames (q : Sequencer) (me : MemberId) (limit : Nat) (l : List Nat) : List ExchMsg :=
  (framesOf limit l).map (fun f =>
    { gen := q.gen, sender := me, attempt := q.attempt, layer := q.layer, last := f.2.2, first := BitVec.ofNat 32 f.1,
      total := BitVec.ofNat 32 l.length, entries := f.2.1.map (BitVec.ofNat 32) })

/-- Records entries of one frame at a message; `none` when it repeats entries already received (R89). -/
def ExchIn.add {α : Type} (x : Option (ExchIn α)) (total first : Nat) (l : List α) : Option (ExchIn α) :=
  let m := x.getD { total := total }
  if x.isSome && (l.isEmpty || (l.zipIdx.any (fun p => (Tab.get? m.entries (first + p.2)).isSome))) then none
  else some { m with entries := l.zipIdx.foldl (fun t p => Tab.put t (first + p.2) p.1) m.entries }

/-- Every entry of the message is held. -/
def ExchIn.complete {α : Type} (m : ExchIn α) : Bool := m.entries.length == m.total

/-- A message from every member of the pass's group is complete. -/
def State.allHeld {α : Type} (s : State) (t : Tab (ExchIn α)) : Bool :=
  s.passGroup.all (fun m => match Tab.get? t m.toNat with
    | some x => x.complete
    | none => false)

/-- COUNT (R74 to R77, R479): one message to every member of the group; the one to itself does not leave the block. -/
def State.runCount (s : State) : State :=
  match s.openSeq with
  | none => s
  | some q =>
    let g := s.grantBlock
    let d := s.demandOf
    let owned := d.filterMap (fun p => (s.ownerOf (p.1 / 64)).map (fun o => (o, p.1, p.2)))
    if !g.ok || !(s.placementOk q) || owned.any (fun x => !(s.passGroup.contains x.1)) then
      s.raise Code.illegalInstruction { unit := 5 }
    else
      s.each s.passGroup (fun s m =>
        let l := (owned.filter (fun x => x.1 == m)).map (fun x => countWord x.2.1 x.2.2)
        let s := s.modAtt (fun a => { a with sent := Tab.put a.sent m.toNat l })
        if m = s.me then
          let own : ExchIn (BitVec 32) :=
            { total := l.length, entries := l.zipIdx.map (fun p => (p.2, BitVec.ofNat 32 p.1)) }
          s.modAtt (fun a => { a with countsIn := Tab.put a.countsIn m.toNat own })
        else s.each (exchFrames q s.me 2044 l) (fun s f => s.send m (.count f)))

/-! ### The owner (R80, R86, R91) -/

/-- The count entries received, each with its source. -/
def State.countBins (s : State) : List (MemberId × Nat) :=
  s.att.countsIn.flatMap (fun m => m.2.entries.map (fun e => (BitVec.ofNat 10 m.1, e.2.toNat)))

/-- Entries strictly rising in their triples. -/
def risingTriples : List Nat → Bool
  | a :: b :: t => countTriple a < countTriple b && risingTriples (b :: t)
  | _ => true

/-- Key of a bin (R79): class, rank, source. -/
def binKey (m : MemberId) (w : Nat) : Nat := (field w 12 2 * 16 + field w 14 4) * 1024 + m.toNat

/-- Walks the bins of one expert in key order and grants (R80): source, entry word, granted. -/
def grantBins (capacity : Nat) (bins : List (MemberId × Nat)) : List (MemberId × Nat × Nat) :=
  ((sortBy (fun b => binKey b.1 b.2) bins).foldl (fun (st : Nat × List (MemberId × Nat × Nat)) b =>
    let g := min (countOf b.2) st.1
    (st.1 - g, st.2 ++ [(b.1, b.2, g)])) (capacity, [])).2

/-- Experts with demand at this owner, ascending. -/
def State.demanded (s : State) : List Nat := (sortBy id ((s.countBins.map (fun b => field b.2 0 12)).eraseDups))

/-- The cold experts that win cold slots, in rank order (R86): by the key of the first bin, then the expert index. -/
def State.coldWinners (s : State) : List Nat :=
  let cold := s.demanded.filter s.isCold
  let key (e : Nat) : Nat :=
    ((s.countBins.filter (fun b => field b.2 0 12 == e)).foldl (fun k b => min k (binKey b.1 b.2)) (2 ^ 40)) * 4096 + e
  (sortBy key cold).take s.grantBlock.cold

/-- The grants of this owner: source, count entry word, granted, COLD. -/
def State.grantsMade (s : State) : List (MemberId × Nat × Nat × Bool) :=
  let won := s.coldWinners
  s.demanded.flatMap (fun e =>
    let bins := s.countBins.filter (fun b => field b.2 0 12 == e)
    if s.isCold e && !(won.contains e) then bins.map (fun b => (b.1, b.2, 0, true))
    else (grantBins s.grantBlock.capacity bins).map (fun g => (g.1, g.2.1, g.2.2, false)))

/-- The count messages break R91 at this owner. -/
def State.countsBad (s : State) : Bool :=
  s.countBins.any (fun b => decide (s.scoring.e ≤ field b.2 0 12) || s.ownerOf (field b.2 0 12) != some s.me) ||
  s.att.countsIn.any (fun m => !(risingTriples (m.2.entries.map (fun e => e.2.toNat))))

/-- Allocation at the owner, once it holds every count message and GRANT has started (R80); the grant messages leave. -/
def State.allocate (s : State) : State :=
  match s.openSeq with
  | none => s
  | some q =>
    if s.countsBad then (s.modAtt (fun a => { a with allocated := true })).raise Code.illegalInstruction { unit := 5 }
    else
      let made := s.grantsMade
      let won := s.coldWinners
      let sum (e : Nat) : Nat × Nat :=
        (made.filter (fun g => field g.2.1 0 12 == e)).foldl (fun (n : Nat × Nat) g =>
          (n.1 + countOf g.2.1, n.2 + g.2.2.1)) (0, 0)
      let owned := s.demanded.map (fun e => (e, sum e))
      let mine := (List.range s.scoring.e).filter (fun e => s.ownerOf e == some s.me)
      let s := s.modAtt (fun a => { a with
        allocated := true, owned := owned, coldWon := won, class1 := a.class1 || made.any (fun g => g.2.2.2) })
      let s := (s.bump 0x210A0 (owned.foldl (fun n x => n + x.2.1) 0)).bump 0x210A8 (owned.foldl (fun n x => n + x.2.2) 0)
      let unused := (mine.filter (fun e => (owned.find? (fun x => x.1 == e)).all (fun x => x.2.2 == 0))).length
      let s := (s.bump 0x210B0 unused).bump 0x210B8 won.length
      s.each s.passGroup (fun s m =>
        -- the entries in the order of the source's count entries
        let l := sortBy (fun g => countTriple g.2.1) (made.filter (fun g => g.1 == m))
        let w := l.map (fun g => b2n g.2.2.2 * 2 ^ 15 + g.2.2.1)
        if m = s.me then
          let own : ExchIn (BitVec 32) :=
            { total := w.length, entries := w.zipIdx.map (fun p => (p.2, BitVec.ofNat 32 p.1)) }
          s.modAtt (fun a => { a with grantsIn := Tab.put a.grantsIn m.toNat own })
        else s.each (exchFrames q s.me 4088 w) (fun s f => s.send m (.grant f)))

/-! ### The source (R81 to R84, R87) -/

/-- What became of a choice. -/
inductive Fate where
  | accepted | cold | zero | dropped
  deriving DecidableEq, Repr

/-- The grant of a triple: granted count and COLD; none when the expert has no owner. -/
def State.grantOf (s : State) (k : Nat) : Option (Nat × Bool) :=
  match s.ownerOf (k / 64) with
  | none => none
  | some o =>
    let sent := (Tab.get? s.att.sent o.toNat).getD []
    match sent.findIdx? (fun w => countTriple w == k), Tab.get? s.att.grantsIn o.toNat with
    | some i, some m => (Tab.get? m.entries i).map (fun w => (field w.toNat 0 15, bit w.toNat 15))
    | _, _ => some (0, false)

/-- The fate of every choice (R81), token by token in token order: the count of each triple seen so far runs along. -/
def fateOf (grant : Nat → Option (Nat × Bool)) (order : List SelRec) : List (SelRec × List Fate) :=
  (order.foldl (fun (st : Tab Nat × List (SelRec × List Fate)) r =>
    let step := r.experts.zipIdx.foldl (fun (x : Tab Nat × List Fate) p =>
      let k := tripleKey p.1 r.cls p.2
      let i := (Tab.get? x.1 k).getD 0
      let f : Fate := match grant k with
        | none => .zero
        | some g => if g.2 then .cold else if i < g.1 then .accepted else .dropped
      (Tab.put x.1 k (i + 1), x.2 ++ [f])) (st.1, [])
    (step.1, st.2 ++ [(r, step.2)])) ([], [])).2

/-- Mask of the ranks with a fate. -/
def fateMask (f : Fate) (l : List Fate) : Nat := bitsOf 16 (fun j => l[j]? == some f)

/-- A grant record (R84). -/
def grantRecord (r : SelRec) (l : List Fate) : List Byte :=
  let n := (l.filter (· == .accepted)).length
  leBytes 2 (fateMask .accepted l) ++ leBytes 2 (fateMask .cold l) ++ leBytes 2 (fateMask .zero l) ++ leBytes 1 n ++
  leBytes 1 (b2n (n == 0) + 2 * b2n r.invalid)

/-- The grant messages' TOTALs answer the count messages (R91). -/
def State.grantsBad (s : State) : Bool :=
  s.att.grantsIn.any (fun m => m.2.total != ((Tab.get? s.att.sent m.1).getD []).length)

/-! ### Replicas, first hops, row copies (R98 to R104) -/

/-- A dispatch block (R98). -/
structure DispatchBlock where
  format    : Nat
  sameRack  : Bool
  knight    : Bool
  ctBytes   : Nat
  queue     : Nat
  expin     : Nat
  shape     : Nat
  expinRows : Nat
  deriving DecidableEq, Repr

def State.dispatchBlock (s : State) : DispatchBlock :=
  let b := s.ltab 0xC0 32
  { format := field (le b 0 1) 0 2, sameRack := bit (le b 1 1) 0, knight := bit (le b 1 1) 1, ctBytes := le b 2 2,
    queue := field (le b 4 2) 0 12, expin := field (le b 8 8) 0 52, shape := field (le b 0x10 8) 0 52,
    expinRows := le b 0x18 4 }

/-- The checks of R99. -/
def DispatchBlock.ok (d : DispatchBlock) : Bool :=
  d.format ≤ 2 && (d.ctBytes == 0 || (d.ctBytes % 64 == 0 && 64 ≤ d.ctBytes && d.ctBytes ≤ 8192)) && d.expin % 64 == 0 &&
  d.shape % 8 == 0

/-- The hash of R101. -/
def choiceHash (ordinal pos layer : Nat) : Nat := (crc32c (leBytes 4 ordinal ++ leBytes 3 pos ++ leBytes 1 layer)).toNat

/-- The replica chosen for a choice (R100); HOME for a cold expert. -/
def State.chooseReplica (s : State) (d : DispatchBlock) (layer : Nat) (r : SelRec) (e : Nat) : Option MemberId :=
  let p := s.placeEntry e
  let all := (if p.copies = 0 then [p.home] else p.replicas).filter s.holdsCopies
  let near := all.filter (fun m => rackOf m == rackOf s.me)
  let cand := if d.sameRack && !near.isEmpty then near else all
  cand[choiceHash r.ordinal r.pos layer * cand.length / 2 ^ 32]?

/-- The appliance has one rack. -/
def State.oneRack (s : State) : Bool := (s.mortar.tree.roster.map rackOf).eraseDups.length ≤ 1

/-- The first hop of a choice (R102). -/
def State.firstHop (s : State) (d : DispatchBlock) (m : MemberId) : MemberId :=
  if rackOf m = rackOf s.me || !d.knight || s.oneRack then m
  else
    let mirror := BitVec.ofNat 10 (rackOf m * 256 + s.me.toNat % 256)
    if s.isSettled mirror then mirror else m

/-- The row copies of one token (R103), ROW still open. -/
def State.tokenCopies (s : State) (d : DispatchBlock) (layer : Nat) (r : SelRec) (l : List Fate) : List RowCopy :=
  let acc := (r.experts.zip l).zipIdx.filter (fun p => p.1.2 == .accepted)
  let tg := acc.filterMap (fun p => (s.chooseReplica d layer r p.1.1).map (fun m =>
    (s.firstHop d m, ({ member := m, expert := p.1.1, rank := p.2, row := 0 } : Target2))))
  (tg.map (·.1)).eraseDups.map (fun h => { token := r.token, hop := h, targets := (tg.filter (fun x => x.1 == h)).map (·.2) })

/-- Assigns ROW within a chunk (R104): targets of the same (member, expert) of tokens of lower index. Copies come by rising
token. -/
def assignRows (l : List RowCopy) : List RowCopy :=
  l.map (fun c =>
    let before := l.flatMap (fun o => if o.token < c.token then o.targets else [])
    let row (t : Target2) : Nat := before.countP (fun o => o.member == t.member && o.expert == t.expert)
    { c with targets := c.targets.map (fun t => { t with row := row t }) })

/-- The copies of every chunk (R100 to R104). -/
def State.resolveAll (s : State) (layer : Nat) (fates : List (SelRec × List Fate)) : Tab (List RowCopy) :=
  let d := s.dispatchBlock
  let byToken := sortBy (fun f => f.1.token) fates
  (List.range (s.att.chunks.getD 0)).map (fun c =>
    let mine := byToken.filter (fun f => f.1.token / s.chunkTokens == c)
    (c, assignRows (mine.flatMap (fun f => s.tokenCopies d layer f.1 f.2))))

/-- Applies the grants (R81 to R84, R87, R97): grant records, counts, codes once per layer pass, its replays included, resolved row
copies. -/
def State.applyGrants (s : State) (q : Sequencer) : State :=
  let g := s.grantBlock
  let fates := fateOf s.grantOf s.tokenOrder
  let count (f : Fate) : Nat := fates.foldl (fun n x => n + (x.2.filter (· == f)).length) 0
  let copies := s.resolveAll q.layer.toNat fates
  let skipped := (fates.filter (fun x => !(x.2.contains .accepted))).length
  let s := s.each fates (fun s x => s.write (g.base + 8 * x.1.token) (grantRecord x.1 x.2))
  let s := s.modAtt (fun a => { a with copies := copies, class1 := a.class1 || 0 < count .cold || 0 < count .zero })
  let drop := count .dropped + count .zero
  let s := ((s.bump 0x21080 (count .accepted)).bump 0x21088 drop).bump 0x21090 (count .cold)
  let s := s.bump 0x21098 skipped
  let s := if drop = 0 then s else s.raiseOnce Code.capacitySkip { unit := 5 }
  if count .cold = 0 then s else s.raiseOnce Code.coldSkip { unit := 5 }

end Sys2Proof.Machine
end

