-- ==== Sys2Proof/Machine/Sending.lean ====
section
/-! DEFINITION. Sorting and sending tokens (05, R98 to R126): manifests, row formats and cells, SORT, DISPATCH, forwarding at a
mirror, the receive side, tiles and tile pop. -/

namespace Sys2Proof.Machine

/-! ### Rows and cells (R106 to R109) -/

/-- Format code of R180 for a row format of R98 or R127. -/
def rowCode (fmt : Nat) : Nat := if fmt = 0 then 6 else if fmt = 1 then 9 else 1

/-- Bytes per group (R107). -/
def groupSize (fmt : Nat) : Nat := if fmt = 0 then 33 else if fmt = 1 then 17 else 64

/-- Row size RS. -/
def rowSize (fmt d : Nat) : Nat := d / 32 * groupSize fmt

/-- Cells of a row (R108). -/
def cellCount (fmt d : Nat) : Nat := ceilDiv (d / 32) (8032 / groupSize fmt)

/-- Groups of cell i of n, and the first group (R108). -/
def cellGroups (g n i : Nat) : Nat × Nat :=
  let base := g / n
  let extra := g % n
  (base + b2n (decide (i < extra)), i * base + min i extra)

/-- Router input row t of the open pass in a row format (R106). -/
def State.dispatchRow (s : State) (fmt t : Nat) : List Byte :=
  let b := s.scoring
  if fmt = 2 then s.read (s.inputBase + t * 2 * b.d) (2 * b.d) else rowData (rowCode fmt) (s.routerRow b t)

/-- The cell header fields of this member (R109). -/
def State.ownHdr (s : State) (q : Sequencer) (fmt chunk : Nat) : CellHdr :=
  { format := BitVec.ofNat 2 fmt, gen := q.gen, source := s.me, attempt := q.attempt, layer := q.layer,
    chunk := BitVec.ofNat 8 chunk }

/-- Cell i of a row copy (R109). -/
def State.dispatchCellOf (s : State) (q : Sequencer) (c : RowCopy) (row : List Byte) (i : Nat) : DispatchCell :=
  let d := s.dispatchBlock
  let r := s.selRec c.token
  let n := cellCount d.format s.scoring.d
  let g := cellGroups (s.scoring.d / 32) n i
  let gs := groupSize d.format
  let x : DispatchCell :=
    { h := s.ownHdr q d.format (c.token / s.chunkTokens), ordinal := BitVec.ofNat 32 r.ordinal, pos := BitVec.ofNat 24 r.pos,
      token := BitVec.ofNat 14 c.token, cell := BitVec.ofNat 4 i, cellsM1 := BitVec.ofNat 4 (n - 1),
      targets := c.targets.map (fun t => { member := t.member, expert := BitVec.ofNat 12 t.expert,
                                           rank := BitVec.ofNat 4 t.rank, row := BitVec.ofNat 16 t.row }),
      gFirst := BitVec.ofNat 16 g.2, gCount := BitVec.ofNat 16 g.1, data := slice row (g.2 * gs) (g.1 * gs), crc := 0 }
  { x with crc := crc32c (x.bytes 0) }

/-- The cells of a row copy. -/
def State.copyCells (s : State) (q : Sequencer) (c : RowCopy) : List DispatchCell :=
  let d := s.dispatchBlock
  let row := s.dispatchRow d.format c.token
  (List.range (cellCount d.format s.scoring.d)).map (s.dispatchCellOf q c row)

/-- Bytes of a cell. -/
def cellBytes (c : Cell) : Nat := (c.bytes 0).length

/-- Packs whole cells into frame payloads of at most 8,192 B, in order (R108). -/
def packCells (l : List Cell) : List (List Cell) :=
  let r := l.foldl (fun (st : List (List Cell) × List Cell × Nat) c =>
    let n := cellBytes c
    if st.2.2 + n ≤ 8192 then (st.1, st.2.1 ++ [c], st.2.2 + n)
    else (st.1 ++ [st.2.1], [c], n)) ([], [], 0)
  (r.1 ++ [r.2.1]).filter (fun x => !x.isEmpty)

/-- Sends cells to a member. -/
def State.sendCells (s : State) (m : MemberId) (l : List Cell) : State :=
  s.each (packCells l) (fun s cs => s.send m (.cells cs))

/-! ### Manifests (R111) -/

/-- Entries of the manifest for member m: targets by (expert, chunk), ascending. -/
def State.manifestFor (s : State) (m : MemberId) : List ManifestEntry :=
  let keys := s.att.copies.flatMap (fun c => c.2.flatMap (fun r =>
    (r.targets.filter (fun t => t.member == m)).map (fun t => t.expert * 256 + c.1)))
  (sortBy id keys.eraseDups).map (fun k =>
    { expert := BitVec.ofNat 12 (k / 256), chunk := BitVec.ofNat 8 (k % 256), rows := BitVec.ofNat 32 (keys.count k) })

/-- The cells of a manifest. -/
def State.manifestCells (s : State) (q : Sequencer) (l : List ManifestEntry) : List Cell :=
  (framesOf 1020 l).map (fun f =>
    let x : ManifestCell := { h := s.ownHdr q s.dispatchBlock.format 0, first := BitVec.ofNat 32 f.1,
                              total := BitVec.ofNat 32 l.length, entries := f.2.1, crc := 0 }
    .manifest { x with crc := crc32c (x.bytes 0) })

/-- One manifest to every member of the group; the own one is recorded at once. -/
def State.sendManifests (s : State) (q : Sequencer) : State :=
  s.each s.passGroup (fun s m =>
    let l := s.manifestFor m
    if m = s.me then
      let own : ExchIn ManifestEntry := { total := l.length, entries := l.zipIdx.map (fun p => (p.2, p.1)) }
      s.modAtt (fun a => { a with manIn := Tab.put a.manIn m.toNat own })
    else s.each (s.manifestCells q l) (fun s c => s.send m (.cells [c])))

/-! ### The receive side (R112 to R115, R120) -/

/-- A manifest's entries in order. -/
def manList (x : ExchIn ManifestEntry) : List ManifestEntry := x.entries.map (·.2)

/-- ROWS of (expert, chunk) from a source. -/
def State.manRows (s : State) (e c : Nat) (src : MemberId) : Nat :=
  match Tab.get? s.att.manIn src.toNat with
  | none => 0
  | some x => ((manList x).find? (fun m => m.expert.toNat == e && m.chunk.toNat == c)).elim 0 (fun m => m.rows.toNat)

/-- Everything the manifests promise, as (local expert, chunk, source, rows) in region order (R112). -/
def State.region (s : State) : List (Nat × Nat × MemberId × Nat) :=
  let loc := s.localExperts s.me
  let all := s.att.manIn.flatMap (fun m => (manList m.2).filterMap (fun e =>
    (loc.findIdx? (· == e.expert.toNat)).map (fun x => (x, e.chunk.toNat, BitVec.ofNat 10 m.1, e.rows.toNat))))
  sortBy (fun r => (r.1 * 256 + r.2.1) * 1024 + r.2.2.1.toNat) all

/-- First region row of (local expert, chunk, source). -/
def State.regionStart (s : State) (x c : Nat) (src : MemberId) : Nat :=
  (s.region.filter (fun r => (r.1 * 256 + r.2.1) * 1024 + r.2.2.1.toNat < (x * 256 + c) * 1024 + src.toNat)).foldl
    (fun n r => n + r.2.2.2) 0

/-- The tiles of the pass in the order of R14, from the region (R115). -/
def tilesOf (loc : List Nat) (region : List (Nat × Nat × MemberId × Nat)) : List Tile :=
  let placed := (region.foldl (fun (st : Nat × List (Nat × (Nat × Nat × MemberId × Nat))) r =>
    (st.1 + r.2.2.2, st.2 ++ [(st.1, r)])) (0, [])).2
  (sortBy (fun p => (p.2.2.1 * 256 + p.2.1) * 1024 + p.2.2.2.1.toNat) placed).flatMap (fun p =>
    (List.range (ceilDiv p.2.2.2.2 256)).map (fun i =>
      { chunk := p.2.2.1, localNum := p.2.1, expert := loc.getD p.2.1 0, source := p.2.2.2.1, firstRow := p.1 + 256 * i,
        rows := min 256 (p.2.2.2.2 - 256 * i) }))

/-- A shape word (R221). -/
def shapeWord (value : Nat) (gen : BitVec 16) (tag : Nat) : Nat := value % 2 ^ 32 + gen.toNat * 2 ^ 32 + tag * 2 ^ 48

/-- The dispatch shape words (R113). -/
def State.writeDispatchShapes (s : State) (q : Sequencer) : State :=
  let d := s.dispatchBlock
  let loc := s.localExperts s.me
  let region := s.region
  let put (s : State) (off value tag : Nat) : State := s.writeLe (d.shape + off) 8 (shapeWord value q.gen tag)
  let s' := put s 0 loc.length 0x5200
  let s' := put s' 8 (region.foldl (fun n r => n + r.2.2.2) 0) 0x5205
  let s' := put s' 0x10 s.att.tiles.length 0x5206
  let s' := put s' 0x18 0 0
  s'.each loc.zipIdx (fun s' p =>
    let mine := region.filter (fun r => r.1 == p.2)
    let s' := put s' (0x20 + 32 * p.2) (mine.foldl (fun n r => n + r.2.2.2) 0) 0x5201
    let s' := put s' (0x28 + 32 * p.2) (s.att.tiles.countP (fun t => t.localNum == p.2)) 0x5202
    let s' := put s' (0x30 + 32 * p.2) ((region.filter (fun r => r.1 < p.2)).foldl (fun n r => n + r.2.2.2) 0) 0x5203
    put s' (0x38 + 32 * p.2) p.1 0x5204)

/-- A write to a region row is one of its tile's (R115, R392). -/
def State.issueRow (s : State) (row : Nat) : State :=
  match s.att.tiles.find? (fun t => t.firstRow ≤ row && row < t.firstRow + t.rows) with
  | some t => s.hostIssue (.tile (BitVec.ofNat 24 t.firstRow))
  | none => s

/-- Writes the targets of a checked cell that are at this member (R110, R112). -/
def State.placeCell (s : State) (hop : MemberId) (c : DispatchCell) : State :=
  let d := s.dispatchBlock
  let rs := rowSize d.format s.scoring.d
  let loc := s.localExperts s.me
  s.each (c.targets.filter (fun t => t.member == s.me)) (fun s t =>
    let x := (loc.findIdx? (· == t.expert.toNat)).getD 0
    let row := s.regionStart x c.h.chunk.toNat c.h.source + t.row.toNat
    let s := (s.write (d.expin + row * rs + c.gFirst.toNat * groupSize d.format) c.data).issueRow row
    let n := c.cellsM1.toNat + 1
    let old : RegionRow := (Tab.get? s.att.rows row).getD { token := c.token.toNat, rank := t.rank.toNat, hop := hop, count := n }
    let new : RegionRow := { old with cells := if old.cells.contains c.cell.toNat then old.cells else old.cells ++ [c.cell.toNat] }
    let s := s.modAtt (fun a => { a with rows := Tab.put a.rows row new })
    if new.cells.length = n && old.cells.length ≠ n then s.bump 0x210E0 else s)

/-- A target at this member that R120 rejects: no copy of the expert here, or a ROW that the manifest does not give. -/
def State.badTarget (s : State) (c : DispatchCell) : Bool :=
  c.targets.any (fun t => t.member == s.me &&
    (!((s.localExperts s.me).contains t.expert.toNat) ||
     (s.att.laidOut && s.manRows t.expert.toNat c.h.chunk.toNat c.h.source ≤ t.row.toNat)))

/-- Writes a cell, or raises R120. -/
def State.settleCell (s : State) (hop : MemberId) (c : DispatchCell) : State :=
  if s.badTarget c then s.raise Code.illegalInstruction { unit := 7, chunk := some c.h.chunk.toNat }
  else s.placeCell hop c

/-- Entries strictly rising in (expert, chunk). -/
def risingManifest : List ManifestEntry → Bool
  | a :: b :: t =>
    (a.expert.toNat * 256 + a.chunk.toNat < b.expert.toNat * 256 + b.chunk.toNat) && risingManifest (b :: t)
  | _ => true

/-- A manifest that R120 rejects. -/
def State.manifestsBad (s : State) : Bool :=
  let loc := s.localExperts s.me
  s.att.manIn.any (fun m => !(risingManifest (manList m.2)) ||
    (manList m.2).any (fun e => e.rows == 0 || !(loc.contains e.expert.toNat)))

/-- The code that a program's pops answer when no descriptor is ready. -/
def State.setPop (s : State) (p : Fin 16) (code : Nat) : State :=
  { s with sched := { s.sched with popCode := Tab.put s.sched.popCode p.val code } }

/-- The layout, once every manifest is held (R112 to R114, R117); the cells in staging are written. A manifest that R120 rejects raises its code here,
once all are held (DESIGN CHOICE, log entry 135). -/
def State.layoutRegion (s : State) : State :=
  match s.openSeq with
  | none => s
  | some q =>
    if s.att.laidOut || !(s.allHeld s.att.manIn) || !s.attemptOpen then s
    else if s.manifestsBad then s.raise Code.illegalInstruction { unit := 7 }
    else
      let region := s.region
      let total := region.foldl (fun n r => n + r.2.2.2) 0
      if s.dispatchBlock.expinRows < total then
        ((s.each s.att.staged (fun s c => s.releaseInbound c.handle)).modAtt (fun a => { a with staged := [] })).raise
          Code.shapeRange { unit := 7 }
      else
        let tiles := tilesOf (s.localExperts s.me) region
        let held := s.att.staged
        let s := s.modAtt (fun a => { a with laidOut := true, tiles := tiles, staged := [] })
        let s := s.writeDispatchShapes q
        let s := if tiles.isEmpty then s.setPop q.prog 2 else s
        (s.each held (fun s c => (s.settleCell c.hop c.cell).releaseInbound c.handle)).updatePause

/-! ### GRANT's completion, SORT and DISPATCH -/

/-- Send order (R104): buckets from the one after this member's id, cyclically. -/
def hopOrder (me hop : MemberId) : Nat := (hop - me - 1).toNat

/-- SORT of chunk c (R99, R104). -/
def State.sortChunk (s : State) (c : Nat) : State :=
  if !s.dispatchBlock.ok then s.raise Code.illegalInstruction { unit := 5, chunk := some c }
  else
    let l := sortBy (fun r => hopOrder s.me r.hop) ((Tab.get? s.att.copies c).getD [])
    s.modAtt (fun a => { a with sorted := Tab.put a.sorted c l })

/-- The hop is a mirror for this copy (R102). -/
def State.isKnight (s : State) (h : MemberId) : Bool :=
  s.dispatchBlock.knight && !s.oneRack && rackOf h != rackOf s.me && h.toNat % 256 == s.me.toNat % 256

/-- DISPATCH of chunk c (R103, R104, R108): local copies go to the own region, the others leave as cells. -/
def State.dispatchChunk (s : State) (c : Nat) : State :=
  match s.openSeq with
  | none => s
  | some q =>
    let l := (Tab.get? s.att.sorted c).getD []
    let away := l.filter (fun r => r.hop != s.me)
    let s' := s.each (away.map (·.hop)).eraseDups (fun s' h =>
      s'.sendCells h (((away.filter (fun r => r.hop == h)).flatMap (s.copyCells q)).map Cell.dispatch))
    let s' := (s'.bump 0x210C0 away.length).bump 0x210D0 (away.countP (fun r => s.isKnight r.hop))
    s'.each ((l.filter (fun r => r.hop == s.me)).flatMap (s.copyCells q)) (fun s' x =>
      let y : StagedCell := { hop := s.me, cell := x, handle := none }
      if s'.att.laidOut then s'.settleCell s.me x else s'.modAtt (fun a => { a with staged := a.staged ++ [y] }))

/-! ### Cells received (R110, R118, R119) -/

/-- Asks the cell's source for a good copy (R110, R132, R248). -/
def State.requestCell (s : State) (from_ : MemberId) (r : CellReq) : State := s.send from_ (.cellRequest [r])

/-- A discarded cell of KIND 1 (R110). -/
def State.cellCrcFail (s : State) (hop : MemberId) (c : Cell) (r : CellReq) (ask : MemberId) : State :=
  let s := (s.bump 0x210F8).raiseOnce Code.frameCrc
    { unit := 7, member := some hop, chunk := some c.hdr.chunk.toNat, detail := s.rxDetail 2 }
  s.requestCell ask r

/-- The members that a mirror forwards a cell to: its distinct target members but itself (R118). -/
def State.fanHops (s : State) (c : DispatchCell) : List MemberId := ((c.targets.map (·.member)).eraseDups).filter (· != s.me)

/-- A fan-out cell leaves to its target members, bytes unchanged (R118); its buffer, where FANOUT has one, is held until every copy is
acknowledged. -/
def State.fanCell (s : State) (c : DispatchCell) (handle : Option Nat) : State :=
  let hops := s.fanHops c
  let p : Payload := .cells [.dispatch c]
  let s := match handle with
    | some h =>
      let x : FanOut := { handle := h, peers := hops, payload := p }
      s.modAtt (fun a => { a with fanout := a.fanout ++ [x] })
    | none => s
  let s := if c.cell = 0 then s.bump 0x210D8 hops.length else s
  s.each hops (fun s m => s.send m p)

/-- A mirror forwards a fan-out cell (R118): once FANOUT has a buffer for it (R347, R351). A denied request holds nothing up (DESIGN CHOICE,
log entry 50). -/
def State.forwardCell (s : State) (c : DispatchCell) : State :=
  if (s.fanHops c).isEmpty then s
  else match s.requestBuffer 0 (max 1 (cellBytes (.dispatch c))) 3 1 false none (some (.fanOut c)) with
    | (s, .granted h) => s.fanCell c (some h)
    | (s, .waits) => s
    | (s, _) => s.fanCell c none

/-- A mirror keeps the target list of a copy that it forwards (R143). -/
def State.noteCopy (s : State) (c : DispatchCell) : State :=
  s.modAtt (fun a => { a with comb := { a.comb with
    copiesIn := Tab.put a.comb.copiesIn (16384 * c.h.source.toNat + c.token.toNat) c.targets } })

/-- This member is the mirror of a cell that came straight from its source (R102, R118). -/
def State.mirrorsFor (s : State) (hop : MemberId) (c : DispatchCell) : Bool :=
  hop == c.h.source && s.dispatchBlock.knight && rackOf c.h.source != rackOf s.me &&
  c.h.source.toNat % 256 == s.me.toNat % 256

/-- Fan-out buffers whose copies are all acknowledged go back to the pool (R118). -/
def State.sweepFanout (s : State) : State :=
  let busy (f : FanOut) : Bool := f.peers.any (fun m =>
    let k := s.pair (pairKey m 2)
    k.unacked.any (fun x => x.payload == f.payload) || k.waiting.contains f.payload)
  let gone := s.att.fanout.filter (fun f => !(busy f))
  (s.each gone (fun s f => s.dropOwn (some f.handle) 3)).modAtt (fun a => { a with fanout := s.att.fanout.filter busy })

/-- The return hop of a row from another member (R130): the mirror that the knight hop leads through (R102), which may be this
member itself, else the source. A cell that the source sent again straight to this member changes nothing here. -/
def State.returnHop (s : State) (src : MemberId) : MemberId :=
  let mirror := BitVec.ofNat 10 (rackOf s.me * 256 + src.toNat % 256)
  if s.dispatchBlock.knight && !s.oneRack && rackOf src != rackOf s.me && s.isSettled mirror then mirror else src

/-- A mirror takes note of a copy, and forwards each of its cells once, checked or not (R110, R118). -/
def State.mirrorCell (s : State) (hop : MemberId) (c : DispatchCell) : State :=
  let key := (c.h.source.toNat, c.token.toNat, c.cell.toNat)
  if !(s.mirrorsFor hop c) then s
  else if s.att.fanned.contains key then s.noteCopy c
  else ((s.noteCopy c).modAtt (fun a => { a with fanned := key :: a.fanned })).forwardCell c

/-- A dispatch cell of the open attempt (R110, R112, R118 to R120). -/
def State.takeDispatch (s : State) (hop : MemberId) (c : DispatchCell) : State :=
  let key := (c.h.source.toNat, c.token.toNat, c.cell.toNat)
  let mine := c.targets.any (fun t => t.member == s.me)
  if s.att.seen.contains key then s
  else
    let s := s.mirrorCell hop c
    if mine && !(Cell.good (.dispatch c)) then
      s.cellCrcFail hop (.dispatch c)
        { gen := c.h.gen, requester := s.me, attempt := c.h.attempt, layer := c.h.layer, kind := 1,
          cell := BitVec.ofNat 8 c.cell.toNat, token := c.token, owner := 0, expert := 0, rank := 0 } c.h.source
    else
      let s := s.modAtt (fun a => { a with seen := key :: a.seen })
      if !mine then s
      else if s.att.laidOut then s.settleCell (s.returnHop c.h.source) c
      else if s.badTarget c then s.raise Code.illegalInstruction { unit := 7, chunk := some c.h.chunk.toNat }
      else
        let y : StagedCell := { hop := s.returnHop c.h.source, cell := c, handle := s.rxHandle }
        (s.modAtt (fun a => { a with staged := a.staged ++ [y] })).updatePause

/-- A manifest cell of the open attempt (R111, R119, R120). -/
def State.takeManifest (s : State) (c : ManifestCell) : State :=
  let m := c.h.source.toNat
  match ExchIn.add (Tab.get? s.att.manIn m) c.total.toNat c.first.toNat c.entries with
  | none => s
  | some x => (s.modAtt (fun a => { a with manIn := Tab.put a.manIn m x })).layoutRegion

/-- Rebuilds a dispatch cell for a member that asks for it, and sends it there directly (R110, R248). -/
def State.resendDispatch (s : State) (r : CellReq) : State :=
  match s.openSeq with
  | none => s
  | some q =>
    let copies := s.att.copies.flatMap (·.2)
    match copies.find? (fun c => c.token == r.token.toNat &&
        (c.hop == r.requester || c.targets.any (fun t => t.member == r.requester))) with
    | none => s
    | some c =>
      match (s.copyCells q c)[r.cell.toNat]? with
      | some x => s.sendCells r.requester [.dispatch x]
      | none => s

/-! ### Tiles (R115 to R117) -/

/-- Every cell of every row of a tile has passed its check. -/
def State.tileReady (s : State) (t : Tile) : Bool :=
  (List.range t.rows).all (fun i => match Tab.get? s.att.rows (t.firstRow + i) with
    | some r => r.cells.length == r.count
    | none => false)

/-- A tile descriptor (R116). -/
def State.descriptor (s : State) (q : Sequencer) (n : Nat) (t : Tile) : List Byte :=
  let d := s.dispatchBlock
  let later := s.att.tiles.drop (n + 1)
  let flags := b2n (s.isCold t.expert) + 2 * b2n (!(later.any (fun x => x.localNum == t.localNum))) + 4 * b2n later.isEmpty
  leBytes 4 (n + q.attempt.toNat * 2 ^ 24) ++ leBytes 2 q.gen.toNat ++ leBytes 1 q.layer.toNat ++ leBytes 1 flags ++
  leBytes 8 (d.expin + t.firstRow * rowSize d.format s.scoring.d) ++ leBytes 4 t.firstRow ++ leBytes 2 t.rows ++
  leBytes 2 t.expert ++ leBytes 1 t.localNum ++ leBytes 1 d.format ++ leBytes 2 t.source.toNat ++ leBytes 1 t.chunk ++
  leBytes 3 0

/-- The descriptors that the tile list holds unread. -/
def State.tileList (s : State) : List (List Byte) :=
  (s.queue s.dispatchBlock.queue).entries.filterMap (fun e => match e with
    | .item i => some i.data
    | _ => none)

/-- The writes of a tile's rows have completed (R115, R392): its rows are all there. -/
def State.tileWritten (s : State) (firstRow : Nat) : State :=
  if s.att.tiles.any (fun t => t.firstRow == firstRow && s.tileReady t) && !(s.att.written.contains firstRow) then
    s.modAtt (fun a => { a with written := firstRow :: a.written })
  else s

/-- Enters the next tile into the tile list when R115 allows it; `staged` says that a tier-1 copy's weights are here
(R339). The list takes no more than its queue holds; drop-newest is not applied to it (R125). -/
def State.enterTile (s : State) (staged : Nat → Bool) : State :=
  match s.openSeq, s.att.tiles[s.att.entered]? with
  | some q, some t =>
    let qn := s.dispatchBlock.queue
    if s.attemptOpen && s.att.tilesOn && s.att.laidOut && s.tileReady t && s.att.written.contains t.firstRow && staged t.expert && s.qEnable qn && s.qRoom qn 32 0
    then
      let n := s.att.entered
      let s := (s.placeItem qn 0 32 (s.descriptor q n t)).bump 0x21730
      (s.modAtt (fun a => { a with entered := n + 1 })).bump 0x210E8
    else s
  | _, _ => s

/-- The descriptor's LAST flag. -/
def descLast (b : List Byte) : Bool := bit (le b 7 1) 2

/-- A code instead of a descriptor (R116). -/
def popAnswer (code : Nat) : Nat := 2 ^ 31 + code

/-- A 32-byte read at the pop address of program p (R117). A marker that a flush of R122 left is passed over: the pop's codes say what it
would. -/
def State.popTile (s : State) (p : Fin 16) : State :=
  let code := (Tab.get? s.sched.popCode p.val).getD 1
  let none_ (s : State) : State := if code = 1 then (s.bump 0x210F0).answer (popAnswer 1) else s.answer (popAnswer code)
  match s.openSeq with
  | none => none_ s
  | some q =>
    if q.prog ≠ p || !s.attemptOpen then none_ s
    else
      let qn := s.dispatchBlock.queue
      match (s.queue qn).entries.dropWhile (fun e => !e.isItem) with
      | .item i :: rest =>
        let s := s.setQueue qn { s.queue qn with entries := rest }
        let s := if descLast i.data then s.setPop p 2 else s
        s.answer (ofLe i.data)
      | _ => none_ s

/-! ### Timers (R90, R121) -/

/-- A timer of the exchange expires: COLLECTIVE_TIMEOUT (R90, R121). -/
def State.exchangeExpired (s : State) (at_ : Nat) (unit : Nat) : State :=
  (s.until at_).raise Code.collectiveTimeout { unit := unit }

/-- EXCHANGE_TIMEOUT since GRANT started, with a message missing (R90). -/
def State.exchangeTimer (s : State) : State :=
  match s.att.grantAt with
  | none => s
  | some t =>
    if s.attemptOpen && s.att.grantDone.isNone && (!(s.allHeld s.att.countsIn) || !(s.allHeld s.att.grantsIn)) then
      s.exchangeExpired (t + s.grantBlock.timeout) 5
    else s

/-- EXCHANGE_TIMEOUT since GRANT completed, with a manifest missing (R121). -/
def State.manifestTimer (s : State) : State :=
  match s.att.grantDone with
  | none => s
  | some t =>
    if s.attemptOpen && !(s.allHeld s.att.manIn) then s.exchangeExpired (t + s.grantBlock.timeout) 7 else s

/-- EXCHANGE_TIMEOUT after the end of the slot, with a promised row incomplete (R121). -/
def State.rowTimer (s : State) : State :=
  if s.attemptOpen && s.att.laidOut && s.att.tiles.any (fun t => !(s.tileReady t)) then
    s.exchangeExpired (s.sched.tEnd + s.grantBlock.timeout) 7
  else s

end Sys2Proof.Machine
end

