-- ==== Sys2Proof/Machine/Combining.lean ====
section
/-! DEFINITION. Returning and combining (06, R127 to R152): return rows and their window, the accumulators, rounding, the shared
expert, rack pre-combine at a mirror, gate notes, partials, timers. -/

namespace Sys2Proof.Machine

/-! ### The combine block (R127, R128) -/

structure CombineBlock where
  fmt      : Nat
  pre      : Bool
  outFp32  : Bool
  headroom : Nat
  eFloor   : Int
  tileTime : Nat
  expout   : Nat
  resid    : Nat
  shared   : Nat
  sgate    : Nat
  out      : Nat
  deriving DecidableEq, Repr

def State.combineBlock (s : State) : CombineBlock :=
  let b := s.ltab 0xE0 64
  let addr (off : Nat) : Nat := field (le b off 8) 0 52
  { fmt := field (le b 0 1) 0 2, pre := bit (le b 1 1) 0, outFp32 := bit (le b 1 1) 1, headroom := le b 2 1,
    eFloor := signed 8 (le b 3 1), tileTime := le b 4 4, expout := addr 8, resid := addr 0x10, shared := addr 0x18,
    sgate := addr 0x20, out := addr 0x28 }

/-- The checks of R128. -/
def CombineBlock.ok (c : CombineBlock) : Bool :=
  (c.fmt == 0 || c.fmt == 2) && c.headroom ≤ 24 && decide (-126 ≤ c.eFloor) && (c.tileTime == 0 || 1250 ≤ c.tileTime) &&
  c.expout % 64 == 0 && c.resid % 64 == 0 && c.shared % 64 == 0 && c.sgate % 4 == 0 && c.out % 64 == 0 && c.out != 0

/-- Changes the combine state. -/
def State.modComb (s : State) (f : CombineState → CombineState) : State := s.modAtt (fun a => { a with comb := f a.comb })

/-! ### Terms (R134 to R136) -/

/-- The grid exponent of a token from its router input row (R134). -/
def gridExp (c : CombineBlock) (t : Nat) (row : List FV) : Int :=
  if row.any (fun v => !v.isFin) then signed 16 (Config.openETok t)
  else
    let a := amax row
    max (if a = 0 then -133 else floorLog2 a) c.eFloor + c.headroom

/-- E_tok of an own token. -/
def State.eTok (s : State) (t : Nat) : Int := gridExp s.combineBlock t (s.routerRow s.scoring t)

/-- G of R135. -/
def guardBits (kMax : Nat) : Nat := max 1 (if kMax ≤ 1 then 0 else Nat.log2 (kMax - 1) + 1)

/-- The integer of a term's element (R135); none when it fails its guard. -/
def termInt (g : Nat) (e : Int) (v : FV) : Option Int :=
  match v with
  | .fin _ _ =>
    let q := rnInt (v.rat / pow2 (e - 40))
    if q.natAbs < 2 ^ (62 - g) then some q else none
  | _ => none

/-- The integers of a term; none when an element fails its guard. -/
def termInts (g : Nat) (e : Int) : List FV → Option (List Int)
  | [] => some []
  | v :: t => match termInt g e v, termInts g e t with
    | some q, some l => some (q :: l)
    | _, _ => none

/-- ρ of a word (R136). -/
def rho (w : BitVec 64) : Nat := w.toNat % 255

/-- One word add: the sum and the residue (R136). -/
def addWord (w q : BitVec 64) (r : Nat) : BitVec 64 × Nat :=
  let carry := b2n (decide (2 ^ 64 ≤ w.toNat + q.toNat))
  (w + q, (r + rho q + 255 - carry) % 255)

/-- Adds words to a group with its residue. -/
def addGroup : List (BitVec 64) → List (BitVec 64) → Nat → List (BitVec 64) × Nat
  | w :: ws, q :: qs, r =>
    let x := addWord w q r
    let y := addGroup ws qs x.2
    (x.1 :: y.1, y.2)
  | ws, _, r => (ws, r)

/-- Adds a row of words, group by group. -/
def addRow (words qs : List (BitVec 64)) (residues : List Nat) : List (BitVec 64) × List Nat :=
  let g := ((chunksOf 32 words).zip (chunksOf 32 qs)).zip residues
  let r := g.map (fun x => addGroup x.1.1 x.1.2 x.2)
  (r.flatMap (·.1), r.map (·.2))

/-- Words of the integers of a term. -/
def termWords (l : List Int) : List (BitVec 64) := l.map (fun q => BitVec.ofNat 64 (twos 64 q))

/-- Values of a return row (R129). -/
def returnValues (fmt d : Nat) (b : List Byte) : List FV := rowValues (rowCode fmt) d b

/-! ### Tokens at the owner (R137 to R141) -/

/-- ACCEPT and ACCEPT_COUNT of token t, from its grant record (R84). -/
def State.acceptOf (s : State) (t : Nat) : Nat × Nat :=
  let b := s.read (s.grantBlock.base + 8 * t) 8
  (le b 0 2, le b 6 1)

/-- GATE_j of token t. -/
def State.gateOf (s : State) (t j : Nat) : FV := f32 ((s.selRec t).gates.getD j 0)

/-- The residual row. -/
def State.residRow (s : State) (t : Nat) : List FV :=
  let d := s.scoring.d
  let c := s.combineBlock
  if c.resid = 0 then List.replicate d .zero else s.bf16Row (c.resid + t * 2 * d) d

/-- Address of output row t. -/
def State.outRow (s : State) (t : Nat) : Nat :=
  let c := s.combineBlock
  c.out + t * (if c.outFp32 then 4 else 2) * s.scoring.d

/-- The copied row of R140, converted exactly: a BF16 element is the upper half of its FP32 form. -/
def State.copyRow (s : State) (t : Nat) : List Byte :=
  let d := s.scoring.d
  let c := s.combineBlock
  let raw : List Nat :=
    if c.resid = 0 then List.replicate d 0 else (List.range d).map (fun i => s.readLe (c.resid + t * 2 * d + 2 * i) 2)
  raw.flatMap (fun w => if c.outFp32 then leBytes 4 (w * 65536) else leBytes 2 w)

/-- A word of an open accumulator is lost: which one, and what stands there, is free, as no rule gives the accumulators' places in the combine store
(DESIGN CHOICE, log entry 110). -/
def State.loseAccum (s : State) : State :=
  let pick (k : Nat) : BitVec 64 := Config.lostWord s.freeCtr k
  let accs := s.att.comb.accs
  (s.modComb (fun c => { c with accs := accs.zipIdx.map (fun x =>
    if x.2 = (pick 0).toNat % accs.length then
      (x.1.1, { x.1.2 with words := x.1.2.words.set ((pick 1).toNat % x.1.2.words.length) (pick 2) })
    else x.1) })).useFree

/-- What the reads of the combine store (store 1) find while rows are added to its accumulators (R436). -/
def State.readAccums (s : State) (finds : List ReadFind) : State :=
  if s.awake && s.attemptOpen then (s.foundWords 1 8 finds).each (finds.filter (·.hard)) (fun s _ => s.loseAccum) else s

/-- A token is done (R16). -/
def State.tokenDone (s : State) (t : Nat) : State :=
  s.modComb (fun c => { c with accs := Tab.erase c.accs t, doneToks := t :: c.doneToks })

/-- A term failed its guard at the owner (R138); the ranks counted so far stay known (R133). -/
def State.guardFail (s : State) (t : Nat) : State :=
  let s := s.modComb (fun c => { c with counted := Tab.put c.counted t (((Tab.get? c.accs t).map (·.ranks)).getD []) })
  ((s.bump 0x21130).raise Code.combineGuard { unit := 8, chunk := some (t / s.chunkTokens) }).tokenDone t

/-- Adds one term to an own token's accumulator. -/
def State.addTerm (s : State) (t : Nat) (vs : List FV) (f : Accum → Accum) : State :=
  match Tab.get? s.att.comb.accs t with
  | none => s
  | some a =>
    match termInts (guardBits s.selection.kMax) a.eTok vs with
    | none => s.guardFail t
    | some l =>
      let r := addRow a.words (termWords l) a.residues
      s.modComb (fun c => { c with accs := Tab.put c.accs t (f { a with words := r.1, residues := r.2 }) })

/-- DETAIL of a residue code (R440): the token, and the first group whose residue differs. -/
def residueDetail (t : Nat) (a b : List Nat) : Nat :=
  t + 2 ^ 14 * (((a.zip b).findIdx? (fun p => p.1 != p.2)).getD 0)

/-- The residues of the stored words (R139 step 1). -/
def wordResidues (words : List (BitVec 64)) : List Nat :=
  (chunksOf 32 words).map (fun g => (g.foldl (fun n w => n + rho w) 0) % 255)

/-- Bytes of a finished row (R139 step 2). -/
def roundRow (fp : Bool) (e : Int) (words : List (BitVec 64)) : List Byte :=
  words.flatMap (fun w =>
    let v := FV.ofRat ((w.toInt : Rat) * pow2 (e - 40))
    if fp then leBytes 4 (toF32 v) else leBytes 2 (toB16 v))

/-- Rounds and writes a token's row when it is complete (R139). -/
def State.finishToken (s : State) (t : Nat) : State :=
  match Tab.get? s.att.comb.accs t with
  | none => s
  | some a =>
    let c := s.combineBlock
    if (c.shared = 0 || a.shared) && a.ranks.length = (s.acceptOf t).2 then
      let s := s.modComb (fun c => { c with whole := t :: c.whole })
      if wordResidues a.words ≠ a.residues then
        (s.raise Code.residueMismatch { unit := 8, chunk := some (t / s.chunkTokens),
                                        detail := residueDetail t (wordResidues a.words) a.residues }).tokenDone t
      else (s.write (s.outRow t) (roundRow c.outFp32 a.eTok a.words)).tokenDone t
    else s

/-- The shared gate of token t (R141). -/
def State.sharedGate (s : State) (t : Nat) : FV :=
  let c := s.combineBlock
  if c.sgate = 0 then .fin false 1 else f32 (s.evalFn fnLogistic .rn fp32 (f32 (s.readLe (c.sgate + 4 * t) 4)))

/-- Adds the shared term of an open token, once the doorbell is in (R141). -/
def State.addShared (s : State) (t : Nat) : State :=
  let c := s.combineBlock
  match Tab.get? s.att.comb.accs t with
  | none => s
  | some a =>
    if c.shared = 0 || a.shared || !s.att.comb.shared then s
    else
      let g := s.sharedGate t
      let y := s.bf16Row (c.shared + t * 2 * s.scoring.d) s.scoring.d
      let s := if c.sgate = 0 then s else
        s.countResults fnLogistic fp32 [(f32 (s.readLe (c.sgate + 4 * t) 4), toF32 g)]
      (s.addTerm t (y.map (FV.mul g)) (fun a => { a with shared := true })).finishToken t

/-- Opens a token's accumulator (R16, R140, R147): a copied row is done at once; else the residual and, when it may, the
shared term is added. -/
def State.openToken (s : State) (t : Nat) : State :=
  let d := s.scoring.d
  let c := s.combineBlock
  let resid := s.residRow t
  let row := s.routerRow s.scoring t
  if (row ++ resid).any (fun v => !v.isFin) || ((s.acceptOf t).2 = 0 && c.shared = 0) then
    ((s.write (s.outRow t) (s.copyRow t)).bump 0x21128).tokenDone t
  else
    let a : Accum := { eTok := s.eTok t, words := List.replicate d 0, residues := List.replicate (d / 32) 0 }
    let s := s.modComb (fun c => { c with accs := Tab.put c.accs t a })
    ((s.addTerm t resid id).addShared t).finishToken t

/-! ### Return cells as built (R108, R129 to R131) -/

/-- Cell i of a return row. -/
def State.returnCellOf (s : State) (q : Sequencer) (n : Nat) (t : Tile) (r : RegionRow) (row : List Byte) (i : Nat) :
    ReturnCell :=
  let c := s.combineBlock
  let k := cellCount c.fmt s.scoring.d
  let g := cellGroups (s.scoring.d / 32) k i
  let gs := groupSize c.fmt
  let x : ReturnCell :=
    { h := s.ownHdr q c.fmt t.chunk, owner := t.source, token := BitVec.ofNat 14 r.token, expert := BitVec.ofNat 12 t.expert,
      rank := BitVec.ofNat 4 r.rank, cell := BitVec.ofNat 4 i, cellsM1 := BitVec.ofNat 4 (k - 1),
      gFirst := BitVec.ofNat 16 g.2, gCount := BitVec.ofNat 16 g.1, tile := BitVec.ofNat 24 n,
      data := slice row (g.2 * gs) (g.1 * gs), crc := 0 }
  { x with crc := crc32c (x.bytes 0) }

/-- The cells of region row `row` of tile n. -/
def State.returnCells (s : State) (q : Sequencer) (n row : Nat) : List ReturnCell :=
  match s.att.tiles[n]?, Tab.get? s.att.rows row with
  | some t, some r =>
    let c := s.combineBlock
    let rs := rowSize c.fmt s.scoring.d
    let b := s.read (c.expout + row * rs) rs
    (List.range (cellCount c.fmt s.scoring.d)).map (s.returnCellOf q n t r b)
  | _, _ => []

/-! ### Contributions at the owner (R132, R133, R135 to R138) -/

/-- Whether an own token takes no further term: it is done. -/
def State.isDone (s : State) (t : Nat) : Bool := s.att.comb.doneToks.contains t

/-- Groups of the cells of a return row, in cell order. -/
def rowOfCells (cs : List ReturnCell) : List Byte :=
  (sortBy (fun c : ReturnCell => c.cell.toNat) cs).flatMap (·.data)

/-- Files a return cell under its row; the row's cells when it is complete. -/
def State.fileReturn (s : State) (c : ReturnCell) : State × Option (List ReturnCell) :=
  let key := (c.owner.toNat, c.token.toNat, c.rank.toNat)
  let cells := ((s.att.comb.retRows.find? (fun r => r.1 == key)).elim [] (·.2)) ++ [c]
  let rest := s.att.comb.retRows.filter (fun r => r.1 != key)
  if cells.length = c.cellsM1.toNat + 1 then (s.modComb (fun k => { k with retRows := rest }), some cells)
  else (s.modComb (fun k => { k with retRows := rest ++ [(key, cells)] }), none)

/-- A contribution that R133 rejects: a token that is none of the pass's, a rank not accepted, or one counted already. -/
def State.badRank (s : State) (t j : Nat) : Bool :=
  s.passTokens ≤ t || !(bit (s.acceptOf t).1 j) ||
  s.att.comb.whole.contains t || ((Tab.get? s.att.comb.counted t).getD []).contains j ||
  (match Tab.get? s.att.comb.accs t with
    | some a => a.ranks.contains j
    | none => false)

/-- A return cell at its owner, checked and open: its row, once complete, is added (R135, R136). -/
def State.addReturn (s : State) (c : ReturnCell) : State :=
  let t := c.token.toNat
  if s.badRank t c.rank.toNat then s.raise Code.illegalInstruction { unit := 8, chunk := some c.h.chunk.toNat }
  else if s.isDone t then s
  else match s.fileReturn c with
    | (s, none) => s
    | (s, some cs) =>
      let g := s.gateOf t c.rank.toNat
      let z := returnValues s.combineBlock.fmt s.scoring.d (rowOfCells cs)
      let s' := s.addTerm t (z.map (FV.mul g)) (fun a => { a with ranks := c.rank.toNat :: a.ranks })
      let s' := if (Tab.get? s'.att.comb.accs t).isSome then s'.bump 0x21110 else s'
      s'.finishToken t

/-- Residue of a partial cell from its words (R146). -/
def partResidueOk (c : PartialCell) : Bool := (c.words.foldl (fun n w => n + rho w) 0) % 255 == c.residue.toNat

/-- The cells of a partial row of d elements (R108, R146): 31 groups of 32 words at most in each. -/
def partCount (d : Nat) : Nat := ceilDiv (d / 32) 31

/-- The index of a partial cell in its row. With d above 15,872 a row has 17 cells, CELL wraps modulo 16, and GROUP_FIRST tells which it is (DESIGN
CHOICE, log entry 118). -/
def State.partIndex (s : State) (c : PartialCell) : Nat :=
  let n := partCount s.scoring.d
  if 16 < n then ((List.range n).find? (fun i => (cellGroups (s.scoring.d / 32) n i).2 == c.gFirst.toNat)).getD c.cell.toNat else c.cell.toNat

/-- The cells of the row that a partial cell belongs to: those that its header gives, or 17 where its field holds no such number. -/
def State.partCells (s : State) (c : PartialCell) : Nat :=
  if 16 < partCount s.scoring.d then partCount s.scoring.d else c.cellsM1.toNat + 1

/-- A rack partial cell at its owner, checked and open (R133, R136, R146). -/
def State.addPartial (s : State) (c : PartialCell) : State :=
  let t := c.token.toNat
  let ranks := (List.range 16).filter (bit c.ranks.toNat)
  if ranks.any (s.badRank t) then s.raise Code.illegalInstruction { unit := 8, chunk := some c.h.chunk.toNat }
  else if s.isDone t then s
  else
    let s := if partResidueOk c then s else
      s.raise Code.residueMismatch { unit := 8, chunk := some c.h.chunk.toNat, detail := t + 2 ^ 14 * (c.gFirst.toNat % 1024) }
    let key := (c.h.source.toNat, t)
    let cells := ((s.att.comb.partRows.find? (fun r => r.1 == key)).elim [] (·.2)) ++ [c]
    let rest := s.att.comb.partRows.filter (fun r => r.1 != key)
    if cells.length ≠ s.partCells c then s.modComb (fun k => { k with partRows := rest ++ [(key, cells)] })
    else
      let s := s.modComb (fun k => { k with partRows := rest })
      match Tab.get? s.att.comb.accs t with
      | none => s
      | some a =>
        let words := (sortBy s.partIndex cells).flatMap (·.words)
        let r := addRow a.words words a.residues
        let a := { a with words := r.1, residues := r.2, ranks := ranks ++ a.ranks }
        ((s.modComb (fun k => { k with accs := Tab.put k.accs t a })).bump 0x21110 ranks.length).finishToken t

/-! ### The combine window (R147, R148) -/

/-- W of R147. -/
def windowRows (d : Nat) : Nat := 33423360 / (8 * d + d / 32)

/-- Chunks that the window holds; 1 when it holds part of one. -/
def State.windowChunks (s : State) : Nat := max 1 (windowRows s.scoring.d / s.chunkTokens)

/-- The chunk limit that this member has, as an owner, sent or set (R148). -/
def State.ownLimit (s : State) : Nat := min 256 (s.att.comb.closed + s.windowChunks)

/-- The limit held for an owner. -/
def State.limitOf (s : State) (m : MemberId) : Nat :=
  if m = s.me then s.ownLimit else max (min 256 s.windowChunks) ((Tab.get? s.att.comb.limits m.toNat).getD 0)

/-- A token has been opened. -/
def State.isOpened (s : State) (t : Nat) : Bool := (Tab.get? s.att.comb.accs t).isSome || s.isDone t

/-- The next token that the window opens (R147). -/
def State.nextToken (s : State) : Option Nat :=
  let k := s.att.comb.closed
  let w := windowRows s.scoring.d
  if s.chunkTokens ≤ w then
    ((List.range s.windowChunks).flatMap (fun i => s.chunkRange (k + i))).find? (fun t => !(s.isOpened t))
  else
    let l := s.chunkRange k
    let live := l.countP (fun t => s.isOpened t && !(s.isDone t))
    if live < w then l.find? (fun t => !(s.isOpened t)) else none

/-- Cells that wait for an own token. -/
def State.takeWaiting (s : State) (t : Nat) : State :=
  let mine (w : WaitCell) : Bool := match w.cell with
    | .ret c => c.owner == s.me && c.token.toNat == t
    | .part c => c.owner == s.me && c.token.toNat == t
    | _ => false
  let go := s.att.comb.waiting.filter mine
  let s' := s.modComb (fun c => { c with waiting := c.waiting.filter (fun w => !(mine w)) })
  (s'.each go (fun s w => match w.cell with
    | .ret c => (s.addReturn c).releaseInbound w.handle
    | .part c => (s.addPartial c).releaseInbound w.handle
    | _ => s))

/-- A window note of this owner (R148). -/
def State.sendWindowNotes (s : State) : State :=
  match s.openSeq with
  | none => s
  | some q =>
    s.each (s.passGroup.filter (· != s.me)) (fun s m =>
      s.send m (.windowNote { gen := q.gen, sender := s.me, attempt := q.attempt, layer := q.layer,
                              limit := BitVec.ofNat 16 s.ownLimit }))

/-- Chunks close and tokens open as far as they can (R16, R147, R148). -/
def State.runWindow : Nat → State → State
  | 0, s => s
  | n + 1, s =>
    let k := s.att.comb.closed
    if k < s.att.chunks.getD 0 && (s.chunkRange k).all s.isDone then
      State.runWindow n (s.modComb (fun c => { c with closed := k + 1 })).sendWindowNotes
    else match s.nextToken with
      | some t => State.runWindow n ((s.openToken t).takeWaiting t)
      | none => s

/-- Cells that wait for a token that the pass does not have are rejected, once GRANT is done (R133). -/
def State.rejectWaiting (s : State) : State :=
  let bad (w : WaitCell) : Option Nat := match w.cell with
    | .ret c => if c.owner == s.me && s.passTokens ≤ c.token.toNat then some c.token.toNat else none
    | .part c => if c.owner == s.me && s.passTokens ≤ c.token.toNat then some c.token.toNat else none
    | _ => none
  s.each (s.att.comb.waiting.filterMap bad) State.takeWaiting

/-- Progress of COMBINE. -/
def State.combineProgress (s : State) : State :=
  if s.att.comb.combining && s.attemptOpen && s.att.grantDone.isSome then
    s.runWindow (2 * s.passTokens + s.att.chunks.getD 0 + 1)
  else s

/-- COMBINE is complete: every chunk is closed. -/
def State.combineDone (s : State) : Bool := s.att.comb.combining && s.att.chunks == some s.att.comb.closed

/-! ### A mirror (R143 to R146) -/

/-- The gate note of a source is whole. -/
def State.noteWhole (s : State) (src : MemberId) : Bool :=
  match Tab.get? s.att.comb.gateIn src.toNat with
  | some x => x.complete
  | none => false

/-- The entry of a token in its source's gate note. -/
def State.gateEntry (s : State) (src : MemberId) (t : BitVec 14) : Option GateEntry :=
  match Tab.get? s.att.comb.gateIn src.toNat with
  | some x => (x.entries.map (·.2)).find? (fun e => e.token == t)
  | none => none

/-- Key of a partial. -/
def partKey (owner : MemberId) (t : BitVec 14) : Nat := 16384 * owner.toNat + t.toNat

/-- The cells of a partial row (R146). With d above 15,872 a row has 17 cells: the two 4-bit fields that number them wrap modulo 16, and GROUP_FIRST
and GROUP_COUNT say where each lies (DESIGN CHOICE, log entry 118). -/
def State.partialCells (s : State) (q : Sequencer) (owner : MemberId) (t : BitVec 14) (p : Partial) : List PartialCell :=
  let g := s.scoring.d / 32
  let n := partCount s.scoring.d
  (List.range n).map (fun i =>
    let k := cellGroups g n i
    let words := (p.words.drop (32 * k.2)).take (32 * k.1)
    let x : PartialCell :=
      { h := s.ownHdr q 0 p.chunk, owner := owner, token := t, parts := BitVec.ofNat 8 p.summed.length,
        residue := BitVec.ofNat 8 (((p.residues.drop k.2).take k.1).foldl (· + ·) 0 % 255), cell := BitVec.ofNat 4 i,
        cellsM1 := BitVec.ofNat 4 (n - 1), gFirst := BitVec.ofNat 16 k.2, gCount := BitVec.ofNat 16 k.1,
        ranks := BitVec.ofNat 16 (bitsOf 16 (fun j => p.summed.contains j)), words := words, crc := 0 }
    { x with crc := crc32c (x.bytes 0) })

/-- Sends a partial when every target of the copy is in (R143, R144). -/
def State.sendPartial (s : State) (owner : MemberId) (t : BitVec 14) : State :=
  let key := partKey owner t
  match s.openSeq, Tab.get? s.att.comb.partials key with
  | some q, some p =>
    let n := ((Tab.get? s.att.comb.copiesIn key).getD []).length
    if p.sent || p.handle.isNone || p.summed.length + p.failed.length < n then s
    else
      let s' := s.modComb (fun c => { c with partials := Tab.put c.partials key { p with sent := true } })
      if p.summed = [] then s'
      else (s'.bump 0x21118).sendCells owner ((s.partialCells q owner t p).map Cell.part)
  | _, _ => s

/-- Takes the partial buffer of a token at its first contribution (R143). -/
def State.openPartial (s : State) (owner : MemberId) (e : GateEntry) : State :=
  let key := partKey owner e.token
  if (Tab.get? s.att.comb.partials key).isSome then s
  else
    let d := s.scoring.d
    let put (s : State) (h : Option Nat) : State :=
      let p : Partial := { chunk := e.chunk.toNat, handle := h, words := List.replicate d 0, residues := List.replicate (d / 32) 0 }
      s.modComb (fun c => { c with partials := Tab.put c.partials key p })
    match s.requestBuffer 0 262144 3 1 true none with
    | (s, .granted h) => put s (some h)
    | (s, _) => put (s.bump 0x21120) none

/-- Forwards a return cell unchanged to its owner (R132). A row of this mirror's own experts leaves with its first cell. -/
def State.forwardReturn (s : State) (c : ReturnCell) : State :=
  let s := if c.h.source = s.me && c.cell = 0 then s.bump 0x21100 else s
  s.send c.owner (.cells [.ret c])

/-- Asks the member that computed a row for one of its cells again (R132, R248). -/
def State.requestReturn (s : State) (hop : MemberId) (c : ReturnCell) : State :=
  s.cellCrcFail hop (.ret c)
    { gen := c.h.gen, requester := s.me, attempt := c.h.attempt, layer := c.h.layer, kind := 2,
      cell := BitVec.ofNat 8 c.cell.toNat, token := c.token, owner := c.owner, expert := c.expert, rank := c.rank } c.h.source

/-- Converts and adds a contribution at a mirror (R143, R144). -/
def State.addMirror (s : State) (p : Partial) (e : GateEntry) (targets : List TargetEntry) (c : ReturnCell) : State :=
  match s.fileReturn c with
  | (s, none) => s
  | (s, some cs) =>
    let key := partKey c.owner c.token
    let i := (targets.findIdx? (fun t => t.rank == c.rank)).getD 16
    let g := f32 ((e.gates.getD i 0).toNat)
    let z := returnValues s.combineBlock.fmt s.scoring.d (rowOfCells cs)
    let j := c.rank.toNat
    let put (x : Partial) (s : State) : State := s.modComb (fun k => { k with partials := Tab.put k.partials key x })
    match termInts (guardBits s.selection.kMax) (signed 16 e.eTok.toNat) (z.map (FV.mul g)) with
    | some l =>
      let r := addRow p.words (termWords l) p.residues
      (put { p with words := r.1, residues := r.2, summed := p.summed ++ [j] } s).sendPartial c.owner c.token
    | none =>
      let s := (put { p with failed := p.failed ++ [j] } s).bump 0x21130
      (s.each (sortBy (fun c : ReturnCell => c.cell.toNat) cs) State.forwardReturn).sendPartial c.owner c.token

/-- A return cell of another owner's token at this mirror (R132, R143, R145). -/
def State.mirrorReturn (s : State) (hop : MemberId) (c : ReturnCell) : State :=
  if !s.combineBlock.pre then s.forwardReturn c
  else match s.gateEntry c.owner c.token, Tab.get? s.att.comb.copiesIn (partKey c.owner c.token) with
    | some e, some targets =>
      if targets.length < 8 then s.forwardReturn c
      else
        let s := s.openPartial c.owner e
        match Tab.get? s.att.comb.partials (partKey c.owner c.token) with
        | some p =>
          if p.handle.isNone then s.forwardReturn c
          else if !(Cell.good (.ret c)) then
            (s.requestReturn hop c).modComb (fun k => { k with seenRet := k.seenRet.filter (fun x =>
              x != (c.h.source.toNat, c.owner.toNat, c.token.toNat, c.expert.toNat, c.cell.toNat)) })
          else s.addMirror p e targets c
        | none => s
    | _, _ => s.forwardReturn c

/-- A cell waits: one that came in a frame, in inbound staging in its frame's buffer; one of this member's own rows, in the output region
that it came from. -/
def State.waitCell (s : State) (hop : MemberId) (c : Cell) : State :=
  let away := hop != s.me
  let w : WaitCell :=
    { hop := hop, cell := c, handle := if away then s.rxHandle else none, port := s.net.rx.elim 0 (·.port) }
  (s.modComb (fun k => { k with waiting := k.waiting ++ [w] })).updatePause

/-- A return cell of the open attempt, received or local (R132, R133, R143). -/
def State.takeReturn (s : State) (hop : MemberId) (c : ReturnCell) : State :=
  let key := (c.h.source.toNat, c.owner.toNat, c.token.toNat, c.expert.toNat, c.cell.toNat)
  if s.att.comb.seenRet.contains key then s
  else if c.owner ≠ s.me then
    let s := s.modComb (fun k => { k with seenRet := key :: k.seenRet })
    if s.combineBlock.pre && !(s.noteWhole c.owner) then s.waitCell hop (.ret c) else s.mirrorReturn hop c
  else if !(Cell.good (.ret c)) then s.requestReturn hop c
  else
    let s := s.modComb (fun k => { k with seenRet := key :: k.seenRet })
    if s.isOpened c.token.toNat || (s.att.tokens.isSome && s.passTokens ≤ c.token.toNat) ||
        (s.att.grantDone.isSome && s.badRank c.token.toNat c.rank.toNat) then
      (s.addReturn c).combineProgress
    else s.waitCell hop (.ret c)

/-- A rack partial cell of the open attempt (R132, R133, R146). -/
def State.takePartial (s : State) (hop : MemberId) (c : PartialCell) : State :=
  let key := (c.h.source.toNat, c.token.toNat, s.partIndex c)
  if s.att.comb.seenPart.contains key then s
  else if !(Cell.good (.part c)) then
    s.cellCrcFail hop (.part c)
      { gen := c.h.gen, requester := s.me, attempt := c.h.attempt, layer := c.h.layer, kind := 3,
        cell := BitVec.ofNat 8 (s.partIndex c), token := c.token, owner := c.owner, expert := 0, rank := 0 } c.h.source
  else
    let s := s.modComb (fun k => { k with seenPart := key :: k.seenPart })
    if s.isOpened c.token.toNat || (s.att.tokens.isSome && s.passTokens ≤ c.token.toNat) then (s.addPartial c).combineProgress
    else s.waitCell hop (.part c)

/-! ### Gate notes (R145) -/

/-- Entries of the gate note for a mirror: every token whose copy to it carries 8 or more targets. -/
def State.gateEntries (s : State) (mirror : MemberId) : List GateEntry :=
  s.att.copies.flatMap (fun c => (c.2.filter (fun r => r.hop == mirror && 8 ≤ r.targets.length)).map (fun r =>
    { token := BitVec.ofNat 14 r.token, eTok := BitVec.ofNat 16 (twos 16 (s.eTok r.token)),
      targets := BitVec.ofNat 8 r.targets.length, chunk := BitVec.ofNat 8 c.1,
      gates := (List.range 16).map (fun i => match r.targets[i]? with
        | some t => BitVec.ofNat 32 ((s.selRec r.token).gates.getD t.rank 0)
        | none => 0) }))

/-- This member's mirrors: its slot in every other rack, as far as settled. -/
def State.mirrors (s : State) : List MemberId :=
  ([0, 1, 2, 3].map (fun r => BitVec.ofNat 10 (r * 256 + s.me.toNat % 256))).filter (fun m =>
    rackOf m != rackOf s.me && s.isSettled m)

/-- One gate note to every mirror, when PRECOMBINE is set (R145). -/
def State.sendGateNotes (s : State) (q : Sequencer) : State :=
  if !s.combineBlock.pre then s
  else s.each s.mirrors (fun s m =>
    let l := s.gateEntries m
    s.each (framesOf 113 l) (fun s f =>
      s.send m (.gateNote { gen := q.gen, sender := s.me, attempt := q.attempt, layer := q.layer, last := f.2.2,
                            first := BitVec.ofNat 32 f.1, total := BitVec.ofNat 32 l.length, entries := f.2.1 })))

/-- A gate note frame of the open attempt: once the note is whole, the source's return cells that waited go on. -/
def State.takeGateNote (s : State) (n : GateNote) : State :=
  match ExchIn.add (Tab.get? s.att.comb.gateIn n.sender.toNat) n.total.toNat n.first.toNat n.entries with
  | none => s
  | some x =>
    let s := s.modComb (fun c => { c with gateIn := Tab.put c.gateIn n.sender.toNat x })
    if !x.complete then s
    else
      let mine (w : WaitCell) : Bool := match w.cell with
        | .ret c => c.owner == n.sender && c.owner != s.me
        | _ => false
      let go := s.att.comb.waiting.filter mine
      let s' := s.modComb (fun c => { c with waiting := c.waiting.filter (fun w => !(mine w)) })
      s'.each go (fun s w => match w.cell with
        | .ret c => (s.mirrorReturn w.hop c).releaseInbound w.handle
        | _ => s)

/-! ### RETURN (R128, R130, R148) -/

/-- Sends one output row toward its owner, or hands it to this member's own combine or mirror. -/
def State.sendRow (s : State) (q : Sequencer) (n row : Nat) : State :=
  match Tab.get? s.att.rows row with
  | none => s
  | some r =>
    let cells := s.returnCells q n row
    if r.hop = s.me then s.each cells (fun s c => s.takeReturn s.me c)
    else (s.bump 0x21100).sendCells r.hop (cells.map Cell.ret)

/-- Returns a row, or holds it in host memory while the owner's limit forbids it (R148). -/
def State.returnRow (s : State) (q : Sequencer) (n : Nat) (t : Tile) (row : Nat) : State :=
  if t.chunk < s.limitOf t.source then s.sendRow q n row
  else (s.bump 0x21138).modComb (fun c => { c with heldRows := c.heldRows ++ [(n, row)] })

/-- Returns a tile whose tile-done doorbell is in. -/
def State.returnTile (s : State) (n : Nat) : State :=
  match s.openSeq, s.att.tiles[n]? with
  | some q, some t =>
    if !s.att.comb.returning || s.att.returned.contains n then s
    else
      let s := s.modAtt (fun a => { a with returned := a.returned ++ [n] })
      s.each (List.range t.rows) (fun s i => s.returnRow q n t (t.firstRow + i))
  | _, _ => s

/-- Rows that a limit held go out when it rises. -/
def State.releaseRows (s : State) : State :=
  match s.openSeq with
  | none => s
  | some q =>
    let ok (h : Nat × Nat) : Bool := match s.att.tiles[h.1]? with
      | some t => t.chunk < s.limitOf t.source
      | none => true
    let go := s.att.comb.heldRows.filter ok
    (s.modComb (fun c => { c with heldRows := c.heldRows.filter (fun h => !(ok h)) })).each go (fun s h => s.sendRow q h.1 h.2)

/-- A window note (R148): a higher limit frees held rows and the partials of the chunks below it (R248). -/
def State.takeWindowNote (s : State) (n : WindowNote) : State :=
  if n.limit.toNat ≤ s.limitOf n.sender then s
  else
    let s := s.modComb (fun c => { c with limits := Tab.put c.limits n.sender.toNat n.limit.toNat })
    let past (p : Nat × Partial) : Bool := p.1 / 16384 == n.sender.toNat && p.2.chunk < n.limit.toNat && p.2.sent
    -- a partial of a chunk below the initial limit is kept until a note comes
    let s' := s.each (s.att.comb.partials.filter past) (fun s p => s.dropOwn p.2.handle 3)
    (s'.modComb (fun c => { c with partials := c.partials.map (fun p =>
      if past p then (p.1, { p.2 with handle := none, words := [], residues := [] }) else p) })).releaseRows

/-- RETURN starts (R128): tiles whose doorbell came before it are returned now. -/
def State.startReturn (s : State) : State :=
  if !s.combineBlock.ok then s.raise Code.illegalInstruction { unit := 6 }
  else (s.modComb (fun c => { c with returning := true })).each s.att.doneTiles State.returnTile

/-- COMBINE starts (R128, R147). -/
def State.startCombine (s : State) : State :=
  if !s.combineBlock.ok then s.raise Code.illegalInstruction { unit := 8 }
  else (s.modComb (fun c => { c with combining := true })).combineProgress

/-- A tile-done doorbell of the open attempt (R15, R117): a second one for a tile is ignored. -/
def State.tileDone (s : State) (n : Nat) : State :=
  if s.att.doneTiles.contains n || s.att.entered ≤ n then s
  else
    let s := s.modAtt (fun a => { a with doneTiles := a.doneTiles ++ [n] })
    (s.modComb (fun c => { c with lastDone := some s.tb })).returnTile n

/-- The shared-ready doorbell of the open attempt (R142): every open token takes its shared term. -/
def State.sharedReady (s : State) : State :=
  if s.combineBlock.shared = 0 || s.att.comb.shared then s
  else
    let s := s.modComb (fun c => { c with shared := true })
    (s.each (Tab.keys s.att.comb.accs) State.addShared).combineProgress

/-! ### Cell requests (R110, R132, R248) -/

/-- Rebuilds a return cell from the output row and sends it to the requester; rows are read only after their tile's done doorbell (R15). -/
def State.resendReturn (s : State) (r : CellReq) : State :=
  match s.openSeq with
  | none => s
  | some q =>
    let hit := s.att.tiles.zipIdx.findSome? (fun x =>
      if x.1.source = r.owner && x.1.expert = r.expert.toNat && s.att.doneTiles.contains x.2 then
        ((List.range x.1.rows).find? (fun i => match Tab.get? s.att.rows (x.1.firstRow + i) with
          | some w => w.token == r.token.toNat && w.rank == r.rank.toNat
          | none => false)).map (fun i => (x.2, x.1.firstRow + i))
      else none)
    match hit with
    | none => s
    | some h =>
      match (s.returnCells q h.1 h.2)[r.cell.toNat]? with
      | some c => s.sendCells r.requester [.ret c]
      | none => s

/-- Rebuilds a partial cell that this mirror keeps. -/
def State.resendPartial (s : State) (r : CellReq) : State :=
  match s.openSeq, Tab.get? s.att.comb.partials (partKey r.owner r.token) with
  | some q, some p =>
    if !p.sent || p.words.isEmpty then s
    else match (s.partialCells q r.owner r.token p)[r.cell.toNat]? with
      | some c => s.sendCells r.requester [.part c]
      | none => s
  | _, _ => s

/-- An entry of a cell request of the open attempt. -/
def State.takeRequest (s : State) (r : CellReq) : State :=
  if r.kind = 1 then s.resendDispatch r else if r.kind = 2 then s.resendReturn r
  else if r.kind = 3 then s.resendPartial r else s

/-! ### Timers (R149) -/

/-- TILE_TIMEOUT: 0 means EXCHANGE_TIMEOUT. -/
def State.tileTimeoutTb (s : State) : Nat :=
  let c := s.combineBlock
  if c.tileTime = 0 then s.grantBlock.timeout else c.tileTime

/-- An entered tile without an accepted doorbell. The time does not run while the pass's cold streaming goes on. -/
def State.tileTimer (s : State) : State :=
  if s.attemptOpen && s.att.coldWon.length ≤ s.att.coldSlot && (List.range s.att.entered).any (fun n => !(s.att.doneTiles.contains n)) then
    let c := s.att.comb
    s.exchangeExpired (max s.sched.tEnd (max (c.coldDone.getD 0) (c.lastDone.getD 0)) + s.tileTimeoutTb) 6
  else s

/-- The shared-ready doorbell is missing. -/
def State.sharedTimer (s : State) : State :=
  if s.attemptOpen && s.combineBlock.shared ≠ 0 && !s.att.comb.shared then
    s.exchangeExpired (s.sched.tEnd + s.grantBlock.timeout) 8
  else s

/-! ### Progress of GRANT (R80, R90, R111, R145) -/

/-- GRANT goes on as far as the messages held allow: allocation once every count message is in; once every grant message is
in, application, manifests and gate notes. -/
def State.grantProgress (s : State) : State :=
  match s.openSeq with
  | none => s
  | some q =>
    if !s.attemptOpen || s.att.grantAt.isNone || s.att.grantDone.isSome then s
    else
      let s := if !s.att.allocated && s.allHeld s.att.countsIn then s.allocate else s
      if !s.att.allocated || !(s.allHeld s.att.grantsIn) || s.sched.abortDue.isSome then s
      else if s.grantsBad then s.raise Code.illegalInstruction { unit := 5 }
      else
        let s := (s.applyGrants q).modAtt (fun a => { a with grantDone := some s.tb })
        (((s.sendManifests q).sendGateNotes q).layoutRegion).rejectWaiting.combineProgress

/-- GRANT starts (R74). -/
def State.startGrant (s : State) : State :=
  if !s.grantBlock.ok then s.raise Code.illegalInstruction { unit := 5 }
  else (s.modAtt (fun a => { a with grantAt := some s.tb })).grantProgress

end Sys2Proof.Machine
end

