-- ==== Sys2Proof/Machine/Shapes.lean ====
section
/-! DEFINITION. Shape words (09, R213, R221, R222): references, the pass words, reading with the generation check, SHAPE. -/

namespace Sys2Proof.Machine

/-- The program of the open pass. -/
def State.openProg (s : State) : Program :=
  match s.openSeq with
  | some q => s.prog q.prog
  | none => {}

/-- Host address of a shape reference (R213). -/
def State.shapeAddr (s : State) (sh : Nat) : Nat :=
  if bit sh 20 then s.dispatchBlock.shape + 8 * field sh 0 20 else s.openProg.image.shapeBase + 8 * field sh 0 20

/-- The word has been written in the current attempt (R222). -/
def State.shapeWritten (s : State) (sh : Nat) : Bool :=
  let i := field sh 0 20
  if bit sh 20 then s.att.laidOut
  else if i ≤ 1 then s.att.tokens.isSome
  else if i < 8 then true
  else s.att.shaped.contains i

/-- What a read of a shape word gives (R222). -/
inductive ShapeRead where
  /-- The word is not written yet; the sequencer waits. -/
  | wait
  | word (value tag : Nat)
  /-- Another generation; `window` when it is not smaller. -/
  | stale (window : Bool)
  deriving DecidableEq, Repr

def State.readShape (s : State) (sh : Nat) : ShapeRead :=
  match s.openSeq with
  | none => .wait
  | some q =>
    if !(s.shapeWritten sh) then .wait
    else
      let w := s.readLe (s.shapeAddr sh) 8
      match serial 16 (field w 32 16) q.gen.toNat with
      | .same => .word (field w 0 32) (field w 48 16)
      | .before => .stale false
      | _ => .stale true

/-- The codes of a stale word (R222). -/
def State.staleShape (s : State) (window : Bool) (unit : Nat) : State :=
  let s := if window then s.raise Code.epochWindow { unit := unit } else s
  s.raise Code.shapeRange { unit := unit }

/-- Writes a shape word of the region with the current generation (R221). -/
def State.writeShape (s : State) (q : Sequencer) (i value tag : Nat) : State :=
  s.writeLe ((s.prog q.prog).image.shapeBase + 8 * i) 8 (shapeWord value q.gen tag)

/-- Pass words 2 to 7, written when the pass opens and word 3 again at each replay (R221). -/
def State.writePassWords (s : State) (q : Sequencer) (epoch : Nat) : State :=
  let s := s.writeShape q 2 q.layer.toNat 0x5102
  let s := s.writeShape q 3 q.attempt.toNat 0x5103
  let s := s.writeShape q 4 epoch 0x5104
  s.each [5, 6, 7] (fun s i => s.writeShape q i 0 0)

/-- Words 0 and 1, when chunk 0's doorbell is accepted (R221). -/
def State.announceTokens (s : State) (q : Sequencer) : State :=
  let t := s.readLe s.tokmapBase 4
  let n := ceilDiv t s.chunkTokens
  if 16384 < t || 256 < n then s.raise Code.shapeRange { unit := 16 }
  else ((s.modAtt (fun a => { a with tokens := some t, chunks := some n })).writeShape q 0 t 0x5100).writeShape q 1 n 0x5101

end Sys2Proof.Machine
end

