-- ==== Sys2Proof/Machine/Collective.lean ====
section
/-! DEFINITION. Collectives (12, R266 to R286, R294): groups and ring lists, the collective record and its checks, the rings, sums on
the mortar tree, piece checks, progress words, timeouts. -/

namespace Sys2Proof.Machine

/-! ### Groups (R266, R267) -/

/-- The ring list of a group for the settled membership. -/
def State.ringList (s : State) (g : Nat) : List MemberId := (s.groupList g).filter s.isSettled

/-- The racks of a list in the order of first appearance. -/
def racksOf (l : List MemberId) : List Nat := (l.map rackOf).eraseDups

/-- Sublist of a rack. -/
def inRack (l : List MemberId) (r : Nat) : List MemberId := l.filter (fun m => rackOf m == r)

/-- The hierarchy condition (R278): two racks or more, the same sequence of slots in each. -/
def hierOk (l : List MemberId) : Bool :=
  let racks := racksOf l
  let slots (r : Nat) : List Nat := (inRack l r).map (fun m => m.toNat % 256)
  2 ≤ racks.length && racks.all (fun r => slots r == slots (racks.headD 0))

/-! ### The record (R269, R270) -/

def CollRec.parse (b : List Byte) : CollRec :=
  { format := le b 0 1, inFmt := field (le b 1 1) 0 2, outFmt := field (le b 1 1) 2 2, hier := bit (le b 2 1) 0,
    shaped := bit (le b 2 1) 1, waits := bit (le b 2 1) 2, log2 := le b 3 1, grid := signed 8 (le b 4 1),
    source := field (le b 6 2) 0 10, fires := bit (le b 6 2) 15, count := le b 8 4, shape := field (le b 0xC 4) 0 21,
    src := le b 0x10 8, dst := le b 0x18 8, progress := le b 0x20 8, timeout := le b 0x28 4 }

/-- No reserved bit is set. -/
def collReservedOk (b : List Byte) : Bool :=
  field (le b 1 1) 4 4 == 0 && field (le b 2 1) 3 5 == 0 && le b 5 1 == 0 && field (le b 6 2) 10 5 == 0 &&
  field (le b 0xC 4) 21 11 == 0 && le b 0x2C 20 == 0 && le b 0x10 8 < hostTop && le b 0x18 8 < hostTop &&
  le b 0x20 8 < hostTop

/-- Bytes of an element in host memory: 0 FP32, 1 BF16, 2 INT64. -/
def ioBytes (f : Nat) : Nat := if f = 0 then 4 else if f = 1 then 2 else 8

/-- Bytes of an element in flight (R276). -/
def CollRec.esize (c : CollRec) : Nat := if c.format = 1 then 4 else 8

/-- The checks of R270 and R374 on the record's own fields. -/
def CollRec.shapeOk (c : CollRec) : Bool :=
  c.format ≤ 2 && (if c.format = 0 then c.inFmt == 2 && c.outFmt == 2 else c.inFmt ≤ 1 && c.outFmt ≤ 1) &&
  14 ≤ c.log2 && c.log2 ≤ 22 && 1 ≤ c.count && c.count ≤ 268435456 && 1250 ≤ c.timeout &&
  c.src % 64 == 0 && c.dst % 64 == 0 && c.progress % 8 == 0 && (!c.fires || (0x20 ≤ c.source && c.source < 0x200))

/-- SRC and DST overlap, other than by an exact coincidence of equal element sizes. -/
def CollRec.clash (c : CollRec) : Bool :=
  meets c.src (c.count * ioBytes c.inFmt) c.dst (c.count * ioBytes c.outFmt) &&
  !(c.src == c.dst && ioBytes c.inFmt == ioBytes c.outFmt)

/-- The bytes that the record names lie in live allocations. -/
def State.collInside (s : State) (c : CollRec) : Bool :=
  s.insideAlloc c.src (c.count * ioBytes c.inFmt) && s.insideAlloc c.dst (c.count * ioBytes c.outFmt) &&
  (c.progress == 0 || s.insideAlloc c.progress 8)

/-! ### Values (R273 to R275) -/

/-- Changes the collective of an OPSEQ. -/
def State.modColl (s : State) (op : Nat) (f : Coll → Coll) : State :=
  s.modAtt (fun a => { a with colls := Tab.modify a.colls op f })

def State.coll (s : State) (op : Nat) : Option Coll := Tab.get? s.att.colls op

/-- L, the length of the group list. -/
def State.groupLen (s : State) (g : Nat) : Nat := (s.groupList g).length

/-- G of R275. -/
def fixedGuard (l : Nat) : Nat := if l ≤ 1 then 0 else Nat.log2 (l - 1) + 1

/-- One element's contribution in flight; the flag says that it passed its guard. -/
def contribution (c : CollRec) (l w : Nat) : BitVec 64 × Bool :=
  let v : FV := if c.inFmt = 0 then f32 w else b16 w
  if c.format = 0 then (BitVec.ofNat 64 w, true)
  else if c.format = 1 then (BitVec.ofNat 64 (if c.inFmt = 0 then w else w * 65536), true)
  else match v with
    | .fin _ _ =>
      let q := rnInt (v.rat / pow2 c.grid)
      if q.natAbs < 2 ^ (62 - fixedGuard l) then (BitVec.ofNat 64 (twos 64 q), true) else (0, false)
    | _ => (0, false)

/-- Sum of two elements in flight. -/
def addInFlight (format : Nat) (a b : BitVec 64) : BitVec 64 :=
  if format = 1 then BitVec.ofNat 64 (toF32 (FV.add (f32 a.toNat) (f32 b.toNat))) else a + b

/-- Bytes of a summed element in DST. -/
def outElem (c : CollRec) (w : BitVec 64) : List Byte :=
  if c.format = 0 then leBytes 8 w.toNat
  else
    let v : FV := if c.format = 1 then f32 w.toNat else FV.ofRat ((w.toInt : Rat) * pow2 c.grid)
    if c.outFmt = 1 then leBytes 2 (toB16 v)
    else if c.format = 1 then leBytes 4 w.toNat else leBytes 4 (toF32 v)

/-- Bytes in flight of elements. -/
def flightBytes (e : Nat) (l : List (BitVec 64)) : List Byte := l.flatMap (fun w => leBytes e w.toNat)

/-- Elements of bytes in flight. -/
def flightElems (e : Nat) (b : List Byte) : List (BitVec 64) :=
  (List.range (b.length / e)).map (fun i => BitVec.ofNat 64 (le b (e * i) e))

/-! ### Chunks and pieces (R276 to R278) -/

/-- First element and length of piece k of n elements in P pieces. -/
def pieceRange (n p k : Nat) : Nat × Nat :=
  (k * (n / p) + min k (n % p), n / p + b2n (decide (k < n % p)))

/-- Elements per chunk. -/
def CollRec.perChunk (c : CollRec) : Nat := 2 ^ c.log2 / c.esize

/-- K for N elements. -/
def CollRec.chunkCount (c : CollRec) (n : Nat) : Nat := ceilDiv (n * c.esize) (2 ^ c.log2)

/-- W of R276. -/
def CollRec.window (c : CollRec) : Nat := 4194304 / 2 ^ c.log2

/-- Elements of chunk i. -/
def CollRec.chunkLen (c : CollRec) (n i : Nat) : Nat := min c.perChunk (n - i * c.perChunk)

/-- The ring that a stage runs on: its members, this member's position, and the elements of a chunk that it cuts. -/
structure StageRing where
  ring  : List MemberId
  pos   : Nat
  first : Nat
  count : Nat
  deriving DecidableEq, Repr

/-- The collective runs the hierarchical ring (R278). -/
def State.isHier (s : State) (c : Coll) : Bool := c.record.hier && hierOk (s.ringList c.group)

def State.stageRing (s : State) (c : Coll) (chunk stage : Nat) : StageRing :=
  let n := c.record.chunkLen (c.total.getD 0) chunk
  let l := s.ringList c.group
  let here (r : List MemberId) : Nat := (r.findIdx? (· == s.me)).getD 0
  if stage ≤ 1 then { ring := l, pos := here l, first := 0, count := n }
  else
    let rack := inRack l (rackOf s.me)
    let k := here rack
    if stage = 2 ∨ stage = 5 then { ring := rack, pos := k, first := 0, count := n }
    else
      let cross := (racksOf (s.groupList c.group)).filterMap (fun r => (inRack l r)[k]?)
      let p := pieceRange n rack.length k
      { ring := cross, pos := here cross, first := p.1, count := p.2 }

/-- Elements of a piece of the stage. -/
def StageRing.range (r : StageRing) (k : Nat) : Nat × Nat :=
  let p := pieceRange r.count r.ring.length k
  (r.first + p.1, p.2)

/-- Position b steps behind position i. -/
def StageRing.back (r : StageRing) (b : Nat) : Nat := (r.pos + r.ring.length - b % r.ring.length) % r.ring.length

/-- The next member of the ring. -/
def StageRing.next (r : StageRing) : MemberId := r.ring.getD ((r.pos + 1) % r.ring.length) 0

/-- Sends a piece (R281): frames of up to 8,160 B; PIECE_CRC as given, or over the bytes sent. -/
def State.sendPiece (s : State) (op : Nat) (c : Coll) (chunk stage step k : Nat) (crc : Option (BitVec 32)) : State :=
  match s.openSeq, Tab.get? c.chunks chunk with
  | some q, some x =>
    let r := s.stageRing c chunk stage
    let g := r.range k
    let data := flightBytes c.record.esize ((x.vals.drop g.1).take g.2)
    let crc := crc.getD (crc32c data)
    let cross := stage = 3 ∨ stage = 4
    let rack := s.stageRing c chunk 2
    let frame (off : Nat) : CollFrame :=
      { gen := q.gen, sender := s.me, attempt := q.attempt, layer := q.layer, opseq := BitVec.ofNat 8 op,
        stage := BitVec.ofNat 8 stage, chunk := BitVec.ofNat 32 chunk, piece := BitVec.ofNat 16 (if cross then rack.pos else k),
        step := BitVec.ofNat 16 step, sub := BitVec.ofNat 8 (if cross then k else 0),
        pieceBytes := BitVec.ofNat 32 data.length, offset := BitVec.ofNat 32 off, pieceCrc := crc,
        data := (data.drop off).take 8160 }
    let s := s.bump 0x21590 data.length
    s.each (List.range (max 1 (ceilDiv data.length 8160))) (fun s i => s.send r.next (.coll (frame (8160 * i))))
  | _, _ => s

/-- Writes a summed piece of a chunk to DST. -/
def State.putPiece (s : State) (c : Coll) (chunk : Nat) (x : CollChunk) (g : Nat × Nat) : State :=
  let r := c.record
  let base := r.dst + (chunk * r.perChunk + g.1) * ioBytes r.outFmt
  s.write base (((x.vals.drop g.1).take g.2).flatMap (outElem r))

/-- Changes a chunk in the buffer. -/
def State.modChunk (s : State) (op chunk : Nat) (f : CollChunk → CollChunk) : State :=
  s.modColl op (fun c => { c with chunks := Tab.modify c.chunks chunk f })

/-! ### Progress (R283, R284) -/

/-- Writes the progress word with a tag. -/
def State.writeProgress (s : State) (q : Sequencer) (c : Coll) (tag : Nat) : State :=
  if c.record.progress = 0 then s else s.writeLe c.record.progress 8 (shapeWord c.value q.gen tag)

/-- VALUE rises over the chunks that are complete and checked, one write and one signal each. -/
def State.raiseProgress : Nat → State → Nat → State
  | 0, s, _ => s
  | n + 1, s, op =>
    match s.openSeq, s.coll op with
    | some q, some c =>
      if c.doneCh.contains c.value && !(c.failed.contains c.value) then
        let c' := { c with value := c.value + 1 }
        let s := (s.modColl op (fun _ => c')).writeProgress q c' (0x5300 + q.attempt.toNat)
        State.raiseProgress n (if c.record.fires then s.fire c.record.source else s) op
      else s
    | _, _ => s

/-- Every piece of a chunk is in DST: it leaves the buffer (R276). It is complete when its writes are (R284). -/
def State.landChunk (s : State) (op chunk : Nat) : State :=
  (s.modColl op (fun c => { c with chunks := Tab.erase c.chunks chunk, landed := chunk :: c.landed })).hostIssue
    (.chunk (BitVec.ofNat 8 op) (BitVec.ofNat 32 chunk))

/-- A chunk is complete: every piece is in DST and its writes have completed. -/
def State.closeChunk (s : State) (op chunk : Nat) : State :=
  let s := s.modColl op (fun c => { c with doneCh := chunk :: c.doneCh })
  match s.coll op with
  | none => s
  | some c =>
    let k := if c.mortar then 1 else c.record.chunkCount (c.total.getD 0)
    let s := s.raiseProgress (k + 1) op
    if c.doneCh.length = k && !c.finished then
      let s := (s.modColl op (fun c => { c with finished := true })).bump 0x21580
      if c.mortar then s.bump 0x21588 else s
    else s

/-- The writes of a chunk have completed (R284, R392). -/
def State.chunkWritten (s : State) (op chunk : Nat) : State :=
  match s.coll op with
  | some c => if c.landed.contains chunk && !(c.doneCh.contains chunk) then s.closeChunk op chunk else s
  | none => s

/-- Records that a piece is in DST; with its last, the chunk leaves the buffer. -/
def State.pieceDone (s : State) (op chunk k total : Nat) : State :=
  let s := s.modChunk op chunk (fun x => { x with inDst := k :: x.inDst })
  match (s.coll op).bind (fun c => Tab.get? c.chunks chunk) with
  | some x => if x.inDst.length = total then s.landChunk op chunk else s
  | none => s

/-- A check of a piece fails (R283): the vote fails with reason 0x52, and the chunk is no longer counted. -/
def State.pieceFail (s : State) (op chunk : Nat) : State :=
  let s := (s.bump 0x21598).modOpen (fun q => if q.vote.isNone then { q with vote := some Code.sealVoteFail } else q)
  s.modColl op (fun c => { c with failed := chunk :: c.failed })

/-! ### The ring steps (R277, R278) -/

/-- The own piece k of the cross-rack ring is whole: it goes round the rack. -/
def State.rackGather (s : State) (op chunk : Nat) : State :=
  match s.coll op with
  | none => s
  | some c =>
    let r := s.stageRing c chunk 5
    let s := if 1 < r.ring.length then s.sendPiece op c chunk 5 0 r.pos none else s
    s.pieceDone op chunk r.pos r.ring.length

/-- A sub-piece is in DST. -/
def State.subDone (s : State) (op chunk m : Nat) : State :=
  let s := s.modChunk op chunk (fun x => { x with subs := m :: x.subs })
  match s.coll op with
  | none => s
  | some c =>
    match Tab.get? c.chunks chunk with
    | some x => if x.subs.length = (s.stageRing c chunk 3).ring.length then s.rackGather op chunk else s
    | none => s

/-- The in-rack reduce-scatter has completed the own piece: the cross-rack ring starts (R278). -/
def State.startCross (s : State) (op chunk : Nat) : State :=
  let s := s.modChunk op chunk (fun x => { x with reduced := true })
  match s.coll op with
  | none => s
  | some c => s.sendPiece op c chunk 3 0 ((s.stageRing c chunk 3).back 1) none

/-- The sum of piece k of a reduce-scatter stage is complete here. -/
def State.sumDone (s : State) (op chunk stage k : Nat) : State :=
  match s.coll op with
  | none => s
  | some c =>
    match Tab.get? c.chunks chunk with
    | none => s
    | some x =>
      if stage = 0 then
        let r := s.stageRing c chunk 0
        let s := s.putPiece c chunk x (r.range k)
        let s := if 1 < r.ring.length then s.sendPiece op c chunk 1 0 k none else s
        s.pieceDone op chunk k r.ring.length
      else if stage = 2 then s.startCross op chunk
      else
        let s := s.putPiece c chunk x ((s.stageRing c chunk 3).range k)
        (s.sendPiece op c chunk 4 0 k none).subDone op chunk k

/-- The sum of a COMBINE_AR starts with its first chunk (R271, R286; DEDUCED, log entry 35). -/
def State.firstChunk (s : State) (op : Nat) : State :=
  s.modColl op (fun c => if c.chunks.isEmpty && c.landed.isEmpty then { c with started := s.tb } else c)

/-- A chunk enters the buffer (R276): contributions beyond the own count are 0 (R279); first steps leave. -/
def State.enterChunk (s : State) (op chunk : Nat) : State :=
  match s.coll op with
  | none => s
  | some c =>
    let r := c.record
    let base := chunk * r.perChunk
    let els := (List.range (r.chunkLen (c.total.getD 0) chunk)).map (fun i =>
      if c.own ≤ base + i then ((0 : BitVec 64), true)
      else contribution r (s.groupLen c.group) (s.readLe (r.src + (base + i) * ioBytes r.inFmt) (ioBytes r.inFmt)))
    let x : CollChunk := { vals := els.map (·.1) }
    let s := if c.combined then s.firstChunk op else s
    let s := s.modColl op (fun c => { c with chunks := Tab.put c.chunks chunk x })
    let s := s.each (els.filter (fun e => !e.2)) (fun s _ => s.raise Code.combineGuard { unit := 9, chunk := some (chunk % 256) })
    match s.coll op with
    | none => s
    | some c =>
      if s.isHier c then
        let k := s.stageRing c chunk 2
        if k.ring.length = 1 then s.startCross op chunk else s.sendPiece op c chunk 2 0 (k.back 1) none
      else
        let k := s.stageRing c chunk 0
        if k.ring.length ≤ 1 then s.sumDone op chunk 0 0 else s.sendPiece op c chunk 0 0 (k.back 1) none

/-- A whole piece is taken in (R277, R283). -/
def State.takePiece (s : State) (op : Nat) (p : CollPiece) : State :=
  match s.coll op with
  | none => s
  | some c =>
    match Tab.get? c.chunks p.chunk with
    | none => s
    | some x =>
      let data := p.parts.flatMap (·.2)
      let s := if crc32c data = p.crc then s else s.pieceFail op p.chunk
      let cross := p.stage = 3 ∨ p.stage = 4
      let k := if cross then p.sub else p.piece
      let r := s.stageRing c p.chunk p.stage
      let g := r.range k
      let els := flightElems c.record.esize data
      let scatter := p.stage = 0 ∨ p.stage = 2 ∨ p.stage = 3
      let old := (x.vals.drop g.1).take g.2
      let new := if scatter then (els.zip old).map (fun e => addInFlight c.record.format e.1 e.2) else els
      let x := { x with vals := x.vals.take g.1 ++ new ++ x.vals.drop (g.1 + g.2) }
      let s := s.modChunk op p.chunk (fun _ => x)
      match s.coll op with
      | none => s
      | some c =>
        let last := p.step + 2 = r.ring.length
        if scatter then
          if last then s.sumDone op p.chunk p.stage k else s.sendPiece op c p.chunk p.stage (p.step + 1) k none
        else
          let s := s.putPiece c p.chunk x g
          let s := if last then s else s.sendPiece op c p.chunk p.stage (p.step + 1) k (some p.crc)
          if p.stage = 4 then s.subDone op p.chunk k else s.pieceDone op p.chunk k r.ring.length

/-- Whether a piece can be taken: its frames are all in, its chunk is in the buffer, and a cross-rack partial finds the own
in-rack sum complete. -/
def pieceReady (c : Coll) (p : CollPiece) : Bool :=
  (p.parts.foldl (fun n x => n + x.2.length) 0) == p.size && !p.parts.isEmpty &&
  (match Tab.get? c.chunks p.chunk with
    | some x => p.stage != 3 || x.reduced
    | none => false)

/-- COMBINE has written every output row of chunk i's SRC range (R271). -/
def State.rowsWritten (s : State) (c : Coll) (i : Nat) : Bool :=
  let r := c.record
  let isz := ioBytes r.inFmt
  let row := (if s.combineBlock.outFp32 then 4 else 2) * s.scoring.d
  let base := s.combineBlock.out
  if !(meets r.src (r.count * isz) base (row * s.passTokens)) then s.combineDone
  else
    let lo := r.src + i * r.perChunk * isz
    let len := r.chunkLen (c.total.getD 0) i * isz
    (List.range s.passTokens).all (fun t => !(meets lo len (base + t * row) row) || s.isDone t)

/-- The next chunk that may enter (R271, R276). -/
def State.nextChunk (s : State) (c : Coll) : Option Nat :=
  match c.total with
  | none => none
  | some n =>
    if c.mortar then none
    else (List.range (c.record.chunkCount n)).find? (fun i =>
      !(c.landed.contains i) && (Tab.get? c.chunks i).isNone && (i < c.record.window || c.landed.contains (i - c.record.window)) &&
      (!c.combined || s.rowsWritten c i))

/-- The next piece that can be taken: of the lowest chunk (R277). -/
def Coll.nextPiece (c : Coll) : Option CollPiece := (sortBy (·.chunk) (c.pieces.filter (pieceReady c))).head?

/-- A chunk enters before a piece of a later one is taken (R277). -/
def entersFirst (chunk : Option Nat) (piece : Option CollPiece) : Option Nat :=
  match chunk, piece with
  | some i, some p => if i ≤ p.chunk then some i else none
  | c, _ => c

/-- Chunks enter and pieces are taken as far as they can, in ascending chunk order, so that their frames leave so (R277). -/
def State.advanceColl : Nat → State → Nat → State
  | 0, s, _ => s
  | n + 1, s, op =>
    match s.coll op with
    | none => s
    | some c =>
      match entersFirst (s.nextChunk c) c.nextPiece with
      | some i => State.advanceColl n (s.enterChunk op i) op
      | none =>
        match c.nextPiece with
        | some p =>
          State.advanceColl n ((s.modColl op (fun c => { c with pieces := c.pieces.filter (· != p) })).takePiece op p) op
        | none => s

/-- Steps that one collective can take in one command. -/
def Coll.fuel (c : Coll) : Nat := c.record.chunkCount (c.total.getD 0) + c.pieces.length + 1

def State.runColl (s : State) (op : Nat) : State :=
  match s.coll op with
  | some c => s.advanceColl c.fuel op
  | none => s

/-- The size that this member computes for a frame's piece (R281). -/
def State.frameSize (s : State) (c : Coll) (f : CollFrame) : Nat :=
  let k := if f.stage = 3 ∨ f.stage = 4 then f.sub.toNat else f.piece.toNat
  ((s.stageRing c f.chunk.toNat f.stage.toNat).range k).2 * c.record.esize

/-- The data of a collective frame, accepted at `at_`, whose collective has started and knows N (R281, R286). -/
def State.noteCollFrame (s : State) (f : CollFrame) (at_ : Nat) : State :=
  let op := f.opseq.toNat
  match s.coll op with
  | none => s
  | some c =>
    let key := (f.sender.toNat, f.stage.toNat, f.chunk.toNat, f.piece.toNat, f.sub.toNat, f.offset.toNat)
    if c.seen.contains key then s
    else if 5 < f.stage.toNat || f.pieceBytes.toNat ≠ s.frameSize c f then s.raise Code.illegalInstruction { unit := 9 }
    else
      let same (p : CollPiece) : Bool :=
        p.stage == f.stage.toNat && p.chunk == f.chunk.toNat && p.piece == f.piece.toNat && p.sub == f.sub.toNat
      let old : CollPiece := (c.pieces.find? same).getD
        { stage := f.stage.toNat, chunk := f.chunk.toNat, piece := f.piece.toNat, sub := f.sub.toNat, step := f.step.toNat,
          size := f.pieceBytes.toNat, crc := f.pieceCrc }
      let new : CollPiece := { old with parts := Tab.put old.parts f.offset.toNat f.data }
      s.modColl op (fun c => { c with seen := key :: c.seen, lastRx := max c.lastRx at_, pieces := c.pieces.filter (fun p => !(same p)) ++ [new] })

/-- A collective frame waits in its buffer until its collective has started and knows N; it is accepted now (R286, R352). -/
def State.holdColl (s : State) (f : CollFrame) : State :=
  let s := s.modColl f.opseq.toNat (fun c => { c with lastRx := s.tb })
  s.modAtt (fun a => { a with collWait := a.collWait ++ [{ frame := f, at_ := s.tb, handle := s.rxHandle }] })

/-- A collective frame of the open attempt. -/
def State.collFrame (s : State) (f : CollFrame) : State :=
  match s.coll f.opseq.toNat with
  | some c => if c.total.isSome then (s.noteCollFrame f s.tb).runColl f.opseq.toNat else s.holdColl f
  | none => s.holdColl f

/-- Frames that waited for a collective go in, and it goes on. -/
def State.releaseFrames (s : State) (op : Nat) : State :=
  let go := s.att.collWait.filter (fun w => w.frame.opseq.toNat == op)
  let s := s.modAtt (fun a => { a with collWait := a.collWait.filter (fun w => w.frame.opseq.toNat != op) })
  (s.each go (fun s w => (s.noteCollFrame w.frame w.at_).releaseInbound w.handle)).runColl op

/-- An element of the reduction buffer of which a read lost the 64-bit word at byte `off` of its chunk: what stands there is free (R283; DESIGN
CHOICE, log entry 110). -/
def loseElem (e off j : Nat) (lost w : BitVec 64) : BitVec 64 :=
  if off ≤ e * j ∧ e * j < off + 8 then BitVec.ofNat 64 (lost.toNat / 2 ^ (8 * (e * j - off)) % 2 ^ (8 * e)) else w

/-- A read of the reduction buffer finds an error that it cannot correct (R283): the chunk's check has failed here, and the collective carries
on. Chunk i lies in slot i mod W (R276). -/
def State.loseChunk (s : State) (op : Nat) (f : ReadFind) : State :=
  match s.coll op with
  | none => s
  | some c =>
    let at_ := 64 * f.line.toNat + 8 * f.word.toNat
    let size := 2 ^ c.record.log2
    let hit := (c.chunks.filter (fun x => x.1 % c.record.window == at_ / size)).map (·.1)
    let lost := Config.lostWord s.freeCtr 0
    let s := s.useFree
    s.each hit (fun s i => (s.modChunk op i (fun x => { x with
      vals := x.vals.zipIdx.map (fun p => loseElem c.record.esize (at_ % size) p.2 lost p.1) })).modColl op (fun c => { c with failed := i :: c.failed }))

/-- What the reads of the reduction buffer (store 4) for a frame of collective `op` find (R283). -/
def State.readBuffer (s : State) (op : Nat) (finds : List ReadFind) : State :=
  if s.awake && s.attemptOpen then (s.foundWords 4 9 finds).each (finds.filter (·.hard)) (fun s f => s.loseChunk op f) else s

/-! ### Sums on the mortar tree (R279, R280, R300) -/

/-- Elementwise sum of i64 words, or maximum of u32 words. -/
def combineWords (isMax : Bool) (a b : List (BitVec 64)) : List (BitVec 64) :=
  (List.range (max a.length b.length)).map (fun i =>
    let x := a.getD i 0
    let y := b.getD i 0
    if isMax then (if x.toNat < y.toNat then y else x) else x + y)

def TreeSum.same (t : TreeSum) (r : ReduceBody) : Bool :=
  t.gen == r.gen && t.attempt == r.attempt && t.opseq == r.opseq && t.isMax == r.isMax

/-- A position lies in the subtree of another. -/
def inSubtree (n top : Nat) : Bool :=
  (List.range 6).foldl (fun (st : Nat × Bool) _ => if st.2 then st else if top < st.1 then (parentPos st.1, parentPos st.1 == top) else st)
    (n, n == top) |>.2

/-- A child's subtree holds a member of a group's ring list. -/
def State.kidIn (s : State) (m : MemberId) (g : Nat) : Bool :=
  (s.ringList g).any (fun x => match s.posOf x, s.posOf m with
    | some a, some b => inSubtree a b
    | _, _ => false)

/-- The group of a sum that passes through a member whose pass's code names none: one that it is not in; which, no message tells (DESIGN CHOICE, log
entry 34). -/
def State.sumGroup (s : State) (t : TreeSum) : Option Nat :=
  let l := (Tab.keys s.groups).filter (fun g => !((s.groupList g).contains s.me))
  l[Config.sumGroup t.gen t.attempt t.opseq % max 1 l.length]?

/-- A child's words are awaited for a sum (R280): its subtree holds a member of the ring list. -/
def State.kidCounts (s : State) (t : TreeSum) (m : MemberId) : Bool :=
  match (s.openSeq.bind (·.names)).or (s.sumGroup t) with
  | none => false
  | some g => s.kidIn m g

/-- Every input of a tree sum is in. -/
def State.sumReady (s : State) (t : TreeSum) : Bool :=
  t.own.isSome && s.liveKids.all (fun m => (Tab.get? t.kids m.toNat).isSome || !(s.kidCounts t m))

/-- The words of a tree sum. -/
def TreeSum.words (t : TreeSum) : List (BitVec 64) :=
  t.kids.foldl (fun a k => combineWords t.isMax a k.2) (t.own.getD [])

/-- The message body of a tree sum. -/
def TreeSum.body (t : TreeSum) (words : List (BitVec 64)) : MortarBody :=
  .reduce { gen := t.gen, attempt := t.attempt, opseq := t.opseq, isMax := t.isMax, words := words }

/-- Adds words to the record of a tree sum. -/
def State.noteSum (s : State) (r : ReduceBody) (f : TreeSum → TreeSum) : State :=
  let t := (s.mortar.sums.find? (fun t => t.same r)).getD { gen := r.gen, attempt := r.attempt, opseq := r.opseq, isMax := r.isMax }
  { s with mortar := { s.mortar with sums := s.mortar.sums.filter (fun x => !(x.same r)) ++ [f t] } }

/-- The agreed N of a collective (R279), or none when this member must raise SHAPE_RANGE. -/
def State.setTotal (s : State) (op n : Nat) : State :=
  match s.openSeq, s.coll op with
  | some _, some c =>
    if c.record.count < n then s.raise Code.shapeRange { unit := 9 }
    else
      let s := s.modColl op (fun c => { c with total := some n })
      if n = 0 then (s.modColl op (fun c => { c with finished := true })).bump 0x21580
      else s
  | _, _ => s

/-- The own words of a sum that travels on the tree. -/
def State.ownWords (s : State) (c : Coll) : List (BitVec 64 × Bool) :=
  (List.range (c.total.getD 0)).map (fun i =>
    let r := c.record
    if c.own ≤ i then ((0 : BitVec 64), true)
    else contribution r (s.groupLen c.group) (s.readLe (r.src + i * ioBytes r.inFmt) (ioBytes r.inFmt)))

/-- The result of a sum on the tree is written to DST (R280). -/
def State.treeResult (s : State) (op : Nat) (words : List (BitVec 64)) : State :=
  match s.coll op with
  | none => s
  | some c =>
    if !c.mortar || !c.landed.isEmpty then s
    else
      let s := s.write c.record.dst ((words.take (c.total.getD 0)).flatMap (outElem c.record))
      (s.modColl op (fun c => { c with lastRx := s.tb })).landChunk op 0

/-- Whether the sum of N elements travels on the tree (R280). -/
def treeSized (r : CollRec) (n : Nat) : Bool := r.format != 1 && n * 8 ≤ 64

/-- A tree sum at this node goes up once its inputs are in; at the root it is the result, which goes down (R280, R302). The
second component is the result here. -/
def State.pushSum (s : State) (r : ReduceBody) : State × Option (List (BitVec 64)) :=
  match s.mortar.sums.find? (fun t => t.same r) with
  | none => (s, none)
  | some t =>
    if t.sent || !(s.sumReady t) then (s, none)
    else
      let w := t.words
      let s := s.noteSum r (fun t => { t with sent := true })
      if s.isRoot then (s.sendDown s.me (t.body w), some w) else (s.sendUp s.me (t.body w), none)

/-- The words that a node contributes: its own when it is in the ring list, zeros otherwise. -/
def sumBody (q : Sequencer) (op : Nat) (isMax : Bool) (words : List (BitVec 64)) : ReduceBody :=
  { gen := q.gen, attempt := q.attempt, opseq := BitVec.ofNat 8 op, isMax := isMax, words := words }

/-- Starts the data part of a collective that knows N: on the tree or on the ring. -/
def State.launch (s : State) (op : Nat) : State :=
  match s.openSeq, s.coll op with
  | some q, some c =>
    let n := c.total.getD 0
    if c.finished || n = 0 then s
    else if !(treeSized c.record n) then s.releaseFrames op
    else if c.combined && !(s.rowsWritten c 0) then s
    else if c.mortar then s
    else
      let w := s.ownWords c
      let s := if c.combined then s.firstChunk op else s
      let s := s.modColl op (fun c => { c with mortar := true })
      let s := s.each (w.filter (fun e => !e.2)) (fun s _ => s.raise Code.combineGuard { unit := 9 })
      let b := sumBody q op false (w.map (·.1))
      match (s.noteSum b (fun t => { t with own := some b.words })).pushSum b with
      | (s, some r) => s.treeResult op r
      | (s, none) => s
  | _, _ => s

/-- The result of a tree sum or count reaches this member. -/
def State.sumResult (s : State) (r : ReduceBody) : State :=
  match s.openSeq with
  | none => s
  | some q =>
    if r.gen ≠ q.gen || r.attempt ≠ q.attempt || !s.attemptOpen then s
    else if r.isMax then
      match s.coll r.opseq.toNat with
      | some c => if c.total.isSome then s else (s.setTotal r.opseq.toNat (r.words.getD 0 0).toNat).launch r.opseq.toNat
      | none => s
    else s.treeResult r.opseq.toNat r.words

/-- A REDUCE message (R280, R302, R318): up, a child's words; down, the result, which is also forwarded under its ORIGIN. -/
def State.takeReduce (s : State) (down : Bool) (from_ : MemberId) (r : ReduceBody) : State :=
  let d := (r.gen - s.sched.curGen).toNat
  if 1 < d && d < 65536 - 1023 then s.windowFault from_ 15
  else if 1 < d then s
  else if down then (s.sendDown from_ (.reduce r)).sumResult r
  else
    match (s.noteSum r (fun t => { t with kids := Tab.put t.kids from_.toNat r.words })).pushSum r with
    | (s, some w) => s.sumResult { r with words := w }
    | (s, none) => s

/-- A member whose pass takes part in no group adds no words of its own to the sums that pass through it (R280). -/
def State.idleSums (s : State) : State :=
  match s.openSeq with
  | none => s
  | some q =>
    if q.names.isSome then s
    else s.each (s.mortar.sums.filter (fun t => t.own.isNone && t.gen == q.gen && t.attempt == q.attempt)) (fun s t =>
      let r : ReduceBody := { gen := t.gen, attempt := t.attempt, opseq := t.opseq, isMax := t.isMax, words := [] }
      match (s.noteSum r (fun t => { t with own := some [] })).pushSum r with
      | (s, some w) => s.sumResult { r with words := w }
      | (s, none) => s)

/-! ### Starting a collective (R270, R271, R279, R284) -/

/-- The own count goes to the tree, or the sum starts at once where the record gives the count (R279). -/
def State.haveCount (s : State) (op n : Nat) : State :=
  match s.openSeq, s.coll op with
  | some q, some c =>
    let s := s.modColl op (fun c => { c with own := n, counting := false })
    if c.record.shaped then
      let b := sumBody q op true [BitVec.ofNat 64 n]
      match (s.noteSum b (fun t => { t with own := some b.words })).pushSum b with
      | (s, some w) => s.sumResult { b with words := w }
      | (s, none) => s
    else (s.modColl op (fun c => { c with total := some n })).launch op
  | _, _ => s

/-- The count that a member brings (R279): COUNT, or its shape word's, which R222 waits for. -/
def State.ownCount (s : State) (r : CollRec) : ShapeRead := if r.shaped then s.readShape r.shape else .word r.count 0

/-- A collective that waits for its count reads it; a stale one, or one above COUNT, raises the codes of R222 and R279. -/
def State.countOwn (s : State) (op : Nat) : State :=
  match s.coll op with
  | none => s
  | some c =>
    if !c.counting then s
    else match s.ownCount c.record with
      | .wait => s
      | .stale w => (s.modColl op (fun c => { c with counting := false })).staleShape w 9
      | .word n _ =>
        if c.record.count < n then (s.modColl op (fun c => { c with counting := false })).staleShape false 9 else s.haveCount op n

/-- Starts the collective `op` of the open attempt. -/
def State.startColl (s : State) (op g : Nat) (r : CollRec) (ok combined stats : Bool) : State :=
  match s.openSeq with
  | none => s
  | some q =>
    if !ok || !r.shapeOk || r.clash || !(s.collInside r) || 256 ≤ op then s.raise Code.illegalInstruction { unit := 9 }
    else
      let c : Coll := { record := r, group := g, combined := combined, stats := stats, started := s.tb, lastRx := s.tb, own := 0, counting := true }
      ((s.modAtt (fun a => { a with colls := Tab.put a.colls op c })).writeProgress q c (0x5300 + q.attempt.toNat)).countOwn op

/-- Collectives whose count has come, or whose chunks waited for output rows, go on. -/
def State.collProgress (s : State) : State :=
  let s := s.each (s.att.colls.filter (fun c => c.2.counting)) (fun s c => s.countOwn c.1)
  s.each (s.att.colls.filter (fun c => c.2.combined && !c.2.finished && c.2.total.isSome)) (fun s c => s.launch c.1)

/-- The collective is complete. -/
def State.collDone (s : State) (op : Nat) : Bool :=
  match s.coll op with
  | some c => c.finished
  | none => false

/-- TAG 0x53FF in every progress word of the attempt (R284, R288, R290). -/
def State.abandonProgress (s : State) (q : Sequencer) : State :=
  s.each s.att.colls (fun s c => s.writeProgress q c.2 0x53FF)

/-- The collective awaits a frame or a mortar message: the count, the sum on the tree, or pieces of a chunk in the buffer. One whose
chunks wait for output rows awaits none, nor does one that waits for its own count or for its writes alone. -/
def Coll.awaits (c : Coll) : Bool := !c.finished && !c.counting && (c.total.isNone || (c.mortar && c.landed.isEmpty) || !c.chunks.isEmpty)

/-- The timeout of R286. -/
def State.collTimer (s : State) (op : Nat) : State :=
  match s.coll op with
  | none => s
  | some c =>
    if s.attemptOpen && c.awaits then s.exchangeExpired (max c.started c.lastRx + c.record.timeout) 9 else s

end Sys2Proof.Machine
end

