-- ==== Sys2Proof/Machine/Placing.lean ====
section
/-! DEFINITION. Placement and tiers (14, R322 to R345): the plan record, statistics, the planner, moves, castling, staging, cold
streaming, member loss. -/

namespace Sys2Proof.Machine

/-! ### The plan record (R323, R324) -/

def Placement.layers (r : Placement) : Nat := le r.plan 0 2
def Placement.eMax (r : Placement) : Nat := le r.plan 2 2
def Placement.maxCopies (r : Placement) : Nat := le r.plan 4 2
def Placement.slots (r : Placement) : Nat := le r.plan 6 2
def Placement.target (r : Placement) : Nat := le r.plan 8 4
def Placement.coldBelow (r : Placement) : Nat := le r.plan 0xC 4
def Placement.sticky (r : Placement) : Nat := le r.plan 0x10 1
def Placement.frozen (r : Placement) : Bool := bit (le r.plan 0x11 1) 0
def Placement.hier (r : Placement) : Bool := bit (le r.plan 0x11 1) 1
def Placement.chunkLog2 (r : Placement) : Nat := le r.plan 0x12 1
def Placement.curInit (r : Placement) : Nat := le r.plan 0x13 1
def Placement.epochInit (r : Placement) : Nat := le r.plan 0x14 2
def Placement.recoverSteps (r : Placement) : Nat := le r.plan 0x16 2
def Placement.expertBytes (r : Placement) : Nat := le r.plan 0x18 4
def Placement.timeout (r : Placement) : Nat := le r.plan 0x1C 4
def Placement.base (r : Placement) (off : Nat) : Nat := field (le r.plan off 8) 0 52
def Placement.statBase (r : Placement) : Nat := r.base 0x20
def Placement.sumBase (r : Placement) : Nat := r.base 0x28
def Placement.wpool (r : Placement) : Nat := r.base 0x30
def Placement.stage (r : Placement) : Nat := r.base 0x38
def Placement.coldBase (r : Placement) : Nat := r.base 0x40
def Placement.quarry (r : Placement) : Nat := r.base 0x48
def Placement.lend (r : Placement) : Nat := r.base 0x50
def Placement.lenders (r : Placement) : Nat := r.base 0x58

/-- Bytes of the DEMAND array. -/
def Placement.demandBytes (r : Placement) : Nat := r.layers * r.eMax * 8

/-- Writes the placement state of a program. -/
def State.setPlacement (s : State) (p : Fin 16) (v : Placement) : State :=
  { s with placement := Tab.set (fun _ => {}) s.placement p.val v }

/-- Changes the placement state of a program. -/
def State.modPlacement (s : State) (p : Fin 16) (f : Placement → Placement) : State := s.setPlacement p (f (s.placementOf p))

/-- A program is its own planner. -/
def State.isPlanner (s : State) (p : Fin 16) : Bool := s.plannerOf p == p

/-- PLAN_REC in effect. -/
def State.planAddr (s : State) (p : Fin 16) : Nat := s.eff (0xEC00 + 0x40 * p.val) 0 52

/-- EPOCH_STEPS in effect. -/
def State.epochSteps (s : State) (p : Fin 16) : Nat := s.eff (0xEC0C + 0x40 * p.val) 0 16

/-- The plan record at PLAN_REC. -/
def State.readPlan (s : State) (p : Fin 16) : List Byte := s.read (s.planAddr p) 128

/-- Host address of the layer table of layer l of program p. -/
def State.ltabAddr (s : State) (p : Fin 16) (l : Nat) : Nat := (s.prog p).image.ltabBase + 512 * l

/-- E and PLACE_BASE of a layer table. -/
def State.layerE (s : State) (p : Fin 16) (l : Nat) : Nat := (ScoringBlock.parse (s.read (s.ltabAddr p l + 0x40) 64)).e
def State.layerPlace (s : State) (p : Fin 16) (l : Nat) : Nat := s.readLe (s.ltabAddr p l + 0x18) 8 % hostTop
/-- COLD_SLOTS of a layer table. -/
def State.layerCold (s : State) (p : Fin 16) (l : Nat) : Nat := s.readLe (s.ltabAddr p l + 0xA4) 1

/-- Lender of a member: id and VALID. -/
def State.lenderOf (s : State) (r : Placement) (m : MemberId) : Option MemberId :=
  if r.lenders = 0 then none
  else
    let e := s.readLe (r.lenders + 2 * m.toNat) 2
    if bit e 15 then some (BitVec.ofNat 10 e) else none

/-- Members that name a lender, ascending. -/
def State.borrowers (s : State) (r : Placement) (lender : MemberId) : List MemberId :=
  ((List.range 1024).map (BitVec.ofNat 10)).filter (fun m => s.lenderOf r m == some lender)

/-- Field ranges and alignments of a plan record. -/
def Placement.fieldsOk (r : Placement) : Bool :=
  1 ≤ r.layers && r.layers ≤ 256 && 1 ≤ r.eMax && r.eMax ≤ 4096 && 1 ≤ r.maxCopies && r.maxCopies ≤ 256 &&
  2 * r.maxCopies ≤ r.slots && r.slots ≤ 512 && 1 ≤ r.target && 14 ≤ r.chunkLog2 && r.chunkLog2 ≤ 22 && r.curInit ≤ 2 &&
  1 ≤ r.recoverSteps && r.expertBytes != 0 && r.expertBytes % 64 == 0 && 1250 ≤ r.timeout && r.statBase % 64 == 0 &&
  r.sumBase % 64 == 0 && r.wpool % 64 == 0 && r.stage % 64 == 0 && r.coldBase % 4096 == 0 && r.quarry % 64 == 0 &&
  r.lend % 64 == 0

/-- The checks of R324; the tier-1 ranges count when the record names lenders, the lent pool on a lender, the cold buffers as
far as the layers' COLD_SLOTS. -/
def State.planOk (s : State) (p : Fin 16) (r : Placement) : Bool :=
  let layers := List.range r.layers
  let cold := layers.foldl (fun n l => max n (s.layerCold p l)) 0
  let mine := if r.lenders = 0 then 0 else (s.borrowers r s.me).length
  r.fieldsOk && layers.all (fun l => s.layerE p l ≤ r.eMax) &&
  s.insideAlloc r.statBase (2 * r.demandBytes + 64) && s.insideAlloc r.sumBase (r.demandBytes + 64) &&
  s.insideAlloc r.wpool (r.layers * r.slots * r.expertBytes) &&
  s.insideAlloc r.quarry (r.layers * r.eMax * r.expertBytes) &&
  s.insideAlloc r.coldBase (4096 + cold * r.expertBytes) &&
  (r.lenders == 0 || (s.insideAlloc r.lenders 2048 && s.insideAlloc r.stage (2 * r.maxCopies * r.expertBytes))) &&
  (mine == 0 || s.insideAlloc r.lend (mine * 256 * r.slots * r.expertBytes))

/-- The placement headers at LOAD (R325). -/
def State.headersOk (s : State) (p : Fin 16) (r : Placement) : Bool :=
  (List.range r.layers).all (fun l =>
    let b := s.layerPlace p l
    s.readLe b 1 == l && s.readLe (b + 2) 2 == s.layerE p l && s.readLe (b + 4) 1 == r.curInit && s.readLe (b + 5) 1 == 3 &&
    s.readLe (b + 6) 2 == r.epochInit)

/-- An epoch of planner p begins: STEP_IN_EPOCH of the planner and of its followers returns to 0 (R328). -/
def State.restartEpoch (s : State) (p : Fin 16) : State :=
  s.each (List.range 16) (fun s k =>
    let f := Fin.ofNat 16 k
    if s.plannerOf f = p then s.modPlacement f (fun x => { x with stepIn := 0 }) else s)

/-- Takes the plan record at the LOAD of a planner (R323, R328). -/
def State.loadPlan (s : State) (p : Fin 16) : State :=
  let r : Placement := { plan := s.readPlan p }
  (s.setPlacement p { r with epoch := BitVec.ofNat 16 r.epochInit, cur := r.curInit }).restartEpoch p

/-- Words of the placement registers of program p take effect (R344). -/
def State.applyPlacement (s : State) (p : Nat) : State := s.applyWords ((0xEC00 + 0x40 * p) / 8) ((0xEC08 + 0x40 * p) / 8)

/-! ### Epochs (R328) -/

/-- Length of the current epoch of program p. -/
def State.epochLen (s : State) (p : Fin 16) : Nat :=
  let q := s.plannerOf p
  let r := s.placementOf q
  r.endStep.getD (if r.recovering then r.recoverSteps else s.epochSteps q)

/-- Length of the epochs after the current one of program p. -/
def State.laterLen (s : State) (p : Fin 16) : Nat :=
  let q := s.plannerOf p
  let r := s.placementOf q
  if r.recovering then r.recoverSteps else s.epochSteps q

/-- A program step is complete (R202, R328). An epoch that a member loss ended with it is over, though no statistics pass ran in it
(R342). -/
def State.stepDone (s : State) (p : Fin 16) : State :=
  let ends := (s.placementOf p).endStep == some ((s.placementOf p).stepIn.toNat + 1)
  let s := s.modPlacement p (fun r => { r with stepIn := r.stepIn + 1, inLast := none, lastOpened := false })
  if ends then (s.modPlacement p (fun r => { r with endStep := none })).restartEpoch p else s

/-- The seal of a statistics pass ends an epoch that a member loss ends with the running step (R342). -/
def State.statsEnds (s : State) (p : Fin 16) : State :=
  if (s.placementOf p).endStep = some ((s.placementOf p).stepIn.toNat + 1) then s.modPlacement p (fun r => { r with endStep := none }) else s

/-- Epoch number of a program. -/
def State.epochOf (s : State) (p : Fin 16) : BitVec 16 := (s.placementOf (s.plannerOf p)).epoch

/-! ### Statistics (R329, R330) -/

/-- Adds to a 64-bit word in host memory. -/
def State.addLe (s : State) (a n : Nat) : State := s.writeLe a 8 (s.readLe a 8 + n)

/-- The owner's demand and grants of a sealed pass (R94, R329). An expert with demand and no grant counts its demand, as those rules have it,
though R85's table gives STATS the value 0 for it: that is its granted total (DEDUCED, log entry 119). -/
def State.addStatistics (s : State) (q : Sequencer) : State :=
  let r := s.placementOf (s.plannerOf q.prog)
  if q.layer.toNat < r.layers then
    s.each s.att.owned (fun s x =>
      let off := (q.layer.toNat * r.eMax + x.1) * 8
      (s.addLe (r.statBase + off) x.2.1).addLe (r.statBase + r.demandBytes + 64 + off) x.2.2)
  else s

/-- Address of the header, and bytes of table k, of layer l of planner p. -/
def State.tableBytes (s : State) (p : Fin 16) (l k : Nat) : List Byte :=
  let n := s.layerE p l
  s.read (s.layerPlace p l + 64 + k * n * 32) (n * 32)

/-- STATE_CRC (R330). -/
def State.stateCrc (s : State) (p : Fin 16) : Nat :=
  let r := s.placementOf p
  let pend := if r.pend = 3 then 0 else
    (crc32c ((List.range r.layers).flatMap (fun l => s.tableBytes p l r.pend))).toNat
  let quota (k : Nat) : List Byte := leBytes 4 (s.reg (0xEC18 + 0x40 * p.val + 4 * k) 0 32)
  (crc32c (leBytes 2 r.epoch.toNat ++ leBytes 1 r.cur ++ leBytes 1 r.pend ++ r.plan ++ leBytes 2 (s.epochSteps p) ++
    quota 0 ++ quota 1 ++ quota 2 ++ leBytes 4 pend)).toNat

/-- Moves of the pending plan that are not complete here. -/
def Placement.pendingMoves (r : Placement) : Nat := (r.moves.filter (fun m => !m.staging && !m.done)).length

/-- The eight check words (R330). -/
def State.checkWords (s : State) (p : Fin 16) : List Nat :=
  let r := s.placementOf p
  let x := r.epoch.toNat
  let c := s.stateCrc p
  let y := c % 65536
  let z := c / 65536
  [1, r.pendingMoves, x, x * x, y, y * y, z, z * z]

/-- The record of the statistics sum (R269, R330). -/
def Placement.collRec (r : Placement) : CollRec :=
  { format := 0, inFmt := 2, outFmt := 2, hier := r.hier, shaped := false, waits := false, log2 := r.chunkLog2, grid := 0,
    source := 0, fires := false, count := r.layers * r.eMax + 8, shape := 0, src := r.statBase, dst := r.sumBase,
    progress := 0, timeout := r.timeout }

/-- STATS starts (R330 steps 1 and 2). -/
def State.startStats (s : State) (op g : Nat) : State :=
  match s.openSeq with
  | none => s
  | some q =>
    let s := s.modPlacement q.prog (fun r => { r with plan := s.readPlan q.prog })
    let r := s.placementOf q.prog
    if !(s.planOk q.prog r) then s.raise Code.illegalInstruction { unit := 9 }
    else
      let s := s.each (s.checkWords q.prog).zipIdx (fun s w => s.writeLe (r.statBase + r.demandBytes + 8 * w.2) 8 w.1)
      s.startColl op g r.collRec true false true

/-- The check of the summed words (R330 step 3). -/
def State.sumsOk (s : State) (p : Fin 16) (n : Nat) : Bool :=
  let r := s.placementOf p
  let w (i : Nat) : Nat := s.readLe (r.sumBase + r.demandBytes + 8 * i) 8
  let own := s.checkWords p
  w 0 == n && [2, 3, 4, 5, 6, 7].all (fun i => w i == n * own.getD i 0 % 2 ^ 64)

/-! ### The planner (R332, R333) -/

/-- Layer l of a plan: the experts in the order ord[], and the members of each expert's copies; a cold expert has no copies
and its home. -/
structure LayerPlan where
  layer  : Nat
  ord    : List Nat
  copies : Tab (List MemberId)
  homes  : Tab MemberId
  deriving DecidableEq, Repr

/-- Members of a rack that hold a copy. -/
def rackCount (l : List MemberId) (r : Nat) : Nat := l.countP (fun m => rackOf m == r)

/-- The members that may take the next copy of an expert (R332). -/
def candidates (ring : List MemberId) (maxCopies : Nat) (held : Tab Nat) (has : List MemberId) : List MemberId :=
  let c := ring.filter (fun m => (Tab.get? held m.toNat).getD 0 < maxCopies && !(has.contains m))
  if has.isEmpty then c
  else
    let fewest := c.foldl (fun n m => min n (rackCount has (rackOf m))) has.length
    c.filter (fun m => rackCount has (rackOf m) == fewest)

/-- The candidate of least key, then of lowest id. -/
def leastKey (key : MemberId → Int) : List MemberId → Option MemberId
  | [] => none
  | m :: t => match leastKey key t with
    | none => some m
    | some b => if key m < key b ∨ (key m = key b ∧ m.toNat < b.toNat) then some m else some b

/-- Copies that an expert wants: pairs (expert, want), in the order of ord[] (R332). -/
def wants (r : Placement) (members spare : Nat) (c : Nat → Nat) (ord : List Nat) : List (Nat × Nat) :=
  (ord.foldl (fun (st : Nat × List (Nat × Nat)) e =>
    let n := if c e < r.coldBelow then 0 else min (min (ceilDiv (c e) r.target) 8) members
    let extra := if 1 < n then min (n - 1) st.1 else 0
    (st.1 - extra, st.2 ++ [(e, if n = 0 then 0 else 1 + extra)])) (spare, [])).2

/-- Placing state of one layer: load and copies held by member. -/
structure PlaceState where
  load : Tab Nat := []
  held : Tab Nat := []
  deriving DecidableEq, Repr

/-- Places up to n copies of one expert. -/
def placeExpert (ring : List MemberId) (maxCopies stick share : Nat) (holder : MemberId → Bool) :
    Nat → PlaceState → List MemberId → PlaceState × List MemberId
  | 0, st, has => (st, has)
  | n + 1, st, has =>
    let key (m : MemberId) : Int := (((Tab.get? st.load m.toNat).getD 0 : Nat) : Int) - (if holder m then (stick : Int) else 0)
    match leastKey key (candidates ring maxCopies st.held has) with
    | none => (st, has)
    | some m =>
      let st : PlaceState := { load := Tab.put st.load m.toNat ((Tab.get? st.load m.toNat).getD 0 + share),
                               held := Tab.put st.held m.toNat ((Tab.get? st.held m.toNat).getD 0 + 1) }
      placeExpert ring maxCopies stick share holder n st (has ++ [m])

/-- Plans one layer (R332); none when there are fewer copies than experts. -/
def planLayer (r : Placement) (ring : List MemberId) (layer e : Nat) (c : Nat → Nat) (base : Nat → PlaceEntry) : Option LayerPlan :=
  let m := ring.length
  if m * r.maxCopies < e then none
  else
    let ord := sortBy (fun i => (2 ^ 64 - c i) * 4096 + i) (List.range e)
    let want := wants r m (m * r.maxCopies - e) c ord
    let total := (List.range e).foldl (fun n i => n + c i * 840) 0
    let stick := total / m * r.sticky / 256
    let res := want.foldl (fun (st : PlaceState × LayerPlan) w =>
      let share := if w.2 = 0 then 0 else c w.1 * 840 / w.2
      let x := placeExpert ring r.maxCopies stick share (fun m => (base w.1).replicas.contains m) (max 1 w.2) st.1 []
      if w.2 = 0 then (x.1, { st.2 with homes := Tab.put st.2.homes w.1 (x.2.headD 0) })
      else (x.1, { st.2 with copies := Tab.put st.2.copies w.1 x.2 }))
      (({} : PlaceState), ({ layer := layer, ord := ord, copies := [], homes := [] } : LayerPlan))
    some res.2

/-- A copy with its tier and slot: layer, expert, tier, slot, and that it is new. -/
structure SlotOf where
  layer  : Nat
  expert : Nat
  tier   : Nat
  slot   : Nat
  fresh  : Bool
  deriving DecidableEq, Repr

/-- Slots of member m in a table of layer l: tier and slot by expert. -/
def slotsIn (base : Nat → Nat → PlaceEntry) (count : Nat → Nat) (m : MemberId) (l : Nat) : List SlotOf :=
  (List.range (count l)).flatMap (fun e =>
    let p := base l e
    (List.range (min 8 p.copies)).filterMap (fun k =>
      if p.rep k = m then some { layer := l, expert := e, tier := p.tier k, slot := p.slot k, fresh := false } else none))

/-- Distinct slots of a tier. -/
def tierSlots (l : List SlotOf) (t : Nat) : Nat := (((l.filter (fun x => x.tier == t)).map (fun x => (x.layer, x.slot))).eraseDups).length

/-- Tiers and slots of one member's copies (R333). -/
def assignMember (r : Placement) (q0 q1 : Nat) (lender : Bool) (old : List SlotOf) (copies : List (Nat × Nat)) : List SlotOf :=
  let kept := copies.filterMap (fun c => old.find? (fun x => x.layer == c.1 && x.expert == c.2))
  let fresh := copies.filter (fun c => !(old.any (fun x => x.layer == c.1 && x.expert == c.2)))
  kept ++ (fresh.foldl (fun (st : List SlotOf) c =>
    let used := old ++ st
    let taken := (used.filter (fun x => x.layer == c.1)).map (·.slot)
    let slot := ((List.range r.slots).find? (fun i => !(taken.contains i))).getD r.slots
    let fits (t q : Nat) : Bool := (tierSlots used t + 1) * r.expertBytes ≤ q * 2 ^ 20
    let tier := if fits 0 q0 then 0 else if fits 1 q1 && lender then 1 else 0
    let x : SlotOf := { layer := c.1, expert := c.2, tier := tier, slot := slot, fresh := true }
    st ++ [x]) [])

/-- Bytes of an expert entry (R325). -/
def entryBytes (copies : Nat) (home : MemberId) (reps : List (MemberId × Nat × Nat)) : List Byte :=
  let hi := bitsOf 8 (fun k => match reps[k]? with
    | some x => 256 ≤ x.2.2
    | none => false)
  leBytes 1 copies ++ leBytes 1 0 ++ leBytes 2 home.toNat ++ leBytes 1 hi ++ leBytes 3 0 ++
  (List.range 8).flatMap (fun k => leBytes 2 (match reps[k]? with
    | some x => x.1.toNat + 1024 * x.2.1 + 32768
    | none => 0)) ++
  (List.range 8).flatMap (fun k => leBytes 1 (match reps[k]? with
    | some x => x.2.2
    | none => 0))

/-- A whole plan: the layers, and the slots by member. -/
structure WholePlan where
  layers : List LayerPlan
  slots  : Tab (List SlotOf)
  deriving DecidableEq, Repr

/-- Quotas of planner p in MiB. -/
def State.quotaTier (s : State) (p : Fin 16) (k : Nat) : Nat := s.reg (0xEC18 + 0x40 * p.val + 4 * k) 0 32

/-- Every member keeps within its quotas (R333). -/
def WholePlan.within (w : WholePlan) (r : Placement) (old : MemberId → List SlotOf) (q : Nat → Nat) (ring : List MemberId) : Bool :=
  ring.all (fun m =>
    let used := old m ++ (Tab.get? w.slots m.toNat).getD []
    let homes := w.layers.foldl (fun n l => n + (l.homes.filter (fun h => h.2 == m)).length) 0
    used.all (fun x => x.slot < r.slots) && tierSlots used 0 * r.expertBytes ≤ q 0 * 2 ^ 20 &&
    tierSlots used 1 * r.expertBytes ≤ q 1 * 2 ^ 20 && homes * r.expertBytes ≤ q 2 * 2 ^ 20)

/-- An entry without the copies on some members (R421, R428). -/
def PlaceEntry.without (x : PlaceEntry) (gone : List MemberId) : PlaceEntry :=
  let l := (List.range (min 8 x.copies)).filter (fun k => !(gone.contains (x.rep k)))
  if l.length = min 8 x.copies then x
  else { x with
    copies := l.length, reps := l.map (fun k => x.reps.getD k 0), slots := l.map (fun k => x.slots.getD k 0),
    slotHi := bitsOf 8 (fun i => match l[i]? with
      | some k => bit x.slotHi k
      | none => false) }

/-- What planning gives. -/
inductive PlanResult where
  | refusedCopies
  | refusedQuota
  | made (w : WholePlan)
  deriving DecidableEq, Repr

/-- Plans every layer from base table k (R332, R333); the copies of members admitted since it came into use are none of its. -/
def State.makePlan (s : State) (p : Fin 16) (ring : List MemberId) (k : Nat) : PlanResult :=
  let r := s.placementOf p
  let layers := List.range r.layers
  let base (l e : Nat) : PlaceEntry := (s.entryAt (s.layerPlace p l) (s.layerE p l) k e).without r.stale
  let demand (l e : Nat) : Nat := s.readLe (r.sumBase + (l * r.eMax + e) * 8) 8
  let plans := layers.map (fun l => planLayer r ring l (s.layerE p l) (demand l) (base l))
  if plans.any Option.isNone then .refusedCopies
  else
    let ls := plans.filterMap id
    let old (m : MemberId) : List SlotOf := layers.flatMap (slotsIn base (s.layerE p) m)
    let copiesOf (m : MemberId) : List (Nat × Nat) := ls.flatMap (fun l =>
      (l.ord.filter (fun e => ((Tab.get? l.copies e).getD []).contains m)).map (fun e => (l.layer, e)))
    let w : WholePlan := { layers := ls, slots := ring.foldl (fun t m => Tab.put t m.toNat
      (assignMember r (s.quotaTier p 0) (s.quotaTier p 1) (s.lenderOf r m).isSome (old m) (copiesOf m))) [] }
    if w.within r old (s.quotaTier p) ring then .made w else .refusedQuota

/-- The slot of a copy in a plan. -/
def WholePlan.slotOf (w : WholePlan) (m : MemberId) (l e : Nat) : Option SlotOf :=
  ((Tab.get? w.slots m.toNat).getD []).find? (fun x => x.layer == l && x.expert == e)

/-- Writes the planned table k of one layer. -/
def State.writeTable (s : State) (p : Fin 16) (w : WholePlan) (k : Nat) (l : LayerPlan) : State :=
  let n := s.layerE p l.layer
  let base := s.layerPlace p l.layer + 64 + k * n * 32
  s.each (List.range n) (fun s e =>
    let ms := (Tab.get? l.copies e).getD []
    let reps := ms.map (fun m => match w.slotOf m l.layer e with
      | some x => (m, x.tier, x.slot)
      | none => (m, 0, 0))
    let home := if ms.isEmpty then (Tab.get? l.homes e).getD 0 else ms.headD 0
    s.write (base + 32 * e) (entryBytes ms.length home reps))

/-! ### Weight addresses (R326) -/

def Placement.tier0Addr (r : Placement) (l slot : Nat) : Nat := r.wpool + (l * r.slots + slot) * r.expertBytes
def Placement.quarryAddr (r : Placement) (l e : Nat) : Nat := r.quarry + (l * r.eMax + e) * r.expertBytes

/-- Tier-1 copy at rest on its lender. -/
def State.lentAddr (s : State) (r : Placement) (holder : MemberId) (l slot : Nat) : Nat :=
  match s.lenderOf r holder with
  | none => 0
  | some x =>
    let b := ((s.borrowers r x).findIdx? (· == holder)).getD 0
    r.lend + ((b * 256 + l) * r.slots + slot) * r.expertBytes

/-- Staging buffer of the q-th tier-1 copy of layer l. -/
def Placement.stageAddr (r : Placement) (l q : Nat) : Nat := r.stage + (l % 2 * r.maxCopies + q) * r.expertBytes

/-! ### Moves (R335 to R337) -/

/-- Source of a move (R335): a tier-0 copy of the base table on a settled member, in this rack when there is one, of lowest
id. -/
def State.moveSource (s : State) (p : PlaceEntry) : Option (MemberId × Nat) :=
  let all := (List.range (min 8 p.copies)).filterMap (fun k =>
    if p.tier k = 0 && s.isSettled (p.rep k) then some (p.rep k, p.slot k) else none)
  let near := all.filter (fun x => rackOf x.1 == rackOf s.me)
  (sortBy (fun x : MemberId × Nat => x.1.toNat) (if near.isEmpty then all else near)).head?

/-- This member's moves of a plan (R335): ascending layer, then ord[]. -/
def State.planMoves (s : State) (p : Fin 16) (w : WholePlan) (k : Nat) : List WMove :=
  let r := s.placementOf p
  w.layers.flatMap (fun l => l.ord.flatMap (fun e =>
    ((Tab.get? l.copies e).getD []).filterMap (fun m =>
      match w.slotOf m l.layer e with
      | none => none
      | some x =>
        let receiver := if x.tier = 0 then some m else s.lenderOf r m
        if !x.fresh || receiver != some s.me then none
        else some { staging := false, layer := l.layer, expert := e, holder := m,
                    dst := if x.tier = 0 then r.tier0Addr l.layer x.slot else s.lentAddr r m l.layer x.slot,
                    src := s.moveSource ((s.entryAt (s.layerPlace p l.layer) (s.layerE p l.layer) k e).without r.stale), epoch := r.epoch })))

/-- The same move. -/
def WMove.same (a b : WMove) : Bool :=
  a.staging == b.staging && a.layer == b.layer && a.expert == b.expert && a.holder == b.holder

/-- Replaces a move of planner p. -/
def State.putMove (s : State) (p : Fin 16) (m : WMove) : State :=
  s.modPlacement p (fun r => { r with moves := r.moves.map (fun x => if x.same m then m else x) })

/-- Bytes of the window in progress. -/
def WMove.windowLen (m : WMove) (r : Placement) : Nat := min 1048576 (r.expertBytes - m.off)

/-- The host port accesses of a move, as its responses name them. -/
def WMove.ctx (m : WMove) (p : Fin 16) : HostCtx := .move p (BitVec.ofNat 8 m.layer) (BitVec.ofNat 12 m.expert) m.staging

/-- The window in progress is written whole: the move goes on when the response of its writes comes (R336, R392). -/
def State.landWindow (s : State) (p : Fin 16) (m : WMove) : State := (s.putMove p { m with wait := true }).hostIssue (m.ctx p)

/-- Bytes of the window in progress that need no frame, of this member's own copy or of the quarry tier, are written. -/
def State.copyWindow (s : State) (p : Fin 16) (m : WMove) (src : Nat) : State :=
  (s.write (m.dst + m.off) (s.read (src + m.off) (m.windowLen (s.placementOf p)))).landWindow p m

/-- Requests the window in progress from the source (R336); this member's own copy and the quarry tier need no request frame. -/
def State.requestWindow (s : State) (p : Fin 16) (m : WMove) : State :=
  let r := s.placementOf p
  match m.src with
  | none => s
  | some (peer, slot) =>
    if peer = s.me then s.copyWindow p m (if m.staging then s.lentAddr r m.holder m.layer slot else r.tier0Addr m.layer slot)
    else (s.putMove p { m with since := s.tb }).send peer (.bulk {
      kind := 1, last := false, stage := m.staging, planEpoch := m.epoch, requester := s.me,
      layer := BitVec.ofNat 8 m.layer, srcSlot := BitVec.ofNat 9 slot, expert := BitVec.ofNat 12 m.expert,
      window := BitVec.ofNat 32 m.off, offset := 0, length := BitVec.ofNat 32 (m.windowLen r), windowCrc := 0, data := [] })

/-- The window in progress is requested again from its start. -/
def State.windowAgain (s : State) (p : Fin 16) (m : WMove) : State :=
  let m := { m with parts := [], crc := none, wait := false }
  (s.putMove p m).requestWindow p m

/-- Starts a move. -/
def State.startMove (s : State) (p : Fin 16) (m : WMove) : State := (s.putMove p { m with active := true }).requestWindow p { m with active := true }

/-- At most 4 moves in progress (R335). -/
def State.startMoves : Nat → State → Fin 16 → State
  | 0, s, _ => s
  | n + 1, s, p =>
    let r := s.placementOf p
    if 4 ≤ (r.moves.filter (fun m => !m.staging && m.active)).length then s
    else match r.moves.find? (fun m => !m.staging && !m.active && !m.done) with
      | some m => State.startMoves n (s.startMove p m) p
      | none => s

def State.moreMoves (s : State) (p : Fin 16) : State := s.startMoves (s.placementOf p).moves.length p

/-- A window's writes have completed (R336, R392): the move goes on with the next window, or is complete. -/
def State.windowDone (s : State) (p : Fin 16) (m : WMove) : State :=
  let r := s.placementOf p
  let n := m.windowLen r
  let s := s.bump 0x216A8 n
  let m := { m with off := m.off + n, parts := [], crc := none, wait := false }
  if r.expertBytes ≤ m.off then
    let s := s.bump (if m.staging then 0x216B8 else 0x216A0)
    let s := if m.fallback then s.bump 0x216B0 else s
    (s.putMove p { m with done := true, active := false }).moreMoves p
  else (s.putMove p m).requestWindow p m

/-- A move falls back to its rack's quarry tier from the window that failed (R336); one that reads the quarry tier already goes on there. -/
def State.quarryFallback (s : State) (p : Fin 16) (m : WMove) : State :=
  s.putMove p { m with src := none, fallback := m.fallback || m.src.isSome, parts := [], crc := none }

/-- The move of a BULK frame at its receiver, planner and move: of the active moves of the expert's copy, the first that `wants` it. -/
def State.moveOf (s : State) (b : BulkFrame) (wants : WMove → Bool) : Option (Fin 16 × WMove) :=
  (List.range 16).findSome? (fun k =>
    let p := Fin.ofNat 16 k
    ((s.placementOf p).moves.find? (fun m => m.staging == b.stage && m.layer == b.layer.toNat && m.expert == b.expert.toNat && m.active &&
      m.off == b.window.toNat && wants m)).map (fun m => (p, m)))

/-- The epoch that a BULK frame's PLAN_EPOCH is compared with (R337): that of the pending plan; the current one for a staging, or with no
plan pending. -/
def Placement.bulkEpoch (r : Placement) (stage : Bool) : BitVec 16 := if stage || r.pend = 3 then r.epoch else r.planEpoch

/-- PLAN_EPOCH lies outside the window of R318. A frame names no program: it is outside when it is so for every planner with a plan
(DESIGN CHOICE, log entry 120). -/
def State.bulkOutside (s : State) (b : BulkFrame) : Bool :=
  let l := ((List.range 16).map (fun k => s.placementOf (Fin.ofNat 16 k))).filter (fun r => !r.plan.isEmpty)
  !l.isEmpty && l.all (fun r =>
    let d := (b.planEpoch - r.bulkEpoch b.stage).toNat
    decide (1 < d) && decide (d < 65535))

/-- A BULK data frame at the receiver (R336, R337): its bytes are written, and the window's CRC is checked once the window is complete. Where two
moves pull one window of one copy, it goes to the first that has not had it. -/
def State.takeBulk (s : State) (from_ : MemberId) (b : BulkFrame) : State :=
  if s.bulkOutside b then s.windowFault from_ 12
  else match s.moveOf b (fun m => m.epoch == b.planEpoch && !m.wait && m.src.map (·.1) == some from_ &&
      (Tab.get? m.parts b.offset.toNat).isNone) with
  | none => s
  | some (p, m) =>
      let n := m.windowLen (s.placementOf p)
      let s := s.write (m.dst + m.off + b.offset.toNat) (b.data.take (n - b.offset.toNat))
      let m := { m with since := s.tb, parts := Tab.put m.parts b.offset.toNat b.data, crc := if b.last then some b.windowCrc else m.crc }
      match m.crc with
      | some crc =>
        if m.parts.foldl (fun n x => n + x.2.length) 0 ≠ n then s.putMove p m
        else if crc32c (m.parts.flatMap (·.2)) = crc then s.landWindow p m
        else (s.raise Code.frameCrc { unit := 12, member := some from_, detail := s.rxDetail 3 }).windowAgain p m
      | none => s.putMove p m

/-- A table of layer l holds a copy of expert e at member m in a tier and slot. -/
def State.holdsCopy (s : State) (p : Fin 16) (k l e : Nat) (m : MemberId) (tier slot : Nat) : Bool :=
  k ≤ 2 &&
  (let x := s.entryAt (s.layerPlace p l) (s.layerE p l) k e
   (List.range (min 8 x.copies)).any (fun i => x.rep i == m && x.tier i == tier && x.slot i == slot))

/-- Address of the copy that a BULK request names at this member (R337), if it is held in a current or pending table. -/
def State.bulkSource (s : State) (b : BulkFrame) : Option Nat :=
  (List.range 16).findSome? (fun k =>
    let p := Fin.ofNat 16 k
    let r := s.placementOf p
    let l := b.layer.toNat
    let e := b.expert.toNat
    let slot := b.srcSlot.toNat
    let held (m : MemberId) (tier : Nat) : Bool :=
      l < r.layers && e < s.layerE p l && (s.holdsCopy p r.cur l e m tier slot || s.holdsCopy p r.pend l e m tier slot)
    if b.stage then
      if held b.requester 1 && s.lenderOf r b.requester == some s.me then some (s.lentAddr r b.requester l slot) else none
    else if held s.me 0 then some (r.tier0Addr l slot) else none)

/-- A BULK request at the source (R318, R336, R337): the window's frames, the last with its CRC. -/
def State.answerBulk (s : State) (b : BulkFrame) : State :=
  if s.bulkOutside b then s.windowFault b.requester 12
  else match s.bulkSource b with
  | none => s
  | some a =>
    let n := b.length.toNat
    let data := s.read (a + b.window.toNat) n
    let k := max 1 (ceilDiv n 8160)
    let frame (i : Nat) : BulkFrame :=
      { b with kind := 2, last := i + 1 == k, offset := BitVec.ofNat 32 (8160 * i),
               length := BitVec.ofNat 32 (((data.drop (8160 * i)).take 8160).length),
               windowCrc := if i + 1 = k then crc32c data else 0, data := (data.drop (8160 * i)).take 8160 }
    s.each (List.range k) (fun s i => s.send b.requester (.bulk (frame i)))

/-- A BULK request of this member met the retransmission limit (R336). -/
def State.bulkLimit (s : State) (p : Payload) : State :=
  match p with
  | .bulk b =>
    if b.kind ≠ 1 then s
    else match s.moveOf b (fun m => m.src.isSome && !m.wait) with
      | some (p, m) => s.quarryFallback p m
      | none => s
  | _ => s

/-- The moves of BULK requests that met RETRANSMIT_LIMIT fall back (R258, R336). -/
def State.takeLimits (s : State) : State :=
  if s.net.limited.isEmpty then s
  else ({ s with net := { s.net with limited := [] } } : State).each s.net.limited State.bulkLimit

/-- Moves and stagings whose source has not answered (R336, R337): neither data frames that met the source's limit nor a request that the
source discarded show at the receiver otherwise. The rules give no time; the block waits `Config.bulkWait` from the request, or from the
latest frame of the window (log entry 36). -/
def State.bulkOverdue (s : State) : State :=
  s.each (List.range 16) (fun s k =>
    let p := Fin.ofNat 16 k
    s.each ((s.placementOf p).moves.filter (fun m => m.active && !m.wait && m.src.isSome && decide (m.since + Config.bulkWait ≤ s.tb)))
      (fun s m => s.quarryFallback p m))

/-- A window read of the quarry tier answers OK (R335, R336): it is written. -/
def State.quarryWindow (s : State) (p : Fin 16) (m : WMove) : State :=
  s.copyWindow p m ((s.placementOf p).quarryAddr m.layer m.expert)

/-- Takes n off a counter: what it counted did not happen. -/
def State.uncount (s : State) (c n : Nat) : State :=
  { s with counters := Tab.set (fun _ => 0) s.counters c (s.ctr c - n) }

/-- The move that a host access belongs to: the active one of the expert's copy that makes such an access. -/
def State.moveNamed (s : State) (p : Fin 16) (l e : Nat) (staging : Bool) (makes : WMove → Bool) : Option WMove :=
  (s.placementOf p).moves.find? (fun m => m.staging == staging && m.layer == l && m.expert == e && m.active && makes m)

/-- The response of a window's host read (R336, R394): OK on a quarry read writes the window; DATA_ERR repeats it; DECODE_ERR
fails the move as a retransmission limit does: a quarry read starts its window again, as no other source is left. -/
def State.moveRead (s : State) (p : Fin 16) (l e : Nat) (staging : Bool) (st : HostStatus) : State :=
  match s.moveNamed p l e staging (fun m => m.src.isNone && !m.wait) with
  | none => s
  | some m => match st with
    | .ok => s.quarryWindow p m
    | .dataErr => s.windowAgain p m
    | .decodeErr => s.quarryFallback p m

/-- The response of a window's host writes (R336, R392, R394): a write that is not OK counts as not done, and the window is requested and written
again, or the move goes on from the quarry tier. -/
def State.moveWrite (s : State) (p : Fin 16) (l e : Nat) (staging : Bool) (st : HostStatus) : State :=
  match s.moveNamed p l e staging (·.wait) with
  | none => s
  | some m => match st with
    | .ok => s.windowDone p m
    | .dataErr => s.windowAgain p m
    | .decodeErr => s.quarryFallback p { m with wait := false }

/-! ### Staging and cold streaming (R339, R340) -/

/-- A FETCH record: KIND and LAYER. -/
def State.fetchRec (s : State) (addr : Nat) : Nat × Nat := (s.readLe addr 1, s.readLe (addr + 1) 1)

/-- This member's tier-1 copies of a layer in table k: expert and slot, ascending. -/
def State.tier1Copies (s : State) (p : Fin 16) (k l : Nat) : List (Nat × Nat) :=
  (slotsIn (fun l e => s.entryAt (s.layerPlace p l) (s.layerE p l) k e) (s.layerE p) s.me l).filterMap (fun x =>
    if x.tier = 1 then some (x.expert, x.slot) else none)

/-- FETCH starts (R339): KIND 0 stages the layer's tier-1 copies; another KIND is ILLEGAL_INSTRUCTION. `prog` is the pass's
program, `tail` its sequencer when the pass has sealed. -/
def State.startFetch (s : State) (prog : Fin 16) (tail : Option Sequencer) (addr : Nat) : State :=
  let f := s.fetchRec addr
  if f.1 ≠ 0 then s.raise Code.illegalInstruction { unit := 12, tail := tail }
  else
    let p := s.plannerOf prog
    let r := s.placementOf p
    let l := f.2
    if r.layers ≤ l then s
    else
      let copies := s.tier1Copies p r.cur l
      let items : List WMove := copies.zipIdx.map (fun x =>
        { staging := true, layer := l, expert := x.1.1, holder := s.me, dst := r.stageAddr l x.2,
          src := ((s.lenderOf r s.me).filter s.isSettled).map (fun m => (m, x.1.2)), epoch := r.epoch })
      let s := s.modPlacement p (fun r => { r with moves := r.moves.filter (fun m => !(m.staging && m.layer % 2 == l % 2)) ++ items })
      s.each items (fun s m => s.startMove p m)

/-- The staging of a layer is complete. -/
def State.fetchDone (s : State) (prog : Fin 16) (addr : Nat) : Bool :=
  let l := (s.fetchRec addr).2
  (s.placementOf (s.plannerOf prog)).moves.all (fun m => !m.staging || m.layer != l || m.done)

/-- A tile of expert e may enter as far as R339 goes: a tier-1 copy needs its staging of the current epoch. -/
def State.stagedTile (s : State) (e : Nat) : Bool :=
  match s.openSeq with
  | none => false
  | some q =>
    let r := s.placementOf (s.plannerOf q.prog)
    let x := s.placeEntry e
    let mine := (List.range (min 8 x.copies)).find? (fun k => x.rep k == s.me)
    match mine with
    | some k =>
      x.tier k == 0 ||
      r.moves.any (fun m => m.staging && m.layer == q.layer.toNat && m.expert == e && m.done && m.epoch == r.epoch)
    | none => true

/-- The next MiB of the cold stream, or its end, is present (R340). -/
def State.coldProgress (s : State) : State :=
  match s.openSeq, s.att.coldWon[s.att.coldSlot]? with
  | some q, some e =>
    if !s.attemptOpen then s
    else
      let r := s.placementOf (s.plannerOf q.prog)
      let k := s.att.coldSlot
      let from_ := s.att.coldBytes
      let n := min 1048576 (r.expertBytes - from_)
      let s := s.write (r.coldBase + 4096 + k * r.expertBytes + from_) (s.read (r.quarryAddr q.layer.toNat e + from_) n)
      let s := (s.bump 0x216C0 n).writeLe (r.coldBase + 8 * k) 8
        (shapeWord (ceilDiv (from_ + n) 1048576 + e * 2 ^ 20) q.gen (0x5400 + k))
      if r.expertBytes ≤ from_ + n then
        let s := s.modAtt (fun a => { a with coldSlot := k + 1, coldBytes := 0 })
        if s.att.coldWon.length ≤ k + 1 then s.modComb (fun c => { c with coldDone := some s.tb }) else s
      else s.modAtt (fun a => { a with coldBytes := from_ + n })
  | _, _ => s

/-! ### The decision (R331) and castling (R338) -/

/-- The plan of a statistics pass; the table is written, the decision kept for the seal. -/
def State.decidePlan (s : State) (p : Fin 16) (ring : List MemberId) (castles : Bool) (base : Nat) : State :=
  let r := s.placementOf p
  let table := (base + 1) % 3
  let keep (s : State) (status pend : Nat) (moves : List WMove) : State :=
    s.modPlacement p (fun r => { r with status := status, decision := some { castles := castles, pend := pend, moves := moves } })
  if r.frozen then keep s 4 3 []
  else match s.makePlan p ring base with
    | .refusedCopies => keep ((s.bump 0x21690).raise Code.quotaDenied { unit := 12 }) 3 3 []
    | .refusedQuota => keep ((s.bump 0x21690).raise Code.quotaDenied { unit := 12 }) 2 3 []
    | .made w =>
      let s := s.each w.layers (fun s l => s.writeTable p w table l)
      keep (s.bump 0x21688) 1 table (s.planMoves p w base)

/-- STATS completes with its sum (R330 steps 3 and 4, R331). -/
def State.finishStats (s : State) (g : Nat) : State :=
  match s.openSeq with
  | none => s
  | some q =>
    let p := q.prog
    let ring := s.ringList g
    let r := s.placementOf p
    if !(s.sumsOk p ring.length) then s.raise Code.illegalInstruction { unit := 9 }
    else if r.pend = 3 then s.decidePlan p ring false r.cur
    else if s.readLe (r.sumBase + r.demandBytes + 8) 8 = 0 then s.decidePlan p ring true r.pend
    else s.modPlacement p (fun r => { r with status := 5, decision := some { castles := false, pend := r.pend, moves := r.moves } })

/-- Writes CUR, PEND and EPOCH into the header of every planned layer (R338). -/
def State.writeHeaders (s : State) (p : Fin 16) : State :=
  let r := s.placementOf p
  s.each (List.range r.layers) (fun s l =>
    let b := s.layerPlace p l
    ((s.writeLe (b + 4) 1 r.cur).writeLe (b + 5) 1 r.pend).writeLe (b + 6) 2 r.epoch.toNat)

/-- Writes zeros to the two statistics arrays (R329). -/
def State.clearStatistics (s : State) (p : Fin 16) : State :=
  let r := s.placementOf p
  (s.write r.statBase (List.replicate r.demandBytes 0)).write (r.statBase + r.demandBytes + 64) (List.replicate r.demandBytes 0)

/-- The seal of a statistics pass passes (R328, R329, R331, R338): the epoch rises, the decision takes effect, the moves of a
new plan start. EPOCH in the headers is written at a castling, the epoch in which CUR became current. -/
def State.sealStatistics (s : State) (p : Fin 16) : State :=
  let s := s.each (List.range 16) State.applyPlacement
  let s := (s.clearStatistics p).bump 0x21680
  let r := s.placementOf p
  -- without a decision, which a loss has taken back, no plan changes
  let d := r.decision.getD { castles := false, pend := r.pend, moves := r.moves.filter (fun m => !m.staging) }
  let kept := r.moves.filter (·.staging)
  let same := !d.castles && d.pend == r.pend && r.pend != 3
  let r' := { r with
    epoch := r.epoch + 1, cur := if d.castles then r.pend else r.cur, pend := d.pend, decision := none,
    endStep := r.endStep.map (· - r.stepIn.toNat),
    recovering := r.recovering && !d.castles, stale := if d.castles then [] else r.stale,
    planEpoch := if same then r.planEpoch else r.epoch,
    moves := if same then r.moves else d.moves ++ kept }
  let s := (s.setPlacement p r').restartEpoch p
  let s := if d.castles then (s.bump 0x21698).writeHeaders p
           else s.each (List.range r'.layers) (fun s l => s.writeLe (s.layerPlace p l + 5) 1 r'.pend)
  s.moreMoves p

/-! ### Member loss (R342) -/

/-- The first barrier whose settled membership excludes a lost member releases: the plan is abandoned, the epoch ends with the
running step, or the next when that step's EPOCH_LAST entry has opened; epochs are RECOVER_STEPS long until a castling. -/
def State.placementLoss (s : State) (p : Fin 16) : State :=
  let r := s.placementOf p
  if r.plan = [] then s
  else
    let s := s.modPlacement p (fun r => { r with
      pend := 3, decision := none, recovering := true, inLast := r.inLast.map (fun _ => true),
      endStep := some (r.stepIn.toNat + (if r.lastOpened then 2 else 1)), moves := r.moves.filter (·.staging) })
    s.each (List.range r.layers) (fun s l => s.writeLe (s.layerPlace p l + 5) 1 3)

/-- Stagings whose lender is lost go on from the quarry tier. -/
def State.stagingLoss (s : State) (p : Fin 16) : State :=
  s.each ((s.placementOf p).moves.filter (fun m => m.staging && !m.done && (match m.src with
    | some x => !(s.isSettled x.1)
    | none => false))) (fun s m => s.quarryFallback p m)

/-! ### Register values (R344) -/

/-- Usage of this member in a tier, in bytes (R333): slots used in the current or the pending table; cold homes of the current
table. -/
def State.tierUse (s : State) (p : Fin 16) (t : Nat) : Nat :=
  let r := s.placementOf p
  let layers := List.range r.layers
  let tab (k : Nat) : List SlotOf :=
    layers.flatMap (slotsIn (fun l e => s.entryAt (s.layerPlace p l) (s.layerE p l) k e) (s.layerE p) s.me)
  if t = 2 then
    (layers.foldl (fun n l => n + (List.range (s.layerE p l)).countP (fun e =>
      let x := s.entryAt (s.layerPlace p l) (s.layerE p l) r.cur e
      x.copies == 0 && x.home == s.me)) 0) * r.expertBytes
  else tierSlots (tab r.cur ++ (if r.pend = 3 then [] else tab r.pend)) t * r.expertBytes

end Sys2Proof.Machine
end

