-- ==== Sys2Proof/Machine/Programs.lean ====
section
/-! DEFINITION. Layer programs (09): instruction words, the pass list, LOAD and its checks, START and STOP, chunk doorbells, the next
pass of a program. -/

namespace Sys2Proof.Machine

/-! ### Instruction words (R213, R216) -/

def opOf (w : Nat) : Nat := field w 56 8
def classOfWord (w : Nat) : Nat := field w 54 2
def groupOf (w : Nat) : Nat := field w 48 6
/-- Record address of COMBINE_AR, REDUCE_AR, STATS, MOVE, FUNC and FETCH. -/
def recordOf (w : Nat) : Nat := field w 0 46 * 64
/-- Chunk reference of NORM to SELECT, SORT and DISPATCH. -/
def chRef (w : Nat) : Nat := field w 0 9

namespace Op
abbrev nop : Nat := 0x00
abbrev slot : Nat := 0x01
abbrev wait : Nat := 0x02
abbrev sealOp : Nat := 0x03
abbrev loop : Nat := 0x08
abbrev endloop : Nat := 0x09
abbrev shape : Nat := 0x0A
abbrev norm : Nat := 0x10
abbrev score : Nat := 0x11
abbrev rescore : Nat := 0x12
abbrev select : Nat := 0x13
abbrev count : Nat := 0x14
abbrev grant : Nat := 0x15
abbrev sort : Nat := 0x18
abbrev dispatch : Nat := 0x19
abbrev tiles : Nat := 0x1A
abbrev ret : Nat := 0x1B
abbrev combine : Nat := 0x1C
abbrev combineAr : Nat := 0x1D
abbrev reduceAr : Nat := 0x20
abbrev stats : Nat := 0x21
abbrev move : Nat := 0x28
abbrev func : Nat := 0x29
abbrev fetch : Nat := 0x2A
abbrev signal : Nat := 0x30
abbrev halt : Nat := 0x31
end Op

/-- Every opcode of R216. -/
def opcodes : List Nat :=
  [0x00, 0x01, 0x02, 0x03, 0x08, 0x09, 0x0A, 0x10, 0x11, 0x12, 0x13, 0x14, 0x15, 0x18, 0x19, 0x1A, 0x1B, 0x1C, 0x1D, 0x20, 0x21,
   0x28, 0x29, 0x2A, 0x30, 0x31]

/-- Instructions with a chunk reference in bits [8:0]. -/
def hasChunk (op : Nat) : Bool := [0x10, 0x11, 0x12, 0x13, 0x18, 0x19].contains op

/-- Instructions that exchange data with other members (R214). -/
def exchanges (op : Nat) : Bool :=
  [Op.count, Op.grant, Op.dispatch, Op.ret, Op.combine, Op.combineAr, Op.reduceAr, Op.stats].contains op

/-- Engine of an engine instruction (R216). -/
def engineOf (op : Nat) : Option Engine :=
  match op with
  | 0x10 => some .scoringFront
  | 0x11 => some .sketch
  | 0x12 => some .exact
  | 0x13 => some .ranking
  | 0x14 => some .exchange
  | 0x15 => some .exchange
  | 0x18 => some .exchange
  | 0x19 => some .transport
  | 0x1A => some .tileEngine
  | 0x1B => some .transport
  | 0x1C => some .combine
  | 0x1D => some .combine
  | 0x20 => some .collective
  | 0x21 => some .collective
  | 0x28 => some .layout
  | 0x29 => some .function
  | 0x2A => some .tier
  | _ => none

/-! ### The pass list (R201, R202) -/

structure PassEntry where
  code  : Nat
  layer : Nat
  last  : Bool
  slot  : Nat
  deriving DecidableEq, Repr

/-- Entry j of a pass list. -/
def State.passEntry (s : State) (i : ProgImage) (j : Nat) : PassEntry :=
  let b := s.read (i.passBase + 16 * j) 16
  { code := le b 0 2, layer := le b 2 1, last := bit (le b 3 1) 0, slot := le b 4 4 }

/-- Instruction word i. -/
def State.codeWord (s : State) (img : ProgImage) (i : Nat) : Nat := s.readLe (img.codeBase + 8 * i) 8

/-- Where a program stands: pass list entry, step, step in the epoch, and whether the step is the epoch's last. -/
structure Place where
  entry : Nat
  steps : Nat
  inEpoch : Nat
  last : Bool
  deriving DecidableEq, Repr

/-- Lengths of the epochs as far as a search for the next pass sees them: of the current one, of the later ones, and whether the program's
own last step ends an epoch, as a planner's does (R328). -/
structure EpochPlan where
  len   : Nat
  later : Nat
  own   : Bool
  deriving DecidableEq, Repr

/-- The place at which the next step begins (R202, R328), with the lengths that count from there. -/
def Place.nextStep (p : Place) (e : EpochPlan) : Place × EpochPlan :=
  if p.last && e.own then ({ entry := 0, steps := p.steps + 1, inEpoch := 0, last := e.later == 1 }, { e with len := e.later })
  else ({ entry := 0, steps := p.steps + 1, inEpoch := p.inEpoch + 1, last := p.inEpoch + 2 == e.len }, e)

/-- The first entry that runs at or after a place (R202): EPOCH_LAST entries run only in the last step of an epoch. -/
def State.runnable (s : State) (img : ProgImage) : Nat → EpochPlan → Place → Place
  | 0, _, p => p
  | n + 1, e, p =>
    if img.passes ≤ p.entry then s.runnable img n (p.nextStep e).2 (p.nextStep e).1
    else if (s.passEntry img p.entry).last && !p.last then s.runnable img n e { p with entry := p.entry + 1 }
    else p

/-- Entries that a search for the next pass can cross: within one epoch, and the rest of the one before it. -/
def searchLen (img : ProgImage) (e : EpochPlan) : Nat := (img.passes + 1) * (e.len + e.later + 2)

/-- Where program p's next pass stands: the entry at PASS_INDEX, or, while that pass is open, the one after it. -/
def State.placeOf (s : State) (p : Fin 16) (after : Bool) : Place :=
  let g := s.prog p
  let e : EpochPlan := { len := s.epochLen p, later := s.laterLen p, own := s.isPlanner p }
  let r := s.placementOf p
  s.runnable g.image (searchLen g.image e) e
    { entry := g.passIndex + (if after then 1 else 0), steps := g.steps.toNat, inEpoch := r.stepIn.toNat,
      last := r.inLast.getD (r.stepIn.toNat + 1 == e.len) }

/-- Moves a program to a place: PASS_INDEX, STEPS and STEP_IN_EPOCH. A step that begins keeps whether it is the epoch's last. -/
def State.moveProg (s : State) (p : Fin 16) (x : Place) : State :=
  let same := (s.prog p).steps.toNat == x.steps
  let s := s.setProg p { s.prog p with passIndex := x.entry, steps := BitVec.ofNat 64 x.steps }
  s.modPlacement p (fun r => { r with
    stepIn := BitVec.ofNat 16 x.inEpoch, inLast := some x.last, lastOpened := r.lastOpened && same })

/-- The program stands at the first entry that runs (R202): entries that are skipped, and steps in which every entry is, are behind it. -/
def State.settlePlace (s : State) (p : Fin 16) : State := s.moveProg p (s.placeOf p false)

/-- The program has a pass open. -/
def State.progOpen (s : State) (p : Fin 16) : Bool :=
  match s.openSeq with
  | some q => q.prog == p
  | none => match s.sched.next with
    | some n => n.prog == p && n.count.isSome
    | none => false

/-- SLOT_TB of a program's next pass (R233). -/
def State.slotTb (s : State) (p : Fin 16) : Nat := (s.passEntry (s.prog p).image (s.placeOf p false).entry).slot

/-! ### LOAD (R200, R204, R205) -/

/-- The version of the block: major 3, minor 2 (R1). -/
def versionOk (v : Nat) : Bool := field v 16 16 == 3 && field v 0 16 ≤ 2

def State.progImageAddr (s : State) (p : Fin 16) : Nat := s.reg (0xE000 + 0x80 * p.val) 0 52

def ProgImage.parse (b : List Byte) : ProgImage :=
  let a (off : Nat) : Nat := field (le b off 8) 0 52
  { codeWords := le b 4 2, passes := le b 6 2, codeBase := a 8, passBase := a 0x10, ltabBase := a 0x18, shapeBase := a 0x20,
    shapeWords := le b 0x28 4 }

/-- Header fields in range, bases aligned, ranges within the host address space (R205 reason 2). -/
def ProgImage.ok (i : ProgImage) (addr maxLayer : Nat) : Bool :=
  addr % 64 == 0 && 1 ≤ i.codeWords && 1 ≤ i.passes && i.passes ≤ 4096 && i.codeBase % 8 == 0 && i.passBase % 16 == 0 &&
  i.ltabBase % 512 == 0 && i.shapeBase % 8 == 0 && 8 ≤ i.shapeWords && i.shapeWords ≤ 1048576 &&
  i.codeBase + 8 * i.codeWords ≤ hostTop && i.passBase + 16 * i.passes ≤ hostTop &&
  i.shapeBase + 8 * i.shapeWords ≤ hostTop && i.ltabBase + 512 * (maxLayer + 1) ≤ hostTop

/-- Why a load fails: reason, index, and whether the index is an entry's. -/
structure LoadFail where
  reason : Nat
  index  : Nat
  entry  : Bool
  deriving DecidableEq, Repr

/-- A shape reference within range (R213). -/
def shapeRefOk (i : ProgImage) (sh : Nat) : Bool := if bit sh 20 then field sh 0 20 ≤ 1027 else field sh 0 20 < i.shapeWords

/-- A chunk reference within the open loops (R213). -/
def chunkRefOk (depth ch : Nat) : Bool := !(bit ch 8) || field ch 0 2 < depth

/-- A SHAPE destination in the block's own words. -/
def ownWord (sh : Nat) : Bool := bit sh 20 || field sh 0 20 < 8

/-- A signal source of programs (R374). -/
def sourceOk (n : Nat) : Bool := 0x20 ≤ n && n < 0x200

/-- The reason for which instruction w at index i fails, with the ends of the loops open there, innermost first. -/
def State.instrFail (s : State) (img : ProgImage) (i w : Nat) (ends : List Nat) : Option Nat :=
  let op := opOf w
  if !(opcodes.contains op) || classOfWord w = 3 || (op = Op.wait && 2 < field w 0 4) || (op = Op.shape && 1 < field w 42 2)
  then some 3
  else if op = Op.loop && (field w 21 16 = 0 || field w 37 11 = 0 || 4 ≤ ends.length ||
      img.codeWords ≤ i + field w 37 11 + 1 || (match ends with
        | e :: _ => e ≤ i + field w 37 11 + 1
        | [] => false) || opOf (s.codeWord img (i + field w 37 11 + 1)) ≠ Op.endloop) then some 4
  else if op = Op.endloop && ends.head? ≠ some i then some 4
  else if op ≠ Op.endloop && ends.head? = some i then some 4
  else if (hasChunk op && !(chunkRefOk ends.length (chRef w))) ||
      (op = Op.wait && field w 0 4 = 2 && !(chunkRefOk ends.length (field w 16 9))) ||
      (op = Op.loop && !(shapeRefOk img (field w 0 21))) ||
      (op = Op.shape && !(shapeRefOk img (field w 0 21) && shapeRefOk img (field w 21 21))) then some 5
  else if op = Op.shape && ownWord (field w 0 21) then some 7
  else if (op = Op.signal && !(sourceOk (field w 0 10))) || (op = Op.sealOp && bit w 10 && !(sourceOk (field w 0 10))) then some 10
  else none

/-- Ends of the open loops after instruction w at index i. -/
def loopEnds (i w : Nat) (ends : List Nat) : List Nat :=
  if opOf w = Op.loop then (i + field w 37 11 + 1) :: ends else if opOf w = Op.endloop then ends.drop 1 else ends

/-- Checks n instructions from index i; `failed` is a read of the load that the host port does not answer with OK (reason 11). -/
def State.checkCode (s : State) (img : ProgImage) (failed : Option LoadRead) : Nat → Nat → List Nat → Option LoadFail
  | 0, _, _ => none
  | n + 1, i, ends =>
    let w := s.codeWord img i
    if failed = some (.code (BitVec.ofNat 16 i)) then some { reason := 11, index := i, entry := false }
    else match s.instrFail img i w ends with
    | some r => some { reason := r, index := i, entry := false }
    | none => s.checkCode img failed n (i + 1) (loopEnds i w ends)

/-- The first pass list entry that cannot be read, or is outside its range (R205 reasons 11, 2 and 8). -/
def badEntry (img : ProgImage) (failed : Option LoadRead) (entries : List PassEntry) : Option LoadFail :=
  entries.zipIdx.findSome? (fun e =>
    if failed = some (.entry (BitVec.ofNat 16 e.2)) then some { reason := 11, index := e.2, entry := true }
    else if e.1.slot = 0 then some { reason := 2, index := e.2, entry := true }
    else if img.codeWords ≤ e.1.code then some { reason := 8, index := e.2, entry := true }
    else none)

/-- Instructions that a tail may hold (R232). -/
def tailOp (op : Nat) : Bool := [Op.nop, Op.slot, Op.wait, Op.signal, Op.fetch, Op.halt].contains op

/-- Walks the code of a pass from index i: loops open, and whether its SEAL has come. Gives the reason of a failure: 6, or 9 with
the index of the instruction, or 4 for an ENDLOOP whose LOOP the pass does not reach. -/
def State.walkPass (s : State) (img : ProgImage) : Nat → Nat → Nat → Bool → Option (Nat × Nat)
  | 0, i, _, _ => some (6, i)
  | n + 1, i, depth, sealed =>
    if img.codeWords ≤ i then some (6, i)
    else
      let op := opOf (s.codeWord img i)
      if sealed && op = Op.sealOp then some (6, i)
      else if sealed && !(tailOp op) then some (9, i)
      else if op = Op.halt then (if sealed then none else some (6, i))
      else if op = Op.sealOp then (if depth = 0 then s.walkPass img n (i + 1) depth true else some (6, i))
      else if op = Op.loop then s.walkPass img n (i + 1) (depth + 1) sealed
      else if op = Op.endloop then (if depth = 0 then some (4, i) else s.walkPass img n (i + 1) (depth - 1) sealed)
      else s.walkPass img n (i + 1) depth sealed

/-- The first failure of the checks of R205, in the order header, entries, plan, instructions, passes; a read that fails stands at the place of what
it reads, and the LAYER of an entry that is not read counts in no range (DESIGN CHOICE, log entry 21). -/
def State.loadFail (s : State) (p : Fin 16) (img : ProgImage) (failed : Option LoadRead := none) : Option LoadFail :=
  let addr := s.progImageAddr p
  let entries := (List.range img.passes).map (s.passEntry img)
  let read := entries.zipIdx.filter (fun e => failed != some (.entry (BitVec.ofNat 16 e.2)))
  let maxLayer := if img.passes ≤ 4096 then read.foldl (fun n e => max n e.1.layer) 0 else 0
  let whole (r : Nat) : LoadFail := { reason := r, index := 0xFFFF, entry := false }
  if failed = some .header then some (whole 11)
  else if !(versionOk (s.readLe addr 4)) then some (whole 1)
  else if !(img.ok addr maxLayer) then some (whole 2)
  else
    match badEntry img failed entries with
    | some f => some f
    | none =>
      let s' := (s.applyPlacement p.val).setProg p { s.prog p with image := img }
      let plan : Placement := { plan := s'.readPlan p }
      if s'.isPlanner p && !(s'.planOk p plan && s'.headersOk p plan) then some (whole 2)
      else match s.checkCode img failed img.codeWords 0 [] with
        | some f => some f
        | none => entries.zipIdx.findSome? (fun e =>
            match s.walkPass img (img.codeWords + 1) e.1.code 0 false with
            | some (6, _) => some { reason := 6, index := e.2, entry := true }
            | some (r, i) => some { reason := r, index := i, entry := false }
            | none => none)

/-- A refused load (R204, R205). -/
def State.refuseLoad (s : State) (p : Fin 16) (f : LoadFail) : State :=
  let s := s.setProg p { s.prog p with
    state := .empty, loadReason := BitVec.ofNat 8 f.reason, loadFault := BitVec.ofNat 16 f.index, loadFaultEntry := f.entry }
  (s.raise Code.illegalInstruction { unit := 16, noPass := true }).fire 0xB

/-- LOAD (R204, R205, R323, R344). -/
def State.loadProgram (s : State) (p : Fin 16) (failed : Option LoadRead := none) : State :=
  let g := s.prog p
  if g.state = .running || g.state = .stopping then s
  else
    let img := ProgImage.parse (s.read (s.progImageAddr p) 64)
    match s.loadFail p img failed with
    | some f => s.refuseLoad p f
    | none =>
      let s := s.setProg p { g with state := .loaded, image := img, passIndex := 0, steps := 0, loadReason := 0, loadFault := 0,
                                    loadFaultEntry := false, bells := [] }
      let s := (s.applyPlacement p.val).modPlacement p (fun r => { r with inLast := none, lastOpened := false })
      (if s.isPlanner p then s.loadPlan p else s).fire 0xB

/-- START (R204). -/
def State.startProgram (s : State) (p : Fin 16) : State :=
  let g := s.prog p
  if g.state = .loaded || g.state = .stopped then (s.setProg p { g with state := .running }).settlePlace p else s

/-- STOP (R204). -/
def State.stopProgram (s : State) (p : Fin 16) : State :=
  let g := s.prog p
  if g.state = .running then s.setProg p { g with state := .stopping } else s

/-- A write of PROG_CTRL (R204): more than one command bit set is ignored. -/
def State.programCommand (s : State) (p : Fin 16) (v : Nat) : State :=
  match field v 0 3 with
  | 1 => s.loadProgram p
  | 2 => s.startProgram p
  | 4 => s.stopProgram p
  | _ => s

/-- This member's local ready mask (R234). -/
def State.localReady (s : State) : Nat := bitsOf 16 (fun p => (s.prog (Fin.ofNat 16 p)).state == .running)

/-! ### Chunk-ready doorbells (R212) -/

/-- Chunk c of the open pass has its doorbell. -/
def State.chunkRung (s : State) (c : Nat) : Bool :=
  match s.openSeq with
  | none => false
  | some q => (s.prog q.prog).bells.any (fun b => b.entry == q.entry && b.chunk == c &&
      b.step.toNat == (s.prog q.prog).steps.toNat % 4096)

/-- A chunk-ready doorbell (R212, R221). -/
def State.ringChunk (s : State) (p : Fin 16) (v : BitVec 32) : State :=
  let g := s.prog p
  let b : ChunkBell := { entry := field v.toNat 0 12, chunk := field v.toNat 12 8, step := BitVec.ofNat 12 (field v.toNat 20 12) }
  let names (x : Place) : Bool := x.entry == b.entry && x.steps % 4096 == b.step.toNat
  let isOpen := s.progOpen p
  let cur : Place := { entry := g.passIndex, steps := g.steps.toNat, inEpoch := 0, last := false }
  if g.state = .empty || g.state = .fault || g.bells.contains b || !((isOpen && names cur) || names (s.placeOf p isOpen)) then s
  else
    let s := s.setProg p { g with bells := g.bells ++ [b] }
    match s.openSeq with
    | some q =>
      if q.prog = p && isOpen && names cur && b.chunk = 0 && !q.aborted then s.announceTokens q else s
    | none => s

end Sys2Proof.Machine
end

