-- ==== Sys2Proof/Machine/Barrier.lean ====
section
/-! DEFINITION. The keystone barrier as messages (13, R307, R308, R234, R289, R427, R428): own arrivals, what a node combines, the
root's release, releases held until T_REL, abort records on the tree (R288). -/

namespace Sys2Proof.Machine

def State.modBar (s : State) (f : Barrier → Barrier) : State :=
  { s with mortar := { s.mortar with bar := f s.mortar.bar } }

def State.modTree (s : State) (f : Tree → Tree) : State :=
  { s with mortar := { s.mortar with tree := f s.mortar.tree } }

/-! ### What an arrival carries (R234, R289) -/

/-- The CRC of R234. -/
def sharingCrc (weights : List Nat) (quantum idle : Nat) : BitVec 32 :=
  crc32c (weights.flatMap (leBytes 1) ++ leBytes 4 quantum ++ leBytes 4 idle)

def State.ownWeights (s : State) : List Nat := (List.range 16).map (fun p => s.reg (0xE040 + 0x80 * p) 0 8)
def State.quantumTb (s : State) : Nat := s.reg 0xE810 0 32
def State.idleSlotTb (s : State) : Nat := s.reg 0xE818 0 32

/-- The CRC that this member's arrival carries; in deep sleep the one held at entry (R463). -/
def State.ownCrc (s : State) : BitVec 32 :=
  if s.power.state = .deep then s.power.sleepCrc else sharingCrc s.ownWeights s.quantumTb s.idleSlotTb

/-- The ready mask of an arrival (R234); 0 in deep sleep (R463). -/
def State.arrivalMask (s : State) : BitVec 16 := if s.power.state = .deep then 0 else BitVec.ofNat 16 s.localReady

def passVote : Vote := { ok := true, failCount := 0, firstFail := 0, reason := 0 }
def failVote (m : MemberId) (reason : BitVec 8) : Vote := { ok := false, failCount := 1, firstFail := m, reason := reason }

/-- Votes combined at a node (R289). -/
def combineVote (a b : Vote) : Vote :=
  let first := if a.ok then b else if b.ok then a else if b.firstFail.toNat < a.firstFail.toNat then b else a
  { ok := a.ok && b.ok, failCount := BitVec.ofNat 10 (min 1023 (a.failCount.toNat + b.failCount.toNat)),
    firstFail := first.firstFail, reason := first.reason }

/-- Arrivals combined at a node (R307); an arrival of KIND abort makes the combined one abort (R308). -/
def combineArrive (a b : ArriveBody) : ArriveBody :=
  { a with
    kind := if b.kind = .abort then .abort else a.kind
    crcMismatch := a.crcMismatch || b.crcMismatch || a.crc != b.crc
    vote := combineVote a.vote b.vote
    mask := a.mask &&& b.mask
    downDelay := if a.downDelay.toNat < b.downDelay.toNat then b.downDelay else a.downDelay }

/-- The attempt that the present barrier ends or follows: the open one, the one that waits for a sequencer (R481), or the last. -/
def State.barAttempt (s : State) : BitVec 16 × BitVec 2 :=
  match s.openSeq, s.sched.next with
  | some q, _ => (q.gen, q.attempt)
  | none, some n => (BitVec.ofNat 16 (n.count.getD s.sched.count).toNat, n.attempt)
  | none, none => (s.sched.curGen, s.sched.curAttempt)

/-! ### Admission at the root and at every member (R428) -/

/-- An ADMIT accepted: the member joins the membership; its pairs start again at the release. -/
def State.acceptAdmit (s : State) (m : MemberId) (ver : BitVec 16) : State :=
  let s := s.modTree (fun t => { t with membVer := ver, admits := t.admits ++ [m], lost := t.lost.filter (· != m) })
  let s := s.modBar (fun b => { b with neutralKids := b.neutralKids.filter (· != m) })
  if m = s.me then s.modBar (fun b => { b with admitted := true, stateIn := [] }) else s

/-- The root sends ADMIT for each requester, in ascending member id. -/
def State.sendAdmits (s : State) : State :=
  s.each (sortBy (fun m : MemberId => m.toNat) s.mortar.bar.admitReq.eraseDups) (fun s m =>
    let ver := s.mortar.tree.membVer + 1
    (s.sendDown s.me (.admitMsg m ver)).acceptAdmit m ver)

/-! ### Gathering and the root's release (R307, R308, R290) -/

/-- The first barrier's release starts the membership versions at 0 (R425); losses after it count from there. -/
def State.startVersions (s : State) (k : BarrierKind) : State :=
  if k = .first then s.modTree (fun t => { t with membVer := 0, losses := [] }) else s

/-- CRC of the values that the release agrees. -/
def Agreed.sharing (a : Agreed) : BitVec 32 := sharingCrc a.weights a.quantum a.idle

/-- The root holds every arrival, combined in `c`: it sends RELEASE. A is the timebase when it accepted the last of them. -/
def State.rootRelease (s : State) (c : ArriveBody) : State :=
  let admits := !s.mortar.bar.admitReq.isEmpty
  let s := s.sendAdmits
  let b := s.mortar.bar
  let ends := c.kind = .seal || c.kind = .abort
  let held := ends && (match b.abort with
    | some a => a.gen == c.gen && a.attempt == c.attempt
    | none => false)
  let kind := if held || c.kind = .abort then BarrierKind.abort else c.kind
  let rel := b.lastIn + s.reg 0x3008 0 32 + (c.downDelay.toNat + 63) / 64
  let r : ReleaseBody :=
    { bn := b.bn, gen := c.gen, attempt := c.attempt, kind := kind, aborted := kind == .abort, crcAgree := !c.crcMismatch,
      admits := admits, tRel := BitVec.ofNat 64 (if c.kind = .idle then max rel b.idleMin else rel), vote := c.vote, mask := c.mask,
      membVer := if c.kind = .first then 0 else s.mortar.tree.membVer,
      agreedCrc := if c.crcMismatch then b.agreed.sharing else c.crc }
  let s := (s.sendDown s.me (.release r)).startVersions r.kind
  s.modBar (fun b => { b with
    release := some r, relAt := s.tb, sentUp := true, admitReq := [],
    released := if ends then some (c.gen, c.attempt) else b.released })

/-- The first barrier still waits for a roster member (R425): the root has declared one lost that had not arrived, as a root absent at power-up,
and JOIN_WAIT_TB has not come. -/
def State.rosterMissing (s : State) : Bool :=
  !s.mortar.bar.begun && !s.mortar.tree.lost.isEmpty && decide (s.tb < s.reg 0x3040 0 32)

/-- Sends the combined arrival up once the own arrival and one from each live child are held; the root releases. Neutral
arrivals are awaited, and only their DOWN_DELAY counts (R427). -/
def State.gather (s : State) : State :=
  match s.mortar.bar.own with
  | none => s
  | some own =>
    let kids := s.liveKids
    if s.mortar.bar.sentUp || !(kids.all (fun m => (Tab.get? s.mortar.bar.kids m.toNat).isSome)) then s
    else
      let ins := kids.filterMap (fun m => Tab.get? s.mortar.bar.kids m.toNat)
      let delay := ins.foldl (fun n a => max n a.downDelay.toNat) own.downDelay.toNat
      let c := match (own :: ins).filter (fun a => !a.neutral) with
        | [] => own
        | x :: rest => rest.foldl combineArrive x
      let c := { c with downDelay := BitVec.ofNat 32 delay, admitReq := own.admitReq }
      if s.isRoot then (if s.rosterMissing then s else s.rootRelease c)
      else (s.sendUp s.me (.arrive c)).modBar (fun b => { b with sentUp := true })

/-- This member arrives (R307, R234). -/
def State.arriveOwn (s : State) (kind : BarrierKind) (vote : Vote) : State :=
  let a : ArriveBody :=
    { bn := s.mortar.bar.bn, gen := s.barAttempt.1, attempt := s.barAttempt.2, kind := kind, crcMismatch := false, neutral := false,
      admitReq := false, vote := vote, mask := s.arrivalMask, crc := s.ownCrc,
      downDelay := BitVec.ofNat 32 s.mortar.cal.pathDelay }
  (s.modBar (fun b => { b with own := some a, lastIn := s.tb })).gather

/-- A neutral arrival of a member that joins a running appliance (R427). ADMIT_REQ travels only while the local ready mask
includes the agreed one and the CRCs agree. -/
def State.arriveNeutral (s : State) : State :=
  let g := s.mortar.bar.agreed
  let may := BitVec.ofNat 16 s.localReady &&& g.ready == g.ready && s.ownCrc == g.crc
  let ask := s.mortar.bar.admitPending && may && s.boot.phase == .joined
  let a : ArriveBody :=
    { bn := s.mortar.bar.bn, gen := s.barAttempt.1, attempt := s.barAttempt.2, kind := .idle, crcMismatch := false, neutral := true,
      admitReq := ask, vote := passVote, mask := s.arrivalMask, crc := s.ownCrc,
      downDelay := BitVec.ofNat 32 s.mortar.cal.pathDelay }
  (s.modBar (fun b => { b with
    own := some a, lastIn := s.tb, neutralSent := true, admitBlocked := b.admitPending && !ask && s.boot.phase == .joined })).gather

/-- The block learns that it joins a running appliance: the children that it holds no arrival of use another parent until one comes, so that its own
goes up at once (R427; DEDUCED, log entry 22). -/
def State.becomeLate (s : State) : State :=
  let gone := s.primaryKids.filter (fun m => (Tab.get? s.mortar.bar.kids m.toNat).isNone && !(s.mortar.tree.kidsOut.contains m))
  (s.modBar (fun b => { b with late := true })).modTree (fun t => { t with kidsOut := t.kidsOut ++ gone })

/-- A member that has loaded its image and its timebase arrives: at the first barrier, or as a neutral member when a release has
come before or JOIN_WAIT_TB has passed (R419 step 7, R425, R427; DEDUCED, log entry 22). -/
def State.joinBarrier (s : State) : State :=
  let b := s.mortar.bar
  if s.boot.phase = .join && s.boot.loaded && (s.mortar.cal.loaded || s.isRoot) && b.own.isNone && !b.begun then
    if b.late || (!s.isRoot && s.reg 0x3040 0 32 < s.tb) then s.becomeLate.arriveNeutral
    else s.arriveOwn .first passVote
  else s

/-- What GEN of a barrier message asks for (R318), once the member knows the present one: the next pass's, which a member that has opened it
sends before this one has (R480), counts as the current one's. -/
inductive GenVerdict where
  | current | stale | outside
  deriving DecidableEq, Repr

def State.genVerdict (s : State) (g : BitVec 16) : GenVerdict :=
  let d := (g - s.sched.curGen).toNat
  if !s.mortar.bar.begun || d ≤ 1 then .current else if 65536 - 1023 ≤ d then .stale else .outside

/-- BN of a barrier message against the present one (R318): only the current one is in the window; one exactly 2^31 away is undefined (R317). -/
def State.bnUndefined (s : State) (bn : BitVec 32) : Bool := decide ((bn - s.mortar.bar.bn).toNat = 2 ^ 31)

/-- What an ARRIVE of a child asks for (R318): one NEUTRAL has no BN of its own yet, and a block that joins late knows none. -/
def State.arriveVerdict (s : State) (a : ArriveBody) : GenVerdict :=
  if a.neutral || (s.mortar.bar.late && !s.mortar.bar.begun) then .current
  else if s.bnUndefined a.bn then .outside
  else if a.bn != s.mortar.bar.bn then .stale
  else s.genVerdict a.gen

/-- A child's ARRIVE as it counts here: one with KIND first after the first barrier comes from a block that has not heard a release yet, and
counts as neutral (R427; DEDUCED, log entry 22). -/
def State.asArrived (s : State) (a : ArriveBody) : ArriveBody := if s.mortar.bar.begun && a.kind = .first then { a with neutral := true } else a

/-- A child's arrival is held, and what it says of where the child is: back at its primary lane, or re-homed here (R307, R316). -/
def State.holdArrive (s : State) (l : Nat) (m : MemberId) (a : ArriveBody) : State :=
  let s := if a.neutral && !(s.mortar.bar.neutralKids.contains m) then
      s.modBar (fun b => { b with neutralKids := b.neutralKids ++ [m] }) else s
  let s := if s.primaryKids.contains m then s.modTree (fun t => { t with kidsOut := t.kidsOut.filter (· != m) })
    else if (Tab.get? s.mortar.tree.kidsIn l).isNone then s.modTree (fun t => { t with kidsIn := Tab.put t.kidsIn l s.tb })
    else s
  (s.modBar (fun b => { b with kids := Tab.put b.kids m.toNat a, lastIn := s.tb })).gather

/-- ARRIVE accepted on a down lane (R307). An arrival of another barrier is discarded (R318). ADMIT_REQ of a member below goes up under its own
ORIGIN (DEDUCED, log entry 23). -/
def State.takeArrive (s : State) (l : Nat) (h : MortarHdr) (a : ArriveBody) : State :=
  let m := (s.lane l).partner
  let a := s.asArrived a
  if l < 2 then s
  else match s.arriveVerdict a with
  | .outside => s.windowFault h.origin 15
  | .stale => s
  | .current =>
    let s := if a.admitReq then
        (if s.isRoot then s.modBar (fun b => { b with admitReq := b.admitReq ++ [h.origin] })
         else s.sendUp h.origin (.arrive { a with neutral := true }))
      else s
    if h.origin ≠ m then s else s.holdArrive l m a

/-- A member without its children's arrivals when its own wait ends: the root releases; another forwards those it holds
(R425). R308 gives A of a barrier that holds every arrival; for this one it is the end of the wait (DESIGN CHOICE, log entry 131). -/
def State.joinExpiry (s : State) : State :=
  let s := s.until (s.reg 0x3040 0 32)
  let b := s.mortar.bar
  match b.own with
  | none => s
  | some own =>
    if b.begun || b.sentUp || own.kind ≠ .first then s
    else
      let ins := (b.kids.map (·.2)).filter (fun a => !a.neutral)
      let c := ins.foldl combineArrive own
      if s.isRoot then (s.modBar (fun b => { b with lastIn := s.tb })).rootRelease c
      else (s.sendUp s.me (.arrive c)).modBar (fun b => { b with sentUp := true })

/-- MEMB_VER of a message against the version held is exactly 2^15 away: undefined (R317). -/
def State.verUndefined (s : State) (v : BitVec 16) : Bool := decide ((v - s.mortar.tree.membVer).toNat = 2 ^ 15)

/-- A release that a member takes is held until its T_REL; one that waits for no barrier learns that it joins late (R425, R427). -/
def State.holdRelease (s : State) (r : ReleaseBody) : State :=
  let b := s.mortar.bar
  if b.begun || (b.own.isSome && (b.neutralSent || (b.sentUp && r.bn = b.bn))) then
    (s.startVersions r.kind).modBar (fun b => { b with release := some r, relAt := s.tb })
  else (s.becomeLate.modBar (fun b => { b with own := none, sentUp := false })).joinBarrier

/-- RELEASE accepted on the up lane (R308, R310, R317, R318, R481): forwarded, and held until T_REL. -/
def State.takeRelease (s : State) (h : MortarHdr) (r : ReleaseBody) : State :=
  let b := s.mortar.bar
  if b.begun && (s.bnUndefined r.bn || s.verUndefined r.membVer) then s.windowFault h.origin 15
  else if b.begun && r.bn ≠ b.bn then s
  else if s.genVerdict r.gen = .outside then s.windowFault h.origin 15
  else if s.genVerdict r.gen = .stale then s
  else (s.sendDown h.origin (.release r)).holdRelease r

end Sys2Proof.Machine
end

