-- ==== Sys2Proof/Machine/Reconfig.lean ====
section
/-! DEFINITION. What changes only at a layer boundary or in a reconfiguration slot: registers that take effect late (R263, R268, R370,
R450), the carving check (R346), staged functions (R431), the repairs in service (R173, R432, R433). -/

namespace Sys2Proof.Machine

/-! ### Values that take effect late -/

/-- Written words take effect in the bits that `m` gives for each word. -/
def State.applyMasked (s : State) (m : Nat → BitVec 64) : State :=
  { s with effect := (s.regs.map (·.1) ++ s.effect.map (·.1)).foldl (fun t k =>
      if m k = 0 then t
      else Tab.set regReset t k ((Tab.get regReset t k &&& ~~~(m k)) ||| (s.word k &&& m k))) s.effect }

def maskAll : BitVec 64 := 0xFFFFFFFFFFFFFFFF
def maskLow : BitVec 64 := 0x00000000FFFFFFFF
def maskHigh : BitVec 64 := 0xFFFFFFFF00000000

/-- Offset of a banked word within the window. -/
def bankedOff (k : Nat) : Nat := if k < 0x20000 then 0 else (k - 0x20000) % 0x4000 * 8

/-- QUOTA, LEVEL and the watermarks (R370): at each layer boundary. -/
def boundaryMask (k : Nat) : BitVec 64 :=
  let o := bankedOff k
  if o = 0xC020 then maskAll else if o = 0xC028 ∨ o = 0xC030 ∨ o = 0xC038 then maskLow else 0

/-- Carving fields (R370): window base and span, class base and count, reserve buffers. -/
def carvingMask (k : Nat) : BitVec 64 :=
  let o := bankedOff k
  if o = 0xC008 ∨ o = 0xC010 ∨ o = 0xC018 then maskAll else if k = 0xC038 / 8 then maskHigh else 0

/-- Fabric registers (R263). -/
def fabricMask (k : Nat) : BitVec 64 := if 0x5000 / 8 ≤ k ∧ k < 0x6000 / 8 then maskAll else 0

/-- Configuration of block-owned queues (R368), as written. -/
def State.queueMask (s : State) (k : Nat) : BitVec 64 :=
  if bankedOff k = 0xD008 then
    let v := (s.word k).toNat
    let q := (k - 0x20000) / 0x4000 - 128
    if q < 0x40 ∨ bit v 5 ∨ field v 6 2 ≠ 0 ∨ s.blockOwned q then maskAll else 0
  else 0

/-! ### Carving (R346) -/

/-- Two byte ranges share no byte. -/
def apart (a b : Nat × Nat) : Bool := a.2 == 0 || b.2 == 0 || a.1 + a.2 ≤ b.1 || b.1 + b.2 ≤ a.1

def allApart : List (Nat × Nat) → Bool
  | [] => true
  | x :: t => t.all (apart x) && allApart t

/-- The carving as written: runs inside their pool and apart, windows aligned and at most 4 GiB; `live` asks that a window in use
lie in one live allocation. -/
def State.carvingOk (s : State) (live : Bool) : Bool :=
  (List.range 5).all (fun pool =>
    let base := s.bankReg (8 * pool) 0xC008 0 52
    let span := if pool = 0 then 50331648 else s.bankReg (8 * pool) 0xC010 0 33
    let runs := (List.range 6).map (fun c =>
      (s.bankReg (8 * pool + c) 0xC018 0 32, s.bankReg (8 * pool + c) 0xC01C 0 13 * classSize c))
    let used := runs.any (fun r => r.2 != 0)
    (List.range 6).all (fun c => s.bankReg (8 * pool + c) 0xC01C 0 13 ≤ 4096) &&
    runs.all (fun r => r.2 == 0 || r.1 + r.2 ≤ span) && allApart runs &&
    (pool == 0 || (base % 4096 == 0 && span ≤ 4294967296 && (!live || !used || s.insideAlloc base span))))

/-! ### Staged groups (R268) -/

def groupBank (g : Nat) : Nat := 0x1100 + g

/-- The staged list of a group. -/
def State.stagedList (s : State) (g : Nat) : List MemberId :=
  (List.range (min 1024 (s.bankReg (groupBank g) 0x6004 0 11))).map (fun j =>
    BitVec.ofNat 10 (field (s.word (bankWord (groupBank g) (0x6800 + 2 * j))).toNat (16 * (j % 4)) 10))

/-- The staged copy of every group becomes the copy in use. -/
def State.applyGroups (s : State) : State :=
  { s with groups := (List.range 64).map (fun g => (g, s.stagedList g)) }

/-! ### The reconfiguration slot (R430, R431) -/

/-- New micro-program and table stores from FUNC_STAGE_BASE (R431). Bytes of the table store beyond FUNC_STAGE_LEN read 0 (DESIGN CHOICE, log
entry 116). -/
def State.applyFunctions (s : State) : State :=
  let base := s.reg 0xE850 0 52
  let len := s.reg 0xE858 0 32
  let b := s.read base (4096 + len)
  if len ≤ 2093056 ∧ s.insideAlloc base (4096 + len) ∧ (crc32c b).toNat = s.reg 0xE85C 0 32 ∧ directoryOk (b.take 4096) then
    { s with funcs := { micro := b.take 4096, table := b.drop 4096 } }
  else
    ({ s with boot := { s.boot with funcRefused := true } } : State).raise Code.descriptorInvalid { unit := 11, noPass := true }

/-- New configuration of block-owned queues (R368); a queue that is no longer enabled is flushed. -/
def State.applyQueues (s : State) : State :=
  let s' := s.applyMasked s.queueMask
  let qs := (s.effect.filter (fun p => bankedOff p.1 == 0xD008)).map (fun p => (p.1 - 0x20000) / 0x4000 - 128)
  s'.each (qs.filter (fun q => s.qEnable q && !(s'.qEnable q))) State.flushQueue

/-- Every function of RECONF_MASK stops, takes its staged values and restarts. -/
def State.reconfigure (s : State) : State :=
  let mask := s.reg 0xE844 0 5
  let s := if bit mask 0 then s.applyMasked fabricMask else s
  let s := if bit mask 1 then s.applyGroups else s
  let s := if bit mask 2 then
      (if s.carvingOk true then s.applyMasked carvingMask
       else { s with boot := { s.boot with poolsRefused := true } })
    else s
  let s := if bit mask 3 then s.applyQueues else s
  let s := if bit mask 4 then s.applyFunctions else s
  { s with boot := { s.boot with reconfDue := false, reconfRun := true } }

/-- ARM (R430): ignored, with MISSED, when the barrier has already come. -/
def State.armReconf (s : State) : State :=
  let bn := s.reg 0xE840 0 32
  if s.mortar.bar.begun && serial 32 s.mortar.bar.lastBn.toNat bn != .before then
    ({ s with boot := { s.boot with missed := true } } : State).fire 0xA
  else { s with boot := { s.boot with armed := true } }

/-! ### Repairs in service (R173, R432, R433) -/

def State.store (s : State) (i : Nat) : StoreMap := Tab.get (fun _ => {}) s.boot.stores i
def State.setStore (s : State) (i : Nat) (v : StoreMap) : State :=
  { s with boot := { s.boot with stores := Tab.set (fun _ => {}) s.boot.stores i v } }

/-- Spare rows left in a bank of a store. -/
def StoreMap.rowsLeft (k : StoreMap) (b : Nat) : Nat := (Tab.get? k.bankRows b).getD 4
def StoreMap.minRows (k : StoreMap) : Nat := k.bankRows.foldl (fun n x => min n x.2) 4
def StoreMap.minCols (k : StoreMap) : Nat := k.bankCols.foldl (fun n x => min n x.2) 2

/-- Bank of a line: 256 KiB are 4,096 lines. -/
def bankOf (line : Nat) : Nat := line / 4096

/-- Repairs the row of a line (R433). -/
def State.repairRow (s : State) (i line : Nat) : State :=
  let k := s.store i
  let left := k.rowsLeft (bankOf line)
  if left = 0 then s.raise Code.repairExhausted { unit := 17, noPass := true }
  else (s.setStore i { k with
    bankRows := Tab.put k.bankRows (bankOf line) (left - 1), hard := k.hard.filter (· != line),
    online := if k.online = 0xFFFF then k.online else k.online + 1 }).raise Code.bistRepaired { unit := 17, noPass := true }

/-- Fences the pipelines that gave a wrong answer (R173). -/
def State.fencePipes (s : State) : State :=
  s.each s.boot.toFence (fun s p =>
    let f := insertNat p s.boot.fenced
    let s : State := { s with boot := { s.boot with fenced := f, toFence := s.boot.toFence.filter (· != p) } }
    let s := s.raise Code.bistRepaired { unit := 11, noPass := true }
    if f.length = 128 then s.raise Code.repairExhausted { unit := 11, noPass := true } else s)

/-- The next column out: ascending physical order, wrapping after 527, past the retired ones (R432). -/
def nextColumn (c : Nat) (retired : List Nat) : Nat :=
  (((List.range 528).map (fun i => (c + 1 + i) % 528)).find? (fun x => !(retired.contains x))).getD c

/-- A tested column returns to service and the next goes out, the one that raised RESIDUE_MISMATCH first of all; a column that failed is
retired (R432). -/
def State.rotateColumn (s : State) : State :=
  match s.boot.testPassed with
  | none => s
  | some ok =>
    let c := s.boot.testColumn
    let retired := if ok then s.boot.retired else s.boot.retired ++ [c]
    let on := decide (retired.length < 16)
    let s : State := { s with boot := { s.boot with
      retired := retired, testPassed := none, rotating := on, suspect := none,
      testColumn := if on then (s.boot.suspect.filter (fun x => x != c && !(retired.contains x))).getD (nextColumn c retired) else c } }
    if ok then s else s.raise Code.bistRepaired { unit := 17, noPass := true }

/-- What every layer boundary does beside the pass and the choice of program: registers that take effect there, repairs. -/
def State.atBoundary (s : State) : State :=
  let s := s.applyMasked boundaryMask
  let s : State := { s with power := { s.power with spreadActive := s.reg 0x1004 0 1 == 1 } }
  let s := s.fencePipes.rotateColumn
  s.each s.boot.stores (fun s x => s.each x.2.hard (fun s l => s.repairRow x.1 l))

end Sys2Proof.Machine
end

