-- ==== Sys2Proof/Machine/Items.lean ====
section
/-! DEFINITION. Items of a pass as they are received (R89, R119, R132, R281, R318, R480): each is used, held, discarded or out of
its window; and what a payload does when it is used. -/

namespace Sys2Proof.Machine

/-- Judges an item of a pass; `f` uses it. -/
def State.withItem (s : State) (h : FrameHdr) (p : Payload) (unit : Nat) (gen : BitVec 16) (layer : BitVec 8)
    (attempt : BitVec 2) (f : State → State) : State :=
  match s.judge gen layer attempt with
  | .use => f s
  | .discard => s
  | .hold => s.holdEarly h p
  | .window => s.windowFault h.src unit

/-- A count message's frame (R78, R89). -/
def State.takeCount (s : State) (m : ExchMsg) : State :=
  match ExchIn.add (Tab.get? s.att.countsIn m.sender.toNat) m.total.toNat m.first.toNat m.entries with
  | none => s
  | some x => (s.modAtt (fun a => { a with countsIn := Tab.put a.countsIn m.sender.toNat x })).grantProgress

/-- A grant message's frame (R78, R81, R89). -/
def State.takeGrant (s : State) (m : ExchMsg) : State :=
  match ExchIn.add (Tab.get? s.att.grantsIn m.sender.toNat) m.total.toNat m.first.toNat m.entries with
  | none => s
  | some x => (s.modAtt (fun a => { a with grantsIn := Tab.put a.grantsIn m.sender.toNat x })).grantProgress

/-- A cell of the open attempt. -/
def State.takeCell (s : State) (hop : MemberId) (c : Cell) : State :=
  match c with
  | .dispatch x => s.takeDispatch hop x
  | .ret x => s.takeReturn hop x
  | .part x => s.takePartial hop x
  | .manifest x => s.takeManifest x

/-- Unit that handles a cell (R440). -/
def cellUnit : Cell → Nat
  | .ret _ => 8
  | .part _ => 8
  | _ => 7

/-- An accepted payload reaches its unit. BULK, ACK and SYNC are no items of a pass. -/
def State.takeItem (s : State) (h : FrameHdr) (p : Payload) : State :=
  match p with
  | .cells cs => s.each cs (fun s c =>
      s.withItem h (.cells [c]) (cellUnit c) c.hdr.gen c.hdr.layer c.hdr.attempt (fun s => s.takeCell h.src c))
  | .count m => s.withItem h p 5 m.gen m.layer m.attempt (fun s => s.takeCount m)
  | .grant m => s.withItem h p 5 m.gen m.layer m.attempt (fun s => s.takeGrant m)
  | .gateNote n => s.withItem h p 8 n.gen n.layer n.attempt (fun s => s.takeGateNote n)
  | .windowNote n => s.withItem h p 8 n.gen n.layer n.attempt (fun s => s.takeWindowNote n)
  | .cellRequest rs => s.each rs (fun s r =>
      s.withItem h (.cellRequest [r]) 6 r.gen r.layer r.attempt (fun s => s.takeRequest r))
  | .coll c => s.withItem h p 9 c.gen c.layer c.attempt (fun s => s.collFrame c)
  | .bulk _ => s
  | .ack => s
  | .sync _ => s

/-- An item that was held is handled as though its frame arrived now, out of the buffer that it lies in; held again, it stays there. -/
def State.replayItem (s : State) (e : EarlyItem) : State :=
  let s : State := { s with early := s.early.erase e }
  ((s.openRx e.hdr.port e.handle).takeItem e.hdr e.payload).closeRx

/-- The items held early are handled as though they arrived now; what is still early is held again (R480). -/
def State.replayEarly (s : State) : State := s.each s.early State.replayItem

end Sys2Proof.Machine
end

