-- ==== Sys2Proof/Machine/Keystone.lean ====
section
/-! DEFINITION. The common abort and the end of an attempt (R288 to R291, R481), the layer boundary (R211, R226, R227, R233 to R236,
R425, R427, R428, R430), sleep at an idle barrier (R462, R463), and the opening of a slot (R208, R220, R226). -/

namespace Sys2Proof.Machine

/-! ### Session writes (R211) -/

/-- A record with bytes written from an offset. -/
def setBytes (w : BitVec 512) (off : Nat) (b : List Byte) : BitVec 512 :=
  let l := leBytes 64 w.toNat
  BitVec.ofNat 512 (ofLe (l.take off ++ b ++ l.drop (off + b.length)))

/-- A session record without its reserved fields, bits [7:3] of STATE and bytes 0x05 to 0x07, which keep no value and read 0 (R7, R210). -/
def sessionMask : BitVec 512 := ~~~(BitVec.ofNat 512 0xFFFFFFF800000000)

def State.putSession (s : State) (x : Nat × Nat × List Byte) : State :=
  let r := setBytes (s.session x.1) x.2.1 x.2.2 &&& sessionMask
  { s with sched := { s.sched with sessions := Tab.set (fun _ => 0) s.sched.sessions x.1 r } }

/-- The value of a session read, with every write applied that was accepted before it. -/
def State.sessionValue (s : State) (x : SessRead) : Nat :=
  let s := s.each (s.sched.sessQueue.take x.after) State.putSession
  field (s.session x.record) (8 * x.off) (8 * x.bytes)

/-- Queued session writes are applied in order of acceptance; held ones, and reads that waited behind them, are answered. -/
def State.applySessions (s : State) : State :=
  let s := s.each s.sched.sessHeld (fun s t => s.lateAnswer t 0)
  let s := s.each s.sched.sessReads (fun s x => s.lateAnswer x.tag (s.sessionValue x))
  let s' := s.each s.sched.sessQueue State.putSession
  { s' with sched := { s'.sched with sessQueue := [], sessHeld := [], sessReads := [] } }

/-- A session record whose line is lost reads with VALID clear until it is written again (R433). -/
def State.loseSession (s : State) (i : Nat) : State :=
  s.putSession (i, 4, leBytes 1 (field (s.session i) 32 8 / 2 * 2))

/-- Words that a read of the session table finds wrong (R433, R436): a line is a record. -/
def State.readSessions (s : State) (unit : Nat) (finds : List ReadFind) (chunk : Option Nat := none) : State :=
  (s.foundWords 2 unit finds chunk).each (finds.filter (·.hard)) (fun s f => s.loseSession (f.line.toNat % 2 ^ 18))

/-- A pass of some program is open: from its opening until its SEAL succeeds or REPLAY_LIMIT, its replays included. -/
def State.passInProgress (s : State) : Bool :=
  s.openSeq.isSome || (match s.sched.next with
    | some n => n.count.isSome
    | none => false)

/-! ### The common abort (R288) -/

/-- The attempt's contents go: progress words say so, staging, fan-out, egress and tile list are emptied, pops answer ABORT
(R122, R225, R288). -/
def State.abandonPass (s : State) (q : Sequencer) : State :=
  let s := s.abandonProgress q
  let qn := s.dispatchBlock.queue
  let s := if s.dispatchBlock.ok || s.isTileList qn || 0 < s.att.entered then s.flushQueue qn else s
  let s : State := { s with net := { s.net with
    pairs := s.net.pairs.map (fun p => if p.1 % 4 = 3 then p else (p.1, { p.2 with waiting := [] })) } }
  let s := s.each (List.range 16) (fun s p => s.setEgress p ((s.mac p).egress.filter (fun e => e.vc == 3 || e.bare.isSome)))
  let s : State := { s with att := { table := s.att.table } }
  ((s.freePass).setPop q.prog 3).updatePause

/-- The pass that waits for a sequencer, as a record that names it. -/
def State.waitingPass (s : State) (n : NextSlot) : Sequencer :=
  { prog := n.prog, entry := n.entry, layer := BitVec.ofNat 8 (s.passEntry (s.prog n.prog).image n.entry).layer,
    gen := BitVec.ofNat 16 (n.count.getD s.sched.count).toNat, attempt := n.attempt, tOpen := n.tNext, pc := 0 }

/-- COLLECTIVE_ABORT with the root's record. -/
def State.noteAbort (s : State) (r : AbortRec) (q : Sequencer) : State :=
  let s := s.modBar (fun b => { b with lastAbort := some r })
  (s.bump 0x215B8).note Code.collectiveAbort
    { unit := 15, member := some r.origin, remote := r.origin != s.me, tail := some q }

/-- The release that ends an attempt has come: its barrier gathers no more, and what comes now for the attempt abandons nothing (R290). -/
def State.decided (s : State) (gen : BitVec 16) (attempt : BitVec 2) : Bool :=
  match s.mortar.bar.release with
  | some r => (r.kind == .seal || r.kind == .abort) && r.gen == gen && r.attempt == attempt
  | none => false

/-- An abandoned attempt: its queues are discarded (R225). -/
def Sequencer.abandon (q : Sequencer) : Sequencer := { q with aborted := true, instrs := [] }

/-- What every member does on the common abort of an attempt (R288 step 4, R481), while the barrier that ends it gathers (R290). -/
def State.doAbort (s : State) (r : AbortRec) : State :=
  if s.decided r.gen r.attempt then s
  else match s.openSeq, s.sched.next with
  | some q, _ =>
    if q.aborted || q.gen ≠ r.gen || q.attempt ≠ r.attempt then s
    else
      let s := (s.noteAbort r q).abandonPass q
      let s := s.modOpen Sequencer.abandon
      let s : State := { s with sched := { s.sched with abortDue := none } }
      if q.sealing then s else s.arriveOwn .abort (failVote s.me (q.vote.getD 0))
  | none, some n =>
    let q := s.waitingPass n
    if n.aborted || q.gen ≠ r.gen || q.attempt ≠ r.attempt then s
    else
      let s := s.noteAbort r q
      let s : State := { s with sched := { s.sched with next := some { n with aborted := true } } }
      let s := s.setPop n.prog 3
      s.arriveOwn .abort (failVote s.me 0)
  | none, none => s

/-- The root holds an abort record: the first for the attempt is broadcast; one after its release is dropped (R288, R290). -/
def State.rootAbort (s : State) (r : AbortRec) : State :=
  let b := s.mortar.bar
  let same := match b.abort with
    | some a => a.gen == r.gen && a.attempt == r.attempt
    | none => false
  if same || b.released = some (r.gen, r.attempt) || s.barAttempt ≠ (r.gen, r.attempt) || (s.openSeq.isNone && s.sched.next.isNone) then s
  else
    let s := s.modBar (fun b => { b with abort := some r })
    (s.sendDown r.origin (.abort { code := r.code, attempt := r.attempt, gen := r.gen })).doAbort r

/-- This member starts the common abort (R287, R288 step 1). -/
def State.startAbort (s : State) (code : BitVec 8) : State :=
  match s.openSeq with
  | none => s
  | some q =>
    if q.aborted || q.failed then s
    else
      let s := (s.modOpen (fun q => { q with failed := true })).bump 0x215B0
      if s.isRoot then s.rootAbort { origin := s.me, code := code, gen := q.gen, attempt := q.attempt }
      else s.sendUp s.me (.abort { code := code, attempt := q.attempt, gen := q.gen })

/-- An abort-kind code raised in this command starts the common abort. -/
def State.settle (s : State) : State :=
  match s.sched.abortDue with
  | none => s
  | some c => ({ s with sched := { s.sched with abortDue := none } } : State).startAbort c

/-- ABORT accepted: from below it goes up, at the root it may be broadcast; from above it goes down and is acted on. One of an earlier
pass is discarded (R318). -/
def State.takeAbort (s : State) (l : Nat) (h : MortarHdr) (a : AbortBody) : State :=
  let d := (a.gen - s.sched.curGen).toNat
  if 1 < d && d < 65536 - 1023 then s.windowFault h.origin 15
  else if 1 < d then s
  else if l < 2 then
    (s.sendDown h.origin (.abort a)).doAbort { origin := h.origin, code := a.code, gen := a.gen, attempt := a.attempt }
  else if s.isRoot then s.rootAbort { origin := h.origin, code := a.code, gen := a.gen, attempt := a.attempt }
  else s.sendUp h.origin (.abort a)

/-! ### Sharing (R233 to R236) -/

/-- The agreed values of a release (R234); a program that leaves the mask loses its deficit (R233). -/
def State.agree (s : State) (r : ReleaseBody) : State :=
  let a := s.mortar.bar.agreed
  let own := s.boot.phase = .admitted || (s.boot.phase = .join && !s.mortar.bar.late)
  let adopt := if own then r.crcAgree else r.agreedCrc = s.ownCrc
  let a : Agreed := if adopt then { a with weights := s.ownWeights, quantum := s.quantumTb, idle := s.idleSlotTb } else a
  let s := s.modBar (fun b => { b with
    agreed := { a with ready := r.mask, crc := if own then a.sharing else r.agreedCrc } })
  s.each (List.range 16) (fun s k =>
    let p := Fin.ofNat 16 k
    if !(r.mask.getLsbD k) && (s.prog p).deficit ≠ 0 then s.setProg p { s.prog p with deficit := 0 } else s)

def State.agreedWeight (s : State) (p : Fin 16) : Nat := s.mortar.bar.agreed.weights.getD p.val 0

/-- ready(p) of R233; `skip` is a program whose pass has just ended with END_PROGRAM (R225). -/
def State.readyList (s : State) (skip : Option (Fin 16)) : List (Fin 16) :=
  ((List.range 16).map (Fin.ofNat 16)).filter (fun p =>
    s.mortar.bar.agreed.ready.getLsbD p.val && s.agreedWeight p != 0 && some p != skip && 0 < (s.prog p).image.passes)

/-- Credit rounds until some ready deficit covers its slot. -/
def State.creditRounds (s : State) (l : List (Fin 16)) : Nat :=
  (l.map (fun p =>
    let lack := ((s.slotTb p : Int) - (s.prog p).deficit).toNat
    ceilDiv lack (s.agreedWeight p * s.mortar.bar.agreed.quantum))).foldl
      (fun (m : Option Nat) n => some (match m with
        | none => n
        | some m => min m n)) none |>.getD 0

/-- Deficit round robin (R233): the credits, and the program chosen. RR_PTR moves to it. -/
def State.chooseProgram (s : State) (skip : Option (Fin 16)) : State × Option (Fin 16) :=
  let l := s.readyList skip
  if l.isEmpty then (s, none)
  else
    let n := s.creditRounds l
    let s := s.each l (fun s p => s.setProg p { s.prog p with
      deficit := (s.prog p).deficit + n * s.agreedWeight p * s.mortar.bar.agreed.quantum })
    let scan := (List.range 16).map (fun k => s.sched.rrPtr + Fin.ofNat 16 k)
    (s, scan.find? (fun p => l.contains p && (s.slotTb p : Int) ≤ (s.prog p).deficit))

/-- A slot is charged to its program (R233). -/
def State.chargeSlot (s : State) (p : Fin 16) (n : Nat) : State :=
  s.setProg p { s.prog p with deficit := (s.prog p).deficit - n, charged := (s.prog p).charged + n }

/-! ### Sleep (R462, R463) -/

/-- No sequencer is held, no FETCH or move is in progress, and no request of the host port is outstanding (R462): none of the target port keeps
its tag, and no write of the block's own that awaits its response is unanswered. -/
def State.quiet (s : State) : Bool :=
  s.sched.seqs.isEmpty && s.placement.all (fun p => p.2.moves.all (fun m => !m.active)) && s.power.heldReqs.isEmpty &&
  s.storage.queues.all (fun q => q.2.stalls.isEmpty) && s.storage.pushes.all (fun w => w.2.held.isEmpty) &&
  s.sched.sessHeld.isEmpty && s.sched.sessReads.isEmpty && s.hostOut.isEmpty &&
  s.storage.windows.all (fun w => w.2.held.isEmpty && w.2.stalled.isEmpty) && s.layout.windows.all (fun w => w.2.stalled.isEmpty)

/-- The batch timer armed on entry (R385): the earliest deadline of an open batch, less the wake time. -/
def State.armTimer (s : State) (wake : Nat) : State :=
  let t := (s.signals.sources.filter (fun x => x.2.isOpen && x.2.timed)).foldl (fun (m : Option Nat) x =>
    some (match m with
      | none => x.2.deadline
      | some m => min m x.2.deadline)) none
  { s with power := { s.power with timerAt := t.map (· - wake), latchBell := false, latchMortar := false, latchTimer := false } }

/-- Bytes of the save area before its CRC (R463): the head/tail cache, whose layout no rule gives (DESIGN CHOICE, log entry 24), then the
micro-program store and the table store. -/
def State.saveBytes (s : State) : List Byte :=
  (List.range 2097152).map (fun i => Config.savedCache s.freeCtr i) ++
  (List.range 4096).map (fun i => s.funcs.micro.getD i 0) ++ (List.range 2093056).map (fun i => s.funcs.table.getD i 0)

/-- Deep sleep at an idle release (R463): refused without a save area inside one allocation. -/
def State.enterDeep (s : State) : State :=
  let base := s.reg 0x1018 0 52
  if base = 0 || !(s.insideAlloc base 4194308) then
    { s with power := { s.power with deepPending := false, deepRefused := true } }
  else
    let s := (s.countStay).applySessions.useFree
    let b := s.saveBytes
    let s := (s.write base b).writeLe (base + 4194304) 4 (crc32c b).toNat
    let s := s.armTimer 50000
    ({ s with power := { s.power with state := .deep, sleepCrc := s.ownCrc, pllLock := false, deepPending := false } } : State).bump 0x21828

/-- Sleep after the arrival at an idle barrier. `idle` says that the release before it was an idle barrier's. A deep sleep that is refused leaves
the block in run (R463). -/
def State.enterSleep (s : State) (idle : Bool) : State :=
  if !s.quiet then s
  else if s.power.deepPending && idle && s.localReady = 0 then s.enterDeep
  else if s.power.state = .run && s.reg 0x1004 1 1 = 1 then
    let s := (s.countStay).armTimer 63
    ({ s with power := { s.power with state := .light } } : State).bump 0x21818
  else s

/-! ### STATE messages (R428) -/

/-- The state of a program as STATE carries it. -/
def State.progWords (s : State) (p : Fin 16) : ProgStateWords :=
  let g := s.prog p
  let r := s.placementOf p
  { passIndex := BitVec.ofNat 16 g.passIndex, steps := g.steps, epoch := r.epoch, stepInEpoch := r.stepIn,
    cur := BitVec.ofNat 8 r.cur, pend := BitVec.ofNat 8 r.pend, recovering := r.recovering }

/-- The thirteen STATE messages to an admitted child, on its lane only. -/
def State.sendState (s : State) (m : MemberId) : State :=
  match s.laneTo m with
  | none => s
  | some l =>
    let d (k : Nat) : BitVec 64 := BitVec.ofInt 64 (s.prog (Fin.ofNat 16 k)).deficit
    let b := s.mortar.bar
    let parts : List StateBody :=
      [.common s.sched.count b.bn (BitVec.ofNat 8 s.sched.rrPtr.val) s.mortar.tree.membVer b.agreed.ready b.agreed.crc] ++
      (List.range 4).map (fun g => .deficits (Fin.ofNat 4 g) (d (4 * g)) (d (4 * g + 1)) (d (4 * g + 2)) (d (4 * g + 3))) ++
      (List.range 8).map (fun g => .programs (Fin.ofNat 8 g) (s.progWords (Fin.ofNat 16 (2 * g)))
        (s.progWords (Fin.ofNat 16 (2 * g + 1))))
    s.each parts (fun s x => s.sendLane l s.me true (.state x))

/-! ### The boundary -/

/-- T_end: the latest release. -/
def State.lastRel (s : State) : Nat := s.mortar.bar.lastTRel.toNat

/-- The reconfiguration takes this boundary: one that became due while a pass replays waits until the pass is over (R430). -/
def State.reconfNow (s : State) : Bool := s.boot.reconfDue && !s.passInProgress

/-- The interval of the idle barrier that a boundary runs (R235, R430, R431). -/
def State.idleInterval (s : State) (admits : Bool) : Nat :=
  let idle := s.mortar.bar.agreed.idle
  let slot := s.reg 0xE848 0 32
  if s.reconfNow then (if admits then max idle slot else slot) else idle

/-- An idle barrier (R235): no pass opens, the reconfiguration and the admission take place, the member arrives at once and may
sleep. -/
def State.idleBoundary (s : State) (r : ReleaseBody) (fresh : List MemberId) : State :=
  let wait := s.idleInterval r.admits
  let s := s.modBar (fun b => { b with idleMin := s.lastRel + wait })
  let s := if s.passInProgress then s else s.newInterval
  let s := if s.reconfNow then s.reconfigure else s
  let kids := fresh.filter (fun m => s.primaryKids.contains m || s.mortar.tree.kidsIn.any (fun l => (s.lane l.1).partner == m))
  let s := s.each kids State.sendState
  (s.arriveOwn .idle passVote).enterSleep (r.kind == .idle)

/-- Programs that are STOPPING stop at this boundary, but for the one that the release chose (R204). -/
def State.stopPrograms (s : State) (chosen : Option (Fin 16)) : State :=
  s.each ((List.range 16).map (Fin.ofNat 16)) (fun s p =>
    if (s.prog p).state = .stopping && some p ≠ chosen then s.setProg p { s.prog p with state := .stopped } else s)

/-- The slot after a boundary (R226, R233, R235): `base` is max(T_open + SLOT_TB, T_end), or T_end; `fresh` are the members
admitted. -/
def State.boundary (s : State) (r : ReleaseBody) (base : Nat) (skip : Option (Fin 16)) (fresh : List MemberId) : State :=
  let s := s.atBoundary
  if r.admits || s.boot.reconfDue then (s.stopPrograms none).idleBoundary r fresh
  else match s.chooseProgram skip with
    | (s, none) => (s.stopPrograms none).idleBoundary r fresh
    | (s, some p) =>
      let sw := decide (p ≠ s.sched.rrPtr)
      let t := base + (if sw then 3750 else 0)
      let s := if sw then s.bump 0x214B0 else s
      let n : NextSlot := { prog := p, entry := (s.placeOf p false).entry, attempt := 0, count := none, tNext := t }
      ({ s with sched := { s.sched with rrPtr := p, next := some n, tNext := t } } : State).stopPrograms (some p)

/-! ### The end of an attempt (R224 to R230, R238, R289 to R291) -/

/-- An attempt that a release ends: its pass, its sequencer number when it had opened. -/
structure Ending where
  pass  : Sequencer
  num   : Option Nat
  count : BitVec 64
  slot  : Nat
  deriving DecidableEq, Repr

/-- The attempt that a release of KIND seal or abort ends at this member. -/
def State.ending (s : State) (r : ReleaseBody) : Option Ending :=
  let slotOf (p : Fin 16) (j : Nat) : Nat := (s.passEntry (s.prog p).image j).slot
  if r.kind = .idle || r.kind = .first then none
  else match s.openSeq, s.openNum, s.sched.next with
    | some q, some k, _ =>
      if q.gen = r.gen && q.attempt = r.attempt then
        some { pass := q, num := some k, count := s.sched.count - 1, slot := slotOf q.prog q.entry }
      else none
    | _, _, some n =>
      let q := s.waitingPass n
      if q.gen = r.gen && q.attempt = r.attempt then
        some { pass := q, num := none, count := n.count.getD s.sched.count, slot := slotOf n.prog n.entry }
      else none
    | _, _, none => none

/-- LATE_GEN to LATE_TB (R241). -/
def State.writeLate (s : State) (q : Sequencer) (overran : Bool) : State :=
  let x := s.sched.passLate.getD (0, 0)
  let late := decide (s.reg 0xE814 0 32 < x.1)
  { s with sched := { s.sched with
    lateGen := q.gen, lateProg := q.prog, lateOver := overran, latePhase := late, lateInstr := if late then BitVec.ofNat 16 x.2 else 0,
    lateTb := x.1 } }

/-- TIMING_OVERRUN, once for a slot (R229, R230). -/
def State.raiseLate (s : State) (q : Sequencer) : State :=
  if s.sched.slotRaised then s
  else ({ s with sched := { s.sched with slotRaised := true } } : State).note Code.timingOverrun { unit := 16, tail := some q }

/-- The code of the pass from here to its HALT ends the program (R225): the tail has no branch. -/
def State.endsProgram (s : State) (q : Sequencer) : Bool :=
  let img := (s.prog q.prog).image
  let words := (List.range (img.codeWords - q.pc)).map (fun i => s.codeWord img (q.pc + i))
  match words.find? (fun w => opOf w == Op.halt) with
  | some w => bit w 0
  | none => false

/-- The program goes on to its next pass list entry (R202). -/
def State.nextPlace (s : State) (p : Fin 16) : State :=
  let g := s.prog p
  if g.image.passes ≤ g.passIndex + 1 then (s.setProg p { g with passIndex := 0, steps := g.steps + 1 }).stepDone p
  else s.setProg p { g with passIndex := g.passIndex + 1 }

/-- The pass is late (R229). -/
def State.isLate (s : State) : Bool := decide (s.reg 0xE814 0 32 < (s.sched.passLate.getD (0, 0)).1)

/-- A pass that ends late, by its seal or in REPLAY_LIMIT, raises TIMING_OVERRUN and is recorded (R229, R241). -/
def State.noteLate (s : State) (q : Sequencer) : State :=
  if s.isLate then (s.raiseLate q).writeLate q s.sched.slotRaised else s

/-- The vote passed (R224, R238, R241): the pass's results are final and its tail begins. -/
def State.sealPassed (s : State) (q : Sequencer) (num : Nat) : State :=
  let p := q.prog
  let s := if s.isLate then (s.noteLate q).bump 0x214A0 else s
  let s := s.setProg p { s.prog p with
    lastDeclared := BitVec.ofNat 2 q.declared, lastDelivered := BitVec.ofNat 2 q.delivered,
    lowered := (s.prog p).lowered || q.lowered }
  let s := s.bump (0x21480 + 8 * min 2 q.delivered)
  let s := if q.lowered then s.bump 0x21498 else s
  let s := s.addStatistics q
  let s := match q.fire with
    | some n => s.fire n
    | none => s
  let stats := q.instrs.any (fun i => opOf i.word.toNat == Op.stats)
  let castles := match (s.placementOf p).decision with
    | some d => d.castles
    | none => false
  let g := s.prog p
  let rung := (List.range 256).filter s.chunkRung
  let s := s.setProg p { g with bells := g.bells.filter (fun b =>
    !(b.entry == q.entry && b.step.toNat == g.steps.toNat % 4096)) }
  let s := if stats then s.statsEnds p else s
  let s := s.nextPlace p
  let s := (if stats then s.sealStatistics p else s).settlePlace p
  let s := if stats && castles then s.fire 8 else s
  let s := (s.modSeq num (fun q => { q with tail := true, rung := rung, chunks := s.att.chunks })).freePass.applySessions
  let s : State := { s with att := {}, marks := [], sched := { s.sched with passLate := none, slotRaised := false } }
  if s.endsProgram q && (s.prog p).state = .running then s.setProg p { s.prog p with state := .stopped } else s

/-- The attempt fails (R288 to R290): SEAL_VOTE_FAIL unless the release is ABORTED; what it wrote is abandoned. -/
def State.attemptFailed (s : State) (r : ReleaseBody) (e : Ending) : State :=
  let aborted := r.aborted || r.kind == .abort
  let s := if aborted then
      (if e.pass.aborted || (e.num.isNone && s.sched.next.any (·.aborted)) then s
       else
        let a : AbortRec := s.mortar.bar.lastAbort.getD { origin := s.me, code := 0, gen := r.gen, attempt := r.attempt }
        s.noteAbort { a with gen := r.gen, attempt := r.attempt } e.pass)
    else (s.bump 0x215A8).note Code.sealVoteFail
      { unit := 15, member := some r.vote.firstFail, remote := r.vote.firstFail != s.me, tail := some e.pass }
  let s := if e.num.isSome && !e.pass.aborted then s.abandonPass e.pass else s
  s.modOpen Sequencer.abandon

/-- The third attempt failed (R291): the program goes to FAULT and the pass is over. -/
def State.replayLimit (s : State) (e : Ending) : State :=
  let p := e.pass.prog
  let s := s.noteLate e.pass
  let s := (s.bump 0x215C8).note Code.replayLimit { unit := 16, tail := some e.pass }
  let s := (s.setProg p { s.prog p with state := .fault, deficit := 0 }).fire 4
  let s := s.modBar (fun b => { b with agreed := { b.agreed with ready := b.agreed.ready &&& ~~~(BitVec.ofNat 16 (2 ^ p.val)) } })
  let s := s.applySessions
  { s with att := {}, marks := [],
           sched := { s.sched with passLate := none, slotRaised := false, next := none,
                                   seqs := s.sched.seqs.filter (fun x => x.2.tail) } }

/-- The slot overran (R230). -/
def State.noteOverrun (s : State) (q : Sequencer) : State := (((s.bump 0x214A8).raiseLate q).writeLate q true)

/-- The failing branch (R227, R291): the replay slot, or REPLAY_LIMIT after the third attempt. -/
def State.failOn (s : State) (r : ReleaseBody) (e : Ending) (base : Nat) (fresh : List MemberId) : State :=
  let s := s.attemptFailed r e
  let s : State := if e.num.isNone && e.pass.attempt = 0 then { s with sched := { s.sched with count := s.sched.count + 1 } } else s
  if 2 ≤ e.pass.attempt.toNat then (s.replayLimit e).boundary r base none fresh
  else
    let n : NextSlot :=
      { prog := e.pass.prog, entry := e.pass.entry, attempt := e.pass.attempt + 1, count := some e.count, tNext := base }
    let s : State := { s.purgeReplay with sched := { s.sched with next := some n, tNext := base, slotRaised := false } }
    if r.admits then s.idleBoundary r fresh else s

/-- A release ends an attempt: charge, overrun, then the branch of R290, what a loss that it settles does to the placement (`loss`, after a
statistics seal, R328, R342), and the boundary or the replay slot (R227). -/
def State.endAttempt (s : State) (r : ReleaseBody) (e : Ending) (fresh : List MemberId) (loss : State → State) : State :=
  let q := e.pass
  let tEnd := s.lastRel
  let base := max (q.tOpen + e.slot) tEnd
  let s := s.modBar (fun b => { b with lastSeal := some r })
  let s := (s.chargeSlot q.prog (base - q.tOpen)).agree r
  let s := if q.tOpen + e.slot < tEnd then s.noteOverrun q else s
  match e.num with
  | some k =>
    if r.vote.ok && !r.aborted && r.kind = .seal then
      let skip := if s.endsProgram q then some q.prog else none
      (loss (s.sealPassed q k)).boundary r base skip fresh
    else (loss s).failOn r e base fresh
  | none => (loss s).failOn r e base fresh

/-! ### A release (R309 to R311, R316, R420, R425 to R428) -/

/-- A release counts; one that came after its T_REL raises BARRIER_SKEW (R309). -/
def State.countRelease (s : State) (late : Nat) : State :=
  if 0 < late then ((s.bump 0x21628).bump 0x21630).raise Code.barrierSkew { unit := 15, noPass := true } else s.bump 0x21628

/-- The next barrier gathers: BN is one higher (R310). -/
def State.passBarrier (s : State) (r : ReleaseBody) (late : Nat) : State :=
  s.modBar (fun b => { b with
    release := none, own := none, sentUp := false, kids := [], bn := r.bn + 1, lastBn := r.bn, lastTRel := r.tRel, begun := true,
    maxLate := max b.maxLate late, abort := none })

/-- The members that have arrived when the first barrier releases (R425). Before JOIN_WAIT_TB the root releases only with all; after it, no
message says which came, beyond this member and the children whose arrival it holds: `came` (DESIGN CHOICE, log entry 93). A member declared
lost before, an absent root among them, has not. -/
def State.arrivedAll (s : State) (r : ReleaseBody) (came : List MemberId) : List MemberId :=
  s.mortar.tree.roster.filter (fun m => m == s.me || (!(s.mortar.tree.lost.contains m) &&
    (decide (r.tRel.toNat ≤ s.reg 0x3040 0 32) || came.contains m || Config.arrivedFirst m)))

/-- The first barrier's membership: who arrived; the others of the roster count as lost (R425, R426). -/
def State.settleFirst (s : State) (r : ReleaseBody) (came : List MemberId) : State :=
  let settled := s.arrivedAll r came
  s.modTree (fun t => { t with
    settled := settled, first := settled, admits := []
    lost := t.roster.filter (fun m => !(settled.contains m) || t.losses.any (·.2 == m)) })

/-- A loss belongs to the version that a release names (R311). -/
def lostBy (r : ReleaseBody) (t : Tree) (m : MemberId) : Bool :=
  t.lost.contains m && !(t.losses.any (fun x => x.2 == m && decide ((x.1 - r.membVer).toNat < 2 ^ 15) && x.1 != r.membVer))

/-- A later barrier's membership: less the members lost by the version of its release, and with those admitted (R311, R428). A version held
already and not yet named by a release stays. -/
def State.settleNext (s : State) (r : ReleaseBody) : State :=
  s.modTree (fun t => { t with
    settled := t.settled.filter (fun m => !(lostBy r t m)) ++ t.admits.filter (fun m => !(t.settled.contains m)), admits := [],
    membVer := if s.boot.phase = .admitted && (t.membVer - r.membVer).toNat < 2 ^ 15 then t.membVer else r.membVer })

/-- A child that re-homed here is awaited until it has gone back. Its primary lane must have been clear for 1,250,000 tb by then, and no
message says when it goes, so whether it has is free from 1,250,000 tb after its REHOME (DESIGN CHOICE, log entry 26). A child of a lost
parent stays. -/
def State.kidStays (s : State) (x : Nat × Nat) : Bool :=
  let m := (s.lane x.1).partner
  decide (s.tb < x.2 + 1250000) || s.mortar.tree.lost.contains (s.atPos (parentPos ((s.posOf m).getD 0))) || !(Config.kidGone s.freeCtr m true)

/-- Children and parents that return to their primary lane (R316). An acting root has no parent. -/
def State.settleLanes (s : State) : State :=
  let t := s.mortar.tree
  let back := t.rehomed && !t.actingRoot && (s.lane 0).trained && decide ((s.lane 0).clearFrom + 1250000 ≤ s.tb)
  (((if back then s.swapParents else s).modTree (fun t => { t with
    rehomed := t.rehomed && !back, kidsIn := t.kidsIn.filter (fun x => s.kidStays x) }))).useFree

/-- The membership that a release settles, and the lanes that go with it. -/
def State.settleMembership (s : State) (r : ReleaseBody) (came : List MemberId) : State :=
  (if r.kind = .first then s.settleFirst r came else s.settleNext r).settleLanes

/-- A member that is admitted holds no expert copy until a plan places one (R421, R428): its copies in the tables in use are lost. -/
def State.dropCopies (s : State) (m : MemberId) : State :=
  s.each (List.range 16) (fun s k =>
    let p := Fin.ofNat 16 k
    let r := s.placementOf p
    if r.plan = [] || r.stale.contains m then s else s.setPlacement p { r with stale := r.stale ++ [m] })

/-- The pairs with a member that is admitted start again; the member itself starts all of its own (R254, R428). -/
def State.restartPairs (s : State) (m : MemberId) : State :=
  let s := s.dropCopies m
  if m = s.me then { s with net := { s.net with pairs := [], syncs := [] } } else s.dropPeer m

/-- A reconfiguration that ran is over; one armed for this release is due (R430, R431). -/
def State.noteReconf (s : State) (r : ReleaseBody) : State :=
  let s := if s.boot.reconfRun && r.kind = .idle then
      ({ s with boot := { s.boot with reconfRun := false, armed := false } } : State).fire 0xA else s
  if s.boot.armed && r.bn.toNat = s.reg 0xE840 0 32 then { s with boot := { s.boot with reconfDue := true } } else s

/-- Counters, lateness, BN and the membership that a release settles; members admitted come back. -/
def State.noteRelease (s : State) (r : ReleaseBody) : State × List MemberId :=
  let late := s.mortar.bar.relAt - r.tRel.toNat
  let came := (s.primaryKids ++ s.secondaryKids).filter (fun m => (Tab.get? s.mortar.bar.kids m.toNat).isSome)
  let s := (s.countRelease late).passBarrier r late
  let fresh := s.mortar.tree.admits
  (((s.settleMembership r came).each fresh State.restartPairs).noteReconf r, fresh)

/-- A member loss settles: the placement of every planner ends its epoch (R342). -/
def State.settleLoss (s : State) (before : List MemberId) : State :=
  if before.all s.isSettled then s
  else s.each ((List.range 16).map (Fin.ofNat 16)) (fun s p =>
    if s.isPlanner p then (s.placementLoss p).stagingLoss p else s)

/-- The block becomes ready (R420). -/
def State.becomeReady (s : State) (ph : BootPhase) : State :=
  let n := (((s.tb : Int) - s.boot.releasedAt) / 50).toNat
  ({ s with boot := { s.boot with
    phase := ph, ready := true, selfLost := false,
    readyPlinth := if s.boot.ready then s.boot.readyPlinth else BitVec.ofNat 32 n } } : State).fire 9

/-- What a member in service does at a release: an attempt that it ends, else the boundary; a replay that an admission delayed opens
after the idle barrier, or after one more when that one's release admits again (R226, R227, R428). -/
def State.releaseAdmitted (s : State) (r : ReleaseBody) (before fresh : List MemberId) : State :=
  match s.ending r with
  | some e => s.endAttempt r e fresh (fun s => s.settleLoss before)
  | none =>
    let s := (s.settleLoss before).agree r
    let s := if r.kind = .idle then s.bump 0x214B8 else s
    match s.sched.next with
    | some n =>
      let s : State := { s with sched := { s.sched with next := some { n with tNext := s.lastRel }, tNext := s.lastRel } }
      if r.admits then s.idleBoundary r fresh else s
    | none => s.boundary r s.lastRel none fresh

/-- What a member does at a release that has joined and awaits its admission (R427, R428). -/
def State.releaseJoined (s : State) (r : ReleaseBody) (fresh : List MemberId) : State :=
  let s := s.agree r
  let s : State := { s with sched := { s.sched with curGen := r.gen, curAttempt := r.attempt } }
  if s.mortar.bar.admitted then
    if s.mortar.bar.stateIn.length = 13 then
      let s := s.modBar (fun b => { b with admitted := false, admitPending := false, admitBlocked := false, late := false })
      let s := (s.becomeReady .admitted).bump 0x214B8
      s.boundary r s.lastRel none fresh
    else s
  else s.arriveNeutral

/-- What a member does at its first release: in service when it is the first barrier's, joined when it came late (R420, R425, R427). -/
def State.releaseJoin (s : State) (r : ReleaseBody) : State :=
  let s := s.agree r
  if s.mortar.bar.late then
    let s : State := { s with sched := { s.sched with curGen := r.gen, curAttempt := r.attempt } }
    -- the membership as far as the block knows it (DEDUCED, log entry 25)
    let s := s.modTree (fun t =>
      let m := t.roster.filter (fun m => !(t.lost.contains m) && m != s.me)
      { t with settled := m, first := m })
    (s.becomeReady .joined).arriveNeutral
  else
    let s : State := { s with sched := { s.sched with count := 0 } }
    ((s.settleLoss s.mortar.tree.roster).becomeReady .admitted).boundary r s.lastRel none []

/-- What the lane logic of a member in deep sleep does at a release (R463): losses settle, the release agrees, and the member arrives at the next
idle barrier, which lasts its interval (R235). -/
def State.releaseDeep (s : State) (r : ReleaseBody) (before : List MemberId) : State :=
  let s := (s.settleLoss before).agree r
  (s.modBar (fun b => { b with idleMin := s.lastRel + s.idleInterval r.admits })).arriveOwn .idle passVote

/-- What a member does at a release, by its phase; in deep sleep it arrives at the next barrier (R463). -/
def State.actOnRelease (s : State) (r : ReleaseBody) (before fresh : List MemberId) : State :=
  if s.power.state = .deep then s.releaseDeep r before
  else match s.boot.phase with
    | .admitted => s.releaseAdmitted r before fresh
    | .joined => s.releaseJoined r fresh
    | .join => s.releaseJoin r
    | _ => s

/-- The timebase reaches T_REL of the release held (R309). A block in light sleep wakes first (`State.wakeRelease`). -/
def State.keystone (s : State) : State :=
  match s.mortar.bar.release with
  | none => s
  | some r =>
    if s.power.state = .light || !s.boot.powered || s.held then s
    else
      let s := s.until r.tRel.toNat
      let x := s.noteRelease r
      x.1.actOnRelease r s.settled x.2

/-! ### The opening of a slot (R208, R220, R221, R226, R322, R480) -/

/-- Group that the code of a pass names from an index to its HALT (R214, R280): that of its first exchanging instruction. -/
def State.codeGroup (s : State) (p : Fin 16) (entry : Nat) : Option Nat :=
  let img := (s.prog p).image
  let words := (List.range (img.codeWords - entry)).map (fun i => s.codeWord img (entry + i))
  ((words.takeWhile (fun w => opOf w != Op.halt)).find? (fun w => exchanges (opOf w))).map groupOf

/-- Sums on the tree of earlier passes and attempts are over. -/
def State.dropSums (s : State) (q : Sequencer) : State :=
  { s with mortar := { s.mortar with sums := s.mortar.sums.filter (fun t =>
      (t.gen == q.gen && q.attempt.toNat ≤ t.attempt.toNat) || t.gen == q.gen + 1) } }

/-- The lowest-numbered free sequencer (R225). -/
def State.freeSeq (s : State) : Option Nat := (List.range 16).find? (fun k => (Tab.get? s.sched.seqs k).isNone)

/-- The header checks of the layer table (R208), and a follower's PLACE_BASE (R322). -/
def State.tableOk (s : State) (q : Sequencer) : Bool :=
  let n := s.chunkTokens
  let planner := s.plannerOf q.prog
  le (s.ltab 0 1) 0 1 == q.layer.toNat && n % 16 == 0 && 16 ≤ n && n ≤ 256 && field (le (s.ltab 8 8) 0 8) 0 52 % 64 == 0 &&
  s.tokmapBase % 16 == 0 && (planner == q.prog || s.layerPlace planner q.layer.toNat == s.layerPlace q.prog q.layer.toNat)

/-- The pass `count` of R220 takes its place, writes its pass words (R221), and reads its layer table's header (R208) and, once over its attempts,
its INT4 section (R50). -/
def State.openPass (s : State) (q : Sequencer) (count : BitVec 64) : State :=
  let s : State := { s with att := { table := s.ltabAddr q.prog q.layer.toNat } }
  let s := s.writePassWords q (s.epochOf q.prog).toNat
  if !(s.tableOk q) then s.raise Code.illegalInstruction { unit := 16 }
  else
    let s := s.loadInt4 count
    if s.chunkRung 0 then s.announceTokens q else s

/-- The next slot opens at T_next, or once a sequencer is free (R226, R232). -/
def State.openSlot (s : State) : State :=
  match s.sched.next with
  | none => s
  | some n =>
    if n.aborted || s.boot.phase ≠ .admitted || s.power.state ≠ .run || s.mortar.bar.own.isSome then s
    else
      let s := s.until n.tNext
      match (match s.openNum with
        | some k => some k
        | none => s.freeSeq) with
      | none => s
      | some k =>
        let replay := n.count.isSome
        let s := if replay then s else s.moveProg n.prog (s.placeOf n.prog false)
        let entry := if replay then n.entry else (s.prog n.prog).passIndex
        let e := s.passEntry (s.prog n.prog).image entry
        let s := if e.last then s.modPlacement n.prog (fun r => { r with lastOpened := true }) else s
        let count := n.count.getD s.sched.count
        let q : Sequencer :=
          { prog := n.prog, entry := entry, layer := BitVec.ofNat 8 e.layer, gen := BitVec.ofNat 16 count.toNat, attempt := n.attempt,
            tOpen := n.tNext, pc := e.code, names := s.codeGroup n.prog e.code }
        let s : State := { s with
          sched := { s.sched with
            seqs := Tab.put s.sched.seqs k q, tOpen := n.tNext, tEnd := n.tNext + e.slot, next := none,
            count := if replay then s.sched.count else s.sched.count + 1, curGen := q.gen, curLayer := q.layer,
            curAttempt := q.attempt, slotRaised := false } }
        let s := (if replay then (s.bump 0x215C0).fire 5 else s.newInterval).dropSums q
        ((s.setPop n.prog 1).openPass q count).replayEarly

end Sys2Proof.Machine
end

