-- ==== Sys2Proof/Machine/Issue.lean ====
section
/-! DEFINITION. The sequencers and the engine queues (R213 to R219, R221 to R225, R228, R229, R232, R236, R238, R461): the
instructions that a sequencer runs itself, the issue of engine instructions, their start and their completion. -/

namespace Sys2Proof.Machine

/-! ### The sequencer -/

def State.seq (s : State) (q : Nat) : Option Sequencer := Tab.get? s.sched.seqs q

/-- Every instruction that the sequencer has issued has completed. -/
def Sequencer.idle (x : Sequencer) : Bool := x.instrs.all (fun i => i.prog == .done)

/-- The sequencer may issue: its attempt goes on, and it has not halted, nor waits for its SEAL's vote. -/
def Sequencer.issues (x : Sequencer) : Bool := !x.aborted && !x.failed && !x.halted && (!x.sealing || x.tail)

/-- Runs `f` for a sequencer that may issue. -/
def State.onSeq (s : State) (q : Nat) (f : Sequencer → State) : State :=
  match s.seq q with
  | some x => if s.awake && x.issues then f x else s
  | none => s

/-- The sequencer goes on to the instruction at index n. -/
def State.goto (s : State) (q n : Nat) : State := s.modSeq q (fun x => { x with pc := n })

/-- A code that the sequencer raises: in a pass's tail it is recorded only (R438). -/
def State.seqRaise (s : State) (x : Sequencer) (code : BitVec 8) : State :=
  s.raise code { unit := 16, tail := if x.tail then some x else none }

/-- The chunk that a chunk reference names (R213): a number, or the index of an open loop. -/
def chunkOf (x : Sequencer) (ch : Nat) : Option Nat :=
  if bit ch 8 then (x.loops[field ch 0 2]?).map (·.i) else some (field ch 0 8)

/-- The chunk's doorbell is in, for the pass of the sequencer (R212). -/
def State.bellIn (s : State) (x : Sequencer) (c : Nat) : Bool := if x.tail then x.rung.contains c else s.chunkRung c

/-! ### Instructions of the sequencer (R216, R221 to R225). An operand that LOAD refuses makes them do nothing (DESIGN CHOICE, log entry 27). -/

def State.seqNop (s : State) (q : Nat) : State := s.onSeq q (fun x => s.goto q (x.pc + 1))

/-- SLOT: the planned start of the next engine instruction or SEAL (R228). -/
def State.seqSlot (s : State) (q offset step : Nat) : State :=
  s.onSeq q (fun x =>
    let i := (x.loops.head?.map (·.i)).getD 0
    s.modSeq q (fun y => { y with slotAt := some (x.tOpen + offset + 16 * step * i), pc := x.pc + 1 }))

/-- WAIT ALL. -/
def State.seqWaitAll (s : State) (q : Nat) : State := s.onSeq q (fun x => if x.idle then s.goto q (x.pc + 1) else s)

/-- WAIT TIME. -/
def State.seqWaitTime (s : State) (q offset : Nat) : State :=
  s.onSeq q (fun x => (s.until (x.tOpen + offset)).goto q (x.pc + 1))

/-- CHUNKS of the pass, as far as it is known; a tail keeps its pass's. -/
def State.chunksOf (s : State) (x : Sequencer) : Option Nat := if x.tail then x.chunks else s.att.chunks

/-- WAIT CHUNK. A chunk reference at or above CHUNKS raises SHAPE_RANGE (R219); in a tail the code is recorded only, and the tail goes on. -/
def State.seqWaitChunk (s : State) (q ch : Nat) : State :=
  s.onSeq q (fun x => match chunkOf x ch with
    | some c =>
      if (s.chunksOf x).any (· ≤ c) then (s.seqRaise x Code.shapeRange).goto q (if x.tail then x.pc + 1 else x.pc)
      else if s.bellIn x c then s.modSeq q (fun y => { y with pc := x.pc + 1, waited := c :: y.waited })
      else s
    | none => s)

/-- LOOP (R223). -/
def State.seqLoop (s : State) (q sh bound body : Nat) : State :=
  s.onSeq q (fun x =>
    if x.tail || bound = 0 || body = 0 || 4 ≤ x.loops.length then s
    else match s.readShape sh with
      | .wait => s
      | .stale w => s.staleShape w 16
      | .word n _ =>
        if n = 0 then s.goto q (x.pc + body + 2)
        else if bound < n then s.raise Code.loopLimit { unit := 16 }
        else s.modSeq q (fun y => { y with
          loops := { body := x.pc + 1, last := x.pc + body + 1, i := 0, n := n } :: x.loops, pc := x.pc + 1 }))

/-- ENDLOOP (R223). -/
def State.seqEndloop (s : State) (q : Nat) : State :=
  s.onSeq q (fun x => match x.loops with
    | [] => s
    | f :: rest =>
      if f.last ≠ x.pc then s
      else if f.i + 1 < f.n then s.modSeq q (fun y => { y with loops := { f with i := f.i + 1 } :: rest, pc := f.body })
      else s.modSeq q (fun y => { y with loops := rest, pc := x.pc + 1 }))

/-- SHAPE (R221): `f` gives the value and the tag from those of the source word. -/
def State.seqShape (s : State) (q dst src : Nat) (f : Nat → Nat → Nat × Nat) : State :=
  s.onSeq q (fun x =>
    let i := field dst 0 20
    if x.tail || ownWord dst || (s.prog x.prog).image.shapeWords ≤ i then s
    else match s.readShape src with
      | .wait => s
      | .stale w => s.staleShape w 16
      | .word v t =>
        let r := f v t
        ((s.writeShape x i r.1 r.2).modAtt (fun a => { a with shaped := a.shaped ++ [i] })).goto q (x.pc + 1))

/-- SIGNAL (R372, R374). -/
def State.seqSignal (s : State) (q source : Nat) : State :=
  s.onSeq q (fun x => if sourceOk source then (s.fire source).goto q (x.pc + 1) else s)

/-- Lateness of a governed instruction that starts now (R229): the largest of the pass, the lower index among equals. -/
def State.noteStart (s : State) (x : Sequencer) (pc planned : Nat) : State :=
  let late := s.tb - planned
  let better := match s.sched.passLate with
    | none => true
    | some l => l.1 < late || (l.1 == late && pc < l.2)
  if x.tail || !better then s else { s with sched := { s.sched with passLate := some (late, pc) } }

/-- Waits for a planned start and notes the lateness. -/
def State.startAt (s : State) (x : Sequencer) (pc : Nat) : Option Nat → State
  | none => s
  | some t => (s.until t).noteStart x pc t

/-- SEAL (R224): after every earlier instruction, the member arrives with its vote (R289). -/
def State.seqSeal (s : State) (q source : Nat) (fires : Bool) : State :=
  s.onSeq q (fun x =>
    if x.tail || !x.idle || !x.loops.isEmpty || (fires && !(sourceOk source)) then s
    else
      let s := s.startAt x x.pc x.slotAt
      let s := s.modSeq q (fun y => { y with
        sealing := true, fire := if fires then some source else none, slotAt := none, pc := x.pc + 1 })
      match x.vote with
      | none => s.arriveOwn .seal passVote
      | some c => (s.bump 0x215A0).arriveOwn .seal (failVote s.me c))

/-- HALT (R225): the end of a pass's code. A program that ends stops at the seal (`sealPassed`); one whose code did not say so
stops now, or after the pass it has open. -/
def State.seqHalt (s : State) (q : Nat) (ends : Bool) : State :=
  s.onSeq q (fun x =>
    if !x.tail then s
    else
      let late := ends && !(s.endsProgram x) && (s.prog x.prog).state == .running
      let s := s.modSeq q (fun y => { y with halted := true })
      if late then s.setProg x.prog { s.prog x.prog with state := if s.progOpen x.prog then .stopping else .stopped } else s)

/-! ### Issue of engine instructions (R213 to R219) -/

/-- The group rule (R214). -/
def State.groupOk (s : State) (x : Sequencer) (w : Nat) : Bool :=
  !(exchanges (opOf w)) || ((x.group.isNone || x.group == some (groupOf w)) && (s.groupList (groupOf w)).contains s.me)

/-- The class rules (R215). -/
def State.classOk (s : State) (w : Nat) : Bool :=
  let op := opOf w
  let cls := classOfWord w
  cls != 3 &&
  (op != Op.move || (MoveRec.parse (s.read (recordOf w) 64)).acc != 1 || cls == 2) &&
  (op != Op.grant || s.grantBlock.cold == 0 || cls != 0) &&
  (op != Op.fetch || cls != 0)

def Issued.op (i : Issued) : Nat := opOf i.word.toNat

/-- An instruction of an opcode has been issued, for a chunk where one is named. -/
def issuedOp (l : List Issued) (op : Nat) (c : Option Nat) : Bool := l.any (fun i => i.op == op && i.chunk == c)

/-- The producers of R219 are among the instructions issued earlier; what needs CHUNKS waits until it is known. -/
def State.producersOk (s : State) (l : List Issued) (op : Nat) (c : Option Nat) : Bool :=
  let has (o : Nat) (c : Option Nat) : Bool := issuedOp l o c
  let fresh := !(has op c)
  match op with
  | 0x10 => fresh
  | 0x11 => fresh && has Op.norm c
  | 0x12 => fresh && has Op.score c
  | 0x13 => fresh && has Op.rescore c
  | 0x14 => fresh
  | 0x15 => fresh && has Op.count none
  | 0x18 => fresh && has Op.grant none
  | 0x19 => fresh && has Op.sort c
  | 0x1A => fresh && (l.any (fun i => i.op == Op.dispatch) || (has Op.grant none && s.att.chunks.getD 0 == 0))
  | 0x1B => fresh && has Op.tiles none
  | 0x1C => fresh && has Op.grant none
  | 0x1D => fresh && has Op.grant none
  | _ => true

/-- STATS issues only in an EPOCH_LAST entry of a planner, with the address in PLAN_REC (R330). -/
def State.statsOk (s : State) (x : Sequencer) (w : Nat) : Bool :=
  opOf w != Op.stats ||
  ((s.passEntry (s.prog x.prog).image x.entry).last && s.isPlanner x.prog && recordOf w == s.planAddr x.prog)

/-- Instructions of an engine that wait, of every pass. -/
def State.queued (s : State) (e : Engine) : Nat :=
  s.sched.seqs.foldl (fun n p => n + p.2.instrs.countP (fun i => i.engine == e && i.prog == .waiting)) 0

/-- An engine instruction enters its engine's queue. -/
def State.issueEngine (s : State) (q : Nat) (x : Sequencer) (w : Nat) (e : Engine) : State :=
  let op := opOf w
  let c := if hasChunk op then chunkOf x (chRef w) else none
  if (hasChunk op && c.isNone) || 256 ≤ s.queued e || (x.tail && !(tailOp op)) then s
  else if !(s.groupOk x w) || !(s.classOk w) || !(s.producersOk x.instrs op c) || !(s.statsOk x w) then
    (s.seqRaise x Code.illegalInstruction).goto q (if x.tail then x.pc + 1 else x.pc)
  else
    let i : Issued := { pc := x.pc, word := BitVec.ofNat 64 w, engine := e, chunk := c, planned := x.slotAt, prog := .waiting, order := s.sched.issued }
    let s : State := { s with sched := { s.sched with issued := s.sched.issued + 1 } }
    let s := s.modSeq q (fun y => { y with
      instrs := y.instrs ++ [i], slotAt := none, pc := x.pc + 1,
      group := if exchanges op then some (groupOf w) else y.group })
    if x.slotAt.isNone then { s with power := { s.power with ungated := (e :: s.power.ungated).eraseDups } } else s

/-- The sequencer issues its next instruction (R217): it runs it itself, or puts it into an engine's queue. -/
def State.issue (s : State) (q : Nat) : State :=
  s.onSeq q (fun x =>
    let img := (s.prog x.prog).image
    if img.codeWords ≤ x.pc then s
    else
      let w := s.codeWord img x.pc
      let s := if x.tail then s else s.modSeq q (fun y => { y with declared := max y.declared (classOfWord w) })
      match opOf w with
      | 0x00 => s.seqNop q
      | 0x01 => s.seqSlot q (field w 0 32) (field w 32 16)
      | 0x02 => match field w 0 4 with
        | 0 => s.seqWaitAll q
        | 1 => s.seqWaitTime q (field w 16 32)
        | 2 => s.seqWaitChunk q (field w 16 9)
        | _ => s
      | 0x03 => s.seqSeal q (field w 0 10) (bit w 10)
      | 0x08 => s.seqLoop q (field w 0 21) (field w 21 16) (field w 37 11)
      | 0x09 => s.seqEndloop q
      | 0x0A => match field w 42 2 with
        | 0 => s.seqShape q (field w 0 21) (field w 21 21) (fun v t => (v, t))
        | 1 => s.seqShape q (field w 0 21) (field w 21 21) (fun v _ => (ceilDiv v s.chunkTokens, 0x5101))
        | _ => s
      | 0x30 => s.seqSignal q (field w 0 10)
      | 0x31 => s.seqHalt q (bit w 0)
      | op => match engineOf op with
        | some e => s.issueEngine q x w e
        | none => s)

/-! ### Engines (R217 to R219, R228) -/

/-- The instructions of an engine that have not completed, in the order issued: sequencer, position and instruction. -/
def State.engineQueue (s : State) (e : Engine) : List (Nat × Nat × Issued) :=
  sortBy (fun x => x.2.2.order) (s.sched.seqs.flatMap (fun p =>
    if p.2.aborted || p.2.failed then []
    else (p.2.instrs.zipIdx.filter (fun x => x.1.engine == e && x.1.prog != .done)).map (fun x => (p.1, x.2, x.1))))

/-- MOVE, FUNC and FETCH are ordered with everything else in the pass (R218). -/
def ordered (op : Nat) : Bool := [Op.move, Op.func, Op.fetch].contains op

/-- OPSEQ of the instruction at position k (R270). -/
def opseqAt (l : List Issued) (k : Nat) : Nat :=
  (l.take k).countP (fun i => [Op.combineAr, Op.reduceAr, Op.stats].contains i.op)

/-- The inputs of the instruction at position k are complete (R218, R219, R48, R271). Where NORM of chunk c − 2 has not run, as chunks may be issued
out of order, SCORE of chunk c finds the buffers that it would share with that chunk free (DEDUCED, log entry 112). -/
def State.inputsIn (s : State) (x : Sequencer) (k : Nat) (i : Issued) : Bool :=
  let before := x.instrs.take k
  let done (op : Nat) (c : Option Nat) : Bool := before.any (fun j => j.op == op && j.chunk == c && j.prog == .done)
  let allDone := before.all (fun j => j.prog == .done)
  let bufferFree : Bool := match i.chunk with
    | some c => c < 2 || (Tab.get? s.att.score (c - 2)).isNone
    | none => true
  before.all (fun j => !(ordered j.op) || j.prog == .done) &&
  (match i.op with
   | 0x10 => s.att.tokens.isSome && i.chunk.any (fun c => s.bellIn x c)
   | 0x11 => done Op.norm i.chunk && bufferFree
   | 0x12 => done Op.score i.chunk
   | 0x13 => done Op.rescore i.chunk
   | 0x14 => match s.att.chunks with
     | some n => (List.range n).all (fun c => done Op.select (some c))
     | none => false
   | 0x15 => done Op.count none
   | 0x18 => done Op.grant none
   | 0x19 => done Op.sort i.chunk
   | 0x1A => before.any (fun j => j.op == Op.dispatch && j.prog != .waiting) || (s.att.chunks == some 0 && done Op.grant none)
   | 0x1B => before.any (fun j => j.op == Op.tiles && j.prog != .waiting)
   | 0x1C => done Op.grant none
   | 0x1D => done Op.grant none
   | 0x20 =>
     let r := s.read (recordOf i.word.toNat) 64
     allDone && (!(CollRec.parse r).waits || s.att.collBells.contains (opseqAt x.instrs k))
   | 0x21 => allDone
   | _ => allDone)

/-- Changes the instruction at position k. -/
def State.modInstr (s : State) (q k : Nat) (f : Issued → Issued) : State :=
  s.modSeq q (fun x => { x with instrs := x.instrs.zipIdx.map (fun p => if p.2 = k then f p.1 else p.1) })

/-- An instruction's engine time is counted (R236; DESIGN CHOICE, log entry 14). -/
def State.chargeEngine (s : State) (p : Fin 16) (e : Engine) : State :=
  let slot : Option Nat := match e with
    | .sketch => some 0
    | .exact => some 1
    | .transport => some 2
    | .combine => some 3
    | .layout => some 4
    | .function => some 4
    | _ => none
  match slot with
  | none => s
  | some k =>
    let g := s.prog p
    let old := (Tab.get? g.engineTb k).getD 0
    (s.setProg p { g with engineTb := Tab.put g.engineTb k (old + Config.engineTb s.freeCtr) }).useFree

/-- The settled membership removed a member from the group since the first keystone barrier (R238). -/
def State.ringChanged (s : State) (g : Nat) : Bool :=
  (s.groupList g).any (fun m => s.mortar.tree.first.contains m && !(s.isSettled m))

/-- Class that an instruction has delivered (R238). -/
def State.deliveredClass (s : State) (i : Issued) : Nat :=
  let w := i.word.toNat
  let fp32 := (CollRec.parse (s.read (recordOf w) 64)).format == 1 && s.ringChanged (groupOf w)
  match i.op with
  | 0x28 => if (MoveRec.parse (s.read (recordOf w) 64)).acc = 1 then 2 else 0
  | 0x2A => 1
  | 0x20 => b2n fp32
  | 0x1D => b2n (s.att.class1 || fp32)
  | op => if [Op.grant, Op.sort, Op.dispatch, Op.tiles, Op.ret, Op.combine].contains op then b2n s.att.class1 else 0

/-- The instruction at position k has completed. -/
def State.completeInstr (s : State) (q k : Nat) (i : Issued) : State :=
  let d := s.deliveredClass i
  (s.modInstr q k (fun i => { i with prog := .done })).modSeq q (fun x =>
    if x.tail then x
    else { x with delivered := max x.delivered d, lowered := x.lowered || classOfWord i.word.toNat < d })

/-- Instructions that run to their end when they start; the others go on until `finished`. -/
def atOnce (op : Nat) : Bool :=
  [Op.score, Op.rescore, Op.select, Op.count, Op.sort, Op.dispatch, Op.move, Op.func].contains op

/-- COMBINE_AR's or REDUCE_AR's collective starts. -/
def State.startReduce (s : State) (op g addr : Nat) (combined : Bool) : State :=
  let b := s.read addr 64
  s.startColl op g (CollRec.parse b) (collReservedOk b) combined false

/-- Hardware faults that an instruction meets (R38, R174, R195, R436). -/
structure EngineFaults where
  errs  : List ColumnError := []
  finds : List ReadFind := []
  deriving DecidableEq, Repr

/-- What SELECT's reads find (R436): in the session table, or in the token store. -/
def State.readSelect (s : State) (c : Nat) (finds : List ReadFind) : State :=
  let inTable (f : ReadFind) : Bool := f.store == some 2
  (s.readSessions 4 (finds.filter inTable) (some c)).readPairs c (finds.filter (fun f => !(inTable f))) 4

/-- A word of the reduction buffer (R283), among those of a COMBINE_AR; the others lie in the combine store. -/
def inReduction (f : ReadFind) : Bool := f.store == some 4

/-- What an engine does when the instruction starts. -/
def State.perform (s : State) (x : Sequencer) (k : Nat) (i : Issued) (f : EngineFaults) : State :=
  let w := i.word.toNat
  let c := i.chunk.getD 0
  match i.op with
  | 0x10 => (s.normChunk c).takeScoring c
  | 0x11 => s.scoreChunk c f.errs f.finds
  | 0x12 => s.rescoreChunk c f.finds
  | 0x13 => ((s.readSelect c f.finds).selectChunk c).freeScoring c
  | 0x14 => s.runCount
  | 0x15 => s.startGrant
  | 0x18 => s.sortChunk c
  | 0x19 => s.dispatchChunk c
  | 0x1A => s.modAtt (fun a => { a with tilesOn := true })
  | 0x1B => s.startReturn
  | 0x1C => (s.readAccums f.finds).startCombine
  | 0x1D =>
    let s := (s.readAccums (f.finds.filter (fun x => !(inReduction x)))).startCombine
    (s.startReduce (opseqAt x.instrs k) (groupOf w) (recordOf w) true).readBuffer (opseqAt x.instrs k) (f.finds.filter inReduction)
  | 0x20 => (s.startReduce (opseqAt x.instrs k) (groupOf w) (recordOf w) false).readBuffer (opseqAt x.instrs k) f.finds
  | 0x21 => (s.startStats (opseqAt x.instrs k) (groupOf w)).readBuffer (opseqAt x.instrs k) f.finds
  | 0x28 => s.runMove (recordOf w) (classOfWord w) f.finds
  | 0x29 => s.runFunc (recordOf w) f.finds
  | 0x2A => s.startFetch x.prog (if x.tail then some x else none) (recordOf w)
  | _ => s

/-- The engine starts the instruction at the head of its queue, when `want` says that it is the command's. -/
def State.runEngine (s : State) (e : Engine) (want : Nat → Bool) (f : EngineFaults) : State :=
  match (s.engineQueue e).head? with
  | none => s
  | some (q, k, i) =>
    match s.seq q with
    | none => s
    | some x =>
      if !s.awake || i.prog ≠ .waiting || !(want i.word.toNat) || !(s.inputsIn x k i) then s
      else
        let s := s.startAt x i.pc i.planned
        let s : State := { s with power := { s.power with ungated := (e :: s.power.ungated).eraseDups } }
        let s := (s.chargeEngine x.prog e).modInstr q k (fun i => { i with prog := .started })
        let s := s.perform x k i f
        if atOnce i.op then s.completeInstr q k i else s

/-- The command's opcode. -/
def State.runOp (s : State) (op : Nat) (f : EngineFaults := {}) : State :=
  match engineOf op with
  | some e => s.runEngine e (fun w => opOf w == op) f
  | none => s

/-- A record's OP is reserved (R163, R186): such a MOVE or FUNC is no row's, and any of its engine's commands starts it (DESIGN CHOICE, log
entry 115). -/
def reservedSub (op sub : Nat) : Bool := if op = Op.move then decide (6 < sub) else decide (2 < sub)

/-- A MOVE or FUNC whose record has the command's OP in its first byte (R162, R186), or a reserved one. -/
def State.runRecord (s : State) (op sub : Nat) (f : EngineFaults := {}) : State :=
  match engineOf op with
  | some e => s.runEngine e (fun w =>
      let r := s.readLe (recordOf w) 1
      opOf w == op && (r == sub || reservedSub op r)) f
  | none => s

/-! ### Completion -/

/-- A started instruction has finished (R219). -/
def State.finished (s : State) (x : Sequencer) (k : Nat) (i : Issued) : Bool :=
  let tilesDone := x.instrs.any (fun j => j.op == Op.tiles && j.prog == .done)
  i.prog == .started &&
  (match i.op with
   | 0x10 => !(s.jobWaits (.scoring (i.chunk.getD 0)))
   | 0x15 => s.att.grantDone.isSome
   | 0x1A => s.att.tilesOn && s.att.laidOut && s.att.tiles.length == s.att.entered
   | 0x1B => s.att.comb.returning && tilesDone && s.att.returned.length == s.att.entered && s.att.comb.heldRows.isEmpty
   | 0x1C => s.combineDone
   | 0x1D => s.combineDone && s.collDone (opseqAt x.instrs k)
   | 0x20 => s.collDone (opseqAt x.instrs k)
   | 0x21 => s.collDone (opseqAt x.instrs k)
   | 0x2A => s.fetchDone x.prog (recordOf i.word.toNat)
   | _ => true)

/-- The started instructions of a sequencer that have finished complete; STATS then plans (R330). -/
def State.completeSeq (s : State) (q : Nat) : State :=
  match s.seq q with
  | none => s
  | some x =>
    if x.aborted || x.failed then s
    else s.each x.instrs.zipIdx (fun s p =>
      match s.seq q with
      | none => s
      | some x =>
        if s.finished x p.2 p.1 then
          let s := s.completeInstr q p.2 p.1
          if p.1.op = Op.stats then s.finishStats (groupOf p.1.word.toNat) else s
        else s)

/-- The checks of R219 that need CHUNKS, once it is known: a chunk reference at or above CHUNKS, COUNT's SELECTs, and TILES without a
DISPATCH. -/
def State.lateChecks (s : State) : State :=
  match s.openSeq, s.att.chunks with
  | some x, some n =>
    if x.aborted || x.failed then s
    else if x.waited.any (n ≤ ·) || x.instrs.any (fun i => i.chunk.any (fun c => n ≤ c)) then s.raise Code.shapeRange { unit := 16 }
    else if x.instrs.zipIdx.any (fun p =>
        (p.1.op == Op.count && !((List.range n).all (fun c => issuedOp (x.instrs.take p.2) Op.select (some c)))) ||
        (p.1.op == Op.tiles && n != 0 && !((x.instrs.take p.2).any (fun i => i.op == Op.dispatch)))) then
      s.raise Code.illegalInstruction { unit := 16 }
    else s
  | _, _ => s

/-- Sequencers whose pass has halted and whose instructions have all completed are free (R232). -/
def State.freeSeqs (s : State) : State :=
  { s with sched := { s.sched with seqs := s.sched.seqs.filter (fun p => !(p.2.tail && p.2.halted && p.2.idle)) } }

/-- An issued instruction keeps its engine's clock running (R461): it has started, no SLOT governs it, or its planned start is 30 core cycles away
or less. -/
def State.needsClock (s : State) (i : Issued) : Bool :=
  i.prog != .waiting || (match i.planned with
    | none => true
    | some t => decide (t ≤ s.tb + s.ungateLead))

/-- Engines that no instruction keeps running are clock-gated (R461). -/
def State.gateEngines (s : State) : State :=
  { s with power := { s.power with ungated := s.power.ungated.filter (fun e => (s.engineQueue e).any (fun x => s.needsClock x.2.2)) } }

/-- Held rows of the own tokens go on as the own window moves (R148): each pass may close a chunk. -/
def State.releaseOwn : Nat → State → State
  | 0, s => s
  | n + 1, s =>
    let r := s.releaseRows
    if r.att.comb.heldRows.length < s.att.comb.heldRows.length then State.releaseOwn n r else s

/-- What follows from a command at once: held rows that the own window lets go, fan-out buffers, collectives and combines that can go on,
instructions that have finished, codes that CHUNKS makes due, free sequencers. -/
def State.completions (s : State) : State :=
  let s := if s.attemptOpen then (((s.releaseOwn 257).sweepFanout).collProgress).idleSums else s
  let s := s.each (Tab.keys s.sched.seqs) State.completeSeq
  (s.lateChecks).freeSeqs.gateEngines

/-- What every command's end sees to first: moves whose request met the retransmission limit or whose source has not answered, and payloads that
staging has room for again. -/
def State.upkeep (s : State) : State := s.takeLimits.bulkOverdue.pumpStaged

/-- The end of a command that touches a pass: moves whose source has not answered, what it completes, the common abort that it makes due, and then
the pause request (R252). Nothing goes on in a block that is held or asleep. -/
def State.close (s : State) : State := if s.awake then s.upkeep.completions.settle.updatePause else s

end Sys2Proof.Machine
end

