-- ==== Sys2Proof/Machine/Loss.lean ====
section
/-! DEFINITION. Silent lanes, loss and re-homing (13, R311 to R316), self-loss (R442), admission and STATE (R428), lanes that do not
train (R424). -/

namespace Sys2Proof.Machine

/-! ### LOST (R92, R290, R311, R314) -/

/-- LOST accepted: the member is out of the tree, an open attempt is abandoned, the child is no longer awaited. -/
def State.acceptLost (s : State) (m : MemberId) (ver : BitVec 16) : State :=
  if s.mortar.tree.lost.contains m || m = s.me then s.modTree (fun t => { t with membVer := ver })
  else
    let s := s.modTree (fun t => { t with
      membVer := ver, lost := t.lost ++ [m], losses := t.losses ++ [(ver, m)], suspects := t.suspects.filter (fun x => x.2.1 != m),
      kidsOut := t.kidsOut.filter (· != m), kidsIn := t.kidsIn.filter (fun x => (s.lane x.1).partner != m) })
    let s := s.modBar (fun b => { b with kids := Tab.erase b.kids m.toNat, neutralKids := b.neutralKids.filter (· != m) })
    let s := (s.note Code.memberLost { unit := 15, member := some m, remote := true }).fire 3
    let s := s.dropPeer m
    let due := match s.sched.next with
      | some n => n.tNext ≤ s.tb
      | none => false
    let r : AbortRec := { origin := m, code := Code.memberLost, gen := s.barAttempt.1, attempt := s.barAttempt.2 }
    let s := if (s.openSeq.isSome || due) && !(s.decided r.gen r.attempt) then
        (if s.isRoot && s.mortar.bar.abort.isNone then (s.modBar (fun b => { b with abort := some r })).doAbort r else s.doAbort r)
      else s
    s.gather

/-- LOST from above. -/
def State.takeLost (s : State) (h : MortarHdr) (m : MemberId) (ver : BitVec 16) : State :=
  (s.sendDown h.origin (.lost m ver)).acceptLost m ver

/-! ### SUSPECT (R313, R314) -/

/-- The lane of a parent to a member was trained once (R314). A root knows this of its own lanes only; another parent's lane counts (log entry 92). -/
def State.laneKnown (s : State) (p m : MemberId) : Bool :=
  p != s.me || (List.range 6).any (fun l => decide (2 ≤ l) && (s.lane l).partner == m && !(s.lane l).mismatch)

/-- The parents whose report the root needs for a member: those of its up lanes, but for parents already lost. -/
def State.parentsOf (s : State) (m : MemberId) : List MemberId :=
  match s.posOf m with
  | none => []
  | some n =>
    if n = 0 then []
    else ([s.atPos (parentPos n)] ++ ((s.secPos n).map s.atPos).toList).filter (fun p =>
      !(s.mortar.tree.lost.contains p) && s.laneKnown p m)

/-- Every parent end of the member's up lanes has reported (R314). -/
def State.allReported (s : State) (m : MemberId) : Bool :=
  let need := s.parentsOf m
  !(s.mortar.tree.lost.contains m) && !need.isEmpty && need.all (fun p => s.mortar.tree.suspects.contains (p, m, 2))

/-- The root sends LOST (R314, R311). -/
def State.sendLost (s : State) (m : MemberId) : State :=
  if s.mortar.tree.lost.contains m then s
  else
    let ver := s.mortar.tree.membVer + 1
    (s.sendDown s.me (.lost m ver)).acceptLost m ver

/-- The root sends LOST for the members that its reports are enough for: a loss may make those held about another enough. -/
def State.judgeSuspects : Nat → State → State
  | 0, s => s
  | n + 1, s =>
    match s.mortar.tree.suspects.find? (fun x => s.allReported x.2.1) with
    | some x => State.judgeSuspects n (s.sendLost x.2.1)
    | none => s

/-- The root declares a member lost, and those whose loss follows from it. -/
def State.declareLost (s : State) (m : MemberId) : State := (s.sendLost m).judgeSuspects s.mortar.tree.suspects.length

/-- A report at the root. -/
def State.rootSuspect (s : State) (origin m : MemberId) (role : BitVec 8) : State :=
  let s := s.modTree (fun t => { t with suspects := t.suspects ++ [(origin, m, role)] })
  s.judgeSuspects s.mortar.tree.suspects.length

/-- A SUSPECT goes up, or is recorded at the root. -/
def State.report (s : State) (origin m : MemberId) (role : BitVec 8) : State :=
  if s.isRoot then s.rootSuspect origin m role else s.sendUp origin (.suspect m role)

/-! ### Re-homing (R313, R315, R316) -/

/-- Bit of a level-1 position in L1_MASK. -/
def State.levelBit (s : State) : BitVec 4 :=
  if 1 ≤ s.myPos ∧ s.myPos ≤ 4 then BitVec.ofNat 4 (2 ^ (s.myPos - 1)) else 0

/-- The root starts the common abort with CODE MORTAR_REHOME while an attempt is open (R316). -/
def State.rehomeAbort (s : State) : State :=
  match s.openSeq with
  | some q =>
    if q.aborted then s
    else (s.bump 0x215B0).rootAbort { origin := s.me, code := Code.mortarRehome, gen := q.gen, attempt := q.attempt }
  | none => s

/-- A level-1 member takes over as acting root (R315): it sends nothing upward, its PATH_DELAY is 0 (R304), and it releases the barrier that
gathers, whether or not its own ARRIVE had gone up. -/
def State.takeOver (s : State) : State :=
  let s := (s.modTree (fun t => { t with actingRoot := true })).modBar (fun b => { b with sentUp := false })
  let s : State := { s with mortar := { s.mortar with cal := { s.mortar.cal with pathDelay := 0 } } }
  ((s.rehomeAbort).declareLost (s.atPos 0)).gather

/-- A loss held has a version exactly 2^15 from that of a REHOME: undefined (R317). -/
def State.rehomeUndefined (s : State) (ver : BitVec 16) : Bool :=
  s.verUndefined ver || s.mortar.tree.losses.any (fun x => decide ((x.1 - ver).toNat = 2 ^ 15))

/-- REHOME accepted: the child joins here, with the losses that it has not heard of; then the message goes up, the root acts, and
a level-1 member whose own REHOME comes back knows that the root is lost. -/
def State.takeRehome (s : State) (l : Nat) (h : MortarHdr) (mask : BitVec 4) (ver : BitVec 16) : State :=
  let child := (s.lane l).partner
  if s.rehomeUndefined ver then s.windowFault h.origin 15
  else
    let s := s.modTree (fun t => { t with kidsOut := if s.primaryKids.contains h.origin then t.kidsOut ++ [h.origin] else t.kidsOut })
    let s := if h.origin = child && s.secondaryKids.contains child then
        let s := s.each (s.mortar.tree.losses.filter (fun x => 1 ≤ (x.1 - ver).toNat && (x.1 - ver).toNat < 2 ^ 15))
          (fun s x => s.sendLane l s.me true (.lost x.2 x.1))
        s.modTree (fun t => { t with kidsIn := Tab.put t.kidsIn l s.tb })
      else s
    if s.isRoot then s.rehomeAbort.gather
    else
      let mask := mask ||| s.levelBit
      if h.origin = s.me && s.levelBit ≠ 0 then
        let lowest := ((List.range 4).find? (fun i => mask.getLsbD i)).getD 0
        if lowest + 1 = s.myPos then s.takeOver else s
      else (s.sendUp h.origin (.rehome mask ver)).gather

/-- A primary child whose lane is silent has re-homed away (DEDUCED, log entry 26): it is no longer awaited. -/
def State.dropSilent (s : State) : State :=
  let gone := s.primaryKids.filter (fun m => (s.laneTo m).isNone && !(s.mortar.tree.kidsOut.contains m))
  (s.modTree (fun t => { t with kidsOut := t.kidsOut ++ gone })).gather

/-- A child's lane has fallen silent while no attempt is open. It is dead, or it has re-homed, and no message says which before LOST does:
whether it is no longer awaited is free (DESIGN CHOICE, log entry 26). -/
def State.kidSilent (s : State) (m : MemberId) : State :=
  let s' := s.useFree
  if s.primaryKids.contains m && !(s.mortar.tree.kidsOut.contains m) && Config.kidGone s.freeCtr m false then
    (s'.modTree (fun t => { t with kidsOut := t.kidsOut ++ [m] })).gather
  else s'

/-- The tier engine of a member that has lost itself is idle (R442): its moves and stagings are over. -/
def Placement.leaveIdle (r : Placement) : Placement := { r with moves := [], decision := none }

/-- A member with neither up path (R442): it leaves the membership, idle, keeps its target port and its session table, and joins again as a
new member. One that is still in its self-test or image read goes on with them first (R419; DEDUCED, log entry 125). -/
def State.loseSelf (s : State) : State :=
  let s := s.note Code.memberLost { unit := 15, member := some s.me, selfLost := true }
  let s := match s.openSeq with
    | some q => if q.aborted then s else s.abandonPass q
    | none => s
  let late := s.mortar.bar.late || s.mortar.bar.begun
  let s := s.modBar (fun b => { bn := b.bn, lastBn := b.lastBn, lastTRel := b.lastTRel, maxLate := b.maxLate, agreed := b.agreed,
                                lastAbort := b.lastAbort, lastSeal := b.lastSeal })
  let s := if late then s.becomeLate else s
  let s : State := { s with placement := s.placement.map (fun p => (p.1, p.2.leaveIdle)) }
  ({ s with
    boot := { s.boot with selfLost := true, served := s.boot.ready || s.boot.served, ready := false,
                          phase := if s.boot.loaded then .join else s.boot.phase }
    sched := { s.sched with seqs := [], next := none, abortDue := none, passLate := none, slotRaised := false }
    att := {}
    mortar := { s.mortar with tree := { s.mortar.tree with rehomed := false, actingRoot := false }
                              cal := { s.mortar.cal with loaded := false, fast := 0, lastReq := none } } } : State).applySessions

/-- The up path moves to U1 (R313): REHOME, SUSPECT for the primary parent, MORTAR_REHOME. A member that uses U1 already does so again. -/
def State.rehome (s : State) : State :=
  let s := if s.mortar.tree.rehomed then s else (s.modTree (fun t => { t with rehomed := true })).swapParents
  let s := (s.bump 0x21620).sendUp s.me (.rehome s.levelBit s.mortar.tree.membVer)
  (s.report s.me s.parent 0).raise Code.mortarRehome { unit := 15, noPass := true }

/-- A silent up lane (R313). -/
def State.upSilence (s : State) (l : Nat) : State :=
  if s.isRoot then s
  else if l = 0 then (if (s.lane 1).trained then s.rehome else s.loseSelf)
  else if (s.lane 0).trained then
    let s := if s.mortar.tree.rehomed then (s.modTree (fun t => { t with rehomed := false })).swapParents else s
    match s.secParent with
    | some m => s.report s.me m 1
    | none => s
  else s.loseSelf

/-- What a member does about a silent lane (R313). -/
def State.actOnSilence (s : State) (l : Nat) : State :=
  if l < 2 then s.upSilence l
  else
    let m := (s.lane l).partner
    let s := s.modBar (fun b => { b with neutralKids := b.neutralKids.filter (· != m) })
    let s := s.report s.me m 2
    if s.attemptOpen then s else s.kidSilent m

/-- A lane falls silent (R312, R313): it carries nothing until it trains again. -/
def State.laneSilent (s : State) (l : Nat) : State :=
  let k := s.lane l
  if !k.trained then s
  else
    let s := (s.setLane l { k with trained := false, silent := true }).bump 0x21618
    s.actOnSilence l

/-- A lane still untrained 12,500,000 tb after pass 1 counts as silent (R424). -/
def State.laneUntrained (s : State) (l : Nat) : State :=
  if (s.lane l).trained || s.mortar.tree.roster.isEmpty then s
  else
    let s := s.until (s.boot.appliedAt + 12500000)
    let s := (s.setLane l { s.lane l with silent := true }).bump 0x21618
    if l = 0 then (if s.myPos = 0 then s else s.actOnSilence 0)
    else if l = 1 then (if s.secParent.isNone then s else s.actOnSilence 1)
    else
      -- an untrained down lane names no partner: each child without a trained lane is reported
      s.each ((s.primaryKids ++ s.secondaryKids).filter (fun m => (s.laneTo m).isNone)) (fun s m => s.report s.me m 2)

/-! ### Admission (R428) -/

/-- ADMIT from above. -/
def State.takeAdmit (s : State) (h : MortarHdr) (m : MemberId) (ver : BitVec 16) : State :=
  (s.sendDown h.origin (.admitMsg m ver)).acceptAdmit m ver

/-- One program's state from STATE. -/
def State.setWords (s : State) (p : Fin 16) (w : ProgStateWords) : State :=
  let s := s.setProg p { s.prog p with passIndex := w.passIndex.toNat, steps := w.steps }
  s.modPlacement p (fun r => { r with
    epoch := w.epoch, stepIn := w.stepInEpoch, inLast := none, lastOpened := false, cur := w.cur.toNat, pend := w.pend.toNat, recovering := w.recovering })

/-- PART of a STATE message. -/
def statePart : StateBody → Nat
  | .common .. => 0
  | .deficits g .. => 1 + g.val
  | .programs g .. => 5 + g.val

/-- STATE accepted by the block being admitted: its values overwrite the block's own; after the last part the block arrives. -/
def State.takeState (s : State) (b : StateBody) : State :=
  if !s.mortar.bar.admitted || s.boot.phase ≠ .joined || s.mortar.bar.stateIn.contains (statePart b) then s
  else
    let s := match b with
      | .common counter bn rr ver mask crc =>
        let s := s.modTree (fun t => { t with membVer := ver })
        let s := s.modBar (fun x => { x with bn := bn, agreed := { x.agreed with ready := mask, crc := crc } })
        { s with sched := { s.sched with count := counter, rrPtr := Fin.ofNat 16 rr.toNat } }
      | .deficits g d0 d1 d2 d3 =>
        s.each ([d0, d1, d2, d3].zipIdx) (fun s x =>
          let p := Fin.ofNat 16 (4 * g.val + x.2)
          s.setProg p { s.prog p with deficit := x.1.toInt })
      | .programs g a b => (s.setWords (Fin.ofNat 16 (2 * g.val)) a).setWords (Fin.ofNat 16 (2 * g.val + 1)) b
    let s := s.modBar (fun x => { x with stateIn := x.stateIn ++ [statePart b] })
    if s.mortar.bar.stateIn.length = 13 then s.arriveOwn .idle passVote else s

end Sys2Proof.Machine
end

