-- ==== Sys2Proof/Machine/Registers.lean ====
section
/-! DEFINITION. Writes of the control port's registers (R368 to R371, R375 to R387, R396, R435, R439, R463, R466, R470, R471): which
bits of a word are RW, the values that a register ignores, the bits that a write sets or clears, and the session table window
(R211). -/

namespace Sys2Proof.Machine

/-! ### The RW bits of each word -/

/-- Fields of a word: lowest bit and width. -/
def fieldsMask (l : List (Nat × Nat)) : Nat := l.foldl (fun m f => m + (2 ^ f.2 - 1) * 2 ^ f.1) 0

/-- A 52-bit address (bits [63:52] reserved). -/
def addrMask : Nat := 2 ^ 52 - 1

/-- RW bits of the words that stand alone. -/
def singleMasks : List (Nat × Nat) :=
  [(0x1000, fieldsMask [(32, 3)]), (0x1008, fieldsMask [(0, 16), (32, 32)]), (0x1010, fieldsMask [(0, 32)]), (0x1018, addrMask),
   (0x3008, fieldsMask [(0, 32)]), (0x3040, fieldsMask [(0, 32)]),
   (0x5000, fieldsMask [(0, 32), (32, 3), (36, 3), (40, 3), (44, 3), (48, 12)]), (0x5008, fieldsMask [(0, 24), (32, 11)]),
   (0x5010, fieldsMask [(0, 64)]), (0x5018, fieldsMask [(0, 64)]), (0x5020, fieldsMask [(0, 32)]), (0x5028, addrMask),
   (0xB808, fieldsMask [(0, 10)]), (0xC000, fieldsMask [(0, 3), (4, 3), (8, 5)]), (0xD000, fieldsMask [(0, 12)]),
   (0xD100, fieldsMask [(0, 64)]), (0xD108, fieldsMask [(0, 64)]), (0xD110, fieldsMask [(0, 24)]), (0xD118, fieldsMask [(0, 32)]),
   (0xE800, fieldsMask [(0, 6)]), (0xE810, fieldsMask [(0, 64)]), (0xE818, fieldsMask [(0, 32)]),
   (0xE840, fieldsMask [(0, 37)]), (0xE848, fieldsMask [(0, 32)]), (0xE850, addrMask), (0xE858, fieldsMask [(0, 64)]),
   (0x20008, fieldsMask [(32, 12)])]

/-- RW bits of a register word at an 8-byte offset that no selector banks. -/
def rwMask (o : Nat) : Nat :=
  if 0x4000 ≤ o ∧ o < 0x4060 then (if o % 16 = 0 then 0xF else 0)
  else if 0x8000 ≤ o ∧ o < 0xA000 then fieldsMask [(0, 5), (8, 8), (16, 12), (32, 32)]
  else if 0xA000 ≤ o ∧ o < 0xB000 then fieldsMask [(0, 64)]
  else if 0xB000 ≤ o ∧ o < 0xB800 then (if o % 0x80 = 0 then fieldsMask [(0, 64)] else if o % 0x80 = 8 then 0xF else 0)
  else if 0xE000 ≤ o ∧ o < 0xE800 then (if o % 0x80 = 0 then addrMask else if o % 0x80 = 0x40 then 0xFF else 0)
  else if 0xEC00 ≤ o ∧ o < 0xF000 then
    (if o % 0x40 = 0 then addrMask else if o % 0x40 = 8 then fieldsMask [(0, 4), (32, 16)]
     else if o % 0x40 = 0x18 then fieldsMask [(0, 64)] else if o % 0x40 = 0x20 then fieldsMask [(0, 32)] else 0)
  else (singleMasks.lookup o).getD 0

/-! ### Words behind a selector (R268, R370) -/

def State.poolSel (s : State) : Nat := s.reg 0xC000 0 3
def State.classSel (s : State) : Nat := s.reg 0xC000 4 3
def State.reqSel (s : State) : Nat := s.reg 0xC000 8 5
def State.queueSel (s : State) : Nat := s.reg 0xD000 0 12
def State.groupSel (s : State) : Nat := s.reg 0x6000 0 6

/-- The RW parts of a window word: the word that holds each part, and its bits. -/
def State.rwParts (s : State) (o : Nat) : List (Nat × Nat) :=
  let here := o / 8
  let pool := 8 * s.poolSel
  let cls := 8 * s.poolSel + s.classSel
  let g := groupBank s.groupSel
  if o = 0x6000 then [(here, fieldsMask [(0, 6)]), (bankWord g o, fieldsMask [(32, 11)])]
  else if 0x6800 ≤ o ∧ o < 0x7000 then [(bankWord g o, fieldsMask [(0, 10), (16, 10), (32, 10), (48, 10)])]
  else if o = 0xC008 then (if s.poolSel = 0 then [] else [(bankWord pool o, addrMask)])
  else if o = 0xC010 then [(bankWord pool o, fieldsMask [(0, 33)])]
  else if o = 0xC018 then [(bankWord cls o, fieldsMask [(0, 32), (32, 13)])]
  else if o = 0xC020 then [(bankWord cls o, fieldsMask [(0, 13), (32, 13)])]
  else if o = 0xC028 then [(bankWord cls o, fieldsMask [(0, 13)])]
  else if o = 0xC030 then [(bankWord (64 + s.reqSel) o, fieldsMask [(0, 32)])]
  else if o = 0xC038 then [(bankWord (64 + s.reqSel) o, fieldsMask [(0, 2)]), (here, fieldsMask [(32, 13)])]
  else if o = 0xD008 then [(bankWord (queueBank s.queueSel) o, fieldsMask [(0, 17), (32, 24)])]
  else if rwMask o = 0 then [] else [(here, rwMask o)]

/-! ### Values that a register ignores -/

/-- A field whose write is ignored when the value is not good: lowest bit, width, and the test. -/
structure FieldRule where
  lo  : Nat
  len : Nat
  ok  : Nat → Bool

/-- The rules of a word (R236, R319, R344, R387, R435, R467). -/
def fieldRules (o : Nat) : List FieldRule :=
  if o = 0x1008 then [⟨32, 32, fun v => 125 ≤ v⟩]
  else if o = 0x1010 ∨ o = 0x3008 then [⟨0, 32, fun v => 125 ≤ v⟩]
  else if o = 0xE810 ∨ o = 0xE818 ∨ o = 0xE848 then [⟨0, 32, fun v => 1250 ≤ v⟩]
  else if 0xB000 ≤ o ∧ o < 0xB800 ∧ o % 0x80 = 8 then [⟨0, 4, fun v => v ≤ 8⟩]
  else if 0xEC00 ≤ o ∧ o < 0xF000 ∧ o % 0x40 = 8 then [⟨32, 16, fun v => v ≠ 0⟩]
  else []

/-- A word in which the bits of a mask take new values. -/
def maskWrite (old v mask : Nat) : Nat :=
  (BitVec.ofNat 64 old &&& ~~~(BitVec.ofNat 64 mask) ||| (BitVec.ofNat 64 v &&& BitVec.ofNat 64 mask)).toNat

/-- The word that a write leaves, fields with a bad value kept. -/
def ruledWrite (o old v mask : Nat) : Nat :=
  (fieldRules o).foldl (fun w f =>
    if f.ok (field w f.lo f.len) then w else maskWrite w old (fieldsMask [(f.lo, f.len)])) (maskWrite old v mask)

/-- One RW part of a word is written. Source words (R375) and Q_CONFIG (R368) have rules of their own. -/
def State.writePart (s : State) (o v enable : Nat) (p : Nat × Nat) : State :=
  let mask := ((BitVec.ofNat 64 p.2) &&& (BitVec.ofNat 64 enable)).toNat
  let old := (s.word p.1).toNat
  let w := BitVec.ofNat 64 (ruledWrite o old v mask)
  if mask = 0 then s
  else if 0x8000 ≤ o ∧ o < 0xA000 then s.configureSource ((o - 0x8000) / 8) w
  else if o = 0xD008 then s.configureQueue s.queueSel w
  else
    let s := s.setWord p.1 w
    -- a change of GROUP_BITS or of SRC_SEL is seen by the next arbitration
    if 0xB000 ≤ o ∧ o < 0xB800 then s.arbitrate ((o - 0xB000) / 0x80) else s

/-! ### Bits that a write sets or clears (R204, R365, R379, R382, R427, R430, R439, R463) -/

/-- DEEP_REQ (R463). -/
def State.requestDeep (s : State) : State := { s with power := { s.power with deepPending := true } }

/-- ADMIT (R427). -/
def State.requestAdmit (s : State) : State :=
  if s.boot.phase = .joined then s.modBar (fun b => { b with admitPending := true }) else s

/-- What a write to an 8-byte word does beside its RW fields: `v` holds 0 in every byte not written, `en` marks the bytes. -/
def State.writeActions (s : State) (o v en : Nat) : State :=
  let hit (i : Nat) : Bool := bit v i && bit en i
  if o = 0x1000 then
    let s := if hit 37 then { s with power := { s.power with deepRefused := false } } else s
    if hit 35 then s.requestDeep else s
  else if o = 0x3040 then (if hit 32 then s.requestAdmit else s)
  else if 0xB000 ≤ o ∧ o < 0xB800 then
    let t := (o - 0xB000) / 0x80
    if o % 0x80 = 0x18 ∧ bit en 32 then s.endInterrupt t (field v 32 10)
    else if o % 0x80 = 0x20 ∧ hit 8 then s.setTarget t { s.target t with bankFull := false }
    else s
  else if o = 0xB800 then
    let s := if bit en 32 then s.clearPending (field v 32 32) else s
    if bit en 0 then s.setPending (field v 0 32) else s
  else if o = 0xD010 then (if hit 0 && !(s.isTileList s.queueSel) then s.flushQueue s.queueSel else s)
  else if 0xE000 ≤ o ∧ o < 0xE800 then
    let p := Fin.ofNat 16 ((o - 0xE000) / 0x80)
    if o % 0x80 = 8 then s.programCommand p (field v 0 3)
    else if o % 0x80 = 0x40 ∧ hit 12 then s.setProg p { s.prog p with lowered := false }
    else s
  else if o = 0xE840 then
    let b := s.boot
    let s : State := { s with boot := { b with missed := b.missed && !(hit 39), funcRefused := b.funcRefused && !(hit 40),
                                               poolsRefused := b.poolsRefused && !(hit 41) } }
    if hit 37 then s.armReconf else s
  else if o = 0x20008 then { s with ledger := s.ledger.release (hit 0) (hit 1) }
  else s

/-- A write to a register word: RW fields first, then what the write sets or clears. `en` marks the bits written. -/
def State.writeWord (s : State) (o v en : Nat) : State :=
  (s.each (s.rwParts o) (fun s p => s.writePart o v en p)).writeActions o v en

/-- A 4-byte or 8-byte register write (R470): a 4-byte write changes only its half. -/
def State.writeReg (s : State) (off size v : Nat) : State :=
  let o := off / 8 * 8
  if size = 3 then s.writeWord o (field v 0 64) (2 ^ 64 - 1)
  else if size = 2 then
    let sh := off % 8 * 8
    s.writeWord o (field v 0 32 * 2 ^ sh) ((2 ^ 32 - 1) * 2 ^ sh)
  else s

/-! ### The session table window (R211) -/

def State.sessRecord (s : State) (off : Nat) : Nat := s.reg 0xE800 0 6 * 4096 + (off - 0x40000) / 64

/-- A write of 8 or 64 B: queued while a pass is open, applied at once otherwise. Beyond 512 queued writes it keeps its tag. -/
def State.writeSession (s : State) (off size v : Nat) : State :=
  if size ≠ 3 ∧ size ≠ 6 then s.ok
  else
    let x := (s.sessRecord off, off % 64, leBytes (2 ^ size) v)
    if s.passInProgress then
      let held := decide (512 ≤ s.sched.sessQueue.length)
      let s : State := { s with sched := { s.sched with
        sessQueue := s.sched.sessQueue ++ [x], sessHeld := if held then s.sched.sessHeld ++ [s.port.tag] else s.sched.sessHeld } }
      if held then s.stall else s.ok
    else (s.putSession x).ok

/-- A read of 8 or 64 B sees every earlier write; behind a held write to its record it waits. -/
def State.readSession (s : State) (off size : Nat) : State :=
  if size ≠ 3 ∧ size ≠ 6 then s.ok
  else
    let r := s.sessRecord off
    let x : SessRead := { tag := s.port.tag, record := r, off := off % 64, bytes := 2 ^ size, after := s.sched.sessQueue.length }
    if (s.sched.sessQueue.drop 512).any (fun x => x.1 == r) then
      ({ s with sched := { s.sched with sessReads := s.sched.sessReads ++ [x] } } : State).stall
    else s.answer (s.sessionValue x)

/-! ### Doorbells of the programs (R117, R142, R212, R272) -/

/-- Runs `f` when a GEN in bits [15:0] and an ATTEMPT in bits [17:16] name program p's open attempt. -/
def State.onAttempt (s : State) (p : Fin 16) (gen attempt : Nat) (f : State → State) : State :=
  match s.openSeq with
  | some q => if q.prog = p ∧ !q.aborted ∧ q.gen.toNat = gen ∧ q.attempt.toNat = attempt then f s else s
  | none => s

/-- Tile-done: the TILE word of the descriptor. -/
def State.ringTile (s : State) (p : Fin 16) (v : Nat) : State :=
  match s.openSeq with
  | some q => s.onAttempt p q.gen.toNat (field v 24 2) (fun s => s.tileDone (field v 0 24))
  | none => s

/-- Shared-ready. -/
def State.ringShared (s : State) (p : Fin 16) (v : Nat) : State :=
  s.onAttempt p (field v 0 16) (field v 16 2) State.sharedReady

/-- Collective-ready: it names an OPSEQ; a repeated one changes nothing. -/
def State.ringColl (s : State) (p : Fin 16) (v : Nat) : State :=
  s.onAttempt p (field v 0 16) (field v 16 2) (fun s =>
    let op := field v 18 8
    if s.att.collBells.contains op then s else s.modAtt (fun a => { a with collBells := a.collBells ++ [op] }))

/-- A 4-byte write in a program's doorbell block. -/
def State.ringProgram (s : State) (p : Fin 16) (off : Nat) (v : BitVec 32) : State :=
  match off with
  | 0x20 => s.ringTile p v.toNat
  | 0x28 => s.ringShared p v.toNat
  | 0x30 => s.ringChunk p v
  | 0x38 => s.ringColl p v.toNat
  | _ => s

/-! ### Windows whose writes may wait (R355, R359, R361) -/

/-- A write to a push window; while a START waits for space it keeps its tag. -/
def State.writePush (s : State) (c : Nat) (w : PushWrite) : State :=
  let s := s.pushWrite c w
  if (s.push c).held.isEmpty then s.ok else s.stall

/-! ### The whole window (R396, R469) -/

/-- A target write at any offset of the window. -/
def State.portWrite (s : State) (off size v : Nat) : State :=
  if off % 2 ^ size ≠ 0 ∨ size < 2 ∨ 6 < size then s.ok
  else if off = 0x80000 then (s.ringSignal (BitVec.ofNat 3 size) (BitVec.ofNat 32 v)).ok
  else if 0x40000 ≤ off ∧ off < 0x80000 then s.writeSession off size v
  else if 0xC800 ≤ off ∧ off < 0xCA00 then
    let c := Fin.ofNat 16 ((off - 0xC800) / 0x20)
    if off % 0x20 = 0 ∧ size = 3 then s.windowWrite c (.request (BitVec.ofNat 64 v))
    else if off % 0x20 = 0x18 ∧ size = 2 then s.windowWrite c (.free (BitVec.ofNat 32 v))
    else s.ok
  else if 0xE0000 ≤ off ∧ off < 0xE2000 then
    let c := (off - 0xE0000) / 0x200
    if off % 0x200 = 0 ∧ size = 3 then s.writePush c (.start (BitVec.ofNat 64 v))
    else if 0x100 ≤ off % 0x200 ∧ 3 ≤ size then s.writePush c (.data (leBytes (2 ^ size) v))
    else s.ok
  else if 0xFE000 ≤ off ∧ off < 0xFF000 then
    if off % 0x100 = 0 ∧ size = 6 then s.ok.layoutRequest (Fin.ofNat 16 ((off - 0xFE000) / 0x100)) (leBytes 64 v) else s.ok
  else if 0xFF000 ≤ off ∧ off < 0xFF400 then
    let s := if size = 2 then s.ringProgram (Fin.ofNat 16 ((off - 0xFF000) / 0x40)) (off % 0x40) (BitVec.ofNat 32 v) else s
    s.ok
  else if 0xD008 ≤ off ∧ off < 0xD018 then s.ok.writeReg off size v
  else if off < 0x40000 then (s.writeReg off size v).ok
  else s.ok

end Sys2Proof.Machine
end

