-- ==== Sys2Proof/Machine/Gate.lean ====
section
/-! DEFINITION. What stands before every target port request (R384, R385, R397, R398, R413, R414, R462, R463): a member that does not serve
answers NOT_READY; one that sleeps keeps doorbells and holds other requests until it is awake. -/

namespace Sys2Proof.Machine

/-- The target port serves requests: the block is ready, or has lost itself in service (R398, R420, R442, R472). -/
def State.serving (s : State) : Bool := !s.held && (s.boot.ready || (s.boot.selfLost && s.boot.served))

/-- A wake latch is set (R385). -/
def State.waking (s : State) : Bool := s.power.latchBell || s.power.latchMortar || s.power.latchTimer

/-- A latch that starts a wake is counted (R388). -/
def State.countWake (s : State) : State := if s.waking then s else s.bump 0x217B8

/-- A wake event while an entry into deep sleep is pending cancels it (R463). -/
def State.cancelDeep (s : State) : State :=
  if s.power.deepPending then ({ s with power := { s.power with deepPending := false } } : State).bump 0x21838 else s

/-- The doorbell latch, by a doorbell or another target request: a wake event of R463 too. -/
def State.latchDoorbell (s : State) : State :=
  ({ s.countWake with power := { s.countWake.power with latchBell := true } } : State).cancelDeep

/-- The mortar latch. -/
def State.latchLanes (s : State) : State :=
  { s.countWake with power := { s.countWake.power with latchMortar := true } }

/-- The batch timer's latch, a wake event of R463 too. -/
def State.latchBatch (s : State) : State :=
  ({ s.countWake with power := { s.countWake.power with latchTimer := true } } : State).cancelDeep

/-- A request other than a doorbell write keeps its tag until the block is awake (R398). -/
def State.holdRequest (s : State) (i : Instr) : State :=
  let s := s.latchDoorbell
  ({ s with power := { s.power with heldReqs := s.power.heldReqs ++ [(s.port.tag, i)] } } : State).stall

/-- A target request: `i` is the command, kept while the block sleeps; `f` serves it. An unpowered block answers nothing. -/
def State.gatePort (s : State) (i : Instr) (f : State → State) : State :=
  if !s.boot.powered then s
  else if !s.serving then s.newTag.notReady
  else if s.power.state = .run then f s.newTag.cancelDeep
  else s.newTag.holdRequest i

/-- A doorbell write: kept by the decoder while the block sleeps, up to 64 of them. -/
def State.gateBell (s : State) (i : Instr) (b : KeptBell) (f : State → State) : State :=
  if !s.boot.powered then s
  else if !s.serving then s.newTag.notReady
  else if s.power.state = .run then (f s.newTag.cancelDeep).ok
  else if s.power.kept.length < 64 then
    let s := s.newTag.latchDoorbell
    ({ s with power := { s.power with kept := s.power.kept ++ [(s.port.tag, b)] } } : State).ok
  else s.newTag.holdRequest i

/-- What a kept doorbell does (R384). -/
def State.ringKept (s : State) : KeptBell → State
  | .signal size v => s.ringSignal size v
  | .chunk p v => s.ringProgram p 0x30 v
  | .tileDone p v => s.ringProgram p 0x20 v
  | .shared p v => s.ringProgram p 0x28 v
  | .coll p v => s.ringProgram p 0x38 v

end Sys2Proof.Machine
end

