-- ==== Sys2Proof/Machine/Start.lean ====
section
/-! DEFINITION. Resets and loss of power (R412, R413, R414, R419, R421), the Lenuidom image (R2, R415 to R418), self-test and the
repair map (R422, R423), the second image pass (R419), tests and scrubbing in service (R173, R432, R433). -/

namespace Sys2Proof.Machine

/-! ### Resets (R412, R413, R419, R421, R472) -/

/-- The tags that target requests keep (R397). -/
def State.tagsHeld (s : State) : List Nat :=
  s.power.heldReqs.map (·.1) ++ s.storage.queues.flatMap (fun q => q.2.stalls.map (·.tag)) ++
  s.storage.pushes.flatMap (fun w => w.2.held.map (·.1)) ++ s.storage.windows.flatMap (fun w => w.2.held.map (·.1) ++ w.2.stalled) ++
  s.layout.windows.flatMap (fun w => w.2.stalled) ++ s.sched.sessHeld ++ s.sched.sessReads.map (·.tag)

/-- Power-on reset: everything at its reset value. Host memory is no part of the block, the levels of VP_RST_N and TRST_N and the presence of
REF_CLK are inputs', and every outstanding tag is answered NOT_READY (R398). -/
def State.powerOnReset (s : State) (cfgMode : BitVec 2) : State :=
  { State.reset with
    boot := { State.reset.boot with cfgMode := cfgMode }
    mem := s.mem
    signals := { State.reset.signals with vpReset := s.signals.vpReset }
    power := { State.reset.power with refAbsent := s.power.refAbsent }
    port := { tag := s.port.tag }
    late := s.tagsHeld.map (fun t => { tag := t, status := 1 })
    testReset := s.testReset
    freeCtr := s.freeCtr
    pending := s.pending }

/-- Warm reset: the plinth domain keeps its state (R412, R421). -/
def State.warmReset (s : State) (cfgMode : BitVec 2) : State :=
  if !s.boot.powered then s
  else
    let r := s.powerOnReset cfgMode
    { r with
      ledger := { r.ledger with snapFirst := s.ledger.snapFirst, snapEsc := s.ledger.snapEsc, snapValid := s.ledger.snapValid,
                                refLoss := s.ledger.refLoss, pllLoss := s.ledger.pllLoss }
      power := { r.power with latchBell := s.power.latchBell, latchMortar := s.power.latchMortar, latchTimer := s.power.latchTimer } }

/-- The supply is lost: nothing of the block keeps a value (R414). -/
def State.losePower (s : State) : State :=
  if !s.boot.powered then s
  else
    let r := s.powerOnReset 0
    { r with boot := { r.boot with powered := false }, late := [] }

/-- The host port's reset on the target side (R413): requests in flight and the doorbells that the decoder keeps are lost. -/
def State.hostReset (s : State) : State :=
  { s with
    storage := { s.storage with
      windows := s.storage.windows.map (fun w => (w.1, { w.2 with held := [], stalled := [] }))
      pushes := s.storage.pushes.map (fun w => (w.1, { w.2 with held := [] }))
      queues := s.storage.queues.map (fun q => (q.1, { q.2 with stalls := [] })) }
    layout := { s.layout with windows := s.layout.windows.map (fun w => (w.1, { w.2 with stalled := [] })) }
    sched := { s.sched with sessQueue := s.sched.sessQueue.take 512, sessHeld := [], sessReads := [] }
    power := { s.power with heldReqs := [], kept := [] }
    port := { tag := s.port.tag }
    late := [] }

/-- VP_RST_N asserted or released (R408): asserted, VP_VALID is low at once in every state of the block. -/
def State.vectorReset (s : State) (asserted : Bool) : State :=
  let s : State := { s with signals := { s.signals with vpReset := asserted } }
  if asserted || s.serving then s.arbitrateAll else s

/-- The core PLL locks after reset release (R419, R449), as it does only with REF_CLK present (R460). -/
def State.lockPll (s : State) : State :=
  if s.boot.powered && !s.held then { s with power := { s.power with pllLock := true, refAbsent := false } } else s

/-! ### The image (R415 to R418) -/

/-- A check that fails: the code and the section. -/
abbrev ImageFault := BitVec 8 × Nat

/-- Sections' names for a check that concerns the header or no section at all. -/
def headerSection : Nat := 0x3F

/-- The checks in order; the first failure counts. -/
def firstFault (l : List (Bool × ImageFault)) : Option ImageFault := (l.find? (fun c => !c.1)).map (·.2)

/-- The header (R415, R418 step 1). -/
def headerFault (b : List Byte) : Option ImageFault :=
  let version := le b 4 4
  let bytes := le b 8 4
  let n := le b 12 2
  let format : ImageFault := (Code.imageFormat, headerSection)
  firstFault
    [(le b 0 4 == 0x4D444E4C, format),
     (version / 65536 == 3 && version % 65536 ≤ 2, format),
     (512 ≤ bytes && bytes ≤ 16777216, format),
     (1 ≤ n && n ≤ 32, format),
     (crc32c (slice b 0 60) == BitVec.ofNat 32 (le b 60 4), (Code.imageCrc, headerSection))]

/-- The section table. -/
def sectionsOf (b : List Byte) : List ImgSection :=
  (List.range (le b 12 2)).map (fun i =>
    let o := 64 + 16 * i
    { typ := le b o 2, flags := le b (o + 2) 2, off := le b (o + 4) 4, len := le b (o + 8) 4, crc := BitVec.ofNat 32 (le b (o + 12) 4) })

/-- Types that an image must have, and all that the block knows (R416). -/
def requiredTypes : List Nat := [0x01, 0x02, 0x03, 0x10]
def knownTypes : List Nat := [0x01, 0x02, 0x03, 0x04, 0x05, 0x06, 0x07, 0x08, 0x10, 0x11, 0x12]

/-- The section table's checks (R415, R418 step 2). -/
def tableFault (b : List Byte) (l : List ImgSection) : Option ImageFault :=
  let ok (i : Nat) (x : ImgSection) : Bool :=
    let before := l.take i
    x.off + x.len ≤ le b 8 4 && 64 + 16 * l.length ≤ x.off && x.off % 8 == 0 &&
    before.all (fun y => apart (x.off, x.len) (y.off, y.len)) && before.all (fun y => y.typ != x.typ) &&
    (knownTypes.contains x.typ || bit x.flags 0)
  firstFault (l.zipIdx.map (fun x => (ok x.2 x.1, (Code.imageFormat, x.2))) ++
    requiredTypes.map (fun t => (l.any (fun x => x.typ == t), (Code.imageFormat, headerSection))))

/-- The bytes of a section. -/
def ImgSection.bytes (x : ImgSection) (b : List Byte) : List Byte := slice b x.off x.len

/-- The bytes of the section of a type; empty where the image has none. -/
def sectionBytes (b : List Byte) (l : List ImgSection) (typ : Nat) : List Byte :=
  match l.find? (fun x => x.typ == typ) with
  | some x => x.bytes b
  | none => []

/-- n member ids of 2 B. -/
def idsOf (b : List Byte) (n : Nat) : List MemberId := (List.range n).map (fun i => BitVec.ofNat 10 (le b (2 * i) 2))

/-- The roster of a ROSTER section. -/
def rosterOf (b : List Byte) : List MemberId := idsOf (b.drop 2) (le b 0 2)

/-- ROSTER's content check. -/
def rosterOk (b : List Byte) (me : MemberId) : Bool :=
  let n := le b 0 2
  1 ≤ n && n ≤ 1024 && b.length == 2 + 2 * n && (rosterOf b).contains me && decide (rosterOf b).Nodup

/-- Entries of a SEC_PARENT section. -/
def secOf (b : List Byte) (n : Nat) : List (BitVec 16) := (List.range n).map (fun i => BitVec.ofNat 16 (le b (2 * i) 2))

/-- The level-1 position after one, in the cycle of those present. -/
def nextLevel1 (n p : Nat) : Nat := if p < 4 ∧ p + 1 < n then p + 1 else 1

/-- R296 for a roster of n members. -/
def secOk (n : Nat) (l : List (BitVec 16)) : Bool :=
  let none' (e : BitVec 16) : Bool := bit e.toNat 15
  let pos (e : BitVec 16) : Nat := field e.toNat 0 10
  let named := (l.filter (fun e => !(none' e))).map pos
  l.zipIdx.all (fun x =>
    if x.2 = 0 then none' x.1
    else if none' x.1 then n == 2
    else 1 ≤ pos x.1 && pos x.1 < n && level1 (pos x.1) == nextLevel1 n (level1 x.2)) &&
  (List.range n).all (fun m =>
    ((([1, 2, 3, 4] : List Nat).filter (fun k => 4 * m + k < n)).length + named.count m ≤ 4))

/-- The group lists of a GROUPS section; none when it ends early. -/
def groupsOf : Nat → List Byte → Option (List (List MemberId) × List Byte)
  | 0, b => some ([], b)
  | k + 1, b =>
    let n := le b 0 2
    if b.length < 2 + 2 * n then none
    else match groupsOf k (b.drop (2 + 2 * n)) with
      | none => none
      | some (l, rest) => some (idsOf (b.drop 2) n :: l, rest)

/-- R266: distinct members of the roster, at most 1,024. -/
def groupListOk (roster : List MemberId) (l : List MemberId) : Bool :=
  l.length ≤ 1024 && decide l.Nodup && l.all roster.contains

/-! ### Register sections (R417) -/

/-- A register write of the image. -/
structure RegWrite where
  off  : Nat
  size : Nat
  v    : Nat
  deriving DecidableEq, Repr

def regWritesOf (b : List Byte) : List RegWrite :=
  (List.range (b.length / 16)).map (fun i => ⟨le b (16 * i) 4, le b (16 * i + 4) 1, le b (16 * i + 8) 8⟩)

/-- The offsets that a type's section may write (R416). -/
def typeRange (typ off : Nat) : Bool :=
  match typ with
  | 0x04 => decide (0x5000 ≤ off ∧ off < 0x6000)
  | 0x05 => decide (0x8000 ≤ off ∧ off < 0xC000)
  | 0x06 => decide (0xC000 ≤ off ∧ off < 0xD000)
  | 0x07 => decide (0xD000 ≤ off ∧ off < 0xE000)
  | 0x08 => decide ((0x1000 ≤ off ∧ off < 0x2000) ∨ (0x3000 ≤ off ∧ off < 0x5000) ∨ (0xE000 ≤ off ∧ off < 0xF000))
  | _ => false

/-- Bits of a word that a write of 1 sets or clears, among words that hold RW fields as well. -/
def w1Mask (o : Nat) : Nat :=
  if o = 0x1000 then fieldsMask [(35, 1), (37, 1)]
  else if o = 0x3040 then fieldsMask [(32, 1)]
  else if 0xE000 ≤ o ∧ o < 0xE800 ∧ o % 0x80 = 0x40 then fieldsMask [(12, 1)]
  else if o = 0xE840 then fieldsMask [(37, 1), (39, 1), (40, 1), (41, 1)]
  else 0

/-- A write meets R417: aligned, in range, to RW fields; it sets no bit of another access. -/
def State.regWriteOk (s : State) (typ : Nat) (w : RegWrite) : Bool :=
  let o := w.off / 8 * 8
  let sh := w.off % 8 * 8
  let en := BitVec.ofNat 64 (if w.size = 8 then 2 ^ 64 - 1 else (2 ^ 32 - 1) * 2 ^ sh)
  let v := BitVec.ofNat 64 (if w.size = 8 then w.v else w.v % 2 ^ 32 * 2 ^ sh)
  (w.size == 4 || w.size == 8) && w.off % w.size == 0 && typeRange typ w.off &&
  (s.rwParts o).any (fun p => BitVec.ofNat 64 p.2 &&& en != 0) && (v &&& BitVec.ofNat 64 (w1Mask o)) == 0

/-- A section's register writes, in order as the target port would apply them; none when one breaks R417. -/
def State.regSection (s : State) (typ : Nat) (l : List RegWrite) : Option State :=
  l.foldl (fun s w => s.bind (fun s =>
    if s.regWriteOk typ w then some (s.writeReg w.off (if w.size = 8 then 3 else 2) w.v) else none)) (some s)

/-! ### Pass 1 (R418, R419 step 3) -/

/-- Content check of a section, with the register writes made so far: the state after its own, or none. -/
def State.sectionOk (s : State) (b : List Byte) (l : List ImgSection) (x : ImgSection) : Option State :=
  let c := x.bytes b
  let roster := rosterOf (sectionBytes b l 0x01)
  let when (ok : Bool) : Option State := if ok then some s else none
  match x.typ with
  | 0x01 => when (rosterOk c (BitVec.ofNat 10 (le b 14 2)))
  | 0x02 => when (c.length == 2 * roster.length && secOk roster.length (secOf c roster.length))
  | 0x03 => when (match groupsOf 64 c with
      | some (g, rest) => rest.isEmpty && g.all (groupListOk roster)
      | none => false)
  | 0x10 => when (c.length == 8 && le c 0 8 % 64 == 0)
  | 0x11 => when (c.length == 4096 && directoryOk c)
  | 0x12 => when (1 ≤ c.length && c.length ≤ 2093056)
  | t =>
    if knownTypes.contains t then
      if c.length % 16 ≠ 0 then none
      else match s.regSection t (regWritesOf c) with
        | none => none
        | some s => if t = 0x06 && !(s.carvingOk false) then none else some s
    else some s

/-- The sections in table order: CRC, then content (R418 step 3). Answers the state with the register sections applied. -/
def State.sectionsFault (s : State) (b : List Byte) (all : List ImgSection) : List (ImgSection × Nat) → State × Option ImageFault
  | [] => (s, none)
  | (x, i) :: t =>
    if crc32c (x.bytes b) ≠ x.crc then (s, some (Code.imageCrc, i))
    else match s.sectionOk b all x with
      | none => (s, some (Code.imageFormat, i))
      | some s => State.sectionsFault s b all t

/-- A start step has raised a member-fatal code, and the member is about to be held (R419, R441). -/
def State.stopped (s : State) : Bool := s.held || s.ledger.input.any (fun r => holds r.code)

/-- The image is refused (R418). -/
def State.refuseImage (s : State) (f : ImageFault) : State :=
  ({ s with boot := { s.boot with failSection := BitVec.ofNat 6 f.2 } } : State).raise f.1
    { unit := 19, detail := f.2, noPass := true }

/-- Every register of the image takes effect (R263, R268, R370, R450). -/
def State.applyAll (s : State) : State := { s with effect := s.regs }

/-- What the block takes from a good image beside the register sections. -/
def State.applyImage (s : State) (b : List Byte) (l : List ImgSection) : State :=
  let roster := rosterOf (sectionBytes b l 0x01)
  let groups := match groupsOf 64 (sectionBytes b l 0x03) with
    | some (g, _) => g.zipIdx.map (fun x => (x.2, x.1))
    | none => []
  let s := s.applyAll
  { s with
    groups := groups
    mortar := { s.mortar with tree := { s.mortar.tree with roster := roster, sec := secOf (sectionBytes b l 0x02) roster.length } }
    power := { s.power with spreadActive := s.reg 0x1004 0 1 == 1 }
    boot := { s.boot with
      memberId := BitVec.ofNat 10 (le b 14 2), memberValid := true, imageHcrc := BitVec.ofNat 32 (le b 60 4),
      layoutBase := le (sectionBytes b l 0x10) 0 8, sections := l, phase := .selfTest, appliedAt := s.tb } }

/-- The first image read completes (R405, R418, R419): the image is refused, or applied. -/
def State.imageFirst (s : State) (b : List Byte) : State :=
  if !s.boot.powered || s.stopped || s.boot.phase ≠ .reset then s
  else
    let s : State := { s with boot := { s.boot with phase := .image } }
    if 2 ≤ s.boot.cfgMode.toNat then s.refuseImage (Code.imageFormat, headerSection)
    else match headerFault b with
      | some f => s.refuseImage f
      | none =>
        let l := sectionsOf b
        match tableFault b l with
        | some f => s.refuseImage f
        | none =>
          match s.sectionsFault b l l.zipIdx with
          | (_, some f) => s.refuseImage f
          | (s', none) => s'.applyImage b l

/-! ### Self-test and the second pass (R419, R422, R423) -/

/-- The repair map of a store as self-test found it. -/
def repairMap (r : StoreResult) : StoreMap :=
  { rows := r.rowsRepaired, cols := r.colsRepaired,
    bankRows := r.bankRows.foldl (fun t x => Tab.put t x.1 x.2) [], bankCols := r.bankCols.foldl (fun t x => Tab.put t x.1 x.2) [] }

/-- BIST completes: the repair map is set; the block goes on to the second image read. Failed pipelines are fenced at the next layer boundary
(R173). Without a FUNCTIONS or TABLES section, and beyond a section's length, the function stores read 0 (log entry 116). -/
def State.selfTest (s : State) (r : SelfTest) : State :=
  if !s.boot.powered || s.stopped || s.boot.phase ≠ .selfTest || !s.power.pllLock then s
  else
    let cols := (r.failedCols.map Fin.val).eraseDups
    let pipes := (r.failedPipes.map Fin.val).foldl (fun l p => insertNat p l) []
    let s := s.each r.stores (fun s x => s.setStore x.store.val (repairMap x))
    let on := decide (cols.length < 16)
    let s : State := { s with boot := { s.boot with
      retired := sortBy id (cols.take 16), toFence := pipes, rotating := on, testColumn := if on then nextColumn 527 cols else 0 } }
    let dead := r.stores.any (·.exhausted) || decide (16 < cols.length)
    let s := if dead then s.raise Code.repairExhausted { unit := 17, noPass := true } else s
    let s := if r.stores.any (fun x => x.rowsRepaired ≠ 0 || x.colsRepaired ≠ 0) then
        s.raise Code.bistRepaired { unit := 17, noPass := true } else s
    let s := if pipes.length = 128 then s.raise Code.repairExhausted { unit := 11, noPass := true } else s
    if s.stopped then s else { s with boot := { s.boot with phase := .load } }

/-- The second image read completes (R419 step 6): the function stores are loaded and the block may join (step 7). -/
def State.imageSecond (s : State) (b : List Byte) : State :=
  if !s.boot.powered || s.stopped || s.boot.phase ≠ .load then s
  else
    let l := s.boot.sections
    let bad := l.zipIdx.find? (fun x => (x.1.typ == 0x11 || x.1.typ == 0x12) && crc32c (x.1.bytes b) != x.1.crc)
    match bad with
    | some x => s.refuseImage (Code.imageCrc, x.2)
    | none =>
      let s : State := { s with
        funcs := { micro := sectionBytes b l 0x11, table := sectionBytes b l 0x12 }
        boot := { s.boot with phase := .join, loaded := true } }
      s.joinBarrier

/-! ### Tests in service (R173, R432) -/

/-- The member is in service and its core runs. -/
def State.testing (s : State) : Bool := s.awake && s.boot.loaded

/-- The column out for test has been tested in a maintenance span. -/
def State.testColumn (s : State) (passed : Bool) : State :=
  if s.testing && s.boot.rotating then
    { s with boot := { s.boot with testPassed := some (passed && s.boot.testPassed.getD true) } }
  else s

/-- A function pipeline has answered its fixed arguments; `wrong` of the answers differ. -/
def State.testPipe (s : State) (pipe wrong : Nat) : State :=
  if !s.testing || s.boot.fenced.contains pipe then s
  else
    let s := s.bump 0x21160 wrong
    if wrong = 0 || s.boot.toFence.contains pipe then s
    else { s with boot := { s.boot with toFence := insertNat pipe s.boot.toFence } }

/-! ### Scrubbing (R433) -/

/-- Lines of 64 B in each store of R10; the transpose buffer's size is not given, and every line number is one of its lines. -/
def storeLines (i line : Nat) : Bool :=
  match i with
  | 0 => decide (line < 786432)
  | 1 => decide (line < 524288)
  | 2 => decide (line < 262144)
  | 3 => decide (line < 131072)
  | 4 => decide (line < 65536)
  | 5 => decide (line < 32768)
  | 6 => decide (line < 32768)
  | _ => true

/-- The scrubber comes to a line: below the last one, a new pass begins. -/
def StoreMap.visit (k : StoreMap) (line : Nat) : StoreMap :=
  if line ≤ k.lastLine then { k with lastLine := line, before := k.corrected, corrected := [] } else { k with lastLine := line }

/-- A line's row waits for its repair at the next boundary. -/
def StoreMap.markHard (k : StoreMap) (line : Nat) : StoreMap :=
  if k.hard.contains line then k else { k with hard := k.hard ++ [line] }

/-- An open pass holds a line of a store whose contents are kept for one pass (R10, R433): of the token store, a line of a pool-0 buffer that one of
the block's own requesters holds for the pass; of the combine store, a line of an open accumulator, whose place no rule gives (log entry 111). -/
def State.passHolds (s : State) (i line : Nat) : Bool :=
  s.attemptOpen &&
  match i with
  | 0 =>
    let later := s.early.filterMap (·.handle)
    (List.range 6).any (fun c => (s.poolClass 0 c).used.any (fun e =>
      let lo := s.classBase 0 c + e.1 * classSize c
      decide (e.2 ≤ 4) && !(later.contains (handleOf 0 c e.1)) && decide (lo ≤ 64 * line) && decide (64 * line < lo + classSize c)))
  | 1 => !s.att.comb.accs.isEmpty && Config.accumLine s.freeCtr line
  | _ => false

/-- The scrubber skips a line that nothing has written since the block left deep sleep (R464): the session table and the stores of the save area have
kept theirs, and of the others' lines no rule says which have been written (DESIGN CHOICE, log entry 132). -/
def State.scrubSkips (s : State) (i line : Nat) : Bool :=
  s.power.unwritten && [0, 1, 3, 4, 7].contains i && !(Config.lineWritten s.freeCtr i line)

/-- The scrubber finds a line correct, corrected or uncorrectable. An uncorrectable line that no open pass holds is recorded only (R433, R438). -/
def State.scrub (s : State) (i line : Nat) (find : ScrubFind) : State :=
  if !s.testing || !(storeLines i line) then s
  else if s.scrubSkips i line then s.useFree
  else
    let d := i * 2 ^ 56 + 64 * line
    let k := (s.store i).visit line
    match find with
    | .clean => s.setStore i k
    | .corrected =>
      let k := if k.before.contains line then k.markHard line else k
      (s.setStore i { k with corrected := line :: k.corrected }).raise Code.sramCorrected { unit := 17, detail := d, noPass := true }
    | .uncorrectable =>
      let s := s.setStore i (k.markHard line)
      let s := if i = 2 then s.loseSession line else s
      let held := s.passHolds i line
      (if i = 1 then s.useFree else s).raise Code.sramUncorrectable { unit := 17, detail := d, noPass := !held }

end Sys2Proof.Machine
end

