-- ==== Sys2Proof/Machine/Power.lean ====
section
/-! DEFINITION. Supply sag and the core clock (R449 to R453), the clock monitors (R460), engine clock gating (R461), the batch timer
(R385) and the restore after deep sleep (R464). -/

namespace Sys2Proof.Machine

/-! ### Sag, stretch and step (R451 to R453) -/

/-- The supply falls SAG_THRESH_MV or more below nominal. -/
def State.sagBegins (s : State) : State :=
  if !s.boot.powered || s.power.sag then s
  else
    let s : State := { s with power := { s.power with sag := true, above := false, sagSince := s.tb, stretchFrom := s.tb } }
    if s.stretching then s.noteDroop else s

/-- The supply lies above the threshold plus SAG_HYST_MV from now on, or does not (R452). -/
def State.noteAbove (s : State) (mv : Nat) : State :=
  if s.reg 0x1008 8 8 < mv then
    if s.power.above then s else { s with power := { s.power with above := true, recovered := s.tb } }
  else { s with power := { s.power with above := false } }

/-- The supply returns to `mv` above the threshold. -/
def State.sagEnds (s : State) (mv : Nat) : State :=
  if !s.boot.powered then s
  else
    let s := s.countStay
    ({ s with power := { s.power with sag := false } } : State).noteAbove mv

/-- The sag has lasted SUSTAIN_TB without a break: the step to 450 MHz, if STEP_ENABLE allows it. -/
def State.stepDown (s : State) : State :=
  if !s.stretching || s.reg 0x1004 2 1 = 0 then s
  else
    let s := (s.until (s.power.sagSince + s.reg 0x100C 0 32)).countStay
    (({ s with power := { s.power with stepped := true } } : State).bump 0x21808).noteDroop

/-- RESTORE_TB above threshold and hysteresis: back to 600 MHz. -/
def State.stepUp (s : State) : State :=
  if !s.awake || !s.power.above || !s.power.stepped then s
  else
    let s := s.until (s.power.recovered + s.reg 0x1010 0 32)
    { s with power := { s.power with stepped := false } }

/-! ### Clock monitors (R460) -/

/-- The held state without a ledger record, FAIL_CODE 0x00. -/
def State.holdSilently (s : State) : State := if s.held then s else s.hold 0

/-- REF_CLK is lost. -/
def State.loseRefClk (s : State) : State :=
  if !s.boot.powered then s
  else ({ s with ledger := { s.ledger with refLoss := true }, power := { s.power with refAbsent := true } } : State).holdSilently

/-- The core PLL reports loss of lock while REF_CLK is present. A PLL that was not locked loses nothing. -/
def State.losePll (s : State) : State :=
  if !s.boot.powered || !s.power.pllLock || s.power.refAbsent then s
  else
    ({ s with ledger := { s.ledger with pllLoss := true }, power := { s.power with pllLock := false } } : State).holdSilently

/-! ### Clock gating (R461) -/

/-- The sequencer ungates an engine before the planned start of the instruction at the head of its queue. -/
def State.ungate (s : State) (e : Engine) : State :=
  match (s.engineQueue e).head? with
  | some (_, _, i) =>
    match i.planned with
    | some t =>
      let s := s.until (t - s.ungateLead)
      { s with power := { s.power with ungated := (e :: s.power.ungated).eraseDups } }
    | none => s
  | none => s

/-! ### Sleep's end (R385, R463, R464) -/

/-- The batch timer of a sleeping block expires. -/
def State.batchTimer (s : State) : State :=
  match s.power.timerAt with
  | some t =>
    if s.power.state = .run || !s.boot.powered || s.held then s
    else
      let s := (s.until t).latchBatch
      { s with power := { s.power with timerAt := none } }
  | none => s

/-- The core runs again: latches clear, and a sag that goes on stretches its clock. -/
def State.running (s : State) : State :=
  ({ s with power := { s.power with
    state := .run, latchBell := false, latchMortar := false, latchTimer := false, timerAt := none } } : State).stretchAgain

/-- The PLL relocks and the save area is read back; a bad CRC raises IMAGE_CRC (R464). Every store but the session table and those of the save area
holds nothing: the router weight buffer is loaded before the next SCORE (R50). -/
def State.restoreSaved (s : State) : State :=
  let base := s.reg 0x1018 0 52
  let b := s.read base 4194304
  let s : State := { s with weights := {}, power := { s.power with pllLock := true, unwritten := true } }
  if (crc32c b).toNat = s.readLe (base + 4194304) 4 then
    { s with funcs := { micro := (b.drop 2097152).take 4096, table := b.drop 2101248 } }
  else s.raise Code.imageCrc { unit := 19, noPass := true }

end Sys2Proof.Machine
end

