-- ==== Sys2Proof/Machine/Mortars.lean ====
section
/-! DEFINITION. What a member does with a mortar message that a lane accepts (R298 to R318, R385, R424, R428), awake and asleep. -/

namespace Sys2Proof.Machine

/-- A message accepted in the present power state is handled. Releases, losses, admissions and state come on the up lane in use;
reports and re-homes on a down lane. -/
def State.handleMortar (s : State) (l : Nat) (h : MortarHdr) (b : MortarBody) : State :=
  let fromUp := decide (some l = s.upLane)
  match b with
  | .ident m r p => s.laneIdent l m r p
  | .heartbeat => s
  | .nak => s.laneResend l h.seq
  | .calReq t => if l < 2 then s else s.calAnswer l t
  | .calResp t1 t2 t3 => if l < 2 then (s.calResult l t1 t2 t3).joinBarrier else s
  | .arrive a => s.takeArrive l h a
  | .release r => if fromUp then s.takeRelease h r else s
  | .abort a =>
    if l < 2 && !fromUp then s
    else
      let s := s.takeAbort l h a
      -- an abort for a re-homing: children whose lane is silent have gone to another parent (DEDUCED, log entry 26)
      if a.code = Code.mortarRehome then s.dropSilent else s
  | .reduce r => if l < 2 && !fromUp then s else s.takeReduce (decide (l < 2)) (if l < 2 then h.origin else (s.lane l).partner) r
  | .suspect m r => if l < 2 then s else s.report h.origin m r
  | .lost m v => if fromUp then s.takeLost h m v else s
  | .rehome k v => if l < 2 then s else s.takeRehome l h k v
  | .admitMsg m v => if fromUp then s.takeAdmit h m v else s
  | .state b => if fromUp then s.takeState b else s

/-- Messages that the lane logic handles itself in every power state (R385). -/
def laneBody : MortarBody → Bool
  | .heartbeat => true
  | .calReq _ => true
  | .calResp .. => true
  | .nak => true
  | _ => false

/-- A child of this member in the tree as it stands. -/
def State.isKid (s : State) (m : MemberId) : Bool :=
  s.primaryKids.contains m || s.mortar.tree.kidsIn.any (fun l => (s.lane l.1).partner == m)

/-- ADMIT for a child wakes a deep sleeper and cancels a pending deep sleep (R462, R463). -/
def State.admitWakes (s : State) : MortarBody → State
  | .admitMsg m _ =>
    if s.isKid m then (if s.power.state = .deep then s.latchLanes else s.cancelDeep) else s
  | _ => s

/-- An accepted message: in light sleep it sets the wake latch and waits for the core, unless the lane logic handles it. -/
def State.acceptMortar (s : State) (l : Nat) (h : MortarHdr) (b : MortarBody) : State :=
  if s.power.state = .light && !(laneBody b) then
    let s := s.latchLanes
    { s with power := { s.power with rxMortar := s.power.rxMortar ++ [(l, h, b)] } }
  else (s.handleMortar l h b).admitWakes b

/-- The lanes run: the block is powered, not held, and the image has named its roster (R419 step 4). -/
def State.lanesRun (s : State) : Bool := s.boot.powered && !s.held && s.boot.memberValid

/-- A mortar message arrives on a lane. -/
def State.mortarIn (s : State) (l : Nat) (h : MortarHdr) (b : MortarBody) : State :=
  if !s.lanesRun then s
  else match b with
    | .ident .. => if h.crc = crc32c (mortarBytes h b) then s.acceptMortar l h b else s.bump 0x21608
    | _ => match s.laneReceive l h b with
      | (s, .accept) => s.acceptMortar l h b
      | (s, .discard) => s
      | (s, .silence) => s.laneSilent l

end Sys2Proof.Machine
end

