-- ==== Sys2Proof/Machine/Ports.lean ====
section
/-! DEFINITION. The requests of the target port as commands (R395 to R398, R469): what each one is in the window, and what it
does when the block serves it. -/

namespace Sys2Proof.Machine

/-! ### Reads that act or stall -/

/-- A read of a pool window's result (R355): it stalls until the request completes. -/
def State.poolRead (s : State) (c : Fin 16) : State :=
  let w := s.poolWindow c
  if w.done then s.answer w.result else (s.setPoolWindow c { w with stalled := w.stalled ++ [s.port.tag] }).stall

/-- The host reads this queue through its window (R356, R360). -/
def State.hostReads (s : State) (q : Nat) : Bool := 0x40 ≤ q && s.qConsumer q == 0

/-- A read at offset 0x00 of a queue window: 8 B, or it returns 0 (R360). -/
def State.queueHeader (s : State) (q : Nat) (size : BitVec 3) : State :=
  if s.hostReads q && size = 3 then s.headerRead q else s.answer 0

/-- A read at offset 0x10 of a queue window: 8 or 16 B, or it returns 0 (R360). -/
def State.queueBytes (s : State) (q : Nat) (size : BitVec 3) : State :=
  if s.hostReads q && (size = 3 || size = 4) then s.dataRead q (2 ^ size.toNat) else s.answer 0

/-- A read of the session table window (R211); another offset is none of its. -/
def State.sessionPort (s : State) (off : Nat) (size : BitVec 3) : State :=
  if 0x40000 ≤ off ∧ off < 0x80000 ∧ off % 2 ^ size.toNat = 0 then s.readSession off size.toNat else s.answer 0

/-- A read at a tile pop address: 32 B, or it returns 0 (R117). -/
def State.pop (s : State) (p : Fin 16) (size : BitVec 3) : State := if size = 5 then s.popTile p else s.answer 0

/-- A DATA write of 8 to 64 B (R359). -/
def State.queueWrite (s : State) (c : Fin 16) (b : List Byte) : State :=
  if b.length = 8 ∨ b.length = 16 ∨ b.length = 32 ∨ b.length = 64 then s.writePush c.val (.data b) else s.ok

/-! ### Offsets of the commands' registers -/

def progOff (p : Fin 16) : Nat := 0xE000 + 0x80 * p.val
def poolOff (c : Fin 16) : Nat := 0xC800 + 0x20 * c.val
def pushOff (c : Fin 16) : Nat := 0xE0000 + 0x200 * c.val
def layoutOff (c : Fin 16) : Nat := 0xFE000 + 0x100 * c.val
def targetOff (t : Fin 16) : Nat := 0xB000 + 0x80 * t.val

/-- A 4-byte write. -/
def State.write4 (s : State) (off : Nat) (v : BitVec 32) : State := s.portWrite off 2 v.toNat

/-- A layout request record with the KIND of its row (R181). -/
def layoutRecord (kind : Nat) (body : BitVec 512) : Nat :=
  ofLe (setAt (leBytes 64 body.toNat) 0x3C (BitVec.ofNat 8 kind))

/-- A write of PROG_CTRL that holds LOAD and nothing else; `failed` is the read that the host port does not answer with OK (R205 reason 11). -/
def State.loadWrite (s : State) (p : Fin 16) (v : BitVec 32) (failed : LoadRead) : State :=
  if field v.toNat 0 3 = 1 then (s.write4 (progOff p + 8) (v - 1)).loadProgram p (some failed) else s.write4 (progOff p + 8) v

/-- The n words of the head/tail cache that answer a read: SECDED finds some of them wrong, and one that cannot be corrected is free (R436; DESIGN
CHOICE, log entry 110). A stalled read has met none yet. -/
def State.readCache (s : State) (n : Nat) (finds : List ReadFind) : State :=
  if s.port.stalled then s
  else (s.foundWords 5 13 finds).each (finds.filter (·.hard)) (fun s f =>
    let at_ := 64 * (f.word.toNat % n)
    let old := s.port.data &&& ~~~(BitVec.ofNat 512 ((2 ^ 64 - 1) * 2 ^ at_))
    ({ s with port := { s.port with data := old ||| BitVec.ofNat 512 ((Config.lostWord s.freeCtr 0).toNat * 2 ^ at_) } } : State).useFree)

/-- What a target request does when it is served. A command that is none does nothing here. -/
def State.serve (s : State) (i : Instr) : State :=
  match i with
  | .load p v none => s.write4 (progOff p + 8) v
  | .load p v (some failed) => s.loadWrite p v failed
  | .start p v => s.write4 (progOff p + 8) v
  | .stop p v => s.write4 (progOff p + 8) v
  | .chunkReadyDoorbell p v => (s.ringProgram p 0x30 v).ok
  | .tilePop p size finds => (s.pop p size).readCache 4 finds
  | .tileDoneDoorbell p v => (s.ringProgram p 0x20 v).ok
  | .sharedReadyDoorbell p v => (s.ringProgram p 0x28 v).ok
  | .collectiveReadyDoorbell p v => (s.ringProgram p 0x38 v).ok
  | .signalDoorbell size v => (s.ringSignal size v).ok
  | .sourceConfigWrite w => s.portWrite w.off.toNat w.size.toNat w.data.toNat
  | .setPending v => s.write4 0xB800 v
  | .clearPending v => s.write4 0xB804 v
  | .eoi t v => s.write4 (targetOff t + 0x1C) v
  | .sessionWindowWrite w => s.portWrite w.off.toNat w.size.toNat w.data.toNat
  | .sessionWindowRead off size finds => (s.readSessions 18 finds).sessionPort off.toNat size
  | .createDescriptor c body => s.portWrite (layoutOff c) 6 (layoutRecord 1 body)
  | .registerAllocation c body => s.portWrite (layoutOff c) 6 (layoutRecord 2 body)
  | .releaseDescriptor c body => s.portWrite (layoutOff c) 6 (layoutRecord 3 body)
  | .releaseAllocation c body => s.portWrite (layoutOff c) 6 (layoutRecord 4 body)
  | .layoutResultRead c => s.layoutRead c
  | .poolRequest c v => s.portWrite (poolOff c) 3 v.toNat
  | .poolResultRead c => s.poolRead c
  | .poolAddressRead c => s.poolAddress c
  | .poolFree c h => s.portWrite (poolOff c + 0x18) 2 h.toNat
  | .queueStart c v => s.portWrite (pushOff c) 3 v.toNat
  | .queueData c b => s.queueWrite c b
  | .queueHeaderRead q size finds => (s.queueHeader q.toNat size).readCache 1 finds
  | .queueDataRead q size finds => (s.queueBytes q.toNat size).readCache 2 finds
  | .flush v => s.write4 0xD010 v
  | .qConfigWrite w => s.portWrite w.off.toNat w.size.toNat w.data.toNat
  | .releaseFirst v => s.write4 0x20008 v
  | .releaseEsc v => s.write4 0x20008 v
  | .admitWrite v => s.write4 0x3044 v
  | .arm v => s.write4 0xE844 v
  | .deepReq v => s.write4 0x1004 v
  | .registerWrite w => s.portWrite w.off.toNat w.size.toNat w.data.toNat
  | _ => s

/-- A target request arrives. -/
def State.request (s : State) (i : Instr) : State := s.gatePort i (fun s => s.serve i)

/-- A doorbell write arrives. -/
def State.bell (s : State) (i : Instr) (b : KeptBell) : State := s.gateBell i b (fun s => s.ringKept b)

end Sys2Proof.Machine
end

