-- ==== Sys2Proof/Machine/Wake.lean ====
section
/-! DEFINITION. What a received payload does (R247, R336), the end of sleep (R384, R385, R398, R403, R462, R464), and the responses of the
host port (R392, R394). -/

namespace Sys2Proof.Machine

/-! ### Frames -/

/-- An accepted payload. -/
def State.takePayload (s : State) (h : FrameHdr) (p : Payload) : State :=
  match p with
  | .bulk b => if b.kind = 1 then s.answerBulk b else if b.kind = 2 then s.takeBulk h.src b else s
  | .sync y => s.receiveSync h.src y
  | .ack => s
  | p => s.takeItem h p

/-- A cut-through copy of a cell that a mirror has begun to forward on a port when the incoming frame fails its hop check (R118, R246): it
ends with the complement of its FRAME_CRC, so that its receiver discards it. It carries the number that the pair's next frame will have. -/
def State.emitCut (s : State) (port : Fin 16) (m : MemberId) (c : DispatchCell) : State :=
  let o := s.frameOut port m 2 (s.pair (pairKey m 2)).nextSeq false (.cells [.dispatch c]) (s.ackVcFor m 2)
  (s.sent { o with crc := ~~~o.crc }).bump 0x21730

/-- A mirror forwards this cell before the whole frame is in (R118, R400): CT_BYTES is set and that much of the cell has come, and the port
that it came on is at least as fast as the port that it leaves on, where its channel is not paused. -/
def State.cutPort (s : State) (ingress : Fin 16) (m : MemberId) (c : DispatchCell) : Option (Fin 16) :=
  let d := s.dispatchBlock
  if d.ctBytes = 0 || cellBytes (.dispatch c) < d.ctBytes then none
  else match s.choosePort m 2 with
    | none => none
    | some p =>
      let k := s.mac p.val
      if (k.rate800 && !(s.mac ingress.val).rate800) || bit k.pause.toNat (s.pcp 2) then none else some p

/-- A frame that fails its hop check after a mirror has begun to forward its cells (R118): the copies begun are ended so that they are
discarded; the cells go again with the frame that is sent again. -/
def State.cutThrough (s : State) (h : FrameHdr) (p : Payload) : State :=
  match p with
  | .cells cs =>
    if !(s.boot.ready && s.awake) || (frameGood s h p && !h.fcsErr) || !(s.wireOk h) || !(s.portEnable h.port.val) then s
    else s.each cs (fun s c => match c with
      | .dispatch x =>
        let key := (x.h.source.toNat, x.token.toNat, x.cell.toNat)
        if s.judge x.h.gen x.h.layer x.h.attempt ≠ .use || !(s.mirrorsFor h.src x) || s.att.fanned.contains key then s
        else s.each (s.fanHops x) (fun s m => match s.cutPort h.port m x with
          | some port => s.emitCut port m x
          | none => s)
      | _ => s)
  | _ => s

/-- A frame arrives on a fabric port. -/
def State.frameIn (s : State) (h : FrameHdr) (p : Payload) : State := (s.cutThrough h p).receive h p (fun s => s.takePayload h p)

/-- What a block requester does with the buffer that it waited for (R347, R351). -/
def State.runJob (s : State) (j : PoolJob) (handle : Nat) : State :=
  match j with
  | .frame h p => s.receiveStaged h p handle (fun s => s.takePayload h p)
  | .fanOut c => s.fanCell c (some handle)
  | .egress m => s.egressGranted m handle
  | .scoring c => s.scoreGranted c handle

/-- A waiting request of a class is served (R351). -/
def State.grantWaiting (s : State) (pool cls : Nat) : State :=
  match s.serveWaiting pool cls with
  | (s, none) => s
  | (s, some (j, h)) => (s.runJob j h).close

/-- The fabric ports run: the block is powered and not held. -/
def State.portsRun (s : State) : Bool := s.boot.powered && !s.held

/-! ### Waking (R384, R385, R403, R462, R464) -/

/-- A request that kept its tag while the core slept is served: its answer comes late (R398). -/
def State.serveLate (s : State) (x : Nat × Instr) : State :=
  let port := s.port
  let s := ({ s with port := { tag := x.1 } } : State).serve x.2
  { s with port := port, late := if s.port.stalled then s.late else s.late ++ [s.port] }

/-- What the target port accepted while the core slept, doorbells and other requests in the order of acceptance (R477). -/
def State.keptRequests (s : State) : List (Nat × (KeptBell ⊕ Instr)) :=
  sortBy (·.1) (s.power.kept.map (fun x => (x.1, .inl x.2)) ++ s.power.heldReqs.map (fun x => (x.1, .inr x.2)))

/-- A request accepted in sleep is served. -/
def State.serveKept (s : State) (x : Nat × (KeptBell ⊕ Instr)) : State :=
  match x.2 with
  | .inl b => s.ringKept b
  | .inr i => s.serveLate (x.1, i)

/-- The core runs again: target requests in order of acceptance, the mortar messages that arrived, then the buffered frames in order of arrival
(R477; that messages come before frames is DEDUCED, log entry 49). -/
def State.resume (s : State) : State :=
  let reqs := s.keptRequests
  let msgs := s.power.rxMortar
  let frames := s.power.rxBuffer
  let s : State := { s.running with power := { s.running.power with kept := [], heldReqs := [], rxMortar := [], rxBuffer := [] } }
  let s := s.each (List.range 16) (fun s p => s.setMac p { s.mac p with pauseReq := 0 })
  let s := s.updatePause.arbitrateAll
  let s := s.each reqs State.serveKept
  let s := s.each msgs (fun s x => s.handleMortar x.1 x.2.1 x.2.2)
  s.each frames (fun s x => s.frameIn x.1 x.2)

/-- A block in light sleep that holds a release is awake before its T_REL (R462): a root whose own arrival was the last (DEDUCED, log entry 47). -/
def State.wakeRelease (s : State) : State :=
  match s.mortar.bar.release with
  | some r => if s.power.state = .light && s.boot.powered && !s.held then (s.until r.tRel.toNat).resume else s
  | none => s

/-- A set latch has brought the block out of light sleep (R462). -/
def State.wakeLight (s : State) : State :=
  if s.power.state = .light && s.waking && s.boot.powered && !s.held then s.resume else s

/-- A set latch has brought the block out of deep sleep (R464): the save area is read back, then the core runs. -/
def State.wakeDeep (s : State) : State :=
  if s.power.state = .deep && s.waking && s.boot.powered && !s.held then s.restoreSaved.resume else s

/-! ### Host port responses (R394) -/

/-- A status outside an attempt, a move and a LOAD: recorded only (R438). -/
def State.recordStatus (s : State) (st : HostStatus) : State :=
  match st with
  | .ok => s
  | .dataErr => s.raise Code.sramUncorrectable { unit := 18, noPass := true }
  | .decodeErr => s.raise Code.illegalInstruction { unit := 18, noPass := true }

/-- A status within an attempt: its vote fails, or the common abort follows. -/
def State.attemptStatus (s : State) (st : HostStatus) : State :=
  match st with
  | .ok => s
  | .dataErr => s.raise Code.sramUncorrectable { unit := 18 }
  | .decodeErr => s.raise Code.illegalInstruction { unit := 18 }

/-- A status other than OK on a read of a LOAD that has accepted the program and has not been followed by START: the load is refused with reason 11
(R205). The read that a LOAD meets while it runs comes with the command (log entry 102). -/
def State.loadStatus (s : State) (p : Fin 16) (index : Nat) (entry : Bool) (st : HostStatus) : State :=
  let g := s.prog p
  if st = .ok || g.state ≠ .loaded then s
  else s.refuseLoad p { reason := 11, index := index, entry := entry }

/-- A write of the save area fails: the entry into deep sleep is not made, and the block serves what it kept (R394, R384). -/
def State.saveStatus (s : State) (st : HostStatus) : State :=
  if st = .ok || s.power.state ≠ .deep then s
  else
    let s : State := { s with power := { s.power with deepRefused := true, pllLock := true } }
    (s.resume.uncount 0x21828 1).recordStatus st

/-- The status of a read by those of its beats (R394). -/
def readStatus (beats : List HostStatus) : HostStatus :=
  if beats.contains .decodeErr then .decodeErr else if beats.contains .dataErr then .dataErr else .ok

/-- A read's response. -/
def State.readResponse (s : State) (ctx : HostCtx) (st : HostStatus) : State :=
  match ctx with
  | .attempt => s.attemptStatus st
  | .tile _ => s.attemptStatus st
  | .chunk _ _ => s.attemptStatus st
  | .descriptor _ => s.recordStatus st
  | .move p l e staging => s.moveRead p l.toNat e.toNat staging st
  | .load p index entry => s.loadStatus p index.toNat entry st
  | .save => s.recordStatus st
  | .other => s.recordStatus st

/-- A write's response. The writes of a tile's rows and of a chunk have completed with it (R115, R284, R392). -/
def State.writeResponse (s : State) (ctx : HostCtx) (st : HostStatus) : State :=
  let s := s.hostAnswered ctx
  match ctx with
  | .attempt => s.attemptStatus st
  | .tile r => if st = .ok then s.tileWritten r.toNat else s.attemptStatus st
  | .chunk op c => if st = .ok then s.chunkWritten op.toNat c.toNat else s.attemptStatus st
  | .descriptor h => if st = .ok then s else (s.damageDesc h.toNat).recordStatus st
  | .move p l e staging => s.moveWrite p l.toNat e.toNat staging st
  | .load _ _ _ => s
  | .save => s.saveStatus st
  | .other => s.recordStatus st

/-- The host port's reset (R413): a response lost on the initiator side acts as DATA_ERR (R394); `lost` says which, a read's where the first
component holds. -/
def State.hostPortReset (s : State) (lost : List (Bool × HostCtx)) : State :=
  let s := s.hostReset
  if s.portsRun then s.each lost (fun s x => if x.1 then s.readResponse x.2 .dataErr else s.writeResponse x.2 .dataErr) else s

/-! ### Links (R261, R399) -/

/-- MAC_LINK_UP rises at a rate: the hold time starts. -/
def State.portUp (s : State) (p : Fin 16) (rate800 : Bool) : State :=
  let k := s.mac p.val
  if k.linkUp then s.setMac p.val { k with rate800 := rate800 }
  else s.setMac p.val { k with linkUp := true, rate800 := rate800, upSince := s.tb, inSet := false }

/-- The reset of a fabric port's domain (R412): the frames in its receive buffer go, and with them the pause that the buffer requests while the
core sleeps (R403). What the core requests by inbound staging (R252) stands again once the reset is released. -/
def State.resetPort (s : State) (p : Fin 16) : State :=
  let s := if s.awake then s else s.setMac p.val { s.mac p.val with pauseReq := 0 }
  { s with power := { s.power with rxBuffer := s.power.rxBuffer.filter (fun x => x.1.port != p) } }

end Sys2Proof.Machine
end

