-- ==== Sys2Proof/Machine/ExecEngines.lean ====
section
/-! DEFINITION. The commands of the engines (02 to 08, 12, 14): an engine starts the instruction at the head of its queue, when that is the
command's, its inputs are complete and its planned start has come (R217 to R219, R228). -/

namespace Sys2Proof.Machine

/-- NORM (R22). -/
def execNorm (s : State) : Result := .next (s.runOp Op.norm).close

/-- SCORE (R36). -/
def execScore (s : State) (errs : List ColumnError := []) (finds : List ReadFind := []) : Result :=
  .next (s.runOp Op.score { errs := errs, finds := finds }).close

/-- RESCORE (R43). -/
def execRescore (s : State) (finds : List ReadFind := []) : Result := .next (s.runOp Op.rescore { finds := finds }).close

/-- SELECT (R56). -/
def execSelect (s : State) (finds : List ReadFind := []) : Result := .next (s.runOp Op.select { finds := finds }).close

/-- COUNT (R76). -/
def execCount (s : State) : Result := .next (s.runOp Op.count).close

/-- GRANT (R80). -/
def execGrant (s : State) : Result := .next (s.runOp Op.grant).close

/-- SORT (R104). -/
def execSort (s : State) : Result := .next (s.runOp Op.sort).close

/-- DISPATCH (R108). -/
def execDispatch (s : State) : Result := .next (s.runOp Op.dispatch).close

/-- TILES (R115). -/
def execTiles (s : State) : Result := .next (s.runOp Op.tiles).close

/-- RETURN (R130). -/
def execRet (s : State) : Result := .next (s.runOp Op.ret).close

/-- COMBINE (R139). -/
def execCombine (s : State) (finds : List ReadFind := []) : Result := .next (s.runOp Op.combine { finds := finds }).close

/-- COMBINE_AR (R271). -/
def execCombineAr (s : State) (finds : List ReadFind := []) : Result := .next (s.runOp Op.combineAr { finds := finds }).close

/-- REDUCE_AR (R271). -/
def execReduceAr (s : State) (finds : List ReadFind := []) : Result := .next (s.runOp Op.reduceAr { finds := finds }).close

/-- STATS (R330). -/
def execStats (s : State) (finds : List ReadFind := []) : Result := .next (s.runOp Op.stats { finds := finds }).close

/-- MOVE CONVERT (R188). -/
def execConvert (s : State) : Result := .next (s.runRecord Op.move opConvert).close

/-- MOVE TRANSPOSE (R195). -/
def execTranspose (s : State) (finds : List ReadFind := []) : Result := .next (s.runRecord Op.move opTranspose { finds := finds }).close

/-- MOVE SCATTER (R190). -/
def execScatter (s : State) : Result := .next (s.runRecord Op.move opScatter).close

/-- MOVE GATHER (R187). -/
def execGather (s : State) : Result := .next (s.runRecord Op.move opGather).close

/-- MOVE BLOCKS_OUT (R192). -/
def execBlocksOut (s : State) : Result := .next (s.runRecord Op.move opBlocksOut).close

/-- MOVE BLOCKS_IN (R192). -/
def execBlocksIn (s : State) : Result := .next (s.runRecord Op.move opBlocksIn).close

/-- MOVE ROUTER_QUANTISE (R31). -/
def execRouterQuantise (s : State) : Result := .next (s.runRecord Op.move opRouter).close

/-- FUNC MAP (R162). -/
def execMap (s : State) (finds : List ReadFind := []) : Result := .next (s.runRecord Op.func 0 { finds := finds }).close

/-- FUNC GATE_ACT (R160). -/
def execGateAct (s : State) (finds : List ReadFind := []) : Result := .next (s.runRecord Op.func 1 { finds := finds }).close

/-- FUNC SOFTMAX (R161). -/
def execSoftmax (s : State) (finds : List ReadFind := []) : Result := .next (s.runRecord Op.func 2 { finds := finds }).close

/-- FETCH (R339). -/
def execFetch (s : State) : Result := .next (s.runOp Op.fetch).close

end Sys2Proof.Machine
end

