-- ==== Sys2Proof/Machine/ExecFabric.lean ====
section
/-! DEFINITION. The commands of the fabric port: frames received (R246 to R260), links (R261) and pause (R252). -/

namespace Sys2Proof.Machine

/-! ### Frames -/

/-- A count message (R76 to R79, R90). -/
def execCountMessage (h : FrameHdr) (m : ExchMsg) (s : State) : Result := .next (s.frameIn h (.count m)).close

/-- A grant message (R80, R81). -/
def execGrantMessage (h : FrameHdr) (m : ExchMsg) (s : State) : Result := .next (s.frameIn h (.grant m)).close

/-- A frame of manifest cells (R111, R112). -/
def execManifest (h : FrameHdr) (cs : List Cell) (s : State) : Result := .next (s.frameIn h (.cells cs)).close

/-- A frame of dispatch cells (R109, R110, R112). -/
def execDispatchCell (h : FrameHdr) (cs : List Cell) (s : State) : Result := .next (s.frameIn h (.cells cs)).close

/-- A cell request (R248). -/
def execCellRequest (h : FrameHdr) (rs : List CellReq) (s : State) : Result := .next (s.frameIn h (.cellRequest rs)).close

/-- A frame of return cells (R131, R135); `finds` is what the reads of the combine store for it find (R436). -/
def execReturnCell (h : FrameHdr) (cs : List Cell) (s : State) (finds : List ReadFind := []) : Result :=
  .next ((s.readAccums finds).frameIn h (.cells cs)).close

/-- A frame of rack partial cells (R146); `finds` as for a frame of return cells. -/
def execRackPartial (h : FrameHdr) (cs : List Cell) (s : State) (finds : List ReadFind := []) : Result :=
  .next ((s.readAccums finds).frameIn h (.cells cs)).close

/-- A gate note (R145). -/
def execGateNote (h : FrameHdr) (n : GateNote) (s : State) : Result := .next (s.frameIn h (.gateNote n)).close

/-- A window note (R148). -/
def execWindowNote (h : FrameHdr) (n : WindowNote) (s : State) : Result := .next (s.frameIn h (.windowNote n)).close

/-- A COLLECTIVE frame (R277, R281); `finds` is what the reads of the reduction buffer for it find (R283). -/
def execCollective (h : FrameHdr) (c : CollFrame) (s : State) (finds : List ReadFind := []) : Result :=
  .next ((s.readBuffer c.opseq.toNat finds).frameIn h (.coll c)).close

/-- A BULK request (R336). -/
def execBulkRequest (h : FrameHdr) (b : BulkFrame) (s : State) : Result := .next (s.frameIn h (.bulk b)).close

/-- A BULK data frame (R336). -/
def execBulkData (h : FrameHdr) (b : BulkFrame) (s : State) : Result := .next (s.frameIn h (.bulk b)).close

/-- An ACK frame (R256). -/
def execAck (h : FrameHdr) (s : State) : Result := .next (s.frameIn h (.ack)).close

/-- A SYNC frame (R260). -/
def execSync (h : FrameHdr) (y : SyncBody) (s : State) : Result := .next (s.frameIn h (.sync y)).close

/-! ### Links -/

/-- MAC_LINK_UP falls (R261). -/
def execLinkDown (p : Fin 16) (s : State) : Result := .next (if s.portsRun then s.portDown p else s)

/-- MAC_LINK_UP rises (R261, R399). -/
def execLinkUp (p : Fin 16) (rate800 : Bool) (s : State) : Result := .next (if s.portsRun then s.portUp p rate800 else s)

/-- The port rejoins its set (R261). -/
def execLinkHoldExpiry (p : Fin 16) (s : State) : Result := .next (if s.portsRun then s.portHold p else s)

/-- The pause status of a port changes (R252, R402). -/
def execPauseStatusChange (p : Fin 16) (status : BitVec 8) (s : State) : Result :=
  .next (if s.portsRun then s.portPause p status else s)

/-- A fabric port's reset: its link counts as down (R413, R261), and its domain is reset (R412). -/
def execMacRstN (p : Fin 16) (s : State) : Result := .next ((if s.portsRun then s.portDown p else s).resetPort p)

end Sys2Proof.Machine
end

