-- ==== Sys2Proof/Machine/ExecMortar.lean ====
section
/-! DEFINITION. The commands of the mortar network (R298 to R318, R424 to R428), of the keystone barrier
(R309) and of the schedule (R226). -/

namespace Sys2Proof.Machine

/-! ### Messages -/

/-- IDENT (R298). -/
def execIdent (l : Fin 6) (h : MortarHdr) (member : MemberId) (role : BitVec 8) (pos : BitVec 16) (s : State) : Result :=
  .next (s.mortarIn l h (.ident member role pos)).close

/-- HEARTBEAT (R301, R312). -/
def execHeartbeat (l : Fin 6) (h : MortarHdr) (s : State) : Result := .next (s.mortarIn l h (.heartbeat)).close

/-- NAK (R301). -/
def execNak (l : Fin 6) (h : MortarHdr) (s : State) : Result := .next (s.mortarIn l h (.nak)).close

/-- CAL_REQ (R304). -/
def execCalReq (l : Fin 6) (h : MortarHdr) (t1 : BitVec 64) (s : State) : Result := .next (s.mortarIn l h (.calReq t1)).close

/-- CAL_RESP (R304, R424). -/
def execCalResp (l : Fin 6) (h : MortarHdr) (t1 t2 t3 : BitVec 64) (s : State) : Result :=
  .next (s.mortarIn l h (.calResp t1 t2 t3)).close

/-- ARRIVE (R307). -/
def execArrive (l : Fin 6) (h : MortarHdr) (a : ArriveBody) (s : State) : Result := .next (s.mortarIn l h (.arrive a)).close

/-- RELEASE (R308). -/
def execRelease (l : Fin 6) (h : MortarHdr) (r : ReleaseBody) (s : State) : Result := .next (s.mortarIn l h (.release r)).close

/-- ABORT (R288). -/
def execAbort (l : Fin 6) (h : MortarHdr) (a : AbortBody) (s : State) : Result := .next (s.mortarIn l h (.abort a)).close

/-- REDUCE (R280). -/
def execReduce (l : Fin 6) (h : MortarHdr) (r : ReduceBody) (s : State) : Result := .next (s.mortarIn l h (.reduce r)).close

/-- SUSPECT (R314). -/
def execSuspect (l : Fin 6) (h : MortarHdr) (member : MemberId) (role : BitVec 8) (s : State) : Result :=
  .next (s.mortarIn l h (.suspect member role)).close

/-- LOST (R92, R311). -/
def execLost (l : Fin 6) (h : MortarHdr) (member : MemberId) (membVer : BitVec 16) (s : State) : Result :=
  .next (s.mortarIn l h (.lost member membVer)).close

/-- REHOME (R315). -/
def execRehome (l : Fin 6) (h : MortarHdr) (mask : BitVec 4) (membVer : BitVec 16) (s : State) : Result :=
  .next (s.mortarIn l h (.rehome mask membVer)).close

/-- ADMIT (R428). -/
def execAdmitMsg (l : Fin 6) (h : MortarHdr) (member : MemberId) (membVer : BitVec 16) (s : State) : Result :=
  .next (s.mortarIn l h (.admitMsg member membVer)).close

/-- STATE (R428). -/
def execStateMsg (l : Fin 6) (h : MortarHdr) (b : StateBody) (s : State) : Result := .next (s.mortarIn l h (.state b)).close

/-! ### Lanes and calibration -/

/-- HEARTBEAT is sent on every trained lane (R312). -/
def execHeartbeatTick (s : State) : Result := .next (if s.lanesRun then s.heartbeats else s)

/-- CAL_REQ to each trained parent (R304). -/
def execCalibrationTick (s : State) : Result := .next (if s.lanesRun then s.calibrate else s)

/-- No message for 15,250 tb (R312, R313). -/
def execLaneSilence (l : Fin 6) (s : State) : Result :=
  .next (if s.lanesRun then (s.until ((s.lane l).lastRx + 15250)).laneSilent l else s).close

/-- A lane still untrained 10 ms after pass 1 (R424). -/
def execLaneTrainTimeout (l : Fin 6) (s : State) : Result := .next (if s.lanesRun then s.laneUntrained l else s).close

/-! ### Barrier and slots -/

/-- The timebase reaches T_REL (R309). -/
def execKeystoneRelease (s : State) : Result := .next s.wakeRelease.keystone.close

/-- The timebase reaches T_next (R226). -/
def execSlotOpen (s : State) : Result := .next (if s.awake then s.openSlot else s).close

/-- The timebase reaches JOIN_WAIT_TB (R425). -/
def execJoinWaitExpiry (s : State) : Result := .next (if s.lanesRun then s.joinExpiry else s)

end Sys2Proof.Machine
end

