-- ==== Sys2Proof/Machine/ExecPort.lean ====
section
/-! DEFINITION. The commands of the target port (R395 to R398, R469): what each does when the block serves it is `State.serve`, and what
stands before it `State.gatePort` (R384, R398). -/

namespace Sys2Proof.Machine

/-! ### Programs and doorbells -/

/-- LOAD (R204, R205). -/
def execLoad (p : Fin 16) (v : BitVec 32) (s : State) (failed : Option LoadRead := none) : Result := .next (s.request (.load p v failed))

/-- START (R204). -/
def execStart (p : Fin 16) (v : BitVec 32) (s : State) : Result := .next (s.request (.start p v))

/-- STOP (R204). -/
def execStop (p : Fin 16) (v : BitVec 32) (s : State) : Result := .next (s.request (.stop p v))

/-- Chunk-ready doorbell (R212). -/
def execChunkReadyDoorbell (p : Fin 16) (v : BitVec 32) (s : State) : Result :=
  .next (s.bell (.chunkReadyDoorbell p v) (.chunk p v)).close

/-- Tile pop (R117). -/
def execTilePop (p : Fin 16) (size : BitVec 3) (s : State) (finds : List ReadFind := []) : Result :=
  .next (s.request (.tilePop p size finds))

/-- Tile-done doorbell (R15, R117). -/
def execTileDoneDoorbell (p : Fin 16) (v : BitVec 32) (s : State) : Result :=
  .next (s.bell (.tileDoneDoorbell p v) (.tileDone p v)).close

/-- Shared-ready doorbell (R142). -/
def execSharedReadyDoorbell (p : Fin 16) (v : BitVec 32) (s : State) : Result :=
  .next (s.bell (.sharedReadyDoorbell p v) (.shared p v)).close

/-- Collective-ready doorbell (R272). -/
def execCollectiveReadyDoorbell (p : Fin 16) (v : BitVec 32) (s : State) : Result :=
  .next (s.bell (.collectiveReadyDoorbell p v) (.coll p v)).close

/-! ### Signal unit -/

/-- Signal doorbell (R373). -/
def execSignalDoorbell (size : BitVec 3) (v : BitVec 32) (s : State) : Result :=
  .next (s.bell (.signalDoorbell size v) (.signal size v))

/-- A write of a source's configuration (R375 to R377, R387). -/
def execSourceConfigWrite (w : PortWrite) (s : State) : Result := .next (s.request (.sourceConfigWrite w))

/-- SET_PENDING (R379). -/
def execSetPending (v : BitVec 32) (s : State) : Result := .next (s.request (.setPending v))

/-- CLEAR_PENDING (R379). -/
def execClearPending (v : BitVec 32) (s : State) : Result := .next (s.request (.clearPending v))

/-- EOI (R382). -/
def execEoi (t : Fin 16) (v : BitVec 32) (s : State) : Result := .next (s.request (.eoi t v))

/-! ### Session table window -/

/-- A write of the session table window (R211). -/
def execSessionWindowWrite (w : PortWrite) (s : State) : Result := .next (s.request (.sessionWindowWrite w))

/-- A read of the session table window (R211). -/
def execSessionWindowRead (off : BitVec 20) (size : BitVec 3) (s : State) (finds : List ReadFind := []) : Result :=
  .next (s.request (.sessionWindowRead off size finds))

/-! ### Layout requests -/

/-- CREATE_DESCRIPTOR (R183). -/
def execCreateDescriptor (c : Fin 16) (body : BitVec 512) (s : State) : Result := .next (s.request (.createDescriptor c body))

/-- REGISTER_ALLOCATION (R177, R184). -/
def execRegisterAllocation (c : Fin 16) (body : BitVec 512) (s : State) : Result :=
  .next (s.request (.registerAllocation c body))

/-- RELEASE_DESCRIPTOR (R182). -/
def execReleaseDescriptor (c : Fin 16) (body : BitVec 512) (s : State) : Result := .next (s.request (.releaseDescriptor c body))

/-- RELEASE_ALLOCATION (R184). -/
def execReleaseAllocation (c : Fin 16) (body : BitVec 512) (s : State) : Result := .next (s.request (.releaseAllocation c body))

/-- A read of RESULT (R181). -/
def execLayoutResultRead (c : Fin 16) (s : State) : Result := .next (s.request (.layoutResultRead c))

/-! ### Pools and queues -/

/-- A buffer request (R355). -/
def execPoolRequest (c : Fin 16) (v : BitVec 64) (s : State) : Result := .next (s.request (.poolRequest c v))

/-- A read of the result (R355). -/
def execPoolResultRead (c : Fin 16) (s : State) : Result := .next (s.request (.poolResultRead c))

/-- A read of the buffer address (R355). -/
def execPoolAddressRead (c : Fin 16) (s : State) : Result := .next (s.request (.poolAddressRead c))

/-- A free (R353). -/
def execPoolFree (c : Fin 16) (handle : BitVec 32) (s : State) : Result := .next (s.request (.poolFree c handle))

/-- START in a push window (R359). -/
def execQueueStart (c : Fin 16) (v : BitVec 64) (s : State) : Result := .next (s.request (.queueStart c v))

/-- DATA in a push window (R359). -/
def execQueueData (c : Fin 16) (bytes : List Byte) (s : State) : Result := .next (s.request (.queueData c bytes))

/-- A header read (R360). -/
def execQueueHeaderRead (queue : BitVec 12) (size : BitVec 3) (s : State) (finds : List ReadFind := []) : Result :=
  .next (s.request (.queueHeaderRead queue size finds))

/-- A data read (R360). -/
def execQueueDataRead (queue : BitVec 12) (size : BitVec 3) (s : State) (finds : List ReadFind := []) : Result :=
  .next (s.request (.queueDataRead queue size finds))

/-- FLUSH of the queue that QUEUE_SEL selects (R365). -/
def execFlush (v : BitVec 32) (s : State) : Result := .next (s.request (.flush v))

/-- A write of a queue's configuration (R368). -/
def execQConfigWrite (w : PortWrite) (s : State) : Result := .next (s.request (.qConfigWrite w))

/-! ### Ledger and control -/

/-- RELEASE_FIRST (R439). -/
def execReleaseFirst (v : BitVec 32) (s : State) : Result := .next (s.request (.releaseFirst v))

/-- RELEASE_ESC (R439). -/
def execReleaseEsc (v : BitVec 32) (s : State) : Result := .next (s.request (.releaseEsc v))

/-- ADMIT (R427). -/
def execAdmitWrite (v : BitVec 32) (s : State) : Result := .next (s.request (.admitWrite v))

/-- ARM (R430). -/
def execArm (v : BitVec 32) (s : State) : Result := .next (s.request (.arm v))

/-- DEEP_REQ (R463). -/
def execDeepReq (v : BitVec 32) (s : State) : Result := .next (s.request (.deepReq v))

/-- A write of a register field (R396, R470). -/
def execRegisterWrite (w : PortWrite) (s : State) : Result := .next (s.request (.registerWrite w))

end Sys2Proof.Machine
end

