-- ==== Sys2Proof/Machine/ExecSequencer.lean ====
section
/-! DEFINITION. The commands of the sequencers (R216, R217, R221 to R225, R228): each runs one instruction at the sequencer's present
place. -/

namespace Sys2Proof.Machine

/-- INSTRUCTION_ISSUE (R217): the sequencer reads its next code word, and runs it itself or puts it into an engine's queue. -/
def execInstructionIssue (q : Fin 16) (s : State) : Result := .next (s.issue q).close

/-- NOP (R216): no effect but the sequencer's advance. -/
def execNop (q : Fin 16) (s : State) : Result := .next (s.seqNop q).close

/-- SLOT (R216, R228). -/
def execSlot (q : Fin 16) (offset : BitVec 32) (step : BitVec 16) (s : State) : Result :=
  .next (s.seqSlot q offset.toNat step.toNat).close

/-- WAIT ALL (R216): the sequencer goes on when every earlier instruction has completed. -/
def execWaitAll (q : Fin 16) (s : State) : Result := .next (s.seqWaitAll q).close

/-- WAIT TIME (R216). -/
def execWaitTime (q : Fin 16) (offset : BitVec 32) (s : State) : Result := .next (s.seqWaitTime q offset.toNat).close

/-- WAIT CHUNK (R212, R216). -/
def execWaitChunk (q : Fin 16) (ch : BitVec 9) (s : State) : Result := .next (s.seqWaitChunk q ch.toNat).close

/-- SEAL (R224, R289). -/
def execSeal (q : Fin 16) (source : BitVec 10) (fire : Bool) (s : State) : Result := .next (s.seqSeal q source.toNat fire).close

/-- LOOP (R223). -/
def execLoop (q : Fin 16) (sh : BitVec 21) (bound : BitVec 16) (body : BitVec 11) (s : State) : Result :=
  .next (s.seqLoop q sh.toNat bound.toNat body.toNat).close

/-- ENDLOOP (R223). -/
def execEndloop (q : Fin 16) (s : State) : Result := .next (s.seqEndloop q).close

/-- SHAPE COPY (R221): value and tag. -/
def execShapeCopy (q : Fin 16) (dst src : BitVec 21) (s : State) : Result :=
  .next (s.seqShape q dst.toNat src.toNat (fun v t => (v, t))).close

/-- SHAPE CHUNKS (R221): ceil(value / CHUNK_TOKENS) with tag 0x5101. -/
def execShapeChunks (q : Fin 16) (dst src : BitVec 21) (s : State) : Result :=
  .next (s.seqShape q dst.toNat src.toNat (fun v _ => (ceilDiv v s.chunkTokens, 0x5101))).close

/-- SIGNAL (R372, R374). -/
def execSignal (q : Fin 16) (source : BitVec 10) (s : State) : Result := .next (s.seqSignal q source.toNat).close

/-- HALT (R225). -/
def execHalt (q : Fin 16) (endProgram : Bool) (s : State) : Result := .next (s.seqHalt q endProgram).close

end Sys2Proof.Machine
end

