-- ==== Sys2Proof/Machine/View.lean ====
section
/-! DEFINITION. What the registers read (R203, R220, R236, R241, R263, R268, R294, R319, R320, R344, R370, R387, R435, R447, R466,
R473 to R475): the RO fields of every word of the control port window, and the value of a whole word. In the model's steps
only the test port reads them so: the table of commands has no row for a plain register read. -/

namespace Sys2Proof.Machine

/-! ### Words made of fields -/

/-- A value in a field: the value, its lowest bit and its width. -/
abbrev FieldVal := Nat × Nat × Nat

/-- The word whose fields hold the values. -/
def pack (l : List FieldVal) : Nat := l.foldl (fun n f => n + f.1 % 2 ^ f.2.2 * 2 ^ f.2.1) 0

/-- BOOT_PHASE's number (R435). -/
def BootPhase.num : BootPhase → Nat
  | .reset => 0 | .image => 1 | .selfTest => 2 | .load => 3 | .join => 4 | .joined => 5 | .admitted => 6 | .held => 7

/-- STATE's number (R203). -/
def ProgState.num : ProgState → Nat
  | .empty => 0 | .loaded => 1 | .running => 2 | .stopping => 3 | .stopped => 4 | .fault => 5

/-! ### Identity and capabilities (R473, R474) -/

/-- Programs in a state. -/
def State.progsIn (s : State) (x : ProgState) : Nat := bitsOf 16 (fun p => (s.prog (Fin.ofNat 16 p)).state == x)

/-- The state word at 0x0_0008. -/
def State.stateWord (s : State) : Nat :=
  pack [(s.boot.phase.num, 0, 4), (b2n s.boot.ready, 4, 1), (b2n s.held, 5, 1), (b2n s.boot.selfLost, 6, 1),
        (s.me.toNat, 8, 10), (b2n s.boot.memberValid, 18, 1), (s.progsIn .running, 32, 16), (s.progsIn .fault, 48, 16)]

/-- Words 0x0_0000 to 0x0_0038: the mirror of R473 shows the same ones. -/
def State.identityWord (s : State) (o : Nat) : Nat :=
  match o with
  | 0x00 => pack [(0xD053, 0, 16), (Config.mfr.toNat, 16, 11), (0x00030002, 32, 32)]
  | 0x08 => s.stateWord
  | 0x10 => pack [(1024, 0, 11), (512, 11, 10), (16, 21, 5), (16384, 26, 15), (128, 41, 8), (512, 49, 10)]
  | 0x18 => pack [(16, 0, 5), (16, 5, 5), (16, 10, 5), (6, 15, 3), (16, 18, 5), (64, 23, 7), (1024, 30, 11), (4096, 41, 13)]
  | 0x20 => pack [(16384, 0, 15), (4096, 15, 13), (16, 28, 5), (256, 33, 9), (8, 42, 4), (16384, 46, 15)]
  | 0x28 => pack [(48, 0, 8), (32, 8, 8), (16, 16, 8), (8, 24, 8), (4, 32, 8), (2, 40, 8), (2, 48, 8)]
  | 0x30 => pack [(0xF, 0, 4), (7, 4, 3), (3, 8, 2), (7, 10, 3), (7, 13, 3), (0xF, 16, 4), (600, 32, 16), (450, 48, 16)]
  | _ => 0

/-! ### Clocks, start and repair (R435, R466) -/

/-- The clock word. DEEP_REQ reads 1 until the entry is made, refused or cancelled, as DEEP_PENDING does. -/
def State.powerWord (s : State) : Nat :=
  pack [(b2n s.power.stepped, 0, 1), (b2n s.power.pllLock, 1, 1), (b2n s.power.sag, 2, 1), (b2n s.power.spreadActive, 3, 1),
        (b2n s.power.deepPending, 35, 1), (b2n s.power.deepPending, 36, 1), (b2n s.power.deepRefused, 37, 1)]

def State.repairWord (s : State) (i : Nat) : Nat :=
  let k := s.store i
  pack [(k.rows.toNat, 0, 16), (k.cols.toNat, 16, 8), (k.minRows, 24, 3), (k.minCols, 27, 3), (k.online.toNat, 32, 16)]

/-- RETIRED_COL_k and RETIRED_VALID_k. -/
def State.retiredHalf (s : State) (k : Nat) : Nat :=
  match s.boot.retired[k]? with
  | some c => c + 2 ^ 15
  | none => 0

def State.bootWord (s : State) (o : Nat) : Nat :=
  if o = 0x2000 then
    pack [(s.boot.phase.num, 0, 4), (s.boot.failCode.toNat, 4, 8), (s.boot.failSection.toNat, 12, 6), (s.boot.imageHcrc.toNat, 32, 32)]
  else if o = 0x2008 then s.boot.readyPlinth.toNat
  else if 0x2100 ≤ o ∧ o < 0x2140 then s.repairWord ((o - 0x2100) / 8)
  else if o = 0x2200 then
    pack [(s.boot.testColumn, 0, 10), (b2n s.boot.rotating, 10, 1), (s.boot.retired.length, 11, 5)]
  else if 0x2210 ≤ o ∧ o < 0x2230 then
    let k := (o - 0x2210) / 2
    pack ((List.range 4).map (fun i => (s.retiredHalf (k + i), 16 * i, 16)))
  else 0

/-! ### Timebase, barrier, lanes (R319, R320, R435) -/

def State.treeWord (s : State) (o : Nat) : Nat :=
  let c := s.mortar.cal
  let b := s.mortar.bar
  let t := s.mortar.tree
  match o with
  | 0x3000 => c.tb
  | 0x3008 => pack [(twos 32 c.offset, 32, 32)]
  | 0x3010 => pack [(twos 32 c.slewPpb, 0, 32), (twos 32 c.linkDelay, 32, 32)]
  | 0x3018 => pack [(c.pathDelay, 0, 32)]
  | 0x3020 => b.lastBn.toNat
  | 0x3028 => b.lastTRel.toNat
  | 0x3030 => pack [(b.maxLate, 0, 32), (s.myPos, 32, 10), (s.curParent.toNat, 42, 10), ((s.secParent.map BitVec.toNat).getD 0, 52, 10),
                    (b2n s.isRoot, 62, 1), (b2n t.rehomed, 63, 1)]
  | 0x3038 => t.membVer.toNat
  | 0x3040 => pack [(b2n b.admitPending, 33, 1), (b2n b.admitBlocked, 34, 1)]
  | _ => 0

def State.laneWord (s : State) (l : Nat) : Nat :=
  let k := s.lane l
  pack [(b2n k.trained, 32, 1), (b2n k.silent, 33, 1), (b2n k.mismatch, 34, 1), (k.partner.toNat, 35, 10)]

/-! ### Fabric and groups (R263, R268) -/

def State.fabricWord (s : State) : Nat :=
  let n := s.mortar.tree.roster.length
  pack [(bitsOf 16 (fun p => (s.mac p).linkUp), 0, 16), (bitsOf 16 s.inPortSet, 16, 16), (n, 32, 11),
        (b2n (decide (s.eff 0x500C 0 11 ≤ n)), 43, 1)]

def State.groupWord (s : State) : Nat :=
  let g := s.groupSel
  let ring := s.ringList g
  pack [(s.groupLen g, 0, 11), (ring.length, 11, 11), ((racksOf ring).length, 22, 3), (b2n (hierOk ring), 25, 1)]

/-- Four CUR_ENTRY fields. -/
def State.entryWord (s : State) (j : Nat) : Nat :=
  pack ((List.range 4).map (fun i => ((((s.groupList s.groupSel)[j + i]?).map BitVec.toNat).getD 0, 16 * i, 16)))

/-! ### Signal unit (R387) -/

def State.targetWord (s : State) (t o : Nat) : Nat :=
  let g := s.target t
  match o with
  | 0x10 =>
    pack [((g.stack.head?.map (·.1)).getD 0, 0, 10), (b2n (!g.stack.isEmpty), 10, 1), (g.stack.length, 11, 5),
          ((g.stack.head?.map (·.2)).getD 0, 16, 8), (g.presented.getD 0, 32, 10), (b2n g.presented.isSome, 42, 1)]
  | 0x18 => pack [(g.lastCount.toNat, 0, 16), (b2n g.lastSat, 16, 1)]
  | 0x20 => pack [((s.bank t).length, 0, 7), (b2n g.bankFull, 8, 1)]
  | _ => 0

def State.sourceWord (s : State) : Nat :=
  let n := s.reg 0xB808 0 10
  let b := s.source n
  let active := (s.target (s.srcTarget n)).stack.any (fun x => x.1 == n)
  pack [(b.count.toNat, 32, 16), (b2n b.pending, 48, 1), (b2n active, 49, 1), (b2n b.isOpen, 50, 1), (b2n b.sat, 51, 1)]

def State.signalWord (s : State) (o : Nat) : Nat :=
  if o < 0xB800 then s.targetWord ((o - 0xB000) / 0x80) (o % 0x80)
  else if o = 0xB808 then s.sourceWord
  else if o = 0xB810 then (s.source (s.reg 0xB808 0 10)).deadline % 2 ^ 64
  else if 0xB880 ≤ o ∧ o < 0xB900 then
    let w := (o - 0xB880) / 8
    bitsOf 64 (fun i => (s.source (64 * w + i)).pending)
  else 0

/-! ### Pools and queues (R370) -/

def State.poolWord (s : State) (o : Nat) : Nat :=
  match o with
  | 0xC028 =>
    let k := s.poolClass s.poolSel s.classSel
    pack [(k.used.length, 32, 13), (k.peak, 48, 13)]
  | 0xC030 => pack [(ceilDiv (s.usedBy s.reqSel) 1024, 32, 32)]
  | _ => 0

def State.queueWord (s : State) (o : Nat) : Nat :=
  let k := s.queue s.queueSel
  match o with
  | 0xD018 => pack [(k.cells, 0, 24), (sat24 k.items, 24, 24), (b2n (k.entries.any QEntry.isGap), 48, 1)]
  | 0xD020 => k.drops.toNat
  | 0xD028 => k.flushes.toNat
  | 0xD110 => pack [(s.farFree, 32, 24)]
  | _ => 0

/-! ### Programs and the scheduler (R203, R236, R241) -/

/-- The number and sequencer of program p's open pass. -/
def State.seqOf (s : State) (p : Fin 16) : Option (Nat × Sequencer) := s.sched.seqs.find? (fun x => !x.2.tail && x.2.prog == p)

/-- ATTEMPT of a pass whose attempt may have been abandoned: one higher from then on, while another may follow (R225, R291). -/
def attemptNow (aborted : Bool) (a : BitVec 2) : Nat := if aborted && a.toNat < 2 then a.toNat + 1 else a.toNat

/-- GEN and ATTEMPT of a program's open pass; a pass between two attempts shows the one that opens next. -/
def State.openGen (s : State) (p : Fin 16) : Nat × Nat :=
  match s.seqOf p with
  | some x => (x.2.gen.toNat, attemptNow x.2.aborted x.2.attempt)
  | none => match s.sched.next with
    | some n => if n.prog = p then ((n.count.getD 0).toNat % 65536, if n.count.isSome then attemptNow n.aborted n.attempt else 0) else (0, 0)
    | none => (0, 0)

/-- Pass list entry that is open, or that opens next. -/
def State.passIndexOf (s : State) (p : Fin 16) : Nat :=
  match s.seqOf p with
  | some x => x.2.entry
  | none => (s.placeOf p false).entry

def State.progWord (s : State) (p : Fin 16) (o : Nat) : Nat :=
  let g := s.prog p
  let time (k : Nat) : Nat := (Tab.get? g.engineTb k).getD 0 % 2 ^ 64
  match o with
  | 0x08 =>
    pack [(g.state.num, 32, 3), (b2n g.loadFaultEntry, 35, 1), (g.loadReason.toNat, 40, 8), (g.loadFault.toNat, 48, 16)]
  | 0x10 =>
    pack [(s.passIndexOf p, 0, 12), ((s.openGen p).1, 32, 16), ((s.openGen p).2, 48, 2), (b2n (s.progOpen p), 50, 1),
          (match s.seqOf p with
            | some x => 16 + x.1
            | none => 0, 51, 5)]
  | 0x18 => g.steps.toNat
  | 0x40 => pack [(g.lastDeclared.toNat, 8, 2), (g.lastDelivered.toNat, 10, 2), (b2n g.lowered, 12, 1)]
  | 0x48 => twos 64 g.deficit
  | 0x50 => g.charged % 2 ^ 64
  | 0x58 => time 0
  | 0x60 => time 1
  | 0x68 => time 2
  | 0x70 => time 3
  | 0x78 => time 4
  | _ => 0

def State.schedWord (s : State) (o : Nat) : Nat :=
  let c := s.sched
  match o with
  | 0xE808 => c.count.toNat
  | 0xE818 => pack [(bitsOf 16 (fun k => (s.seq k).isSome), 32, 16), (c.rrPtr.val, 48, 4)]
  | 0xE820 => c.tOpen % 2 ^ 64
  | 0xE828 => c.tNext % 2 ^ 64
  | 0xE830 => pack [(s.mortar.bar.agreed.ready.toNat, 0, 16), (s.localReady, 16, 16), (s.mortar.bar.agreed.crc.toNat, 32, 32)]
  | 0xE840 =>
    pack [(b2n s.boot.armed, 38, 1), (b2n s.boot.missed, 39, 1), (b2n s.boot.funcRefused, 40, 1), (b2n s.boot.poolsRefused, 41, 1)]
  | _ => 0

/-- LATE_GEN to LATE_INSTR. -/
def State.lateWord (s : State) : Nat :=
  pack [(s.sched.lateGen.toNat, 0, 16), (s.sched.lateProg.val, 16, 4), (b2n s.sched.lateOver, 20, 1), (b2n s.sched.latePhase, 21, 1),
        (s.sched.lateInstr.toNat, 22, 16)]

/-! ### Placement (R344) -/

/-- Bytes in MiB, rounded up. -/
def mib (n : Nat) : Nat := ceilDiv n 1048576

/-- Moves of the pending plan at this member, those complete included. -/
def Placement.planned (r : Placement) : Nat := (r.moves.filter (fun m => !m.staging)).length

/-- A follower shows its planner's epoch, tables and usage, and its own count of steps (R322, R328, R343). -/
def State.placeWord (s : State) (p : Fin 16) (o : Nat) : Nat :=
  let own := s.placementOf p
  let p := s.plannerOf p
  let r := s.placementOf p
  match o with
  | 0x10 =>
    pack [(r.epoch.toNat, 0, 16), (own.stepIn.toNat, 16, 16), (r.cur, 32, 2), (r.pend, 34, 2), (r.status, 36, 3), (b2n r.recovering, 39, 1)]
  | 0x20 => pack [(mib (s.tierUse p 0), 32, 32)]
  | 0x28 => pack [(mib (s.tierUse p 1), 0, 32), (mib (s.tierUse p 2), 32, 32)]
  | 0x30 => pack [(r.pendingMoves, 0, 32), (r.planned, 32, 32)]
  | _ => 0

/-! ### Ledger and telemetry (R176, R199, R294, R447, R475) -/

/-- Eight bytes of the ledger records at an offset from FIRST, or from the snapshot. -/
def recordWord (a b : Option LedgerRec) (o : Nat) : Nat :=
  let bytes (r : Option LedgerRec) : List Byte := match r with
    | some r => r.bytes
    | none => List.replicate 32 0
  le (bytes a ++ bytes b) o 8

def State.ledgerWord (s : State) (o : Nat) : Nat :=
  let l := s.ledger
  if o = 0x20000 then pack [(b2n l.first.isSome, 0, 1), (b2n l.esc.isSome, 1, 1), (l.heldSev, 2, 2), (l.input.length, 4, 7)]
  else if o = 0x20010 then l.nextSeq.toNat
  else if 0x20020 ≤ o ∧ o < 0x20060 then recordWord l.first l.esc (o - 0x20020)
  else if 0x20060 ≤ o ∧ o < 0x200A0 then recordWord l.snapFirst l.snapEsc (o - 0x20060)
  else if o = 0x200A0 then pack [(b2n l.snapValid, 0, 1), (b2n l.refLoss, 1, 1)]
  else s.ctr o % 2 ^ 64

/-- Pipelines fenced, from number `from_`. -/
def State.fencedMask (s : State) (from_ : Nat) : Nat := bitsOf 32 (fun i => s.boot.fenced.contains (from_ + i))

/-- The latest common abort. -/
def State.abortWord (s : State) : Nat :=
  match s.mortar.bar.lastAbort with
  | some a => pack [(a.gen.toNat, 0, 16), (a.attempt.toNat, 16, 2), (a.origin.toNat, 18, 10), (a.code.toNat, 28, 8)]
  | none => 0

/-- The latest seal release. -/
def State.voteWord (s : State) : Nat :=
  match s.mortar.bar.lastSeal with
  | some r =>
    pack [(r.gen.toNat, 0, 16), (r.attempt.toNat, 16, 2), (b2n r.vote.ok, 18, 1), (b2n r.aborted, 19, 1),
          (r.vote.failCount.toNat, 20, 10), (r.vote.firstFail.toNat, 30, 10), (r.vote.reason.toNat, 40, 8)]
  | none => 0

def State.telemetryWord (s : State) (o : Nat) : Nat :=
  if o = 0x21180 then pack [(128 - s.boot.fenced.length, 0, 8), (s.fencedMask 0, 32, 32)]
  else if o = 0x21188 then pack [(s.fencedMask 32, 0, 32), (s.fencedMask 64, 32, 32)]
  else if o = 0x21190 then pack [(s.fencedMask 96, 0, 32)]
  else if 0x21200 ≤ o ∧ o < 0x21400 then le s.funcs.micro (o - 0x21200) 8
  else if o = 0x21438 then pack [(s.layout.descs.length, 0, 16), (s.layout.allocs.length, 16, 11)]
  else if o = 0x214C0 then s.lateWord
  else if o = 0x214C8 then s.sched.lateTb % 2 ^ 64
  else if o = 0x215D0 then s.abortWord
  else if o = 0x215D8 then s.voteWord
  else s.ctr o % 2 ^ 64

/-! ### A whole word -/

/-- The RO fields of the word at an 8-byte offset; 0 where the word has none. -/
def State.roWord (s : State) (o : Nat) : Nat :=
  if o < 0x40 then s.identityWord o
  else if o < 0x1000 then 0
  else if o < 0x2000 then (if o = 0x1000 then s.powerWord else 0)
  else if o < 0x3000 then s.bootWord o
  else if o < 0x4000 then s.treeWord o
  else if o < 0x4060 then (if o % 16 = 0 then s.laneWord ((o - 0x4000) / 16) else 0)
  else if o = 0x5030 then s.fabricWord
  else if o = 0x6008 then s.groupWord
  else if 0x7000 ≤ o ∧ o < 0x7800 then s.entryWord ((o - 0x7000) / 2)
  else if 0xB000 ≤ o ∧ o < 0xC000 then s.signalWord o
  else if 0xC000 ≤ o ∧ o < 0xC040 then s.poolWord o
  else if 0xD000 ≤ o ∧ o < 0xE000 then s.queueWord o
  else if 0xE000 ≤ o ∧ o < 0xE800 then s.progWord (Fin.ofNat 16 ((o - 0xE000) / 0x80)) (o % 0x80)
  else if 0xE800 ≤ o ∧ o < 0xEC00 then s.schedWord o
  else if 0xEC00 ≤ o ∧ o < 0xF000 then s.placeWord (Fin.ofNat 16 ((o - 0xEC00) / 0x40)) (o % 0x40)
  else if 0x20000 ≤ o ∧ o < 0x21000 then s.ledgerWord o
  else if 0x21000 ≤ o ∧ o < 0x21900 then s.telemetryWord o
  else 0

/-- The RW fields of a word, as written. -/
def State.rwWord (s : State) (o : Nat) : Nat :=
  ((s.rwParts o).foldl (fun w p => w ||| (s.word p.1 &&& BitVec.ofNat 64 p.2)) 0).toNat

/-- What a register word reads. -/
def State.readWord (s : State) (o : Nat) : Nat := s.rwWord o + s.roWord o

/-- A register read of 4 or 8 B (R470): a read of one half returns that half. -/
def State.readReg (s : State) (off size : Nat) : Nat :=
  if off % 2 ^ size ≠ 0 then 0
  else if size = 3 then s.readWord (off / 8 * 8)
  else if size = 2 then field (s.readWord (off / 8 * 8)) (off % 8 * 8) 32
  else 0

end Sys2Proof.Machine
end

