-- ==== Sys2Proof/Machine/TestPort.lean ====
section
/-! DEFINITION. The test port (R409, R410, R412, R473): its instruction register, its data registers, and what the IEEE 1687 network reads. -/

namespace Sys2Proof.Machine

/-- The test port works where PLINTH_CLK runs and TRST_N is released (R410). -/
def State.testWorks (s : State) : Bool := s.boot.powered && !s.testReset

/-- An instruction enters the test port's instruction register. -/
def State.selectTest (s : State) (instr : BitVec 8) : State := if s.testWorks then { s with testInstr := instr } else s

/-- TRST_N asserted or released: asserted, the test port is in Test-Logic-Reset, which selects IDCODE (R409). -/
def State.testLogicReset (s : State) (asserted : Bool) : State :=
  { s with testReset := asserted, testInstr := if asserted then 1 else s.testInstr }

/-- What the instruction register captures in Capture-IR (R409). -/
def testCapture : BitVec 8 := 0b00000001

/-- What a read of an instrument of the IEEE 1687 network gives (R409, R410, R441, R473). The layout of the test controllers' results and of the
repair maps there is stated nowhere: free values (DESIGN CHOICE, log entry 126). -/
def State.readInstrument (s : State) : Instrument → State
  | .mirror w => { s with testOut := BitVec.ofNat 64 (s.readWord (8 * w.val)) }
  | .snapshot w => { s with testOut := BitVec.ofNat 64 (s.ledgerWord (0x20060 + 8 * w.val)) }
  | _ => { s.useFree with testOut := Config.instrument s.freeCtr }

/-- An access of the IEEE 1687 network (R410): a read gives the instrument's value; a write that would start a test is ignored for a store or an
engine in service, and what a test does to one that is not is stated nowhere but for its own result, which a read gives. -/
def State.accessInstrument (s : State) (i : Instrument) (start : Bool) : State :=
  let s := s.selectTest 0x24
  if s.testWorks && !start then s.readInstrument i else s

/-- The data registers of the test port. -/
inductive TestRegister where
  | bypass | idcode | network
  deriving DecidableEq, Repr

/-- The data register that the instruction register selects; other codes act as BYPASS. -/
def State.testRegister (s : State) : TestRegister :=
  if s.testInstr = 0x01 then .idcode else if s.testInstr = 0x24 then .network else .bypass

/-- IDCODE: version 0x3, part 0xD053, the licensee's manufacturer tie-off, 1. -/
def idcodeWord : BitVec 32 := 0x3D053001 ||| (Config.mfr.setWidth 32 <<< 1)

end Sys2Proof.Machine
end

