-- ==== Sys2Proof/Machine/ExecSystem.lean ====
section
/-! DEFINITION. Tests in service, host port responses, resets, start, supply, clocks, sleep and the test port (17, 18, 20). -/

namespace Sys2Proof.Machine

/-! ### Tests, repair, engines, host port -/

/-- A maintenance span tests the column out of service, or a function pipeline (R432, R173). -/
def execMaintenanceTest (r : MaintTest) (s : State) : Result :=
  match r with
  | .column passed => .next (s.testColumn passed)
  | .pipeline pipe wrong => .next (s.testPipe pipe wrong)

/-- The scrubber checks a line (R433). -/
def execScrubLine (store : Fin 8) (line : Nat) (find : ScrubFind) (s : State) : Result := .next (s.scrub store line find)

/-- An engine's clock runs before a planned start (R461). -/
def execEngineUngate (e : Engine) (s : State) : Result := .next (if s.awake then s.ungate e else s)

/-- A read response of the host port, by its beats' status (R390, R394). -/
def execHostReadResponse (ctx : HostCtx) (beats : List HostStatus) (s : State) : Result :=
  .next (if s.portsRun then s.readResponse ctx (readStatus beats) else s).close

/-- A write response of the host port (R392, R394). -/
def execHostWriteResponse (ctx : HostCtx) (status : HostStatus) (s : State) : Result :=
  .next (if s.portsRun then s.writeResponse ctx status else s).close

/-! ### Resets and start -/

/-- POR_N (R412, R419). -/
def execPorN (cfgMode : BitVec 2) (s : State) : Result := .next (s.powerOnReset cfgMode)

/-- WARM_N (R412, R421). -/
def execWarmN (cfgMode : BitVec 2) (s : State) : Result := .next (s.warmReset cfgMode)

/-- HP_RST_N (R413); `lost` names the accesses whose responses it loses. -/
def execHpRstN (s : State) (lost : List (Bool × HostCtx) := []) : Result := .next (s.hostPortReset lost).close

/-- VP_RST_N (R408). -/
def execVpRstN (asserted : Bool) (s : State) : Result := .next (s.vectorReset asserted)

/-- TRST_N asserted or released (R409, R410). -/
def execTrstN (s : State) (asserted : Bool := true) : Result := .next (s.testLogicReset asserted)

/-- The first image read (R418, R419 step 3). -/
def execImagePass1 (image : List Byte) (s : State) : Result := .next (s.imageFirst image)

/-- Memory and logic BIST complete (R422, R423). -/
def execSelfTestComplete (r : SelfTest) (s : State) : Result := .next (s.selfTest r)

/-- The second image read (R419 step 6). -/
def execImagePass2 (image : List Byte) (s : State) : Result := .next (s.imageSecond image)

/-- The core PLL locks (R419, R449). -/
def execCorePllLock (s : State) : Result := .next s.lockPll

/-- The supply is lost (R414). -/
def execPowerLoss (s : State) : Result := .next s.losePower

/-! ### Supply, clocks, sleep -/

/-- The supply falls below the threshold (R451, R453). -/
def execSupplySag (s : State) : Result := .next s.sagBegins

/-- The supply returns to `above` mV over the threshold (R451, R452). -/
def execSupplyRecover (s : State) (above : BitVec 8 := 0xFF) : Result := .next (s.sagEnds above.toNat)

/-- The step to 450 MHz (R452). -/
def execClockStep (s : State) : Result := .next s.stepDown

/-- The return to 600 MHz (R452). -/
def execClockRestore (s : State) : Result := .next s.stepUp

/-- REF_CLK is lost (R460). -/
def execRefClkLoss (s : State) : Result := .next s.loseRefClk

/-- The core PLL loses lock (R460). -/
def execPllLoss (s : State) : Result := .next s.losePll

/-- The end of light sleep (R385, R462). -/
def execWakeComplete (s : State) : Result := .next s.wakeLight.close

/-- The end of deep sleep (R464). -/
def execDeepWake (s : State) : Result := .next s.wakeDeep.close

/-! ### Test port -/

/-- BYPASS (R409): any code but 0x01 and 0x24 selects the 1-bit register; 0xFF stands for them. -/
def execBypass (s : State) : Result := .next (s.selectTest 0xFF)

/-- IDCODE (R409). -/
def execIdcode (s : State) : Result := .next (s.selectTest 0x01)

/-- IJTAG_ACCESS (R409, R410): a read of an instrument, or a write that would start its test. -/
def execIjtagAccess (s : State) (instrument : Instrument := .mirror 0) (start : Bool := false) : Result := .next (s.accessInstrument instrument start)

end Sys2Proof.Machine
end

