-- ==== Sys2Proof/Machine/ExecTimers.lean ====
section
/-! DEFINITION. Commands that no requester sends: what the block does by itself as time passes or as room comes (R90, R115, R121, R149, R256,
R258, R260, R286, R340, R351, R360, R361, R377, R382, R385, R439). -/

namespace Sys2Proof.Machine

/-! ### Signal unit, pools, queues, ledger -/

/-- VP_ACK (R382): acceptance of the source presented. -/
def execVpAck (t : Fin 16) (s : State) : Result := .next (if s.boot.powered then s.accept t else s)

/-- An open batch's deadline (R377). -/
def execCoalDeadline (src : BitVec 10) (s : State) : Result := .next (if s.awake then s.batchExpiry src.toNat else s)

/-- A sleeping block's batch timer (R385). -/
def execBatchTimerWake (s : State) : Result := .next s.batchTimer

/-- A waiting request is served (R351). -/
def execPoolWaitGrant (pool : Fin 5) (cls : Fin 6) (s : State) : Result :=
  .next (if s.awake then s.grantWaiting pool cls else s)

/-- A START that waits for space goes on (R361). -/
def execQueueSpaceFreed (queue : BitVec 12) (s : State) : Result := .next (if s.awake then s.spaceFreed queue.toNat else s)

/-- A stalled read returns (R360). -/
def execQueueStalledReadReturn (queue : BitVec 12) (s : State) : Result :=
  .next (if s.awake then s.stalledReturn queue.toNat else s)

/-- A stalled header read returns EMPTY (R360). -/
def execStallLimitExpiry (queue : BitVec 12) (s : State) : Result := .next (if s.awake then s.stallExpiry queue.toNat else s)

/-- The ledger takes the oldest raise (R439). -/
def execLedgerRaise (s : State) : Result := .next (if s.awake then s.ledgerStep else s)

/-! ### Tiles and the cold stream -/

/-- The next tile enters the tile list (R115, R339). -/
def execTileEnter (s : State) : Result := .next (if s.awake then s.enterTile s.stagedTile else s).close

/-- The next MiB of the cold stream (R340). -/
def execColdStreamProgress (s : State) : Result := .next (if s.awake then s.coldProgress else s).close

/-! ### Transport -/

/-- ACK_DELAY_TB (R256). -/
def execAckDelayExpiry (peer : MemberId) (vc : BitVec 2) (s : State) : Result :=
  .next (if s.awake then s.ackExpiry peer vc else s)

/-- A SYNC is repeated, or meets the limit (R260). -/
def execSyncResend (peer : MemberId) (s : State) : Result := .next (if s.awake then s.syncExpire peer else s).close

/-- A frame's retransmission timer (R258). -/
def execRtoExpiry (peer : MemberId) (vc : BitVec 2) (seq : BitVec 32) (s : State) : Result :=
  .next (if s.awake then s.rtoExpire peer vc seq else s).close

/-! ### Timeouts of an attempt -/

/-- R90: a count or grant message is missing. -/
def execExchangeTimeout (s : State) : Result := .next (if s.awake then s.exchangeTimer else s).close

/-- R121: a manifest is missing. -/
def execManifestTimeout (s : State) : Result := .next (if s.awake then s.manifestTimer else s).close

/-- R121: a promised row is incomplete. -/
def execRowTimeout (s : State) : Result := .next (if s.awake then s.rowTimer else s).close

/-- R149: a tile-done doorbell is missing. -/
def execTileTimeout (s : State) : Result := .next (if s.awake then s.tileTimer else s).close

/-- R149: the shared-ready doorbell is missing. -/
def execSharedReadyTimeout (s : State) : Result := .next (if s.awake then s.sharedTimer else s).close

/-- R286: a collective waits too long. -/
def execCollectiveTimeout (opseq : BitVec 8) (s : State) : Result :=
  .next (if s.awake then s.collTimer opseq.toNat else s).close

end Sys2Proof.Machine
end

