-- ==== Sys2Proof/Machine/Dispatch.lean ====
section
/-! DEFINITION. One arm per command: each is a direct call of its meaning. -/

namespace Sys2Proof.Machine

/-- What a command does to everything but the queue of commands. -/
def exec (i : Instr) (s : State) : Host.Outcome State Fault Refusal :=
  match i with
  | .instructionIssue q => Sys2Proof.Machine.execInstructionIssue q s
  | .nop q => Sys2Proof.Machine.execNop q s
  | .slot q offset step => Sys2Proof.Machine.execSlot q offset step s
  | .waitAll q => Sys2Proof.Machine.execWaitAll q s
  | .waitTime q offset => Sys2Proof.Machine.execWaitTime q offset s
  | .waitChunk q ch => Sys2Proof.Machine.execWaitChunk q ch s
  | .seal q source fire => Sys2Proof.Machine.execSeal q source fire s
  | .loop q sh bound body => Sys2Proof.Machine.execLoop q sh bound body s
  | .endloop q => Sys2Proof.Machine.execEndloop q s
  | .shapeCopy q dst src => Sys2Proof.Machine.execShapeCopy q dst src s
  | .shapeChunks q dst src => Sys2Proof.Machine.execShapeChunks q dst src s
  | .norm => Sys2Proof.Machine.execNorm s
  | .score errs finds => Sys2Proof.Machine.execScore s errs finds
  | .rescore finds => Sys2Proof.Machine.execRescore s finds
  | .select finds => Sys2Proof.Machine.execSelect s finds
  | .count => Sys2Proof.Machine.execCount s
  | .grant => Sys2Proof.Machine.execGrant s
  | .sort => Sys2Proof.Machine.execSort s
  | .dispatch => Sys2Proof.Machine.execDispatch s
  | .tiles => Sys2Proof.Machine.execTiles s
  | .ret => Sys2Proof.Machine.execRet s
  | .combine finds => Sys2Proof.Machine.execCombine s finds
  | .combineAr finds => Sys2Proof.Machine.execCombineAr s finds
  | .reduceAr finds => Sys2Proof.Machine.execReduceAr s finds
  | .stats finds => Sys2Proof.Machine.execStats s finds
  | .convert => Sys2Proof.Machine.execConvert s
  | .transpose finds => Sys2Proof.Machine.execTranspose s finds
  | .scatter => Sys2Proof.Machine.execScatter s
  | .gather => Sys2Proof.Machine.execGather s
  | .blocksOut => Sys2Proof.Machine.execBlocksOut s
  | .blocksIn => Sys2Proof.Machine.execBlocksIn s
  | .routerQuantise => Sys2Proof.Machine.execRouterQuantise s
  | .map finds => Sys2Proof.Machine.execMap s finds
  | .gateAct finds => Sys2Proof.Machine.execGateAct s finds
  | .softmax finds => Sys2Proof.Machine.execSoftmax s finds
  | .fetch => Sys2Proof.Machine.execFetch s
  | .signal q source => Sys2Proof.Machine.execSignal q source s
  | .halt q endProgram => Sys2Proof.Machine.execHalt q endProgram s
  | .load p v failed => Sys2Proof.Machine.execLoad p v s failed
  | .start p v => Sys2Proof.Machine.execStart p v s
  | .stop p v => Sys2Proof.Machine.execStop p v s
  | .chunkReadyDoorbell p v => Sys2Proof.Machine.execChunkReadyDoorbell p v s
  | .tilePop p size finds => Sys2Proof.Machine.execTilePop p size s finds
  | .tileDoneDoorbell p v => Sys2Proof.Machine.execTileDoneDoorbell p v s
  | .sharedReadyDoorbell p v => Sys2Proof.Machine.execSharedReadyDoorbell p v s
  | .collectiveReadyDoorbell p v => Sys2Proof.Machine.execCollectiveReadyDoorbell p v s
  | .signalDoorbell size v => Sys2Proof.Machine.execSignalDoorbell size v s
  | .sourceConfigWrite w => Sys2Proof.Machine.execSourceConfigWrite w s
  | .setPending v => Sys2Proof.Machine.execSetPending v s
  | .clearPending v => Sys2Proof.Machine.execClearPending v s
  | .eoi t v => Sys2Proof.Machine.execEoi t v s
  | .vpAck t => Sys2Proof.Machine.execVpAck t s
  | .coalDeadline src => Sys2Proof.Machine.execCoalDeadline src s
  | .batchTimerWake => Sys2Proof.Machine.execBatchTimerWake s
  | .sessionWindowWrite w => Sys2Proof.Machine.execSessionWindowWrite w s
  | .sessionWindowRead off size finds => Sys2Proof.Machine.execSessionWindowRead off size s finds
  | .createDescriptor c body => Sys2Proof.Machine.execCreateDescriptor c body s
  | .registerAllocation c body => Sys2Proof.Machine.execRegisterAllocation c body s
  | .releaseDescriptor c body => Sys2Proof.Machine.execReleaseDescriptor c body s
  | .releaseAllocation c body => Sys2Proof.Machine.execReleaseAllocation c body s
  | .layoutResultRead c => Sys2Proof.Machine.execLayoutResultRead c s
  | .poolRequest c v => Sys2Proof.Machine.execPoolRequest c v s
  | .poolResultRead c => Sys2Proof.Machine.execPoolResultRead c s
  | .poolAddressRead c => Sys2Proof.Machine.execPoolAddressRead c s
  | .poolFree c handle => Sys2Proof.Machine.execPoolFree c handle s
  | .poolWaitGrant pool cls => Sys2Proof.Machine.execPoolWaitGrant pool cls s
  | .queueStart c v => Sys2Proof.Machine.execQueueStart c v s
  | .queueData c bytes => Sys2Proof.Machine.execQueueData c bytes s
  | .queueSpaceFreed queue => Sys2Proof.Machine.execQueueSpaceFreed queue s
  | .queueHeaderRead queue size finds => Sys2Proof.Machine.execQueueHeaderRead queue size s finds
  | .queueStalledReadReturn queue => Sys2Proof.Machine.execQueueStalledReadReturn queue s
  | .stallLimitExpiry queue => Sys2Proof.Machine.execStallLimitExpiry queue s
  | .queueDataRead queue size finds => Sys2Proof.Machine.execQueueDataRead queue size s finds
  | .flush v => Sys2Proof.Machine.execFlush v s
  | .qConfigWrite w => Sys2Proof.Machine.execQConfigWrite w s
  | .releaseFirst v => Sys2Proof.Machine.execReleaseFirst v s
  | .releaseEsc v => Sys2Proof.Machine.execReleaseEsc v s
  | .ledgerRaise => Sys2Proof.Machine.execLedgerRaise s
  | .admitWrite v => Sys2Proof.Machine.execAdmitWrite v s
  | .arm v => Sys2Proof.Machine.execArm v s
  | .deepReq v => Sys2Proof.Machine.execDeepReq v s
  | .registerWrite w => Sys2Proof.Machine.execRegisterWrite w s
  | .countMessage h m => Sys2Proof.Machine.execCountMessage h m s
  | .grantMessage h m => Sys2Proof.Machine.execGrantMessage h m s
  | .manifest h cs => Sys2Proof.Machine.execManifest h cs s
  | .dispatchCell h cs => Sys2Proof.Machine.execDispatchCell h cs s
  | .cellRequest h rs => Sys2Proof.Machine.execCellRequest h rs s
  | .tileEnter => Sys2Proof.Machine.execTileEnter s
  | .returnCell h cs finds => Sys2Proof.Machine.execReturnCell h cs s finds
  | .rackPartial h cs finds => Sys2Proof.Machine.execRackPartial h cs s finds
  | .gateNote h n => Sys2Proof.Machine.execGateNote h n s
  | .windowNote h n => Sys2Proof.Machine.execWindowNote h n s
  | .collective h c finds => Sys2Proof.Machine.execCollective h c s finds
  | .bulkRequest h b => Sys2Proof.Machine.execBulkRequest h b s
  | .bulkData h b => Sys2Proof.Machine.execBulkData h b s
  | .ack h => Sys2Proof.Machine.execAck h s
  | .ackDelayExpiry peer vc => Sys2Proof.Machine.execAckDelayExpiry peer vc s
  | .sync h y => Sys2Proof.Machine.execSync h y s
  | .syncResend peer => Sys2Proof.Machine.execSyncResend peer s
  | .rtoExpiry peer vc seq => Sys2Proof.Machine.execRtoExpiry peer vc seq s
  | .linkDown p => Sys2Proof.Machine.execLinkDown p s
  | .linkUp p rate800 => Sys2Proof.Machine.execLinkUp p rate800 s
  | .linkHoldExpiry p => Sys2Proof.Machine.execLinkHoldExpiry p s
  | .pauseStatusChange p status => Sys2Proof.Machine.execPauseStatusChange p status s
  | .exchangeTimeout => Sys2Proof.Machine.execExchangeTimeout s
  | .manifestTimeout => Sys2Proof.Machine.execManifestTimeout s
  | .rowTimeout => Sys2Proof.Machine.execRowTimeout s
  | .tileTimeout => Sys2Proof.Machine.execTileTimeout s
  | .sharedReadyTimeout => Sys2Proof.Machine.execSharedReadyTimeout s
  | .collectiveTimeout opseq => Sys2Proof.Machine.execCollectiveTimeout opseq s
  | .ident l h member role pos => Sys2Proof.Machine.execIdent l h member role pos s
  | .heartbeat l h => Sys2Proof.Machine.execHeartbeat l h s
  | .heartbeatTick => Sys2Proof.Machine.execHeartbeatTick s
  | .nak l h => Sys2Proof.Machine.execNak l h s
  | .laneSilence l => Sys2Proof.Machine.execLaneSilence l s
  | .laneTrainTimeout l => Sys2Proof.Machine.execLaneTrainTimeout l s
  | .calibrationTick => Sys2Proof.Machine.execCalibrationTick s
  | .calReq l h t1 => Sys2Proof.Machine.execCalReq l h t1 s
  | .calResp l h t1 t2 t3 => Sys2Proof.Machine.execCalResp l h t1 t2 t3 s
  | .arrive l h a => Sys2Proof.Machine.execArrive l h a s
  | .release l h r => Sys2Proof.Machine.execRelease l h r s
  | .keystoneRelease => Sys2Proof.Machine.execKeystoneRelease s
  | .slotOpen => Sys2Proof.Machine.execSlotOpen s
  | .abort l h a => Sys2Proof.Machine.execAbort l h a s
  | .reduce l h r => Sys2Proof.Machine.execReduce l h r s
  | .suspect l h member role => Sys2Proof.Machine.execSuspect l h member role s
  | .lost l h member membVer => Sys2Proof.Machine.execLost l h member membVer s
  | .rehome l h mask membVer => Sys2Proof.Machine.execRehome l h mask membVer s
  | .admitMsg l h member membVer => Sys2Proof.Machine.execAdmitMsg l h member membVer s
  | .stateMsg l h b => Sys2Proof.Machine.execStateMsg l h b s
  | .coldStreamProgress => Sys2Proof.Machine.execColdStreamProgress s
  | .maintenanceTest r => Sys2Proof.Machine.execMaintenanceTest r s
  | .scrubLine store line find => Sys2Proof.Machine.execScrubLine store line find s
  | .engineUngate e => Sys2Proof.Machine.execEngineUngate e s
  | .hostReadResponse ctx beats => Sys2Proof.Machine.execHostReadResponse ctx beats s
  | .hostWriteResponse ctx status => Sys2Proof.Machine.execHostWriteResponse ctx status s
  | .porN cfgMode => Sys2Proof.Machine.execPorN cfgMode s
  | .warmN cfgMode => Sys2Proof.Machine.execWarmN cfgMode s
  | .hpRstN lost => Sys2Proof.Machine.execHpRstN s lost
  | .macRstN p => Sys2Proof.Machine.execMacRstN p s
  | .vpRstN asserted => Sys2Proof.Machine.execVpRstN asserted s
  | .trstN asserted => Sys2Proof.Machine.execTrstN s asserted
  | .imagePass1 image => Sys2Proof.Machine.execImagePass1 image s
  | .selfTestComplete r => Sys2Proof.Machine.execSelfTestComplete r s
  | .imagePass2 image => Sys2Proof.Machine.execImagePass2 image s
  | .joinWaitExpiry => Sys2Proof.Machine.execJoinWaitExpiry s
  | .supplySag => Sys2Proof.Machine.execSupplySag s
  | .supplyRecover above => Sys2Proof.Machine.execSupplyRecover s above
  | .clockStep => Sys2Proof.Machine.execClockStep s
  | .clockRestore => Sys2Proof.Machine.execClockRestore s
  | .refClkLoss => Sys2Proof.Machine.execRefClkLoss s
  | .pllLoss => Sys2Proof.Machine.execPllLoss s
  | .wakeComplete => Sys2Proof.Machine.execWakeComplete s
  | .deepWake => Sys2Proof.Machine.execDeepWake s
  | .bypass => Sys2Proof.Machine.execBypass s
  | .idcode => Sys2Proof.Machine.execIdcode s
  | .ijtagAccess instrument start => Sys2Proof.Machine.execIjtagAccess s instrument start
  | .powerLoss => Sys2Proof.Machine.execPowerLoss s
  | .corePllLock => Sys2Proof.Machine.execCorePllLock s

end Sys2Proof.Machine
end

