-- ==== Sys2Proof/Safety.lean ====
section
/-! DEFINITION. What claims about the block are made of: kinds of commands, a member that is held or unpowered and what it shows its
partners (R414, R441), and the conditions under which a request is served, a frame or message accepted, an instruction run. -/

namespace Sys2Proof.Machine

/-- The commands that end every state of the block: its resets and the loss of its supply. -/
def resets : Instr → Bool
  | .porN _ => true
  | .warmN _ => true
  | .powerLoss => true
  | _ => false

/-! ### Kinds of commands -/

/-- The target requests that are no doorbell writes (R395). -/
def isRequest : Instr → Bool
  | .load .. | .start .. | .stop .. | .tilePop .. | .sourceConfigWrite .. | .setPending .. | .clearPending .. | .eoi .. => true
  | .sessionWindowWrite .. | .sessionWindowRead .. | .createDescriptor .. | .registerAllocation .. => true
  | .releaseDescriptor .. | .releaseAllocation .. | .layoutResultRead .. | .poolRequest .. | .poolResultRead .. => true
  | .poolAddressRead .. | .poolFree .. | .queueStart .. | .queueData .. | .queueHeaderRead .. | .queueDataRead .. => true
  | .flush .. | .qConfigWrite .. | .releaseFirst .. | .releaseEsc .. | .admitWrite .. | .arm .. | .deepReq .. => true
  | .registerWrite .. => true
  | _ => false

/-- The doorbell writes, as the decoder keeps them (R384). -/
def bellOf : Instr → Option KeptBell
  | .chunkReadyDoorbell p v => some (.chunk p v)
  | .tileDoneDoorbell p v => some (.tileDone p v)
  | .sharedReadyDoorbell p v => some (.shared p v)
  | .collectiveReadyDoorbell p v => some (.coll p v)
  | .signalDoorbell size v => some (.signal size v)
  | _ => none

/-- The commands of the engines: engine, opcode, and the OP of the record where a row names one (R216). -/
def engineCommand : Instr → Option (Engine × Nat × Option Nat)
  | .norm => some (.scoringFront, Op.norm, none)
  | .score .. => some (.sketch, Op.score, none)
  | .rescore _ => some (.exact, Op.rescore, none)
  | .select .. => some (.ranking, Op.select, none)
  | .count => some (.exchange, Op.count, none)
  | .grant => some (.exchange, Op.grant, none)
  | .sort => some (.exchange, Op.sort, none)
  | .dispatch => some (.transport, Op.dispatch, none)
  | .tiles => some (.tileEngine, Op.tiles, none)
  | .ret => some (.transport, Op.ret, none)
  | .combine .. => some (.combine, Op.combine, none)
  | .combineAr .. => some (.combine, Op.combineAr, none)
  | .reduceAr .. => some (.collective, Op.reduceAr, none)
  | .stats .. => some (.collective, Op.stats, none)
  | .convert => some (.layout, Op.move, some 0)
  | .transpose _ => some (.layout, Op.move, some 1)
  | .scatter => some (.layout, Op.move, some 2)
  | .gather => some (.layout, Op.move, some 3)
  | .blocksOut => some (.layout, Op.move, some 4)
  | .blocksIn => some (.layout, Op.move, some 5)
  | .routerQuantise => some (.layout, Op.move, some 6)
  | .map _ => some (.function, Op.func, some 0)
  | .gateAct _ => some (.function, Op.func, some 1)
  | .softmax _ => some (.function, Op.func, some 2)
  | .fetch => some (.tier, Op.fetch, none)
  | _ => none

/-- The test port's instructions (R409), with the code each selects; an access of the IEEE 1687 network that would start a test. -/
def testSelect : Instr → Option (BitVec 8)
  | .bypass => some 0xFF
  | .idcode => some 0x01
  | .ijtagAccess _ true => some 0x24
  | _ => none

/-- What the outside can have of the block beside its answers: host memory, frames sent, messages sent. -/
structure Effects where
  mem    : List Host.Cell
  frames : List FrameOut
  msgs   : List MortarOut
  deriving DecidableEq, Repr

def State.effects (s : State) : Effects := { mem := s.mem, frames := s.net.out, msgs := s.mortar.out }

/-- The outputs of a held member are idle (R414, R441): BLK_READY low, nothing presented on the vector port, no pause requested, no
lane carrying messages. -/
def State.outputsIdle (s : State) : Prop :=
  s.boot.ready = false ∧ (∀ t ∈ s.signals.targets, t.2.presented = none) ∧ (∀ p ∈ s.net.ports, p.2.pauseReq = 0) ∧
  ∀ l ∈ s.mortar.lanes, l.2.trained = false

/-- A held member on which no reset waits, with outputs idle and its effects on the outside what they were. -/
def State.heldWith (e : Effects) (s : State) : Prop :=
  s.held = true ∧ s.outputsIdle ∧ s.effects = e ∧ ∀ c ∈ s.pending, resets c = false

/-- An unpowered block for which no power-on reset waits, its effects on the outside what they were. -/
def State.darkWith (e : Effects) (s : State) : Prop :=
  s.boot.powered = false ∧ s.effects = e ∧ ∀ c ∈ s.pending, (∀ m, c ≠ .porN m)

/-- The core runs and target requests are served at once, no entry into deep sleep being pending. -/
def State.servesNow (s : State) : Prop :=
  s.boot.powered = true ∧ s.held = false ∧ s.boot.ready = true ∧ s.power.state = .run ∧ s.power.deepPending = false

/-- No pass is held by a sequencer, so that a command completes nothing beside itself. -/
def State.noPass (s : State) : Prop := s.sched.seqs = [] ∧ s.power.ungated = [] ∧ s.sched.abortDue = none

/-! ### Register writes -/

/-- Register words that stand alone, whose fields take every value and whose writes do nothing beside storing it. -/
def plainWords : List Nat :=
  [0x1018, 0x5000, 0x5008, 0x5010, 0x5018, 0x5020, 0x5028, 0xB808, 0xC000, 0xD000, 0xD100, 0xD108, 0xD110, 0xD118, 0xE800, 0xE850,
   0xE858]

/-- Bit i of the 8-byte word is among the bytes that a naturally aligned write of 4 or 8 B at `off` covers. -/
def written (off : Nat) (size : BitVec 3) (i : Nat) : Bool := size = 3 || (off % 8 * 8 ≤ i && i < off % 8 * 8 + 32)

/-! ### Instructions that run -/

/-- A sequencer that may issue, of a core that runs: sequencer q holds x. -/
def State.issuing (s : State) (q : Fin 16) (x : Sequencer) : Prop := s.seq q.val = some x ∧ s.awake = true ∧ x.issues = true

/-- The instruction at the head of an engine's queue: sequencer q holds x, whose k-th instruction is i; it waits, its inputs are
complete, its word has the opcode and, where the row names one, its record has the OP. -/
def State.headRuns (s : State) (e : Engine) (op : Nat) (sub : Option Nat) (q k : Nat) (x : Sequencer) (i : Issued) : Prop :=
  s.awake = true ∧ (s.engineQueue e).head? = some (q, k, i) ∧ s.seq q = some x ∧ i.prog = .waiting ∧ i.op = op ∧
  (∀ o, sub = some o → s.readLe (recordOf i.word.toNat) 1 = o) ∧ s.inputsIn x k i = true

/-- The state in which that instruction is started: its planned start has come, its engine runs, its time is charged. -/
def State.startedAt (s : State) (e : Engine) (q k : Nat) (x : Sequencer) (i : Issued) : State :=
  let s := s.startAt x i.pc i.planned
  let s : State := { s with power := { s.power with ungated := (e :: s.power.ungated).eraseDups } }
  (s.chargeEngine x.prog e).modInstr q k (fun i => { i with prog := .started })

/-! ### Frames and messages that are accepted -/

/-- A good frame reaches a block in service that runs: R249 and R257 let it pass. -/
def State.frameComes (s : State) (h : FrameHdr) (p : Payload) : Prop :=
  s.inService = true ∧ h.fcsErr = false ∧ frameGood s h p = true ∧ s.wireOk h = true ∧ s.portEnable h.port.val = true ∧
  (s.tb + 2 ^ 32 - h.tstamp.toNat) % 2 ^ 32 < 2 ^ 31 ∧ (s.tb + 2 ^ 32 - h.tstamp.toNat) % 2 ^ 32 ≤ s.frameLife

/-- What block k of a token adds to a sketch score before s_T (R36): the integer sum of the narrow codes on the grid of both exponents, and every
outlier's product. -/
def sketchTerm (x : TokScore) (k : Nat) (w : WeightBlock) : Rat :=
  (dotInt (x.block k).1 w.q : Rat) * pow2 ((x.block k).2 + w.e) +
    ((x.outliersIn k).map (fun o => (b16 o.2.toNat).rat * ((w.q.getD (o.1 % 32) 0 : Rat) * pow2 w.e))).sum

/-- There is a buffer for a frame, within its requester's quota (R350 to R352). -/
def State.roomFor (s : State) (h : FrameHdr) (p : Payload) : Prop :=
  let n := inboundNeeds h.vc p
  s.overQuota n.1 n.2.2 = false ∧ s.hasRoom 0 n.2.2 n.1 n.2.1 = true

/-- The reserve has no buffer for a frame of VC0 or VC1 that its quota allows (R352). -/
def State.noRoomFor (s : State) (h : FrameHdr) (p : Payload) : Prop :=
  let n := inboundNeeds h.vc p
  h.vc.toNat ≤ 1 ∧ s.overQuota n.1 n.2.2 = false ∧ s.hasRoom 0 n.2.2 n.1 n.2.1 = false

/-- The next frame in sequence of its (peer, VC) (R255), with room for it (R350 to R352): the number expected, nothing received beyond it, no
acknowledgement carried, no acknowledgement frame due by it, and a buffer for it within its requester's quota. -/
def State.inSequence (s : State) (h : FrameHdr) (p : Payload) : Prop :=
  let k := s.pair (pairKey h.src h.vc)
  h.seq = k.cum ∧ k.rmap = 0 ∧ k.ackDue + 1 < s.ackFrames ∧ h.ackValid = false ∧ s.roomFor h p

/-- The state after its acceptance (R255, R256, R352): the next number is expected, an acknowledgement is due, the frame lies in its buffer. -/
def State.afterFrame (s : State) (h : FrameHdr) (p : Payload) : State :=
  let k := s.pair (pairKey h.src h.vc)
  ((s.setPair (pairKey h.src h.vc)
    { k with cum := k.cum + 1, ackDue := k.ackDue + 1, ackSince := if k.ackDue = 0 then s.tb else k.ackSince }).bump 0x21508).stageFrame h p

/-- A good frame comes that is the next in sequence, and there is room for it; r is the state after its acceptance. -/
def State.nextFrame (s : State) (h : FrameHdr) (p : Payload) (r : State) : Prop :=
  s.frameComes h p ∧ s.inSequence h p ∧ r = s.afterFrame h p

/-- A good message with the SEQ expected comes on a trained lane of a block that handles it now: it does not sleep (R301, R385). -/
def State.messageComes (s : State) (l : Fin 6) (h : MortarHdr) (b : MortarBody) : Prop :=
  s.lanesRun = true ∧ s.power.state = .run ∧ (s.lane l.val).trained = true ∧ h.crc = crc32c (mortarBytes h b) ∧
  h.seq = (s.lane l.val).rxNext

/-- The partner that R295 and R296 name for a lane, with the role that its end has (R298): the parents on U0 and U1, children on the
down lanes. -/
def State.partnerNamed (s : State) (l : Fin 6) (member : MemberId) (role : BitVec 8) (pos : BitVec 16) : Prop :=
  s.mortar.tree.roster[pos.toNat]? = some member ∧
  (l.val = 0 → s.myPos ≠ 0 ∧ member = s.parent ∧ role = 2) ∧ (l.val = 1 → s.secParent = some member ∧ role = 2) ∧
  (2 ≤ l.val → (role = 0 ∧ member ∈ s.primaryKids) ∨ (role = 1 ∧ member ∈ s.secondaryKids))

/-- The state after its acceptance by the lane (R301, R312). -/
def State.afterMessage (s : State) (l : Fin 6) : State :=
  s.setLane l.val { s.lane l.val with rxNext := (s.lane l.val).rxNext + 1, lastRx := s.tb }

end Sys2Proof.Machine
end

