-- ==== Sys2Proof/Certificates/Slice0/Obligations.lean ====
section
/-! DEFINITION. The statements for the provers: what the commands do, what they leave, and what every step keeps. Where a command can let
an open pass go on, its next state is written as `t.close`: what the command does is `t`, and what follows from it at once (R219,
R287, R288) is `State.close`, which is the state itself when no sequencer holds a pass. -/

open Sys2Proof Sys2Proof.Machine

/-! ### The block as a whole -/

/-- With a command at the front of the queue, a step is that command on the state with the queue's rest. -/
def Obligations.StepRunsFront : Prop :=
  ∀ (s : State) (c : Instr) (rest : List Instr), s.pending = c :: rest → step s = exec c { s with pending := rest }

/-- On an empty queue one tb unit passes in a powered block (the model's choice, log entry 10), and of the counters only the time counter of R468
for the block's clock runs: 0x2_1810 while the core runs stepped to 450 MHz, 0x2_1820 in light sleep, 0x2_1830 in deep sleep, none while the
core runs at 600 MHz. An unpowered block stays as it is. -/
def Obligations.EmptyQueueTicks : Prop :=
  ∀ s : State, s.pending = [] →
    (s.boot.powered = false → step s = .next s) ∧
    (s.boot.powered = true → ∃ t, step s = .next t ∧ t.tb = s.tb + 1 ∧
      t = { s with mortar := { s.mortar with cal := { s.mortar.cal with tb := s.tb + 1 } }, counters := t.counters } ∧
      (∀ c, t.ctr c = s.ctr c + if (c = 0x21810 ∧ s.power.state = .run ∧ s.power.stepped = true) ∨
        (c = 0x21820 ∧ s.power.state = .light) ∨ (c = 0x21830 ∧ s.power.state = .deep) then 1 else 0) ∧
      (s.power.state = .run → s.power.stepped = false → t.counters = s.counters))

/-- Every command answers a next state, and it leaves the queue of waiting commands alone. -/
def Obligations.EveryCommandAnswers : Prop :=
  ∀ (c : Instr) (s : State), ∃ t, exec c s = .next t ∧ t.pending = s.pending

/-- Host memory is in its canonical form after a reset. -/
def Obligations.ResetMemoryForm : Prop := Memory.wf State.reset.mem

/-- Every step keeps host memory in its canonical form: addresses rising, below 2^52, no entry equal to what an unlisted address
reads as. -/
def Obligations.MemoryFormKept : Prop :=
  ∀ s t : State, Memory.wf s.mem → step s = .next t → Memory.wf t.mem

/-- The state that POR_N leaves: every register reads its reset value, no counter has counted, no allocation or descriptor is live
(R177), no session record is written (R211), no program is loaded, the timebase is 0, BOOT_PHASE is RESET, no ledger record is
held, nothing is presented, no frame or message is out; every outstanding tag is answered NOT_READY (R398); host memory and the levels of
VP_RST_N and TRST_N are what they were. That the test port's instruction register holds IDCODE (`testInstr` 0x01) after it, as after TRST_N, is
the model's reading (log entry 101). It says where `porN` completes. -/
def Claim.PowerOnResetState : Prop :=
  ∀ (m : BitVec 2) (s : State), ∃ t, exec (.porN m) s = .next t ∧ (∀ k, t.word k = regReset k) ∧ (∀ c, t.ctr c = 0) ∧
    t.layout.allocs = [] ∧ t.layout.descs = [] ∧ (∀ i, t.session i = 0) ∧ (∀ p, (t.prog p).state = .empty) ∧ t.tb = 0 ∧
    t.boot.phase = .reset ∧ t.boot.powered = true ∧ t.boot.ready = false ∧ t.boot.cfgMode = m ∧ t.ledger = {} ∧
    (∀ n, (t.target n).presented = none) ∧ t.net.out = [] ∧ t.mortar.out = [] ∧ t.testInstr = 0x01 ∧
    t.late = s.tagsHeld.map (fun x => { tag := x, status := 1 }) ∧
    t.mem = s.mem ∧ t.signals.vpReset = s.signals.vpReset ∧ t.testReset = s.testReset

/-- A warm reset of a powered block leaves the state of a power-on reset, but the plinth domain keeps its state: HOLD_SNAPSHOT with
REF_LOSS and PLL_LOSS, and the wake latches. A loss of the supply leaves the reset state, unpowered. An unpowered block does nothing
at either. It says where `warmN` and `powerLoss` complete. -/
def Claim.WarmResetAndPowerLoss : Prop :=
  ∀ s : State, (∀ m : BitVec 2,
    (s.boot.powered = false → exec (.warmN m) s = .next s) ∧
    (s.boot.powered = true → ∃ r t, exec (.porN m) s = .next r ∧ exec (.warmN m) s = .next t ∧
      t.ledger = { snapFirst := s.ledger.snapFirst, snapEsc := s.ledger.snapEsc, snapValid := s.ledger.snapValid,
                   refLoss := s.ledger.refLoss, pllLoss := s.ledger.pllLoss } ∧
      t.power = { r.power with latchBell := s.power.latchBell, latchMortar := s.power.latchMortar, latchTimer := s.power.latchTimer } ∧
      t = { r with ledger := t.ledger, power := t.power })) ∧
    (s.boot.powered = false → exec .powerLoss s = .next s) ∧
    (s.boot.powered = true → ∃ r, exec (.porN 0) s = .next r ∧
      exec .powerLoss s = .next { r with boot := { r.boot with powered := false }, late := [] })

/-- What the resets and the loss of the supply leave (R177, R211, R412, R414, R419, R421, R472). -/
def Obligations.Resets : Prop := Claim.PowerOnResetState ∧ Claim.WarmResetAndPowerLoss

/-- A member that is held shows its partners idle outputs, and until a reset no step changes that: it stays held, writes nothing to
host memory, sends no frame and no message (R414, R441). -/
def Obligations.HeldMemberIsInert : Prop :=
  ∀ (e : Effects) (s t : State), s.heldWith e → step s = .next t → t.heldWith e

/-- What holds a member makes it so: the loss of the reference clock, and the loss of lock of a locked PLL while the reference clock
is present, set REF_LOSS or PLL_LOSS in HOLD_SNAPSHOT and hold a powered member with FAIL_CODE 0x00, outputs idle, the ledger copied
to the plinth domain and no ledger record made; a member held already keeps its FAIL_CODE (R441, R460). Whether REF_CLK is present is apart from
the latch REF_LOSS, which a warm reset keeps: the clock is absent from its loss, over every reset, until the PLL locks again, so that after that
lock a loss of lock holds the member whatever REF_LOSS says (how the model knows REF_CLK present is its reading, log entry 103). It says where
`refClkLoss` and `pllLoss` complete: in every state. -/
def Obligations.ClockLossHolds : Prop :=
  ∀ s : State, s.boot.powered = true →
    (∃ t, exec .refClkLoss s = .next t ∧ t.held = true ∧ t.ledger.refLoss = true ∧ t.power.refAbsent = true ∧ t.mem = s.mem ∧
      t.ledger.input = s.ledger.input ∧ (s.held = false → t.outputsIdle ∧ t.boot.failCode = 0 ∧
        t.ledger.snapFirst = s.ledger.first ∧ t.ledger.snapEsc = s.ledger.esc ∧ t.ledger.snapValid = true) ∧
      (s.held = true → t = { s with ledger := { s.ledger with refLoss := true }, power := { s.power with refAbsent := true } })) ∧
    (s.power.pllLock = true → s.power.refAbsent = false →
      ∃ t, exec .pllLoss s = .next t ∧ t.held = true ∧ t.ledger.pllLoss = true ∧ t.power.pllLock = false ∧ t.mem = s.mem ∧
        t.ledger.input = s.ledger.input ∧ (s.held = false → t.outputsIdle ∧ t.boot.failCode = 0 ∧
          t.ledger.snapFirst = s.ledger.first ∧ t.ledger.snapEsc = s.ledger.esc ∧ t.ledger.snapValid = true)) ∧
    (s.power.pllLock = false ∨ s.power.refAbsent = true → exec .pllLoss s = .next s) ∧
    (∀ m, ∃ t, exec (.warmN m) s = .next t ∧ t.power.refAbsent = s.power.refAbsent ∧ t.ledger.refLoss = s.ledger.refLoss) ∧
    (∀ m, ∃ t, exec (.porN m) s = .next t ∧ t.power.refAbsent = s.power.refAbsent ∧ t.ledger.refLoss = false) ∧
    (s.held = false → ∃ t, exec .corePllLock s = .next t ∧ t.power.pllLock = true ∧ t.power.refAbsent = false ∧
      t.ledger.refLoss = s.ledger.refLoss)

/-- An unpowered block does nothing until a power-on reset: no step writes host memory, sends a frame or a message, or powers it
(R414). -/
def Obligations.UnpoweredBlockIsInert : Prop :=
  ∀ (e : Effects) (s t : State), s.darkWith e → step s = .next t → t.darkWith e

/-- A register word changes only by a target request, by the image's register sections, at the wake that serves the requests held
during a sleep (after a sleep, also one that a release ends before its T_REL, or when the entry into deep sleep is not made), and by a reset or
the loss of the supply: no other command changes one. -/
def Obligations.RegistersChangeOnlyByRequests : Prop :=
  ∀ (c : Instr) (s t : State), isRequest c = false → resets c = false → (∀ b, c ≠ .imagePass1 b) → c ≠ .wakeComplete →
    c ≠ .deepWake → (∀ st, c ≠ .hostWriteResponse .save st) → (∀ lost, (false, HostCtx.save) ∈ lost → c ≠ .hpRstN lost) →
    (c = .keystoneRelease → s.power.state ≠ .light) → exec c s = .next t → t.regs = s.regs

/-- The test port's commands select BYPASS, IDCODE or the IEEE 1687 network where the block is powered and TRST_N released, and change nothing
beside; TRST_N asserted selects IDCODE. A read over the network captures the instrument's value: an identity word, a word of HOLD_SNAPSHOT, or
what a test left (free, log entry 126). No other command but a reset or the loss of the supply changes the selection (R409, R410, R412,
R441, R473). The code 0xFF stored for BYPASS, and BYPASS standing for every code but IDCODE and IJTAG_ACCESS, are the model's reading (log entry
101). It says where `bypass`, `idcode`, `ijtagAccess` and `trstN` complete. -/
def Obligations.TestInstruction : Prop :=
  ∀ (c : Instr) (s : State),
    (∀ v, testSelect c = some v →
      exec c s = .next (if s.testWorks = true then { s with testInstr := v } else s)) ∧
    (∀ a, exec (.trstN a) s = .next { s with testReset := a, testInstr := if a = true then 0x01 else s.testInstr }) ∧
    (s.testWorks = true →
      (∀ w, exec (.ijtagAccess (.mirror w) false) s = .next { s with
        testInstr := 0x24, testOut := BitVec.ofNat 64 (({ s with testInstr := 0x24 } : State).readWord (8 * w.val)) }) ∧
      (∀ w, exec (.ijtagAccess (.snapshot w) false) s = .next { s with
        testInstr := 0x24, testOut := BitVec.ofNat 64 (({ s with testInstr := 0x24 } : State).ledgerWord (0x20060 + 8 * w.val)) }) ∧
      (∀ i, (∀ w, i ≠ .mirror w) → (∀ w, i ≠ .snapshot w) → exec (.ijtagAccess i false) s = .next { s with
        testInstr := 0x24, testOut := Config.instrument s.freeCtr, freeCtr := s.freeCtr + 1 })) ∧
    (s.testWorks = false → ∀ i, exec (.ijtagAccess i false) s = .next s) ∧
    (∀ t, testSelect c = none → (∀ a, c ≠ .trstN a) → (∀ i, c ≠ .ijtagAccess i false) → resets c = false → exec c s = .next t →
      t.testInstr = s.testInstr)

/-- Reading what was written: bytes within the 52-bit host address space read back as stored, and every other byte is as before. -/
def Obligations.MemoryReadAfterWrite : Prop :=
  ∀ (s : State) (a : Nat) (b : List Byte), a + b.length ≤ hostTop →
    (s.write a b).read a b.length = b ∧ ∀ j, (j < a ∨ a + b.length ≤ j) → (s.write a b).byte j = s.byte j

/-- A core that is held or asleep lets nothing go on after a command; when no sequencer holds a pass, nothing goes on but the upkeep of moves, the
frames that wait for staging and the pause request (R219, R252, R288, R336). -/
def Claim.NothingFollowsWithoutPass : Prop :=
  ∀ s : State, (s.awake = false → s.close = s) ∧
    (s.awake = true → s.upkeep.noPass → s.close = s.upkeep.updatePause)

/-- What follows from a command at once writes no register, no test instruction and no queued command. -/
def Claim.WhatFollowsKeeps : Prop :=
  ∀ s : State, s.close.regs = s.regs ∧ s.close.testInstr = s.testInstr ∧ s.close.pending = s.pending ∧
    (Memory.wf s.mem → Memory.wf s.close.mem)

/-- What follows from a command at once: nothing when the core does not run, only upkeep when no pass is held; and never a write of a register,
of the test instruction or of the queue (R219, R252, R288, R336). That nothing follows in a block whose core does not run (held, asleep or
unpowered) is the model's reading (log entry 104). -/
def Obligations.WhatFollowsACommand : Prop := Claim.NothingFollowsWithoutPass ∧ Claim.WhatFollowsKeeps

/-! ### The target port -/

/-- A powered block that is not ready, or is held, answers every target request and every doorbell write with NOT_READY and zero
data, and the request does nothing (R398); a doorbell write is discarded too. -/
def Claim.NotReadyRequestsDoNothing : Prop :=
  ∀ (c : Instr) (s : State), s.boot.powered = true → s.serving = false →
    let refused : State := { s.newTag with port := { tag := s.port.tag + 1, status := 1 } }
    (isRequest c = true → exec c s = .next refused) ∧
    (∀ b, bellOf c = some b → (∀ size v, b ≠ .signal size v) → exec c s = .next refused.close) ∧
    (∀ size v, exec (.signalDoorbell size v) s = .next refused)

/-- While the core sleeps, the decoder keeps up to 64 doorbell writes and answers them OK; any other target request is held with its
tag; each sets the doorbell wake latch, counted when no latch was set, and cancels an entry into deep sleep that is pending (R384, R385, R398,
R463). -/
def Claim.SleepingBlockKeepsRequests : Prop :=
  ∀ (c : Instr) (s₀ : State),
    let s := s₀.newTag
    s₀.boot.powered = true → s₀.serving = true → s₀.power.state ≠ .run →
    let l := ({ s.countWake with power := { s.power with latchBell := true } } : State).cancelDeep
    (isRequest c = true → exec c s₀ = .next { l with
      power := { l.power with heldReqs := s.power.heldReqs ++ [(s.port.tag, c)] }
      port := { tag := s.port.tag, stalled := true } }) ∧
    (∀ b, bellOf c = some b → s.power.kept.length < 64 → exec c s₀ = .next { l with
      power := { l.power with kept := s.power.kept ++ [(s.port.tag, b)] }
      port := { tag := s.port.tag } }) ∧
    (s.power.deepPending = true → l.power = { s.power with latchBell := true, deepPending := false } ∧
      l.ctr 0x21838 = s.ctr 0x21838 + 1)

/-- What becomes of requests that a block does not serve at once (R384, R385, R398). -/
def Obligations.NotServedAtOnce : Prop := Claim.NotReadyRequestsDoNothing ∧ Claim.SleepingBlockKeepsRequests

/-- A register write of 4 or 8 B sets the RW bits that it covers and leaves every other bit of the word, every other word and the
rest of the block; it is answered OK. A 4-byte write to one half changes only that half (R7, R470). It says where `registerWrite` completes. -/
def Claim.RegisterWrite : Prop :=
  ∀ (s₀ : State) (w : PortWrite),
    let s := s₀.newTag
    s.servesNow → w.off.toNat / 8 * 8 ∈ plainWords →
    (w.size = 3 ∧ w.off.toNat % 8 = 0 ∨ w.size = 2 ∧ w.off.toNat % 4 = 0) →
    ∃ t, exec (.registerWrite w) s₀ = .next t ∧
      (∀ i, i < 64 → (t.word (w.off.toNat / 8)).getLsbD i =
        if written w.off.toNat w.size i && (BitVec.ofNat 64 (rwMask (w.off.toNat / 8 * 8))).getLsbD i
        then w.data.getLsbD (i - if w.size = 2 then w.off.toNat % 8 * 8 else 0)
        else (s.word (w.off.toNat / 8)).getLsbD i) ∧
      (∀ k, k ≠ w.off.toNat / 8 → t.word k = s.word k) ∧
      t = { s with regs := t.regs, port := { tag := s.port.tag } }

/-- A write that is not naturally aligned to its size, or of a reserved size, is ignored with status OK, whatever it addresses
(R396). -/
def Claim.UnalignedWritesIgnored : Prop :=
  ∀ (s₀ : State) (w : PortWrite),
    let s := s₀.newTag
    s.servesNow →
    (w.off.toNat % 2 ^ w.size.toNat ≠ 0 ∨ w.size.toNat < 2 ∨ 6 < w.size.toNat) →
    ∀ c ∈ [Instr.registerWrite w, .sourceConfigWrite w, .qConfigWrite w, .sessionWindowWrite w],
      exec c s₀ = .next { s with port := { tag := s.port.tag } }

/-- An 8-byte write of a word with a field that ignores values below a limit: the field keeps its value when the one written is below the limit,
the word's other RW bits are set, and nothing else changes (R236, R319, R435, R466). -/
def Claim.GuardedWrites : Prop :=
  ∀ (s₀ : State) (w : PortWrite) (lo limit : Nat),
    let s := s₀.newTag
    let o := w.off.toNat
    s.servesNow → w.size = 3 → (o, lo, limit) ∈ [(0x1008, 32, 125), (0x1010, 0, 125), (0x3008, 0, 125), (0xE810, 0, 1250), (0xE818, 0, 1250),
      (0xE848, 0, 1250)] →
    let kept := w.data.toNat / 2 ^ lo % 2 ^ 32 < limit
    ∃ t, exec (.registerWrite w) s₀ = .next t ∧
      (∀ i, i < 64 → (t.word (o / 8)).getLsbD i =
        if (BitVec.ofNat 64 (rwMask o)).getLsbD i && !(decide kept && decide (lo ≤ i) && decide (i < lo + 32)) then w.data.getLsbD i
        else (s.word (o / 8)).getLsbD i) ∧
      (∀ k, k ≠ o / 8 → t.word k = s.word k) ∧ t = { s with regs := t.regs, port := { tag := s.port.tag } }

/-- An 8-byte write of a word behind a selector sets the RW bits of the word that the selector picks, and nothing else: pools and classes by
POOL_SEL and CLASS_SEL, quotas by REQ_SEL, the staged entries of a group by GROUP_SEL (R268, R370). -/
def Claim.BankedWrites : Prop :=
  ∀ (s₀ : State) (w : PortWrite) (word : Nat) (mask : BitVec 64),
    let s := s₀.newTag
    let o := w.off.toNat
    let pool := s.reg 0xC000 0 3
    let cls := 8 * pool + s.reg 0xC000 4 3
    s.servesNow → w.size = 3 →
    (o, word, mask) ∈ [(0xC010, bankWord (8 * pool) 0xC010, (0x1FFFFFFFF : BitVec 64)), (0xC018, bankWord cls 0xC018, 0x1FFFFFFFFFFF),
      (0xC020, bankWord cls 0xC020, 0x1FFF00001FFF), (0xC028, bankWord cls 0xC028, 0x1FFF),
      (0xC030, bankWord (64 + s.reg 0xC000 8 5) 0xC030, 0xFFFFFFFF)] ∨
    (0x6800 ≤ o ∧ o < 0x7000 ∧ o % 8 = 0 ∧ word = bankWord (groupBank (s.reg 0x6000 0 6)) o ∧ mask = 0x03FF03FF03FF03FF) →
    exec (.registerWrite w) s₀ = .next (s.setWord word ((s.word word &&& ~~~mask) ||| (w.data.setWidth 64 &&& mask))).ok

/-- A 4-byte write of GROUP_BITS takes values up to 8, and the target arbitrates; a write of 1 clears BANK_FULL of a target, and LOWERED of a
program, whose mode bits take the written value; 0 leaves either as it is (R236, R380, R387). -/
def Claim.ClearedBits : Prop :=
  ∀ (s₀ : State) (n : Fin 16) (v : BitVec 512),
    let s := s₀.newTag
    s.servesNow →
    let bits := (0xB008 + 0x80 * n.val) / 8
    let mode := (0xE040 + 0x80 * n.val) / 8
    (exec (.registerWrite ⟨BitVec.ofNat 20 (0xB008 + 0x80 * n.val), 2, v⟩) s₀ = .next ((s.setWord bits (if v.toNat % 16 ≤ 8 then
      (s.word bits &&& ~~~(0xF : BitVec 64)) ||| (v.setWidth 64 &&& 0xF) else s.word bits)).arbitrate n.val).ok) ∧
    exec (.registerWrite ⟨BitVec.ofNat 20 (0xB020 + 0x80 * n.val), 2, v⟩) s₀ = .next (if v.getLsbD 8 then
      s.setTarget n.val { s.target n.val with bankFull := false } else s).ok ∧
    exec (.registerWrite ⟨BitVec.ofNat 20 (0xE040 + 0x80 * n.val), 2, v⟩) s₀ = .next (
      let r := s.setWord mode ((s.word mode &&& ~~~(0xFF : BitVec 64)) ||| (v.setWidth 64 &&& 0xFF))
      (if v.getLsbD 12 then r.setProg n { r.prog n with lowered := false } else r).ok)

/-- What a register reads: its RW bits as they were written, beside its RO fields; half of the word at a 4-byte read, and 0 at an unaligned one.
Timebase, LAST_BN, LAST_T_REL, MEMB_VER and the layer-pass counter read as they are, the words of the two ledger records as the record's bytes, a
counter as its count (R319, R370, R440, R470, R475). In the model the mirror of the test port reads words (log entry 126). -/
def Claim.RegisterReads : Prop :=
  ∀ s : State,
    (∀ o, o % 8 = 0 → s.readReg o 2 = s.readReg o 3 % 2 ^ 32 ∧ s.readReg (o + 4) 2 = s.readReg o 3 / 2 ^ 32 % 2 ^ 32) ∧
    (∀ off size, off % 2 ^ size ≠ 0 → s.readReg off size = 0) ∧
    (∀ o i, o ∈ plainWords → i < 64 → (BitVec.ofNat 64 (rwMask o)).getLsbD i = true → (s.readReg o 3).testBit i = (s.word (o / 8)).getLsbD i) ∧
    s.readReg 0x3000 3 = s.mortar.cal.tb ∧ s.readReg 0x3020 3 = s.mortar.bar.lastBn.toNat ∧ s.readReg 0x3028 3 = s.mortar.bar.lastTRel.toNat ∧
    s.readReg 0x3038 3 = s.mortar.tree.membVer.toNat ∧ s.readReg 0xE808 3 = s.sched.count.toNat ∧
    s.readReg 0xD020 3 = (s.queue (s.reg 0xD000 0 12)).drops.toNat ∧ s.readReg 0xD028 3 = (s.queue (s.reg 0xD000 0 12)).flushes.toNat ∧
    (∀ j, j < 4 → s.readReg (0x20020 + 8 * j) 3 = le (s.ledger.first.elim (List.replicate 32 0) LedgerRec.bytes) (8 * j) 8 ∧
      s.readReg (0x20040 + 8 * j) 3 = le (s.ledger.esc.elim (List.replicate 32 0) LedgerRec.bytes) (8 * j) 8) ∧
    ∀ o, 0x20100 ≤ o → o < 0x21000 → o % 8 = 0 → s.readReg o 3 = s.ctr o % 2 ^ 64

/-- Register writes and reads, and writes that no register takes (R7, R396, R470). -/
def Obligations.RegisterWrites : Prop :=
  Claim.RegisterWrite ∧ Claim.UnalignedWritesIgnored ∧ Claim.GuardedWrites ∧ Claim.BankedWrites ∧ Claim.ClearedBits ∧ Claim.RegisterReads

/-- A 4-byte write of SUSTAIN_TB (0x0_100C) or RESTORE_TB (0x0_1010) below 125 is ignored: every register keeps its value. An 8-byte
write over one of them with a value below 125 in its half leaves that register as it was (R467). -/
def Obligations.SagTimesBelow125Ignored : Prop :=
  ∀ (s₀ : State) (w : PortWrite),
    let s := s₀.newTag
    s.servesNow →
    (w.size = 2 → (w.off = 0x0100C ∨ w.off = 0x01010) → w.data.toNat % 2 ^ 32 < 125 →
      ∃ t, exec (.registerWrite w) s₀ = .next t ∧ (∀ k, t.word k = s.word k) ∧
        t = { s with regs := t.regs, port := { tag := s.port.tag } }) ∧
    (w.size = 3 → w.off = 0x01008 → w.data.toNat / 2 ^ 32 % 2 ^ 32 < 125 →
      ∃ t, exec (.registerWrite w) s₀ = .next t ∧ t.reg 0x0100C 0 32 = s.reg 0x0100C 0 32) ∧
    (w.size = 3 → w.off = 0x01010 → w.data.toNat % 2 ^ 32 < 125 →
      ∃ t, exec (.registerWrite w) s₀ = .next t ∧ t.reg 0x01010 0 32 = s.reg 0x01010 0 32)

/-! ### The sequencers -/

/-- NOP goes on to the next instruction; SLOT plans the start T_open + OFFSET + 16 × STEP × i of the innermost loop index; WAIT ALL goes
on when every earlier instruction has completed and waits otherwise; WAIT TIME goes on once the timebase has reached T_open + OFFSET;
WAIT CHUNK goes on when the chunk's doorbell is in and waits otherwise; a chunk at or above CHUNKS raises SHAPE_RANGE (R212, R216, R219,
R228). The model's readings: the index i of SLOT is taken when SLOT runs (log entry 72), and the time that passes while the sequencer waits for
WAIT TIME passes within its command (log entry 9). It says where `nop`, `slot`, `waitAll`, `waitTime` and `waitChunk` complete. -/
def Claim.SequencerWaits : Prop :=
  ∀ (s : State) (q : Fin 16) (x : Sequencer), s.issuing q x →
    exec (.nop q) s = .next (s.modSeq q.val (fun y => { y with pc := x.pc + 1 })).close ∧
    (∀ (offset : BitVec 32) (step : BitVec 16), exec (.slot q offset step) s = .next (s.modSeq q.val (fun y => { y with
      slotAt := some (x.tOpen + offset.toNat + 16 * step.toNat * (match x.loops with
        | [] => 0
        | f :: _ => f.i)), pc := x.pc + 1 })).close) ∧
    ((∀ i ∈ x.instrs, i.prog = .done) → exec (.waitAll q) s = .next (s.modSeq q.val (fun y => { y with pc := x.pc + 1 })).close) ∧
    ((∃ i ∈ x.instrs, i.prog ≠ .done) → exec (.waitAll q) s = .next s.close) ∧
    (∀ offset : BitVec 32, ∃ r : State, exec (.waitTime q offset) s = .next (r.modSeq q.val (fun y => { y with pc := x.pc + 1 })).close ∧
      r.tb = max s.tb (x.tOpen + offset.toNat) ∧ r = { s with mortar := r.mortar, counters := r.counters } ∧
      r.mortar = { s.mortar with cal := { s.mortar.cal with tb := r.tb } }) ∧
    (∀ (ch : BitVec 9) (n : Nat), chunkOf x ch.toNat = some n →
      ((s.chunksOf x).any (· ≤ n) = true → x.tail = false →
        exec (.waitChunk q ch) s = .next ((s.raise Code.shapeRange { unit := 16 }).modSeq q.val (fun y => { y with pc := x.pc })).close) ∧
      ((s.chunksOf x).any (· ≤ n) = false → s.bellIn x n = true →
        exec (.waitChunk q ch) s = .next (s.modSeq q.val (fun y => { y with pc := x.pc + 1, waited := n :: y.waited })).close) ∧
      ((s.chunksOf x).any (· ≤ n) = false → s.bellIn x n = false → exec (.waitChunk q ch) s = .next s.close))

/-- LOOP reads its trip count N: at 0 execution goes on after the ENDLOOP, from 1 to BOUND the body begins with index 0, above BOUND the
code LOOP_LIMIT is raised and no iteration runs. ENDLOOP raises the index and returns to the body while it is below N, and goes on
after the last iteration (R223). A LOOP at the place of a tail goes on to nothing: LOAD has refused every program that has one (R205, R232), and
what the command does in a state that LOAD cannot leave is the model's (log entry 71). It says where `loop` and `endloop` complete. -/
def Claim.Loops : Prop :=
  ∀ (s : State) (q : Fin 16) (x : Sequencer), s.issuing q x →
    (∀ (sh : BitVec 21) (bound : BitVec 16) (body : BitVec 11) (n tag : Nat), x.tail = false → bound ≠ 0 → body ≠ 0 →
      x.loops.length < 4 → s.readShape sh.toNat = .word n tag →
      (n = 0 → exec (.loop q sh bound body) s = .next (s.modSeq q.val (fun y => { y with pc := x.pc + body.toNat + 2 })).close) ∧
      (1 ≤ n → n ≤ bound.toNat → exec (.loop q sh bound body) s = .next (s.modSeq q.val (fun y => { y with
        loops := { body := x.pc + 1, last := x.pc + body.toNat + 1, i := 0, n := n } :: x.loops, pc := x.pc + 1 })).close) ∧
      (bound.toNat < n → exec (.loop q sh bound body) s = .next (s.raise Code.loopLimit { unit := 16 }).close)) ∧
    (∀ (sh : BitVec 21) (bound : BitVec 16) (body : BitVec 11), x.tail = true → exec (.loop q sh bound body) s = .next s.close) ∧
    (∀ (f : LoopFrame) (rest : List LoopFrame), x.loops = f :: rest → f.last = x.pc →
      (f.i + 1 < f.n → exec (.endloop q) s = .next (s.modSeq q.val (fun y => { y with
        loops := { f with i := f.i + 1 } :: rest, pc := f.body })).close) ∧
      (f.n ≤ f.i + 1 → exec (.endloop q) s = .next (s.modSeq q.val (fun y => { y with loops := rest, pc := x.pc + 1 })).close))

/-- The waits, planned starts and loops of a sequencer (R212, R216, R223, R228). -/
def Obligations.SequencerControl : Prop := Claim.SequencerWaits ∧ Claim.Loops

/-- SHAPE COPY writes the value and tag of the source word, SHAPE CHUNKS ceil(value / CHUNK_TOKENS) with tag 0x5101, into the program's
shape region at SHAPE_BASE + 8 × DST: value in bits [31:0], the pass's generation in [47:32], the tag above. A source word that this
attempt has not written makes the sequencer wait (R221, R222). It says where `shapeCopy` and `shapeChunks` complete. -/
def Obligations.ShapeInstructions : Prop :=
  ∀ (s : State) (q : Fin 16) (x : Sequencer) (dst src : BitVec 21), s.issuing q x → x.tail = false → ownWord dst.toNat = false →
    field dst.toNat 0 20 < (s.prog x.prog).image.shapeWords →
    let put (v : Nat) (tag : Nat) : State :=
      ((s.writeLe ((s.prog x.prog).image.shapeBase + 8 * field dst.toNat 0 20) 8 (shapeWord v x.gen tag)).modAtt
        (fun a => { a with shaped := a.shaped ++ [field dst.toNat 0 20] })).modSeq q.val (fun y => { y with pc := x.pc + 1 })
    (∀ v tag, s.readShape src.toNat = .word v tag →
      exec (.shapeCopy q dst src) s = .next (put v tag).close ∧
      exec (.shapeChunks q dst src) s = .next (put (ceilDiv v s.chunkTokens) 0x5101).close) ∧
    (s.readShape src.toNat = .wait →
      exec (.shapeCopy q dst src) s = .next s.close ∧ exec (.shapeChunks q dst src) s = .next s.close)

/-- SIGNAL fires its source, which programs may name from 0x020 to 0x1FF, and goes on. HALT ends the code of a sealed pass: its
sequencer holds the tail until every instruction of it has completed. A HALT with END_PROGRAM stops the program with the pass, or
where the program's code did not say so, now, or after the pass that it has open (R225, R372, R374). When a program with END_PROGRAM stops, and
that the HALT of a tail ends it with every instruction of the tail run to its end, is the model's reading (log entry 71). It says where
`signal` and `halt` complete. -/
def Claim.SignalAndHalt : Prop :=
  ∀ (s : State) (q : Fin 16) (x : Sequencer), s.issuing q x →
    (∀ n : BitVec 10, 0x20 ≤ n.toNat → n.toNat < 0x200 →
      exec (.signal q n) s = .next ((s.fire n.toNat).modSeq q.val (fun y => { y with pc := x.pc + 1 })).close) ∧
    (x.tail = true → exec (.halt q false) s = .next (s.modSeq q.val (fun y => { y with halted := true })).close) ∧
    (x.tail = true → (s.endsProgram x = true ∨ (s.prog x.prog).state ≠ .running) →
      exec (.halt q true) s = .next (s.modSeq q.val (fun y => { y with halted := true })).close) ∧
    (x.tail = true → s.endsProgram x = false → (s.prog x.prog).state = .running →
      let r := s.modSeq q.val (fun y => { y with halted := true })
      exec (.halt q true) s = .next (r.setProg x.prog { s.prog x.prog with
        state := if r.progOpen x.prog then .stopping else .stopped }).close)

/-- SEAL waits until every earlier instruction of the attempt has completed; then the member arrives at the keystone barrier with its
vote: passed, or failed with the first vote-kind code of the attempt, and counted (R224, R289). With a start that a SLOT has planned it waits for
that time first and its lateness is noted (R228, R229; the time passes within the command, log entry 9). It says where `seal` completes. -/
def Claim.SealArrives : Prop :=
  ∀ (s : State) (q : Fin 16) (x : Sequencer) (source : BitVec 10) (fire : Bool), s.issuing q x → x.tail = false → x.loops = [] →
    (fire = true → sourceOk source.toNat = true) →
    ((∃ i ∈ x.instrs, i.prog ≠ .done) → exec (.seal q source fire) s = .next s.close) ∧
    ((∀ i ∈ x.instrs, i.prog = .done) →
      let u := match x.slotAt with
        | none => s
        | some a => (s.until a).noteStart x x.pc a
      let r := u.modSeq q.val (fun y => { y with
        sealing := true, fire := if fire then some source.toNat else none, slotAt := none, pc := x.pc + 1 })
      (x.vote = none → exec (.seal q source fire) s = .next (r.arriveOwn .seal passVote).close) ∧
      (∀ code, x.vote = some code → exec (.seal q source fire) s =
        .next ((r.bump 0x215A0).arriveOwn .seal { ok := false, failCount := 1, firstFail := u.boot.memberId, reason := code }).close))

/-- SEAL arrives at the barrier, SIGNAL fires, HALT ends a pass's code (R224, R225, R289, R372, R374). -/
def Obligations.SealSignalAndHalt : Prop := Claim.SealArrives ∧ Claim.SignalAndHalt

/-- INSTRUCTION_ISSUE reads the code word at the sequencer's place. An engine instruction whose group, class and producers are in order
enters its engine's queue with the planned start that a SLOT has set; one that breaks a rule of R214, R215 or R219 raises
ILLEGAL_INSTRUCTION and is not issued; with 256 waiting in the engine's queue the sequencer waits (R213 to R219). It says where
`instructionIssue` completes. -/
def Claim.InstructionIssue : Prop :=
  ∀ (s : State) (q : Fin 16) (x : Sequencer) (w : Nat) (e : Engine) (c : Option Nat), s.issuing q x → x.tail = false →
    x.pc < (s.prog x.prog).image.codeWords → s.codeWord (s.prog x.prog).image x.pc = w → engineOf (opOf w) = some e →
    c = (if hasChunk (opOf w) then chunkOf x (chRef w) else none) → (hasChunk (opOf w) = true → c.isSome = true) →
    let r := s.modSeq q.val (fun y => { y with declared := max y.declared (classOfWord w) })
    (256 ≤ r.queued e → exec (.instructionIssue q) s = .next r.close) ∧
    (r.queued e < 256 →
      (r.groupOk x w && r.classOk w && r.producersOk x.instrs (opOf w) c && r.statsOk x w) = true →
      ∃ t, exec (.instructionIssue q) s = .next t.close ∧
        t = { ({ r with sched := { r.sched with issued := s.sched.issued + 1 } } : State).modSeq q.val (fun y => { y with
          instrs := y.instrs ++ [{ pc := x.pc, word := BitVec.ofNat 64 w, engine := e, chunk := c, planned := x.slotAt, prog := .waiting,
                                   order := s.sched.issued }]
          slotAt := none, pc := x.pc + 1, group := if exchanges (opOf w) then some (groupOf w) else y.group }) with
          power := { s.power with ungated := if x.slotAt = none then (e :: s.power.ungated).eraseDups else s.power.ungated } }) ∧
    (r.queued e < 256 →
      (r.groupOk x w && r.classOk w && r.producersOk x.instrs (opOf w) c && r.statsOk x w) = false →
      exec (.instructionIssue q) s =
        .next ((r.raise Code.illegalInstruction { unit := 16 }).modSeq q.val (fun y => { y with pc := x.pc })).close)

/-- INSTRUCTION_ISSUE of an instruction that the sequencer runs itself is that instruction's command (R216, R217). -/
def Claim.IssueRunsSequencerInstructions : Prop :=
  ∀ (s : State) (q : Fin 16) (x : Sequencer) (w : Nat), s.issuing q x →
    x.pc < (s.prog x.prog).image.codeWords → s.codeWord (s.prog x.prog).image x.pc = w →
    let r := if x.tail then s else s.modSeq q.val (fun y => { y with declared := max y.declared (classOfWord w) })
    (opOf w = 0x00 → exec (.instructionIssue q) s = exec (.nop q) r) ∧
    (opOf w = 0x01 → exec (.instructionIssue q) s = exec (.slot q (BitVec.ofNat 32 w) (BitVec.ofNat 16 (w / 2 ^ 32))) r) ∧
    (opOf w = 0x02 → field w 0 4 = 0 → exec (.instructionIssue q) s = exec (.waitAll q) r) ∧
    (opOf w = 0x02 → field w 0 4 = 1 → exec (.instructionIssue q) s = exec (.waitTime q (BitVec.ofNat 32 (w / 2 ^ 16))) r) ∧
    (opOf w = 0x02 → field w 0 4 = 2 → exec (.instructionIssue q) s = exec (.waitChunk q (BitVec.ofNat 9 (w / 2 ^ 16))) r) ∧
    (opOf w = 0x03 → exec (.instructionIssue q) s = exec (.seal q (BitVec.ofNat 10 w) (bit w 10)) r) ∧
    (opOf w = 0x08 → exec (.instructionIssue q) s =
      exec (.loop q (BitVec.ofNat 21 w) (BitVec.ofNat 16 (w / 2 ^ 21)) (BitVec.ofNat 11 (w / 2 ^ 37))) r) ∧
    (opOf w = 0x09 → exec (.instructionIssue q) s = exec (.endloop q) r) ∧
    (opOf w = 0x0A → field w 42 2 = 0 → exec (.instructionIssue q) s =
      exec (.shapeCopy q (BitVec.ofNat 21 w) (BitVec.ofNat 21 (w / 2 ^ 21))) r) ∧
    (opOf w = 0x0A → field w 42 2 = 1 → exec (.instructionIssue q) s =
      exec (.shapeChunks q (BitVec.ofNat 21 w) (BitVec.ofNat 21 (w / 2 ^ 21))) r) ∧
    (opOf w = 0x30 → exec (.instructionIssue q) s = exec (.signal q (BitVec.ofNat 10 w)) r) ∧
    (opOf w = 0x31 → exec (.instructionIssue q) s = exec (.halt q (bit w 0)) r)

/-- The issue of instructions: engine instructions enter their queue, and sequencer instructions run (R213 to R219). -/
def Obligations.IssueOfInstructions : Prop := Claim.InstructionIssue ∧ Claim.IssueRunsSequencerInstructions

/-! ### The engines -/

/-- SCORE, RESCORE, SELECT, COUNT, SORT, DISPATCH and every MOVE and FUNC: when the instruction at the head of its engine's queue is
the command's and its inputs are complete, it starts at its planned start, does what its own operation does with the hardware faults that it
meets, and completes (R38, R174, R195, R217 to R219, R228, R436; which words a run finds wrong comes with its command, the model's reading, log
entries 105 and 110; the time that a start waits for is log entry 9). It says where `score`, `rescore`, `select`, `count`, `sort`, `dispatch`,
`convert`, `transpose`, `scatter`, `gather`, `blocksOut`, `blocksIn`, `routerQuantise`, `map`, `gateAct` and `softmax` complete. -/
def Claim.EngineInstructionsComplete : Prop :=
  ∀ (s : State) (c : Instr) (e : Engine) (op : Nat) (sub : Option Nat) (q k : Nat) (x : Sequencer) (i : Issued),
    engineCommand c = some (e, op, sub) → s.headRuns e op sub q k x i →
    let r := s.startedAt e q k x i
    let n := i.chunk.getD 0
    let a := recordOf i.word.toNat
    (∀ errs finds, c = .score errs finds → exec c s = .next ((r.scoreChunk n errs finds).completeInstr q k i).close) ∧
    (∀ finds, c = .rescore finds → exec c s = .next ((r.rescoreChunk n finds).completeInstr q k i).close) ∧
    (∀ finds, c = .select finds → exec c s = .next ((((r.readSelect n finds).selectChunk n).freeScoring n).completeInstr q k i).close) ∧
    (c = .count → exec c s = .next (r.runCount.completeInstr q k i).close) ∧
    (c = .sort → exec c s = .next ((r.sortChunk n).completeInstr q k i).close) ∧
    (c = .dispatch → exec c s = .next ((r.dispatchChunk n).completeInstr q k i).close) ∧
    (c ∈ [.convert, .scatter, .gather, .blocksOut, .blocksIn, .routerQuantise] →
      exec c s = .next ((r.runMove a (classOfWord i.word.toNat) []).completeInstr q k i).close) ∧
    (∀ finds, c = .transpose finds → exec c s = .next ((r.runMove a (classOfWord i.word.toNat) finds).completeInstr q k i).close) ∧
    (∀ finds, c ∈ [.map finds, .gateAct finds, .softmax finds] → exec c s = .next ((r.runFunc a finds).completeInstr q k i).close)

/-- NORM, GRANT, TILES, RETURN, COMBINE, COMBINE_AR, REDUCE_AR, STATS and FETCH: when the instruction at the head of its engine's queue is the
command's and its inputs are complete, it starts at its planned start, with what its own operation does at once and what its first reads of
the combine store and the reduction buffer find; it completes when what it waits for has come, for NORM the chunk's buffers for its records (R217
to R219, R228, R350, R436; log entries 9, 105 and 110 for the times and the finds). It says where `norm`, `grant`, `tiles`,
`ret`, `combine`, `combineAr`, `reduceAr`, `stats` and `fetch` complete. -/
def Claim.EngineInstructionsStart : Prop :=
  ∀ (s : State) (c : Instr) (e : Engine) (op : Nat) (sub : Option Nat) (q k : Nat) (x : Sequencer) (i : Issued),
    engineCommand c = some (e, op, sub) → s.headRuns e op sub q k x i →
    let r := s.startedAt e q k x i
    let w := i.word.toNat
    (c = .norm → exec c s = .next ((r.normChunk (i.chunk.getD 0)).takeScoring (i.chunk.getD 0)).close) ∧
    (c = .grant → exec c s = .next r.startGrant.close) ∧
    (c = .tiles → exec c s = .next (r.modAtt (fun a => { a with tilesOn := true })).close) ∧
    (c = .ret → exec c s = .next r.startReturn.close) ∧
    (∀ finds, c = .combine finds → exec c s = .next (r.readAccums finds).startCombine.close) ∧
    (∀ finds, c = .combineAr finds → exec c s = .next ((((r.readAccums (finds.filter (fun f => !(inReduction f)))).startCombine.startReduce
      (opseqAt x.instrs k) (groupOf w) (recordOf w) true).readBuffer (opseqAt x.instrs k) (finds.filter inReduction)).close)) ∧
    (∀ finds, c = .reduceAr finds → exec c s = .next ((r.startReduce (opseqAt x.instrs k) (groupOf w) (recordOf w) false).readBuffer
      (opseqAt x.instrs k) finds).close) ∧
    (∀ finds, c = .stats finds → exec c s = .next ((r.startStats (opseqAt x.instrs k) (groupOf w)).readBuffer (opseqAt x.instrs k) finds).close) ∧
    (c = .fetch → exec c s = .next (r.startFetch x.prog (if x.tail then some x else none) (recordOf w)).close)

/-- An engine runs nothing out of its turn: an engine command does nothing when the engine's queue is empty, when the instruction at
its head is another, has started already, or lacks an input (R217 to R219). A MOVE or FUNC of a reserved OP is started by any command of its
engine (the model's choice, log entry 115). -/
def Claim.EnginesWaitTheirTurn : Prop :=
  ∀ (s : State) (c : Instr) (e : Engine) (op : Nat) (sub : Option Nat), engineCommand c = some (e, op, sub) →
    ((s.engineQueue e).head? = none ∨
      ∃ q k x i, (s.engineQueue e).head? = some (q, k, i) ∧ s.seq q = some x ∧
        (i.prog ≠ .waiting ∨ i.op ≠ op ∨ s.inputsIn x k i = false ∨
          ∃ o, sub = some o ∧ s.readLe (recordOf i.word.toNat) 1 ≠ o ∧ reservedSub op (s.readLe (recordOf i.word.toNat) 1) = false)) →
    exec c s = .next s.close

/-- SCORE of a chunk without faults: a pair record for each of its tokens and experts, and nothing else but the count of pairs. A valid token's S
is the exact sum of its blocks' terms times s_T, rounded once to FP32 (R36); an invalid token's is NaN (R24). B is +Inf where x̂ is not finite or an
L1 byte of the expert's blocks is 0xFF (R31, R39). That an invalid token's B is +Inf, and the sign of an S whose exact sum is zero, are the
model's choices (log entry 130). -/
def Claim.ScoreRecords : Prop :=
  ∀ (s : State) (c : Nat), s.scoring.ok = true →
    let b := s.scoring
    let toks := (Tab.get? s.att.score c).getD []
    let t := s.scoreChunk c [] []
    t = ({ s with att := { s.att with score := t.att.score } } : State).bump 0x21000 (toks.length * b.e) ∧
    (∀ c', c' ≠ c → Tab.get? t.att.score c' = Tab.get? s.att.score c') ∧
    ∃ l, Tab.get? t.att.score c = some l ∧ l.length = toks.length ∧
      ∀ (i : Nat) (x : TokScore), toks[i]? = some x → ∃ ps, l[i]? = some { x with pairs := ps } ∧ ps.length = b.e ∧
        ∀ (e : Nat) (p : PairRec), ps[e]? = some p →
          let ws := (List.range (b.d / 32)).map (s.sketchBlock b e)
          (x.invalid = true → p.s = 0x7FC00000 ∧ p.b = 0x7F800000) ∧
          (x.invalid = false → (∀ o ∈ x.outliers, (b16 o.2.toNat).isFin = true) → ∃ v : FV, v.isFin = true ∧
            v.rat = b.scale.rat * (ws.zipIdx.map (fun w => sketchTerm x w.2 w.1)).sum ∧ p.s = BitVec.ofNat 32 (toF32 v)) ∧
          (x.invalid = false → (x.nonfinite = true ∨ ∃ w ∈ ws, w.l1 = 0xFF) → p.b = 0x7F800000)

/-- RESCORE of a chunk: every undecided pair gets its reference score and the bound 0, every other pair keeps its record, and every other chunk its
records (R43, R47). The reference score of finite values is their exact sum of products rounded once, −0 only when every product is −0; a NaN
product, or infinities of both signs, give NaN; otherwise an infinite product gives that infinity (R45). -/
def Claim.ReferenceScores : Prop :=
  (∀ (s : State) (c : Nat), s.scoring.ok = true →
    let b := s.scoring
    let toks := (Tab.get? s.att.score c).getD []
    let t := s.rescoreChunk c []
    toks.length = (s.chunkRange c).length →
    (∀ c', c' ≠ c → Tab.get? t.att.score c' = Tab.get? s.att.score c') ∧
    ∃ l, Tab.get? t.att.score c = some l ∧ l.length = toks.length ∧
      ∀ (i : Nat) (x : TokScore) (n : Nat), toks[i]? = some x → (s.chunkRange c)[i]? = some n →
        ∃ ps, l[i]? = some { x with pairs := ps } ∧ ps.length = x.pairs.length ∧
          ∀ (e : Nat) (p : PairRec), x.pairs[e]? = some p →
            ps[e]? = some (if (x.undecidedOf s.selection).any (fun u => u.e == e) then
              { s := BitVec.ofNat 32 (toF32 (refScore (s.xhat b ⟨f32 x.mu.toNat, x.k, f32 x.r.toNat⟩ (s.routerRow b n))
                  (rowValues 1 b.d (s.read (b.bf16 + e * 2 * b.d) (2 * b.d))))), b := 0, undecided := true }
              else p)) ∧
  ∀ xh w : List FV,
    let ps := (xh.zip w).map (fun p => FV.mul p.1 p.2)
    ((∀ p ∈ ps, p.isFin = true) → ∃ v : FV, v.isFin = true ∧ v.rat = (ps.map FV.rat).sum ∧ refScore xh w = v.rn32 ∧
      ((∀ n q, .fin n q ∈ ps → 0 ≤ q) → v.rat = 0 → (v.isNeg = true ↔ ps ≠ [] ∧ ∀ p ∈ ps, p = .fin true 0))) ∧
    (((∃ p ∈ ps, p = .nan) ∨ (.inf true ∈ ps ∧ .inf false ∈ ps)) → refScore xh w = .nan) ∧
    (∀ n, (∀ p ∈ ps, p ≠ .nan) → .inf n ∈ ps → .inf (!n) ∉ ps → refScore xh w = .inf n)

/-- A legal MOVE whose operands fit and do not clash does what its record says, with its counts and notices. CONVERT writes row for row; TRANSPOSE
writes element (i, j) of SRC at (j, i); GATHER writes the row that each entry of INDEX names, the last row for an entry beyond it (R187, R191). -/
def Claim.MoveResults : Prop :=
  ∀ (s : State) (addr cls : Nat) (a : MoveArgs),
    let m := MoveRec.parse (s.read addr 64)
    m.legal cls = true → m.op ≠ opRouter → s.moveArgs m = some a → a.fits m = true → a.clash m = false →
    ∃ o : MoveOut,
      s.runMove addr cls [] = (if m.acc = 1 then s.useFree else s).moveDone o (a.src.aligned && a.dst.aligned &&
        (a.index.map Desc.aligned).getD true && (a.init.map Desc.aligned).getD true) ∧
      (m.op = opConvert → o.writes.length = min a.src.rows.length a.dst.rows.length ∧ o.read = a.src.volume ∧ o.clamped = 0 ∧ o.dropped = 0 ∧
        ∀ (i p q : Nat), a.src.rows[i]? = some p → a.dst.rows[i]? = some q →
          o.writes[i]? = some (q, rowData a.dst.format (s.rowAt a.src p))) ∧
      (m.op = opTranspose → o.writes.length = a.dst.size 1 ∧ o.read = a.src.volume ∧ o.clamped = 0 ∧ o.dropped = 0 ∧
        ∀ j, j < a.dst.size 1 → ∃ vs : List FV, o.writes[j]? = some (a.dst.row j 0 0, rowData a.dst.format vs) ∧ vs.length = a.src.size 1 ∧
          ∀ i, i < a.src.size 1 → vs[i]? = some ((s.row2 a.src i).getD j .zero)) ∧
      (m.op = opGather → ∀ d, a.index = some d → o.writes.length = d.size 0 ∧ o.dropped = 0 ∧
        o.clamped = ((s.listOf d).filter (fun k => decide (a.src.size 1 - 1 < k))).length * a.src.size 0 ∧
        ∀ (i k : Nat), (s.listOf d)[i]? = some k →
          o.writes[i]? = some (a.dst.row i 0 0, rowData a.dst.format (s.row2 a.src (if a.src.size 1 - 1 < k then a.src.size 1 - 1 else k))))

/-- How an element is converted (R188). A row of an ungrouped format holds its elements in their places. An integer takes the rounded value, limited
to its range, and 0 for a NaN; E4M3 takes ±448 for a larger magnitude or an infinity and 0x7F for a NaN; a group of an MX format that holds a NaN or
an infinity takes scale code 0xFF and zero elements, and such a group reads as NaN. -/
def Claim.Conversions : Prop :=
  (∀ (code : Nat) (vs : List FV) (i : Nat) (v : FV), code ≤ 5 → vs[i]? = some v →
    le (rowData code vs) (elemBits code / 8 * i) (elemBits code / 8) = elemCode code v % 2 ^ elemBits code) ∧
  (∀ n ∈ [(4, 8), (5, 32)], elemCode n.1 .nan = 0 ∧
    (∀ neg q, signed n.2 (elemCode n.1 (.fin neg q)) = max (-(2 : Int) ^ (n.2 - 1)) (min ((2 : Int) ^ (n.2 - 1) - 1) (rnInt (FV.fin neg q).rat))) ∧
    ∀ neg, signed n.2 (elemCode n.1 (.inf neg)) = if neg then -(2 : Int) ^ (n.2 - 1) else (2 : Int) ^ (n.2 - 1) - 1) ∧
  elemCode 3 .nan = 0x7F ∧ elemCode 3 (.inf false) = 0x7E ∧ elemCode 3 (.inf true) = 0xFE ∧
  FV.decode e4m3 0x7E = .fin false 448 ∧
  (∀ (neg : Bool) (q : Rat), 448 < e4m3.roundMag .rn neg q → elemCode 3 (.fin neg q) = if neg then 0xFE else 0x7E) ∧
  (∀ (code : Nat) (vs : List FV), 6 ≤ code → code ≤ 9 → vs.length = 32 → (∃ v ∈ vs, v.isFin = false) →
    groupData code vs = 0xFF :: List.replicate (4 * groupBits code) 0) ∧
  ∀ (code : Nat) (b : List Byte), groupValues code (0xFF :: b) = List.replicate 32 .nan

/-- A function job: an illegal record raises ILLEGAL_INSTRUCTION, an operand outside every allocation DESCRIPTOR_INVALID, Y over an operand
OVERLAP, each with nothing written (R163, R164, R185). MAP writes F(a) of every element of A in its place of Y (R162); GATE_ACT f × b, with SELF
a × f × b, rounded once, a scalar gate serving the whole row (R160). That DESCRIPTOR_INVALID comes before OVERLAP is the model's choice (log
entry 133), as is that every row of A and B reads as it was before the job (log entry 114). -/
def Claim.FunctionJobs : Prop :=
  ∀ (s : State) (addr : Nat),
    let j := FuncJob.parse (s.read addr 64)
    let inside := s.insideAlloc j.a j.runA.span = true ∧ s.insideAlloc j.y j.runY.span = true ∧ (j.op = 1 → s.insideAlloc j.b j.runB.span = true)
    let clash := j.runY.badOverlap j.runA = true ∨ (j.op = 1 ∧ j.runY.badOverlap j.runB = true)
    let w := ioSize j.outFmt
    (s.jobLegal j = false → s.runFunc addr [] = s.raise Code.illegalInstruction { unit := 11 }) ∧
    (s.jobLegal j = true → ¬ inside → s.runFunc addr [] = (s.bump 0x21408).raise Code.descriptorInvalid { unit := 11 }) ∧
    (s.jobLegal j = true → inside → clash → s.runFunc addr [] = (s.bump 0x21408).raise Code.overlap { unit := 11 }) ∧
    (s.jobLegal j = true → inside → ¬ clash → ∃ rows : List (Nat × List Byte), rows.length = j.rows ∧
      (s.runFunc addr []).mem = (s.each rows (fun s r => s.write r.1 r.2)).mem ∧
      ∀ (i : Nat) (r : Nat × List Byte), rows[i]? = some r → r.1 = j.y + i * j.yStride ∧ r.2.length = w * j.n ∧
        (j.op = 0 → ∀ (k : Nat) (x : FV), (s.runRow j.runA j.inFmt i)[k]? = some x →
          le r.2 (w * k) w = s.evalFn j.id j.rm (ioFmt j.outFmt) x % 2 ^ (8 * w)) ∧
        (j.op = 1 → ∀ (k : Nat) (y x : FV), (s.runRow j.runB j.inFmt i)[k]? = some y →
          (s.runRow j.runA j.inFmt i)[if j.scalar then 0 else k]? = some x →
          let f := f32 (s.evalFn j.id j.rm fp32 x)
          le r.2 (w * k) w = (FV.mul (if j.self then FV.mul x f else f) y).encode (ioFmt j.outFmt) j.rm % 2 ^ (8 * w)))

/-- A term of a token's row: when every element passes its guard, each word takes RN(v / 2^(E_tok − 40)) modulo 2^64 and every group's residue stays
that of its words; when one does not, COMBINE_GUARD is raised and the token is done (R135, R136, R138). -/
def Claim.CombineTerms : Prop :=
  ∀ (s : State) (n : Nat) (vs : List FV) (a : Accum) (qs : List Int), Tab.get? s.att.comb.accs n = some a → a.words.length = vs.length →
    let g := guardBits s.selection.kMax
    let passes (v : FV) (q : Int) : Prop := v.isFin = true ∧ q = rnInt (v.rat / pow2 (a.eTok - 40)) ∧ q.natAbs < 2 ^ (62 - g)
    (a.residues = wordResidues a.words → qs.length = vs.length → (∀ p ∈ vs.zip qs, passes p.1 p.2) →
      ∃ x : Accum, s.addTerm n vs id = s.modComb (fun c => { c with accs := Tab.put c.accs n x }) ∧
        x = { a with words := x.words, residues := wordResidues x.words } ∧ x.words.length = a.words.length ∧
        ∀ (i : Nat) (u : BitVec 64) (q : Int), a.words[i]? = some u → qs[i]? = some q → x.words[i]? = some (u + BitVec.ofInt 64 q)) ∧
    ((∃ v ∈ vs, ∀ q, ¬ passes v q) → s.addTerm n vs id = s.guardFail n)

/-- What the engines compute (R24, R36, R45, R135, R136, R162, R187, R188). -/
def Claim.EngineResults : Prop :=
  Claim.ScoreRecords ∧ Claim.ReferenceScores ∧ Claim.MoveResults ∧ Claim.Conversions ∧ Claim.FunctionJobs ∧ Claim.CombineTerms

/-- Every engine instruction starts in its turn, when its inputs are complete, and does what its own operation does (R217 to R219). -/
def Obligations.EngineInstructions : Prop :=
  Claim.EngineInstructionsComplete ∧ Claim.EngineInstructionsStart ∧ Claim.EnginesWaitTheirTurn ∧ Claim.EngineResults

/-! ### Programs and their doorbells -/

/-- LOAD of a program that is not running: an image that passes the checks makes it LOADED at pass 0, step 0, with no fault; one that
fails makes it EMPTY with LOAD_REASON and LOAD_FAULT, and raises ILLEGAL_INSTRUCTION outside any pass; source 0x00B fires. A read of the image
that the host port fails is such a failure, of the header reason 11. A running or stopping program ignores LOAD (R204, R205). It says where `load`
completes. In the model LOAD_FAULT is 0 after an accepted LOAD (log entry 70), and `loadFail` picks which failure is reported (log entry 21). -/
def Claim.ProgramLoad : Prop :=
  ∀ (s₀ : State) (p : Fin 16) (v : BitVec 32),
    let s := s₀.newTag
    s.servesNow → v.toNat % 8 = 1 →
    ((s.prog p).state = .running ∨ (s.prog p).state = .stopping → exec (.load p v) s₀ = .next s.ok) ∧
    ((s.prog p).state ≠ .running → (s.prog p).state ≠ .stopping →
      let img := ProgImage.parse (s.read (s.progImageAddr p) 64)
      (∀ f, s.loadFail p img = some f → exec (.load p v) s₀ = .next
        (((s.setProg p { s.prog p with state := .empty, loadReason := BitVec.ofNat 8 f.reason, loadFault := BitVec.ofNat 16 f.index,
                                       loadFaultEntry := f.entry }).raise Code.illegalInstruction { unit := 16, noPass := true }).fire 0xB).ok) ∧
      (s.loadFail p img = none →
        let r := (s.setProg p { s.prog p with state := .loaded, image := img, passIndex := 0, steps := 0, loadReason := 0,
                                              loadFault := 0, loadFaultEntry := false, bells := [] }).applyPlacement p.val
        let r := r.modPlacement p (fun x => { x with inLast := none, lastOpened := false })
        exec (.load p v) s₀ = .next ((if r.isPlanner p then r.loadPlan p else r).fire 0xB).ok) ∧
      s.loadFail p img (some .header) = some { reason := 11, index := 0xFFFF, entry := false } ∧
      (∀ failed f, s.ok.loadFail p img (some failed) = some f → exec (.load p v (some failed)) s₀ = .next
        (((s.ok.setProg p { s.prog p with state := .empty, loadReason := BitVec.ofNat 8 f.reason, loadFault := BitVec.ofNat 16 f.index,
                                          loadFaultEntry := f.entry }).raise Code.illegalInstruction { unit := 16, noPass := true }).fire 0xB)))

/-- START makes a LOADED or STOPPED program RUNNING, and its place passes the entries that are skipped (R202); STOP makes a RUNNING one
STOPPING; in any other state, and when more than one command bit is set, the write does nothing (R204). It says where `start` and `stop` complete. -/
def Claim.ProgramStartAndStop : Prop :=
  ∀ (s₀ : State) (p : Fin 16) (v : BitVec 32),
    let s := s₀.newTag
    s.servesNow →
    (v.toNat % 8 = 2 → ((s.prog p).state = .loaded ∨ (s.prog p).state = .stopped) →
      exec (.start p v) s₀ = .next ((s.setProg p { s.prog p with state := .running }).settlePlace p).ok) ∧
    (v.toNat % 8 = 2 → (s.prog p).state ≠ .loaded → (s.prog p).state ≠ .stopped → exec (.start p v) s₀ = .next s.ok) ∧
    (v.toNat % 8 = 4 → (s.prog p).state = .running →
      exec (.stop p v) s₀ = .next (s.setProg p { s.prog p with state := .stopping }).ok) ∧
    (v.toNat % 8 = 4 → (s.prog p).state ≠ .running → exec (.stop p v) s₀ = .next s.ok) ∧
    (v.toNat % 8 ∉ [1, 2, 4] → exec (.load p v) s₀ = .next s.ok ∧ exec (.start p v) s₀ = .next s.ok ∧ exec (.stop p v) s₀ = .next s.ok)

/-- The commands of PROG_CTRL by STATE (R204, R205). -/
def Obligations.ProgramCommands : Prop := Claim.ProgramLoad ∧ Claim.ProgramStartAndStop

/-- A chunk-ready doorbell that names the program's next pass is accepted once, and remembered; one that names another pass, repeats an
accepted one, or comes for an EMPTY or FAULT program is ignored (R212). It says where `chunkReadyDoorbell` completes. -/
def Claim.ChunkDoorbell : Prop :=
  ∀ (s₀ : State) (p : Fin 16) (v : BitVec 32),
    let s := s₀.newTag
    s.servesNow →
    let b : ChunkBell := { entry := v.toNat % 4096, chunk := v.toNat / 4096 % 256, step := BitVec.ofNat 12 (v.toNat / 2 ^ 20) }
    let g := s.prog p
    let next := s.placeOf p false
    (s.openSeq = none → s.sched.next = none → g.state ≠ .empty → g.state ≠ .fault → b ∉ g.bells →
      next.entry = b.entry → next.steps % 4096 = b.step.toNat →
      exec (.chunkReadyDoorbell p v) s₀ = .next (s.setProg p { g with bells := g.bells ++ [b] }).ok.close) ∧
    ((g.state = .empty ∨ g.state = .fault ∨ b ∈ g.bells) → exec (.chunkReadyDoorbell p v) s₀ = .next s.ok.close) ∧
    (s.openSeq = none → s.sched.next = none → (next.entry ≠ b.entry ∨ next.steps % 4096 ≠ b.step.toNat) →
      exec (.chunkReadyDoorbell p v) s₀ = .next s.ok.close)

/-- Tile-done, shared-ready and collective-ready doorbells that name the open attempt take effect once; one that names another attempt,
and one repeated, changes nothing (R117, R142, R272). It says where `tileDoneDoorbell`, `sharedReadyDoorbell` and `collectiveReadyDoorbell`
complete. -/
def Claim.AttemptDoorbells : Prop :=
  ∀ (s₀ : State) (p : Fin 16) (q : Sequencer) (v : BitVec 32),
    let s := s₀.newTag
    s.servesNow → s.openSeq = some q → q.prog = p →
    (q.aborted = false → v.toNat / 2 ^ 24 % 4 = q.attempt.toNat →
      let n := v.toNat % 2 ^ 24
      (n < s.att.entered → n ∉ s.att.doneTiles → exec (.tileDoneDoorbell p v) s₀ = .next
        (((s.modAtt (fun a => { a with doneTiles := a.doneTiles ++ [n] })).modComb
          (fun c => { c with lastDone := some s.tb })).returnTile n).ok.close) ∧
      (n ∈ s.att.doneTiles ∨ s.att.entered ≤ n → exec (.tileDoneDoorbell p v) s₀ = .next s.ok.close)) ∧
    (q.aborted = false → v.toNat % 2 ^ 16 = q.gen.toNat → v.toNat / 2 ^ 16 % 4 = q.attempt.toNat →
      (s.combineBlock.shared ≠ 0 → s.att.comb.shared = false →
        let r := s.modComb (fun c => { c with shared := true })
        exec (.sharedReadyDoorbell p v) s₀ = .next (r.each (Tab.keys s.att.comb.accs) State.addShared).combineProgress.ok.close) ∧
      (s.att.comb.shared = true → exec (.sharedReadyDoorbell p v) s₀ = .next s.ok.close) ∧
      let op := v.toNat / 2 ^ 18 % 256
      (op ∉ s.att.collBells → exec (.collectiveReadyDoorbell p v) s₀ =
        .next (s.modAtt (fun a => { a with collBells := a.collBells ++ [op] })).ok.close) ∧
      (op ∈ s.att.collBells → exec (.collectiveReadyDoorbell p v) s₀ = .next s.ok.close)) ∧
    (q.aborted = true ∨ v.toNat / 2 ^ 24 % 4 ≠ q.attempt.toNat → exec (.tileDoneDoorbell p v) s₀ = .next s.ok.close) ∧
    (q.aborted = true ∨ v.toNat % 2 ^ 16 ≠ q.gen.toNat ∨ v.toNat / 2 ^ 16 % 4 ≠ q.attempt.toNat →
      exec (.sharedReadyDoorbell p v) s₀ = .next s.ok.close ∧ exec (.collectiveReadyDoorbell p v) s₀ = .next s.ok.close)

/-- The doorbells of a program (R117, R142, R212, R272). -/
def Obligations.ProgramDoorbells : Prop := Claim.ChunkDoorbell ∧ Claim.AttemptDoorbells

/-- A tile pop of 32 B by the open pass's program returns the descriptor at the head of the tile list, which leaves the list. With none
ready it returns the empty, done or abort code; a pop of another size returns 0 (R14, R117). Words of the cache that SECDED finds wrong come with
the command, and one that cannot be corrected leaves its part of the answer free (the model's reading, log entries 105 and 110). It says where
`tilePop` completes. -/
def Obligations.TilePop : Prop :=
  ∀ (s₀ : State) (p : Fin 16) (q : Sequencer) (size : BitVec 3),
    let s := s₀.newTag
    s.servesNow → s.openSeq = some q → q.prog = p → q.aborted = false →
    (∀ finds, ∃ r, exec (.tilePop p size) s₀ = .next r ∧ exec (.tilePop p size finds) s₀ = .next (r.readCache 4 finds)) ∧
    (size ≠ 5 → exec (.tilePop p size) s₀ = .next (s.answer 0)) ∧
    (∀ i rest, (s.queue s.dispatchBlock.queue).entries = .item i :: rest → descLast i.data = false →
      exec (.tilePop p 5) s₀ = .next ((s.setQueue s.dispatchBlock.queue
        { s.queue s.dispatchBlock.queue with entries := rest }).answer (ofLe i.data))) ∧
    ((s.queue s.dispatchBlock.queue).entries = [] → Tab.get? s.sched.popCode p.val = some 1 →
      exec (.tilePop p 5) s₀ = .next ((s.bump 0x210F0).answer (popAnswer 1))) ∧
    (∀ code, (s.queue s.dispatchBlock.queue).entries = [] → Tab.get? s.sched.popCode p.val = some code → code ≠ 1 →
      exec (.tilePop p 5) s₀ = .next (s.answer (popAnswer code)))

/-! ### The signal unit -/

/-- A 4-byte write of a number from 0x200 to 0x3FF to the signal doorbell at byte address 0x8_0000 fires that source. A write with a
smaller number, with a reserved bit set, or of any other size is ignored and counted in its counter. It says where `signalDoorbell`
completes. -/
def Obligations.SignalDoorbell : Prop :=
  ∀ (s₀ : State) (size : BitVec 3) (v : BitVec 32),
    let s := s₀.newTag
    s.servesNow →
    (size = 2 → 0x200 ≤ v.toNat → v.toNat < 0x400 → exec (.signalDoorbell size v) s₀ = .next (s.fire v.toNat).ok) ∧
    (size ≠ 2 ∨ v.toNat < 0x200 ∨ 0x400 ≤ v.toNat → exec (.signalDoorbell size v) s₀ = .next (s.bump 0x21788).ok) ∧
    (∀ w : PortWrite, w.off = 0x80000 → 2 ≤ w.size.toNat → w.size.toNat ≤ 6 →
      exec (.registerWrite w) s₀ = exec (.signalDoorbell w.size (w.data.setWidth 32)) s₀)

/-- A write of an enabled source's number to SET_PENDING has the effect of one fire and closes the batch: the source is pending, with its
count raised by 1 (65,535 stays). A write to CLEAR_PENDING discards its batch, open or pending, with its count. Neither acts on a
disabled source or on numbers above 0x3FF. It says where `setPending` and `clearPending` complete. -/
def Obligations.SetAndClearPending : Prop :=
  ∀ (s₀ : State) (v : BitVec 32),
    let s := s₀.newTag
    s.servesNow →
    (v.toNat < 0x400 → s.srcEnable v.toNat = true →
      (∃ t, exec (.setPending v) s₀ = .next t ∧ t.ctr 0x21780 = s.ctr 0x21780 + 1 ∧
        (t.source v.toNat).pending = true ∧ (t.source v.toNat).isOpen = false ∧
        (t.source v.toNat).count = (if (s.source v.toNat).pending = false ∧ (s.source v.toNat).isOpen = false then 1
          else if (s.source v.toNat).count = 0xFFFF then 0xFFFF else (s.source v.toNat).count + 1) ∧
        (∀ n, n ≠ v.toNat → t.source n = s.source n) ∧
        t = { s with signals := t.signals, counters := t.counters, port := { tag := s.port.tag } }) ∧
      (∃ t, exec (.clearPending v) s₀ = .next t ∧ t.source v.toNat = {} ∧ (∀ n, n ≠ v.toNat → t.source n = s.source n) ∧
        t = { s with signals := t.signals, port := { tag := s.port.tag } })) ∧
    (0x400 ≤ v.toNat ∨ s.srcEnable v.toNat = false →
      exec (.setPending v) s₀ = .next s.ok ∧ exec (.clearPending v) s₀ = .next s.ok)

/-- A fire of an enabled source counts in its batch: it opens one at count 1 with its deadline, raises an open or pending one's count by 1,
65,535 staying with SAT set, and closes an open batch at COAL_COUNT; a closed batch is pending. No other source changes (R377, R378). -/
def Claim.FireCounts : Prop :=
  ∀ (s : State) (n : Nat), s.srcEnable n = true →
    let b := s.source n
    let c := (s.fire n).source n
    (b.pending = true → c = b.count1) ∧
    (b.pending = false → b.isOpen = true →
      (b.count1.count.toNat < s.srcCoalCount n → c = b.count1) ∧
      (s.srcCoalCount n ≤ b.count1.count.toNat → c = { b.count1 with isOpen := false, pending := true })) ∧
    (b.pending = false → b.isOpen = false → c.count = 1 ∧ c.sat = false ∧ c.deadline = s.tb + s.srcCoalTb n ∧
      c.timed = decide (s.srcCoalTb n ≠ 0) ∧ (s.srcCoalCount n ≤ 1 → c.pending = true ∧ c.isOpen = false) ∧
      (1 < s.srcCoalCount n → c.pending = false ∧ c.isOpen = true)) ∧
    (∀ m, m ≠ n → (s.fire n).source m = s.source m) ∧ (s.fire n).ctr 0x21780 = s.ctr 0x21780 + 1

/-- When a disabled source fires, the fire is discarded and counted in DISABLED_FIRES. Clearing ENABLE discards the source's open batch and
its pending bit, and leaves every target's active stack as it is. -/
def Obligations.DisabledSources : Prop :=
  ∀ (s : State) (n : Nat), n < 0x400 →
    (s.srcEnable n = false → s.fire n = s.bump 0x21790) ∧
    (∀ w : PortWrite, s.servesNow → s.srcEnable n = true → w.off.toNat = 0x8000 + 8 * n → (w.size = 3 ∨ w.size = 2) →
      w.data.getLsbD 4 = false → ∃ t, exec (.sourceConfigWrite w) s = .next t ∧ t.srcEnable n = false ∧ t.source n = {} ∧
        ∀ k, (t.target k).stack = (s.target k).stack)

/-- Arbitration: what a target presents is pending, enabled and routed to it; no other pending source of its bank ranks higher (larger
priority byte, then the lower number); its group is strictly above that of the top of the active stack; VP_ADDR is the target's VECTOR_BASE
plus the source's VOFFSET as it comes to be presented. While VP_RST_N is asserted or the stack holds 16 entries, nothing is presented; with
VP_RST_N released, fewer entries, and a pending source in the bank whose group is above that of the top, something is (R380 to R382, R407, R408). -/
def Claim.Arbitration : Prop :=
  ∀ (s : State) (t : Nat), s.power.state = .run →
    let r := (s.arbitrate t).target t
    ((s.signals.vpReset = true ∨ 16 ≤ (s.target t).stack.length) → r.presented = none) ∧
    (s.signals.vpReset = false → (s.target t).stack.length < 16 →
      (∃ m ∈ s.bank t, (s.source m).pending = true ∧ ∀ top rest, (s.target t).stack = top :: rest → top.2 < s.srcGroup m) →
      r.presented.isSome = true) ∧
    (∀ n, r.presented = some n → (s.source n).pending = true ∧ s.srcEnable n = true ∧ s.srcTarget n = t ∧
      (∀ m, n ≠ m → m ∈ s.bank t → (s.source m).pending = true →
        s.srcPriority m < s.srcPriority n ∨ (s.srcPriority m = s.srcPriority n ∧ n ≤ m)) ∧
      (∀ top rest, (s.target t).stack = top :: rest → top.2 < s.srcGroup n) ∧
      r.addr = if (s.target t).presented = some n then (s.target t).addr else BitVec.ofNat 64 (s.vectorBase t + s.srcVOffset n)) ∧
    (r.presented = none → r.addr = (s.target t).addr) ∧
    r.stack = (s.target t).stack ∧ ∀ k, k ≠ t → (s.arbitrate t).target k = s.target k

/-- Every enabled source is in the bank of its target. -/
def Claim.BankHoldsEnabledSources : Prop :=
  ∀ (s : State) (n : Nat), n < 0x400 → s.srcEnable n = true → n ∈ s.bank (s.srcTarget n)

/-- A target presents the best pending source of its bank (R375, R380 to R382, R407, R408). -/
def Obligations.TargetsPresentTheBest : Prop := Claim.Arbitration ∧ Claim.BankHoldsEnabledSources

/-- VP_ACK accepts the source presented: its batch is discarded, its number and group go on the active stack, LAST_COUNT takes its count.
An EOI that names the top of the stack pops it; any other is counted in EOI_MISMATCHES (R382, R408). That VP_ACK is taken in every power state
while the block is powered is the model's reading (log entry 48). It says where `vpAck` and `eoi` complete. -/
def Obligations.AcceptanceAndEoi : Prop :=
  ∀ (s : State) (t : Fin 16),
    (∀ n, s.boot.powered = true → s.signals.vpReset = false → (s.target t.val).presented = some n →
      ∃ r, exec (.vpAck t) s = .next r ∧ r.source n = {} ∧ (r.target t.val).stack = (n, s.srcGroup n) :: (s.target t.val).stack ∧
        (r.target t.val).lastCount = (s.source n).count ∧ (r.target t.val).lastSat = (s.source n).sat ∧
        (∀ m, m ≠ n → r.source m = s.source m) ∧ (∀ k, k ≠ t.val → r.target k = s.target k) ∧
        r = { s with signals := r.signals, counters := r.counters }) ∧
    (s.signals.vpReset = true ∨ (s.target t.val).presented = none → exec (.vpAck t) s = .next s) ∧
    (∀ (v : BitVec 32) (rest : List (Nat × Nat)) (top : Nat × Nat), s.servesNow → (s.target t.val).stack = top :: rest →
      (top.1 = v.toNat % 1024 → exec (.eoi t v) s =
        .next ((s.newTag.setTarget t.val { s.target t.val with stack := rest }).arbitrate t.val).ok) ∧
      (top.1 ≠ v.toNat % 1024 → exec (.eoi t v) s = .next (s.newTag.bump 0x217A8).ok)) ∧
    (∀ v : BitVec 32, s.servesNow → (s.target t.val).stack = [] → exec (.eoi t v) s = .next (s.newTag.bump 0x217A8).ok)

/-- A write of a source's configuration word, of 8 bytes or of 4 to either half: enabling a source whose target's bank is full is ignored and
sets BANK_FULL; a change of TARGET of a source that stays enabled is ignored; otherwise the word takes the written RW bits, COAL_COUNT keeping its
value when 0 is written; an open batch is discarded when ENABLE is cleared, and closes when its count has reached COAL_COUNT; both targets arbitrate
(R375 to R377, R379, R387). It says where `sourceConfigWrite` completes. -/
def Obligations.SourceConfiguration : Prop :=
  ∀ (s₀ : State) (n : Nat) (w : PortWrite) (data mask : BitVec 64),
    let s := s₀.newTag
    n < 0x400 → s.servesNow →
    (w.size = 3 ∧ w.off.toNat = 0x8000 + 8 * n ∧ mask = 0xFFFFFFFF0FFFFF1F ∧ data = w.data.setWidth 64) ∨
    (w.size = 2 ∧ w.off.toNat = 0x8000 + 8 * n ∧ mask = 0x0FFFFF1F ∧ data = (w.data.setWidth 32).setWidth 64) ∨
    (w.size = 2 ∧ w.off.toNat = 0x8004 + 8 * n ∧ mask = 0xFFFFFFFF00000000 ∧ data = w.data.setWidth 64 <<< 32) →
    let old := s.word (0x1000 + n)
    let written := (old &&& ~~~mask) ||| (data &&& mask)
    let v := if written.toNat / 2 ^ 16 % 2 ^ 12 = 0 then BitVec.ofNat 64 (written.toNat + old.toNat / 2 ^ 16 % 2 ^ 12 * 2 ^ 16) else written
    let target := v.toNat % 16
    let b := s.source n
    (s.srcEnable n = true → v.getLsbD 4 = true → target ≠ s.srcTarget n → exec (.sourceConfigWrite w) s₀ = .next s.ok) ∧
    (s.srcEnable n = false → v.getLsbD 4 = true → 64 ≤ (s.bank target).length → exec (.sourceConfigWrite w) s₀ =
      .next (s.setTarget target { s.target target with bankFull := true }).ok) ∧
    (s.srcEnable n = false → (v.getLsbD 4 = true → (s.bank target).length < 64) → b.isOpen = false →
      exec (.sourceConfigWrite w) s₀ =
        .next (((s.setWord (0x1000 + n) v).arbitrate (s.srcTarget n)).arbitrate target).ok) ∧
    (s.srcEnable n = true → v.getLsbD 4 = true → target = s.srcTarget n →
      (b.isOpen = false ∨ b.count.toNat < v.toNat / 2 ^ 16 % 2 ^ 12 → exec (.sourceConfigWrite w) s₀ =
        .next (((s.setWord (0x1000 + n) v).arbitrate target).arbitrate target).ok) ∧
      (b.isOpen = true → v.toNat / 2 ^ 16 % 2 ^ 12 ≤ b.count.toNat → exec (.sourceConfigWrite w) s₀ =
        .next ((((s.setWord (0x1000 + n) v).setSource n { b with isOpen := false, pending := true }).arbitrate target).arbitrate target).ok)) ∧
    (s.srcEnable n = true → v.getLsbD 4 = false → exec (.sourceConfigWrite w) s₀ =
      .next ((((s.setSource n {}).setWord (0x1000 + n) v).arbitrate (s.srcTarget n)).arbitrate target).ok)

/-- At an open batch's deadline the batch closes: the source is pending and its target arbitrates. A source without a deadline, or with no
open batch, keeps its state (R377). It says where `coalDeadline` completes. -/
def Claim.CoalescingDeadline : Prop :=
  ∀ (s : State) (n : BitVec 10), s.awake = true →
    ((s.source n.toNat).isOpen = true → (s.source n.toNat).timed = true →
      ∃ t, exec (.coalDeadline n) s = .next t ∧ t.tb = max s.tb (s.source n.toNat).deadline ∧
        t.source n.toNat = { s.source n.toNat with isOpen := false, pending := true } ∧
        (∀ m, m ≠ n.toNat → t.source m = s.source m) ∧
        t = { s with signals := t.signals, counters := t.counters, mortar := t.mortar }) ∧
    ((s.source n.toNat).isOpen = false ∨ (s.source n.toNat).timed = false → exec (.coalDeadline n) s = .next s)

/-- Batches count fires and close at COAL_COUNT or their deadline (R377, R378). -/
def Obligations.Batches : Prop := Claim.FireCounts ∧ Claim.CoalescingDeadline

/-! ### Sleep -/

/-- The batch timer of a sleeping block sets its wake latch, counted when no latch was set, and cancels an entry into deep sleep that is pending;
a set latch ends light sleep. The core then runs, its clock stretched where a sag goes on, withdraws pause and arbitrates, and takes what came
during the sleep: doorbells and other target requests in the order of acceptance, mortar messages, frames in order of arrival. After deep sleep
the PLL relocks and the save area is read back first: its function stores when its CRC is good, else IMAGE_CRC is raised; the router weight
buffer holds nothing (R384, R385, R403, R451, R453, R462 to R464, R477). That messages come before frames is the model's reading (log entry 49),
and the offsets 2097152 and 2101248 of the save area its choice (log entry 24); the times waited for are log entry 9. It says where
`batchTimerWake`, `wakeComplete` and `deepWake` complete. -/
def Obligations.SleepEnds : Prop :=
  ∀ s : State, s.boot.powered = true → s.held = false →
    let wake (r : State) : State :=
      let a : State := { r with power := { r.power with
        state := .run, latchBell := false, latchMortar := false, latchTimer := false, timerAt := none, stretchFrom := r.tb } }
      let a := if r.power.sag && !r.power.stepped && !r.held then a.raiseOnce Code.droopStretch { unit := 0 } else a
      let a : State := { a with power := { a.power with kept := [], heldReqs := [], rxMortar := [], rxBuffer := [] } }
      let a := (a.each (List.range 16) (fun u p => u.setMac p { u.mac p with pauseReq := 0 })).updatePause.arbitrateAll
      let a := a.each (sortBy (·.1) (r.power.kept.map (fun x => (x.1, (.inl x.2 : KeptBell ⊕ Instr))) ++
        r.power.heldReqs.map (fun x => (x.1, .inr x.2)))) State.serveKept
      (a.each r.power.rxMortar (fun u x => u.handleMortar x.1 x.2.1 x.2.2)).each r.power.rxBuffer (fun u x => u.frameIn x.1 x.2)
    (∀ at_, s.power.state ≠ .run → s.power.timerAt = some at_ →
      ∃ t, exec .batchTimerWake s = .next t ∧ t.tb = max s.tb at_ ∧
        t.power = { s.power with latchTimer := true, timerAt := none, deepPending := false } ∧
        t = { s with power := t.power, counters := t.counters, mortar := t.mortar }) ∧
    (s.power.state = .light → s.waking = true → exec .wakeComplete s = .next (wake s).close) ∧
    (s.waking = false ∨ s.power.state ≠ .light → exec .wakeComplete s = .next s.close) ∧
    (s.power.state = .deep → s.waking = true →
      let base := s.reg 0x1018 0 52
      let b := s.read base 4194304
      let r : State := { s with weights := {}, power := { s.power with pllLock := true, unwritten := true } }
      ((crc32c b).toNat = s.readLe (base + 4194304) 4 → exec .deepWake s = .next
        (wake { r with funcs := { micro := (b.drop 2097152).take 4096, table := b.drop 2101248 } }).close) ∧
      ((crc32c b).toNat ≠ s.readLe (base + 4194304) 4 → exec .deepWake s = .next
        (wake (r.raise Code.imageCrc { unit := 19, noPass := true })).close)) ∧
    (s.waking = false ∨ s.power.state ≠ .deep → exec .deepWake s = .next s.close)

/-! ### The session table window -/

/-- A write of 8 or 64 B to the session table window is applied at once while no pass is open, and queued while one is, up to 512 of
them; a read of the same bytes then returns what was written, applied or not, reserved fields reading 0 (R7, R210, R211). A line that the read
finds lost reads with VALID clear (R433, R436; which lines comes with the command, the model's reading, log entry 105). It says where
`sessionWindowWrite` and `sessionWindowRead` complete. -/
def Obligations.SessionWindow : Prop :=
  ∀ (s₀ : State) (w : PortWrite),
    let s := s₀.newTag
    s.servesNow → 0x40000 ≤ w.off.toNat → w.off.toNat < 0x80000 → (w.size = 3 ∨ w.size = 6) →
    w.off.toNat % 2 ^ w.size.toNat = 0 → s.sched.sessQueue.length < 512 →
    ∃ t u, exec (.sessionWindowWrite w) s₀ = .next t ∧ t.port = { tag := s.port.tag } ∧
      (s.passInProgress = false → t.sched = { s.sched with sessions := t.sched.sessions }) ∧
      (s.passInProgress = true → t.sched = { s.sched with sessQueue := t.sched.sessQueue } ∧
        t.sched.sessQueue.length = s.sched.sessQueue.length + 1) ∧
      t = { s with sched := t.sched, port := t.port } ∧
      (∀ finds, t.servesNow → exec (.sessionWindowRead w.off w.size finds) t =
        .next ((t.newTag.readSessions 18 finds).readSession w.off.toNat w.size.toNat)) ∧
      (s.passInProgress = true ∨ s.sched.sessQueue = [] →
        exec (.sessionWindowRead w.off w.size) t = .next u ∧
        u = { t.newTag with port := { tag := t.port.tag + 1, data := u.port.data } } ∧
        ∀ i, u.port.data.getLsbD i =
          (decide (i < 8 * 2 ^ w.size.toNat) && w.data.getLsbD i && sessionMask.getLsbD (8 * (w.off.toNat % 64) + i)))

/-! ### Layout requests -/

/-- CREATE_DESCRIPTOR that passes the checks takes the lowest free handle: its 60 bytes and their CRC are stored in the layout table at
offset 32,768 + 64 × handle, the handle is live and its entry no longer a damaged one, and the window's RESULT says so; every other byte of
host memory is as before; the response to the write is awaited (log entry 102). One that fails a check is refused with its reason, raises
DESCRIPTOR_INVALID and creates nothing (R178, R181 to R183). The order of the reasons in `createReason` is the model's reading (log entry 65). It
says where `createDescriptor` completes. -/
def Claim.CreateDescriptor : Prop :=
  ∀ (s₀ : State) (c : Fin 16) (body : BitVec 512),
    let s := s₀.newTag
    s.servesNow → (s.layoutWindow c).stalled = [] →
    let b := leBytes 64 (layoutRecord 1 body)
    le b 0x3D 3 = 0 →
    (∀ h, s.createReason b = none → lowestFree 16384 s.layout.descs = some h →
      exec (.createDescriptor c body) s₀ = .next { s with
        mem := storeBytes s.mem (s.boot.layoutBase + 32768 + 64 * h) (b.take 60 ++ leBytes 4 (crc32c (b.take 60)).toNat)
        hostOut := if s.hostOut.contains (.descriptor (BitVec.ofNat 14 h)) then s.hostOut else s.hostOut ++ [.descriptor (BitVec.ofNat 14 h)]
        layout := { s.layout with
          descs := insertNat h s.layout.descs
          damaged := s.layout.damaged.erase h
          windows := Tab.set (fun _ => {}) s.layout.windows c.val { done := true, id := BitVec.ofNat 16 h } }
        port := { tag := s.port.tag } }) ∧
    (∀ r, s.createReason b = some r → exec (.createDescriptor c body) s₀ = .next
      ((s.ok.raise Code.descriptorInvalid { unit := 10, noPass := true }).layoutDone c (some r) 0))

/-- REGISTER_ALLOCATION that passes the checks takes the lowest free id: BASE and SIZE are stored in the layout table at offset 32 × id, and
the allocation is live; every other byte is as before. A refused one registers nothing (R177, R178, R184). Where the 32 bytes hold BASE and SIZE,
and that a refused registration raises no code, are the model's reading (log entries 18 and 65). It says where `registerAllocation` completes. -/
def Claim.RegisterAllocation : Prop :=
  ∀ (s₀ : State) (c : Fin 16) (body : BitVec 512),
    let s := s₀.newTag
    s.servesNow → (s.layoutWindow c).stalled = [] →
    let b := leBytes 64 (layoutRecord 2 body)
    le b 0x3D 3 = 0 →
    (∀ a, s.registerReason b = none → lowestFree 1024 s.layout.allocs = some a →
      exec (.registerAllocation c body) s₀ = .next { s with
        mem := storeBytes s.mem (s.boot.layoutBase + 32 * a) (b.take 16 ++ List.replicate 16 0)
        layout := { s.layout with
          allocs := insertNat a s.layout.allocs
          windows := Tab.set (fun _ => {}) s.layout.windows c.val { done := true, id := BitVec.ofNat 16 a } }
        port := { tag := s.port.tag } }) ∧
    (∀ r, s.registerReason b = some r → exec (.registerAllocation c body) s₀ = .next
      { s.bump 0x21408 with
        layout := { s.layout with windows := (Tab.set (fun _ => {}) s.layout.windows c.val
          { done := true, refused := true, reason := BitVec.ofNat 8 r }) }
        port := { tag := s.port.tag } })

/-- Descriptors and allocations are created in the layout table (R177, R178, R181 to R184). -/
def Obligations.LayoutCreation : Prop := Claim.CreateDescriptor ∧ Claim.RegisterAllocation

/-- RELEASE_DESCRIPTOR and RELEASE_ALLOCATION of a live one end it and store nothing; RELEASE_ALLOCATION while a live descriptor names the
allocation is refused with REASON 7, and a release of one that is not live with REASON 8 (R182, R184); that the ID of a refused request is 0 and
that a refused release raises no code are the model's reading (log entry 65). It says where `releaseDescriptor` and `releaseAllocation` complete. -/
def Claim.LayoutReleases : Prop :=
  ∀ (s₀ : State) (c : Fin 16) (body : BitVec 512),
    let s := s₀.newTag
    s.servesNow → (s.layoutWindow c).stalled = [] →
    let d := leBytes 64 (layoutRecord 3 body)
    let a := leBytes 64 (layoutRecord 4 body)
    let id := le d 0 2
    let refused (r : Nat) : State := { s.bump 0x21408 with
        layout := { s.layout with windows := (Tab.set (fun _ => {}) s.layout.windows c.val
          { done := true, refused := true, reason := BitVec.ofNat 8 r }) }
        port := { tag := s.port.tag } }
    le d 0x3D 3 = 0 → (∀ i, 2 ≤ i → i < 60 → d[i]? = some 0) →
    (id ∈ s.layout.descs → exec (.releaseDescriptor c body) s₀ = .next { s with
        layout := { s.layout with
          descs := s.layout.descs.erase id
          windows := Tab.set (fun _ => {}) s.layout.windows c.val { done := true, id := BitVec.ofNat 16 id } }
        port := { tag := s.port.tag } }) ∧
    (id ∉ s.layout.descs → exec (.releaseDescriptor c body) s₀ = .next (refused 8)) ∧
    (id ∈ s.layout.allocs → (∀ h ∈ s.layout.descs, (Desc.parse (s.read (s.descAddr h) 64)).alloc ≠ id) →
      exec (.releaseAllocation c body) s₀ = .next { s with
        layout := { s.layout with
          allocs := s.layout.allocs.erase id
          windows := Tab.set (fun _ => {}) s.layout.windows c.val { done := true, id := BitVec.ofNat 16 id } }
        port := { tag := s.port.tag } }) ∧
    (id ∈ s.layout.allocs → (∃ h ∈ s.layout.descs, (Desc.parse (s.read (s.descAddr h) 64)).alloc = id) →
      exec (.releaseAllocation c body) s₀ = .next (refused 7)) ∧
    (id ∉ s.layout.allocs → exec (.releaseAllocation c body) s₀ = .next (refused 8)) ∧ le a 0 2 = id

/-- A read of RESULT returns DONE, the code, the reason and the id when the request is done; before that it keeps its tag (R181, R182). It says where
`layoutResultRead` completes. -/
def Claim.LayoutResult : Prop :=
  ∀ (s₀ : State) (c : Fin 16),
    let s := s₀.newTag
    s.servesNow →
    let w := s.layoutWindow c
    (w.done = true → exec (.layoutResultRead c) s₀ = .next (s.answer
      (2 ^ 63 + (if w.refused then 0x70 else 0) * 2 ^ 48 + w.reason.toNat * 2 ^ 40 + w.id.toNat))) ∧
    (w.done = false → exec (.layoutResultRead c) s₀ = .next { s with
      layout := { s.layout with windows := Tab.set (fun _ => {}) s.layout.windows c.val { w with stalled := w.stalled ++ [s.port.tag] } }
      port := { tag := s.port.tag, stalled := true } })

/-- Descriptors and allocations are released, and results read (R181, R182, R184). -/
def Obligations.LayoutReleasesAndResults : Prop := Claim.LayoutReleases ∧ Claim.LayoutResult

/-! ### Pools and course queues -/

/-- A buffer request of a host core's window, for SIZE_M1 + 1 bytes of pool 1 to 4: over its quota it is denied and QUOTA_DENIED is raised;
else it takes the lowest free buffer of the smallest class that is large enough; with none, or held back by a watermark, it
waits for that class, or is refused when it asked not to wait (R347, R348, R350, R351, R355). It says where `poolRequest` completes. -/
def Obligations.PoolRequest : Prop :=
  ∀ (s₀ : State) (c : Fin 16) (v : BitVec 64),
    let s := s₀.newTag
    s.servesNow → (s.poolWindow c).waiting = false → (s.poolWindow c).stalled = [] →
    let size := v.toNat % 2 ^ 18 + 1
    let pool := v.toNat / 2 ^ 18 % 8
    let cls := classOf size
    let r := 16 + c.val
    let w := s.poolWindow c
    let u := s.ok.setPoolWindow c { w with done := false, status := 0, handle := 0 }
    let free := if s.heldBack pool cls (s.levelOf r) then none else s.freeIndex pool cls r
    1 ≤ pool → pool ≤ 4 →
    (s.quotaOf r < s.usedBy r + classSize cls → exec (.poolRequest c v) s₀ =
      .next (((u.bump 0x21708).raise Code.quotaDenied { unit := 13 }).poolFail c 1)) ∧
    (s.usedBy r + classSize cls ≤ s.quotaOf r →
      (∀ i, free = some i → exec (.poolRequest c v) s₀ = .next ((u.takeBuffer pool cls r i).poolDone c 0 (handleOf pool cls i))) ∧
      (free = none → v.getLsbD 21 = true → exec (.poolRequest c v) s₀ = .next (u.poolFail c 2)) ∧
      (free = none → v.getLsbD 21 = false → ∃ t, exec (.poolRequest c v) s₀ = .next t ∧
        (t.poolWindow c).waiting = true ∧ (t.poolWindow c).done = false ∧
        (t.poolClass pool cls).waiting = (s.poolClass pool cls).waiting ++ [{ requester := r, size := size, window := some c }] ∧
        (t.poolClass pool cls).used = (s.poolClass pool cls).used ∧
        t = { s with storage := t.storage, counters := t.counters, port := { tag := s.port.tag } }))

/-- A request takes a buffer of the smallest class whose size, 256 × 4^CLASS, is not below it (R346, R347). -/
def Claim.SmallestClass : Prop :=
  ∀ size : Nat, 1 ≤ size → size ≤ 262144 →
    classOf size < 6 ∧ size ≤ classSize (classOf size) ∧ ∀ c, c < classOf size → classSize c < size

/-- The buffer that a request takes is the lowest-numbered free one of its class, within the carved count; once taken it is its
requester's, and no other buffer changes hands (R348). -/
def Claim.LowestFreeBuffer : Prop :=
  ∀ (s : State) (pool cls r i : Nat), cls < 8 → s.freeIndex pool cls r = some i →
    i < s.classCount pool cls ∧ Tab.get? (s.poolClass pool cls).used i = none ∧
    (∀ j, j < i → (Tab.get? (s.poolClass pool cls).used j).isSome = true) ∧
    let t := s.takeBuffer pool cls r i
    Tab.get? (t.poolClass pool cls).used i = some r ∧
    (∀ j, j ≠ i → Tab.get? (t.poolClass pool cls).used j = Tab.get? (s.poolClass pool cls).used j) ∧
    ∀ p k, k < 8 → (p, k) ≠ (pool, cls) → t.poolClass p k = s.poolClass p k

/-- Which buffer a request takes (R346 to R348). -/
def Obligations.BufferChoice : Prop := Claim.SmallestClass ∧ Claim.LowestFreeBuffer

/-- A free names a handle. It frees a buffer that is held. When the buffer is free already, or the handle names no carved buffer,
nothing changes, DOUBLE_FREE is raised and the free is counted; so a second free of one buffer is always caught. It says where `poolFree`
completes. -/
def Obligations.PoolFree : Prop :=
  ∀ (s₀ : State) (c : Fin 16) (h : BitVec 32),
    let s := s₀.newTag
    s.servesNow → (s.poolWindow c).waiting = false →
    let pool := h.toNat / 2 ^ 28
    let cls := h.toNat / 2 ^ 25 % 8
    let i := h.toNat % 2 ^ 12
    let k := s.poolClass pool cls
    let names := pool ≤ 4 ∧ cls ≤ 5 ∧ i < s.classCount pool cls ∧ (Tab.get? k.used i).isSome = true
    (names → ∃ t, exec (.poolFree c h) s₀ = .next t ∧
      t = (s.setPoolClass pool cls { k with used := Tab.erase k.used i }).ok ∧
      exec (.poolFree c h) t = .next ((t.newTag.ok.bump 0x21720).raise Code.doubleFree { unit := 13 })) ∧
    (¬ names → exec (.poolFree c h) s₀ = .next ((s.ok.bump 0x21720).raise Code.doubleFree { unit := 13 }))

/-- A read of a pool window's result returns DONE, the status and the handle, and keeps its tag until the request is done; the address
read returns WINDOW_BASE + CLASS_BASE + INDEX × buffer size of a granted handle, and an open value (DESIGN CHOICE, log entry 37) otherwise
(R349, R355). That a result read of a window that has made no request stalls too is the model's reading (log entry 57). It says where
`poolResultRead` and `poolAddressRead` complete. -/
def Claim.PoolReads : Prop :=
  ∀ (s₀ : State) (c : Fin 16),
    let s := s₀.newTag
    s.servesNow →
    let w := s.poolWindow c
    (w.done = true → exec (.poolResultRead c) s₀ = .next (s.answer (2 ^ 63 + w.status.toNat * 2 ^ 48 + w.handle.toNat))) ∧
    (w.done = false → exec (.poolResultRead c) s₀ = .next (s.setPoolWindow c { w with stalled := w.stalled ++ [s.port.tag] }).stall) ∧
    (∀ pool cls i, w.done = true → w.status = 0 → w.handle.toNat = handleOf pool cls i → pool ≤ 4 → cls ≤ 5 → i < 4096 →
      s.windowBase pool + s.classBase pool cls + i * classSize cls < hostTop →
      exec (.poolAddressRead c) s₀ = .next (s.answer (s.windowBase pool + s.classBase pool cls + i * classSize cls))) ∧
    (w.done = false ∨ w.status ≠ 0 → exec (.poolAddressRead c) s₀ =
      .next ({ s with freeCtr := s.freeCtr + 1 }.answer (Config.openHandle s.freeCtr).toNat))

/-- The first waiting request of a class that its level's watermark and the free buffers allow is served: it leaves the wait, takes the
lowest free buffer and completes with status OK; the writes that its window held back go in (R351, R355). A request of the block's own puts its
buffer to the use that it waited for. With none to serve, nothing happens. It says where `poolWaitGrant` completes. -/
def Claim.WaitingRequestServed : Prop :=
  ∀ (s : State) (pool : Fin 5) (cls : Fin 6), s.awake = true →
    let k := s.poolClass pool cls
    let ready (x : PoolReq) : Bool := !(s.heldBack pool cls (s.reqLevel x)) && (s.freeIndex pool cls x.requester).isSome
    (∀ x c i, k.waiting.find? ready = some x → x.window = some c → s.freeIndex pool cls x.requester = some i →
      let t := (((s.setPoolClass pool cls { k with waiting := k.waiting.erase x }).takeBuffer pool cls x.requester i).poolDone c 0
        (handleOf pool cls i))
      exec (.poolWaitGrant pool cls) s = .next (State.windowDrain (t.poolWindow c).held.length t c)) ∧
    (∀ x j i, k.waiting.find? ready = some x → x.window = none → x.job = some j → s.freeIndex pool cls x.requester = some i →
      exec (.poolWaitGrant pool cls) s = .next ((((s.setPoolClass pool cls { k with waiting := k.waiting.erase x }).takeBuffer pool cls
        x.requester i).runJob j (handleOf pool cls i)).close)) ∧
    (k.waiting.find? ready = none → exec (.poolWaitGrant pool cls) s = .next s)

/-- The reads of a pool window and the end of a wait (R349, R351, R355). -/
def Obligations.PoolReadsAndWaits : Prop := Claim.PoolReads ∧ Claim.WaitingRequestServed

/-- START in a push window opens an item of its queue when the item fits, and the DATA that follows appends to it until its LENGTH is
reached, when the item is complete. A START for a disabled queue or a bad LENGTH is counted and opens nothing; without room, a queue
that drops drops the item, and another holds the write with its tag (R359, R361, R363). It says where `queueStart` and `queueData` complete. -/
def Obligations.QueuePush : Prop :=
  ∀ (s₀ : State) (c : Fin 16),
    let s := s₀.newTag
    s.servesNow → (s.push c.val).held = [] →
    (∀ v : BitVec 64, (s.push c.val).isOpen = none →
      let length := v.toNat % 2 ^ 15
      let q := v.toNat / 2 ^ 16 % 2 ^ 12
      let prio := BitVec.ofNat 3 (v.toNat / 2 ^ 59)
      (length = 0 ∨ 16384 < length ∨ s.qEnable q = false ∨ s.qProducer q = 1 →
        exec (.queueStart c v) s₀ = .next (s.bump 0x21748).ok) ∧
      (1 ≤ length → length ≤ 16384 → s.qEnable q = true → s.qProducer q ≠ 1 →
        (s.qFits q length = true → exec (.queueStart c v) s₀ = .next
          ((s.setPush c.val { isOpen := some (q, s.storage.nextItem), held := [] }).placeItem q prio length []).ok) ∧
        (s.qFits q length = false → s.qDropNewest q = true → exec (.queueStart c v) s₀ = .next (s.dropItem q prio false).ok) ∧
        (s.qFits q length = false → s.qDropNewest q = false → exec (.queueStart c v) s₀ = .next
          (s.setPush c.val { isOpen := none, held := [(s.port.tag, .start v)] }).stall))) ∧
    (∀ b q id i, (b.length = 8 ∨ b.length = 16 ∨ b.length = 32 ∨ b.length = 64) → (s.push c.val).isOpen = some (q, id) →
      ((s.queue q).append id b).find id = some i →
      (i.data.length < i.length → exec (.queueData c b) s₀ = .next (s.setQueue q ((s.queue q).append id b)).ok) ∧
      (i.data.length = i.length → exec (.queueData c b) s₀ = .next
        (((s.setQueue q ((s.queue q).append id b)).setPush c.val { s.push c.val with isOpen := none }).bump 0x21730).ok)) ∧
    (∀ b, (s.push c.val).isOpen = none → (b.length = 8 ∨ b.length = 16 ∨ b.length = 32 ∨ b.length = 64) →
      exec (.queueData c b) s₀ = .next s.ok)

/-- A header read of 8 B at a host queue's window takes the next readable entry, which becomes the current item, and returns its header;
with none readable it stalls and is counted. A data read returns the next bytes of the current item, and stalls until they are written
and behind a data read that stalls (the model's reading, log entry 54). A read of another size returns 0 (R358, R360, R362, R364). Words of the
cache that SECDED finds wrong come with the command, and one that cannot be corrected leaves its part of the answer free (log entries 105 and
110). It says where `queueHeaderRead` and `queueDataRead` complete. -/
def Claim.QueueReads : Prop :=
  ∀ (s₀ : State) (q : BitVec 12),
    let s := s₀.newTag
    s.servesNow → s.hostReads q.toNat = true →
    let k := s.queue q.toNat
    (∀ size finds, (∃ r, exec (.queueHeaderRead q size) s₀ = .next r ∧ exec (.queueHeaderRead q size finds) s₀ = .next (r.readCache 1 finds)) ∧
      ∃ r, exec (.queueDataRead q size) s₀ = .next r ∧ exec (.queueDataRead q size finds) s₀ = .next (r.readCache 2 finds)) ∧
    (∀ i e, k.stalls = [] → s.nextEntry q.toNat = some i → k.entries[i]? = some e → exec (.queueHeaderRead q 3) s₀ = .next
      ((s.setQueue q.toNat { k with
        entries := k.entries.eraseIdx i, curPos := 0, cur := (match e with
          | .item x => some x
          | _ => none) }).answer e.header)) ∧
    (k.stalls = [] → s.nextEntry q.toNat = none → exec (.queueHeaderRead q 3) s₀ = .next
      ((s.setQueue q.toNat { k with stalls := [⟨true, 8, s.tb, s.port.tag⟩] }).bump 0x21750).stall) ∧
    (∀ size, size ≠ 3 → exec (.queueHeaderRead q size) s₀ = .next (s.answer 0)) ∧
    (∀ (size : BitVec 3) (x : QItem), (size = 3 ∨ size = 4) → k.cur = some x →
      (min (k.curPos + 2 ^ size.toNat) x.length ≤ x.data.length → (∀ r ∈ k.stalls, r.header = true) → exec (.queueDataRead q size) s₀ = .next
        ((s.setQueue q.toNat { k with curPos := k.curPos + 2 ^ size.toNat }).answer (ofLe (slice x.data k.curPos (2 ^ size.toNat))))) ∧
      (x.data.length < min (k.curPos + 2 ^ size.toNat) x.length ∨ (∃ r ∈ k.stalls, r.header = false) → exec (.queueDataRead q size) s₀ = .next
        (s.setQueue q.toNat { k with stalls := k.stalls ++ [⟨false, 2 ^ size.toNat, s.tb, s.port.tag⟩] }).stall)) ∧
    (∀ size : BitVec 3, (size = 3 ∨ size = 4) → k.cur = none → (∀ r ∈ k.stalls, r.header = true) →
      exec (.queueDataRead q size) s₀ = .next (s.answer 0)) ∧
    (∀ size : BitVec 3, size ≠ 3 → size ≠ 4 → exec (.queueDataRead q size) s₀ = .next (s.answer 0))

/-- A stalled header read is answered, under the tag that it kept, when an entry is readable, and with EMPTY once STALL_LIMIT_TB has passed,
unless that is 0 (which stalled read returns first, and the instant of the limit, are the model's reading, log entries 54 and 9); space freed in
a queue lets the START go on that waits for it, which is answered then (R360, R361, R364, R397). It says where `queueStalledReadReturn`,
`stallLimitExpiry` and `queueSpaceFreed` complete. -/
def Claim.QueueStallsEnd : Prop :=
  ∀ (s : State) (q : BitVec 12), s.awake = true →
    let k := s.queue q.toNat
    (∀ r rest i e, k.stalls = r :: rest → r.header = true → s.nextEntry q.toNat = some i → k.entries[i]? = some e →
      exec (.queueStalledReadReturn q) s = .next ((s.setQueue q.toNat { k with
        stalls := rest, entries := k.entries.eraseIdx i, curPos := 0, cur := (match e with
          | .item x => some x
          | _ => none) }).lateAnswer r.tag e.header)) ∧
    (k.stalls = [] → exec (.queueStalledReadReturn q) s = .next s) ∧
    (∀ r, k.stalls.find? (·.header) = some r → s.stallLimit ≠ 0 → exec (.stallLimitExpiry q) s = .next
      (((s.until (r.since + s.stallLimit)).setQueue q.toNat { k with stalls := k.stalls.erase r }).lateAnswer r.tag (3 * 2 ^ 62))) ∧
    (k.stalls.find? (·.header) = none ∨ s.stallLimit = 0 → exec (.stallLimitExpiry q) s = .next s) ∧
    (∀ (c : Fin 16) (tag : Nat) (v : BitVec 64), (s.push c.val).held = [(tag, .start v)] → (s.push c.val).isOpen = none →
      v.toNat / 2 ^ 16 % 2 ^ 12 = q.toNat →
      (∀ d : Fin 16, d ≠ c → (s.push d.val).held = []) → 1 ≤ v.toNat % 2 ^ 15 → v.toNat % 2 ^ 15 ≤ 16384 → s.qEnable q.toNat = true →
      s.qProducer q.toNat ≠ 1 → s.qFits q.toNat (v.toNat % 2 ^ 15) = true →
      exec (.queueSpaceFreed q) s = .next ((s.setPush c.val { isOpen := some (q.toNat, s.storage.nextItem), held := [] }).placeItem q.toNat
        (BitVec.ofNat 3 (v.toNat / 2 ^ 59)) (v.toNat % 2 ^ 15) [] |>.lateAnswer tag 0))

/-- The reads of a queue window, and how stalls end (R358, R360 to R362, R364). -/
def Obligations.QueueReadsAndStalls : Prop := Claim.QueueReads ∧ Claim.QueueStallsEnd

/-- FLUSH empties the queue that QUEUE_SEL names, its open items end, the frames that wait in an egress queue go with their descriptors, and one
flush marker stands for what it held; a stalled header read takes the marker at once, under its tag, and the marker takes no cell (the model's
reading, log entry 53). A queue that the block alone flushes (R125), a tile list, ignores it. A write of Q_CONFIG is ignored while ENABLE is set
when it changes another field; clearing ENABLE flushes; a disabled host-fed queue takes the word; that of a block-owned queue is staged, and one
that would make a queue block-owned leaves the configuration in effect until a restart (R356, R360, R365, R368). It says where `flush` and
`qConfigWrite` complete. -/
def Obligations.QueueFlushAndConfig : Prop :=
  ∀ (s₀ : State),
    let s := s₀.newTag
    s.servesNow →
    let q := s.queueSel
    let k := s.queue q
    let n := (k.entries.map QEntry.flushCount).sum + b2n k.cur.isSome
    (∀ v : BitVec 32, v.getLsbD 0 = true → s.isTileList q = true → exec (.flush v) s₀ = .next s.ok) ∧
    (∀ (v : BitVec 32) (r : QStall), v.getLsbD 0 = true → s.isTileList q = false → k.stalls = [r] → r.header = true →
      (∀ c : Fin 16, ∀ x, (s.push c.val).isOpen = some x → x.1 ≠ q) →
      exec (.flush v) s₀ = .next (((s.ok.emptyEgress q).setQueue q { entries := [], drops := k.drops, flushes := k.flushes + 1 }).lateAnswer r.tag
        (2 * 2 ^ 62 + 7 * 2 ^ 59 + min n 0xFFFFFF * 2 ^ 32))) ∧
    (∀ v : BitVec 32, v.getLsbD 0 = true → s.isTileList q = false → k.stalls = [] →
      (∀ c : Fin 16, ∀ x, (s.push c.val).isOpen = some x → x.1 ≠ q) →
      exec (.flush v) s₀ = .next ((s.ok.emptyEgress q).setQueue q { entries := [.flush n], drops := k.drops, flushes := k.flushes + 1 })) ∧
    (∀ v : BitVec 32, v.getLsbD 0 = false → exec (.flush v) s₀ = .next s.ok) ∧
    (∀ (port : Nat) (e : Egress), q < 0x40 →
      (e ∈ ((s.emptyEgress q).mac port).egress ↔ e ∈ (s.mac port).egress ∧ ¬ (port = q / 4 ∧ e.vc.toNat = q % 4))) ∧
    (∀ w : PortWrite, w.off.toNat = 0xD008 → w.size = 3 →
      let x := bankWord (128 + q) 0xD008
      let old := s.qNow q
      let v := (s.word x &&& ~~~(0x00FFFFFF0001FFFF : BitVec 64)) ||| (w.data.setWidth 64 &&& 0x00FFFFFF0001FFFF)
      (s.blockOwned q = true → exec (.qConfigWrite w) s₀ = .next (s.setWord x v).ok) ∧
      (s.blockOwned q = false →
        (old.getLsbD 0 = true → v >>> 1 ≠ old >>> 1 ∨ v.getLsbD 0 = true → exec (.qConfigWrite w) s₀ = .next s.ok) ∧
        (old.getLsbD 0 = true → v >>> 1 = old >>> 1 → v.getLsbD 0 = false → exec (.qConfigWrite w) s₀ = .next ((s.ok.flushQueue q).setWord x v)) ∧
        (old.getLsbD 0 = false → ownedWord q v = false → exec (.qConfigWrite w) s₀ = .next (s.setWord x v).ok) ∧
        (old.getLsbD 0 = false → ownedWord q v = true →
          exec (.qConfigWrite w) s₀ = .next (({ s with effect := Tab.set regReset s.effect x old } : State).setWord x v).ok)))

/-! ### The ledger and the control registers -/

/-- RELEASE_FIRST empties FIRST, to which ESCALATED moves; RELEASE_ESC empties ESCALATED; nothing else changes (R439). It says where
`releaseFirst` and `releaseEsc` complete. -/
def Claim.LedgerReleases : Prop :=
  ∀ (s₀ : State) (v : BitVec 32),
    let s := s₀.newTag
    s.servesNow →
    let l := s.ledger
    (v.getLsbD 0 = true → v.getLsbD 1 = false → exec (.releaseFirst v) s₀ =
      .next { s with ledger := { l with first := l.esc, esc := none }, port := { tag := s.port.tag } }) ∧
    (v.getLsbD 0 = false → v.getLsbD 1 = true → exec (.releaseEsc v) s₀ =
      .next { s with ledger := { l with esc := none }, port := { tag := s.port.tag } }) ∧
    (v.getLsbD 0 = true → v.getLsbD 1 = true → ∀ c ∈ [Instr.releaseFirst v, .releaseEsc v], exec c s₀ =
      .next { s with ledger := { l with first := none, esc := none }, port := { tag := s.port.tag } }) ∧
    (v.getLsbD 0 = false → v.getLsbD 1 = false → ∀ c ∈ [Instr.releaseFirst v, .releaseEsc v], exec c s₀ = .next s.ok)

/-- The ledger takes the oldest raise and gives it the next SEQ (the model's reading of when, log entry 98). An empty FIRST takes it; a raise above
every held severity goes to an empty ESCALATED, or displaces the record that ESCALATED holds, which goes to the overflow queue; one that is not above
goes to the overflow queue itself, and FIRST's COUNT rises by 1, saturating; source 0x000, 0x001 or 0x002 fires; with nothing raised nothing
happens, and while the overflow queue makes the ledger wait, nothing does; a member-fatal code then holds the member (R439, R441). It says where
`ledgerRaise` completes. -/
def Claim.LedgerTakesRaises : Prop :=
  ∀ (s : State), s.awake = true →
    (s.ledger.input = [] → exec .ledgerRaise s = .next s) ∧
    (∀ r rest, s.ledger.input = r :: rest →
      let x := { r with seq := s.ledger.nextSeq }
      let held (t : State) : State := if holds r.code then t.hold r.code else t
      (s.ledger.first = none → ∃ t, exec .ledgerRaise s = .next (held t) ∧
        t.ledger = { s.ledger with input := rest, first := some x, nextSeq := s.ledger.nextSeq + 1 } ∧
        t = { s with ledger := t.ledger, signals := t.signals, counters := t.counters }) ∧
      (∀ f, s.ledger.first = some f → s.ledger.esc = none → f.sev.toNat < r.sev.toNat → ∃ t, exec .ledgerRaise s = .next (held t) ∧
        t.ledger = { s.ledger with input := rest, esc := some x, nextSeq := s.ledger.nextSeq + 1 } ∧
        t = { s with ledger := t.ledger, signals := t.signals, counters := t.counters })) ∧
    (∀ r rest, s.ledger.input = r :: rest →
      let x := { r with seq := s.ledger.nextSeq }
      let after (u : State) : State :=
        let v : State := { u with ledger := { u.ledger with input := rest, nextSeq := s.ledger.nextSeq + 1 } }
        if holds r.code then v.hold r.code else v
      (s.ledger.first = none → exec .ledgerRaise s = .next (after (({ s with ledger := { s.ledger with first := some x } } : State).fire 0))) ∧
      (∀ f, s.ledger.first = some f →
        (r.sev.toNat ≤ max f.sev.toNat (s.ledger.esc.elim 0 (·.sev.toNat)) →
          (∀ u, s.directRecord x = some u → exec .ledgerRaise s = .next (after { u with ledger := { s.ledger with
            first := some { f with count := if f.count = 0xFFFFFFFF then f.count else f.count + 1 } } })) ∧
          (s.directRecord x = none → exec .ledgerRaise s = .next s)) ∧
        (max f.sev.toNat (s.ledger.esc.elim 0 (·.sev.toNat)) < r.sev.toNat →
          (s.ledger.esc = none → exec .ledgerRaise s = .next (after (({ s with ledger := { s.ledger with esc := some x } } : State).fire 1))) ∧
          (∀ old, s.ledger.esc = some old →
            (∀ u, s.directRecord old = some u →
              exec .ledgerRaise s = .next (after (({ u with ledger := { s.ledger with esc := some x } } : State).fire 1))) ∧
            (s.directRecord old = none → exec .ledgerRaise s = .next s)))))

/-- A record directed to the overflow queue is an item of its 32 bytes there, with its severity as priority, counted in LEDGER_QUEUED; a queue
that is full drops it when DROP_NEWEST is set, a disabled one refuses it, and either counts in LEDGER_DROPS; in each case source 0x002 fires. A full
queue without DROP_NEWEST makes the ledger wait (R361, R368, R439, R440). -/
def Claim.OverflowQueue : Prop :=
  ∀ (s : State) (r : LedgerRec),
    let q := s.reg 0x2000C 0 12
    let prio := r.sev.setWidth 3
    (s.qEnable q = false → s.directRecord r = some ((s.bump 0x20128).fire 2)) ∧
    (s.qEnable q = true →
      (s.qFits q 32 = true →
        s.directRecord r = some ((((s.placeItem q prio 32 r.bytes).bump 0x21730).bump 0x20120).fire 2)) ∧
      (s.qFits q 32 = false → s.qDropNewest q = true → s.directRecord r = some ((s.dropItem q prio true).fire 2) ∧
        (s.dropItem q prio true).ctr 0x20128 = s.ctr 0x20128 + 1) ∧
      (s.qFits q 32 = false → s.qDropNewest q = false → s.directRecord r = none)) ∧
    ∀ u, s.directRecord r = some u → u.ledger = s.ledger

/-- A raise offered to the ledger counts in CODE_COUNT of its code and in the count of its severity. It enters the input queue of 64 behind those
that precede it; when the queue is full, the last one in the order of entry is counted in LEDGER_LOST and not recorded, and when nothing held
comes after it that is the raise itself (R439). Raises of one TIME arise in one core cycle (the model's reading, log entry 127). -/
def Claim.LedgerInput : Prop :=
  ∀ (s : State) (r : LedgerRec), s.ledger.input.length ≤ 64 →
    let t := s.offer r
    (∃ a b, s.ledger.input = a ++ b ∧ (∀ e ∈ a, r.precedes e = false) ∧ (∀ e, b.head? = some e → r.precedes e = true) ∧
      t.ledger.input = (a ++ r :: b).take 64) ∧
    t.ctr (0x20800 + 8 * r.code.toNat) = s.ctr (0x20800 + 8 * r.code.toNat) + 1 ∧
    t.ctr (0x20100 + 8 * r.sev.toNat) = s.ctr (0x20100 + 8 * r.sev.toNat) + 1 ∧
    (s.ledger.input.length < 64 → t.ctr 0x20130 = s.ctr 0x20130) ∧
    (s.ledger.input.length = 64 → t.ctr 0x20130 = s.ctr 0x20130 + 1 ∧
      ((∀ e ∈ s.ledger.input, r.precedes e = false) → t.ledger.input = s.ledger.input))

/-- FIRST and ESCALATED take raises and are released, the overflow queue takes the others (R439 to R441). -/
def Obligations.LedgerPlacement : Prop := Claim.LedgerReleases ∧ Claim.LedgerTakesRaises ∧ Claim.OverflowQueue ∧ Claim.LedgerInput

/-- A write of 1 to ADMIT on a JOINED member makes its admission pending, elsewhere it does nothing. A write of 1 to ARM arms the
reconfiguration while LAST_BN comes before RECONF_BN, or before the first release; once LAST_BN has reached RECONF_BN it is ignored and sets MISSED;
every write stores RECONF_MASK, and clears MISSED, FUNC_REFUSED and POOLS_REFUSED where it writes 1. A write of 1 to DEEP_REQ makes the entry into
deep sleep pending; every write stores CORE_SPREAD, LIGHT_AUTO and STEP_ENABLE, and clears DEEP_REFUSED where it writes 1 (R427, R430, R463, R469).
An order of the two BN that serial-number arithmetic leaves undefined counts as reached (the model's reading, log entry 136). It says where
`admitWrite`, `arm` and `deepReq` complete. -/
def Obligations.ControlWrites : Prop :=
  ∀ (s₀ : State) (v : BitVec 32),
    let s := s₀.newTag
    s.servesNow →
    (v.getLsbD 0 = true → exec (.admitWrite v) s₀ = .next (if s.boot.phase = .joined then
      { s with mortar := { s.mortar with bar := { s.mortar.bar with admitPending := true } }, port := { tag := s.port.tag } }
      else s.ok)) ∧
    (v.getLsbD 0 = false → exec (.admitWrite v) s₀ = .next s.ok) ∧
    (let r := s.setWord (0xE840 / 8) ((s.word (0xE840 / 8) &&& ~~~(0x1F00000000 : BitVec 64)) |||
        (v.setWidth 64 <<< 32 &&& 0x1F00000000))
      let b : Boot := { s.boot with
        missed := s.boot.missed && !(v.getLsbD 7), funcRefused := s.boot.funcRefused && !(v.getLsbD 8),
        poolsRefused := s.boot.poolsRefused && !(v.getLsbD 9) }
      let ahead := (s.reg 0xE840 0 32 + 2 ^ 32 - s.mortar.bar.lastBn.toNat) % 2 ^ 32
      (v.getLsbD 5 = false → exec (.arm v) s₀ = .next { r with boot := b, port := { tag := s.port.tag } }) ∧
      (v.getLsbD 5 = true → s.mortar.bar.begun = false ∨ (1 ≤ ahead ∧ ahead < 2 ^ 31) → exec (.arm v) s₀ = .next { r with
        boot := { b with armed := true }, port := { tag := s.port.tag } }) ∧
      (v.getLsbD 5 = true → s.mortar.bar.begun = true → ahead = 0 ∨ 2 ^ 31 ≤ ahead → exec (.arm v) s₀ = .next
        (({ r with boot := { b with missed := true } } : State).fire 0xA).ok)) ∧
    exec (.deepReq v) s₀ = .next
      { s.setWord (0x1000 / 8) ((s.word (0x1000 / 8) &&& ~~~(0x700000000 : BitVec 64)) ||| (v.setWidth 64 <<< 32 &&& 0x700000000)) with
        power := { s.power with
          deepPending := s.power.deepPending || v.getLsbD 3, deepRefused := s.power.deepRefused && !(v.getLsbD 5) }
        port := { tag := s.port.tag } }

/-! ### Frames of the fabric port -/

/-- A good frame in sequence that carries an item of the open attempt reaches its unit, after the transport has counted it and owes an
acknowledgement, out of its inbound buffer, which goes back unless something of it stays: counts and grants complete the exchange, cells go to
inbound staging, the combine or the manifests, gate notes, window notes and cell requests to the combine, collective frames to their
collective, after what the reads of the combine store or the reduction buffer find (R247, R255, R283, R318, R350, R352, R436). Which frames take
an inbound buffer, of what size, and when it goes back is the model's choice and reading (log entries 50 and 52), as is that the finds come with
the command (log entry 105). It says where `countMessage`,
`grantMessage`, `manifest`, `dispatchCell`, `returnCell`, `rackPartial`, `gateNote`, `windowNote`, `cellRequest` and `collective` complete. -/
def Claim.ItemFrames : Prop :=
  ∀ (s : State) (h : FrameHdr) (r : State),
    (∀ m x, s.nextFrame h (.count m) r → r.judge m.gen m.layer m.attempt = .use →
      ExchIn.add (Tab.get? r.att.countsIn m.sender.toNat) m.total.toNat m.first.toNat m.entries = some x →
      exec (.countMessage h m) s = .next (r.modAtt (fun a => { a with
        countsIn := Tab.put a.countsIn m.sender.toNat x })).grantProgress.closeRx.close) ∧
    (∀ m x, s.nextFrame h (.grant m) r → r.judge m.gen m.layer m.attempt = .use →
      ExchIn.add (Tab.get? r.att.grantsIn m.sender.toNat) m.total.toNat m.first.toNat m.entries = some x →
      exec (.grantMessage h m) s = .next (r.modAtt (fun a => { a with
        grantsIn := Tab.put a.grantsIn m.sender.toNat x })).grantProgress.closeRx.close) ∧
    (∀ x, s.nextFrame h (.cells [.manifest x]) r → r.judge x.h.gen x.h.layer x.h.attempt = .use →
      exec (.manifest h [.manifest x]) s = .next (r.takeManifest x).closeRx.close) ∧
    (∀ x, s.nextFrame h (.cells [.dispatch x]) r → r.judge x.h.gen x.h.layer x.h.attempt = .use →
      exec (.dispatchCell h [.dispatch x]) s = .next (r.takeDispatch h.src x).closeRx.close) ∧
    (∀ x finds, (s.readAccums finds).nextFrame h (.cells [.ret x]) r → r.judge x.h.gen x.h.layer x.h.attempt = .use →
      exec (.returnCell h [.ret x] finds) s = .next (r.takeReturn h.src x).closeRx.close) ∧
    (∀ x finds, (s.readAccums finds).nextFrame h (.cells [.part x]) r → r.judge x.h.gen x.h.layer x.h.attempt = .use →
      exec (.rackPartial h [.part x] finds) s = .next (r.takePartial h.src x).closeRx.close) ∧
    (∀ n, s.nextFrame h (.gateNote n) r → r.judge n.gen n.layer n.attempt = .use →
      exec (.gateNote h n) s = .next (r.takeGateNote n).closeRx.close) ∧
    (∀ n, s.nextFrame h (.windowNote n) r → r.judge n.gen n.layer n.attempt = .use →
      exec (.windowNote h n) s = .next (r.takeWindowNote n).closeRx.close) ∧
    (∀ x, s.nextFrame h (.cellRequest [x]) r → r.judge x.gen x.layer x.attempt = .use →
      exec (.cellRequest h [x]) s = .next (r.takeRequest x).closeRx.close) ∧
    (∀ f finds, (s.readBuffer f.opseq.toNat finds).nextFrame h (.coll f) r → r.judge f.gen f.layer f.attempt = .use →
      exec (.collective h f finds) s = .next (r.collFrame f).closeRx.close)

/-- An item of another pass or attempt: one of the next pass or attempt is held, an older one is discarded, and one outside the window
raises EPOCH_WINDOW with its sender (R318, R480). Said of a count message, whose judgement every item shares. -/
def Claim.ItemsOutOfTime : Prop :=
  ∀ (s : State) (h : FrameHdr) (m : ExchMsg) (r : State), s.nextFrame h (.count m) r →
    let d := (m.gen - s.sched.curGen).toNat
    (d = 1 → exec (.countMessage h m) s = .next (r.holdEarly h (.count m)).closeRx.close) ∧
    (d = 0 → m.layer ≠ s.sched.curLayer → exec (.countMessage h m) s = .next r.closeRx.close) ∧
    (d = 0 → m.layer = s.sched.curLayer → s.openSeq.isSome = true → s.sched.curAttempt.toNat < m.attempt.toNat →
      exec (.countMessage h m) s = .next (r.holdEarly h (.count m)).closeRx.close) ∧
    (d = 0 → m.layer = s.sched.curLayer → m.attempt.toNat < s.sched.curAttempt.toNat →
      exec (.countMessage h m) s = .next r.closeRx.close) ∧
    (65536 - 1023 ≤ d → exec (.countMessage h m) s = .next r.closeRx.close) ∧
    (2 ≤ d → d < 65536 - 1023 → exec (.countMessage h m) s =
      .next (r.raise Code.epochWindow { unit := 5, member := some h.src }).closeRx.close)

/-- Items of a pass reach their unit, wait for their time or are discarded (R247, R255, R318, R480). -/
def Obligations.ItemsOfAPass : Prop := Claim.ItemFrames ∧ Claim.ItemsOutOfTime

/-- BULK requests are answered and BULK data frames taken by their move or staging; an ACK frame frees the frames that it acknowledges, and their
staging buffers, and what waits for the peer goes out as far as it may; a SYNC restarts the channels of its mask at the numbers that it gives,
and acknowledges each; a channel whose number lies half the range away raises EPOCH_WINDOW, and one that asks for more than 256 ahead is
discarded and counted (R255, R256, R260, R336, R350). That an ACK and a SYNC take a buffer of the reserve while they are handled, and no place in
the sequence, is the model's reading (log entries 50 and 52); without one they are discarded and counted (R352). It says where `bulkRequest`,
`bulkData`, `ack` and `sync` complete. -/
def Claim.BulkAckAndSync : Prop :=
  ∀ (s : State) (h : FrameHdr),
    (∀ b r, s.nextFrame h (.bulk b) r → b.kind = 1 → exec (.bulkRequest h b) s = .next (r.answerBulk b).closeRx.close) ∧
    (∀ b r, s.nextFrame h (.bulk b) r → b.kind = 2 → exec (.bulkData h b) s = .next (r.takeBulk h.src b).closeRx.close) ∧
    (s.frameComes h .ack → s.roomFor h .ack → h.ackValid = false → exec (.ack h) s = .next (s.stageFrame h .ack).closeRx.close) ∧
    (s.frameComes h .ack → s.roomFor h .ack → h.ackValid = true →
      let k := s.pair (pairKey h.src h.ackVc)
      let t := (s.setPair (pairKey h.src h.ackVc) { k with unacked := k.unacked.filter (fun f => !(acked h.ackSeq h.sack f.seq)) }).dropStaged
        (k.unacked.filter (fun f => acked h.ackSeq h.sack f.seq))
      Tab.get? s.net.syncs h.src.toNat = none → (∀ f ∈ k.unacked, (f.seq - h.ackSeq).toNat ≠ 2 ^ 31) →
      (∀ f ∈ k.unacked, f.seq ≠ h.ackSeq) →
      exec (.ack h) s = .next ((t.pumpPeer h.src).stageFrame h .ack).closeRx.close ∧
      ((∀ vc : BitVec 2, (s.pair (pairKey h.src vc)).waiting = []) → t.pumpPeer h.src = t)) ∧
    (∀ y : SyncBody, s.frameComes h (.sync y) → s.roomFor h (.sync y) → h.ackValid = false →
      let r := s.stageFrame h (.sync y)
      let masked := ([(0, y.base0), (1, y.base1), (2, y.base2)] : List (BitVec 2 × BitVec 32)).filter (fun c => y.mask.toNat.testBit c.1.toNat)
      let ahead (c : BitVec 2 × BitVec 32) : Nat := (c.2 - (s.pair (pairKey h.src c.1)).cum).toNat
      ((∀ c ∈ masked, ahead c ≤ 256) → exec (.sync h y) s = .next (r.each masked (fun s c =>
        (s.setPair (pairKey h.src c.1) { s.pair (pairKey h.src c.1) with cum := c.2, rmap := 0, ackDue := 0 }).sendAck h.src c.1)).closeRx.close) ∧
      ((∃ c ∈ masked, ahead c = 2 ^ 31) → exec (.sync h y) s = .next (r.raise Code.epochWindow { unit := 6, member := some h.src }).closeRx.close) ∧
      ((∀ c ∈ masked, ahead c ≠ 2 ^ 31) → (∃ c ∈ masked, 256 < ahead c) → exec (.sync h y) s = .next (r.bump 0x21538).closeRx.close)) ∧
    (∀ y : SyncBody,
      (s.frameComes h .ack → s.noRoomFor h .ack → exec (.ack h) s = .next (s.bump 0x21728).close) ∧
      (s.frameComes h (.sync y) → s.noRoomFor h (.sync y) → exec (.sync h y) s = .next (s.bump 0x21728).close))

/-- A frame that fails a check of R249 is discarded without acknowledgement, is counted and raises FRAME_CRC once per interval; one whose
FCS failed never reaches the block; one in another encapsulation or on a port that is not enabled is ignored; one for which the reserve has no
buffer is discarded and counted; a second copy is discarded and acknowledged again; one that is too old is discarded and counted (R242, R249,
R255, R257, R263, R352). Said of a count message. -/
def Claim.FramesDiscarded : Prop :=
  ∀ (s : State) (h : FrameHdr) (m : ExchMsg), s.inService = true →
    let n := inboundNeeds h.vc (.count m)
    let room := s.overQuota n.1 n.2.2 = false ∧ s.hasRoom 0 n.2.2 n.1 n.2.1 = true
    (h.fcsErr = true ∨ s.wireOk h = false ∨ s.portEnable h.port.val = false → exec (.countMessage h m) s = .next s.close) ∧
    (h.fcsErr = false → s.wireOk h = true → s.portEnable h.port.val = true →
      (frameGood s h (.count m) = false → exec (.countMessage h m) s = .next ((s.bump 0x21528).raiseOnce Code.frameCrc
        { unit := 6, member := some h.src, detail := h.port.val + 16 * h.vc.toNat }).close) ∧
      (frameGood s h (.count m) = true → h.vc.toNat ≤ 1 → s.overQuota n.1 n.2.2 = false → s.hasRoom 0 n.2.2 n.1 n.2.1 = false →
        exec (.countMessage h m) s = .next (s.bump 0x21728).close) ∧
      (frameGood s h (.count m) = true → room → (s.tb + 2 ^ 32 - h.tstamp.toNat) % 2 ^ 32 < 2 ^ 31 →
        s.frameLife < (s.tb + 2 ^ 32 - h.tstamp.toNat) % 2 ^ 32 → exec (.countMessage h m) s = .next (s.bump 0x21540).close)) ∧
    (s.frameComes h (.count m) → room → h.ackValid = false → 2 ^ 31 < (h.seq - (s.pair (pairKey h.src h.vc)).cum).toNat →
      exec (.countMessage h m) s = .next ((s.bump 0x21530).sendAck h.src h.vc).close)

/-- Frames that are no items, and frames that are discarded (R242, R249, R255 to R257, R260, R263, R336, R350, R352). -/
def Obligations.OtherFrames : Prop := Claim.BulkAckAndSync ∧ Claim.FramesDiscarded

/-- ACK_DELAY_TB after the first frame that awaits acknowledgement, an ACK frame of its channel goes out; a SYNC not acknowledged within RTO_TB
is repeated, and after RETX_MAX repeats raises RETRANSMIT_LIMIT; a frame not acknowledged within RTO_TB is sent again with RETX set, and after
RETX_MAX retransmissions raises RETRANSMIT_LIMIT instead, on VC3 outside any pass (R256, R258, R260). That the limit comes in place of one more
transmission, that a SYNC at its limit is repeated no more, and the instants at which the timers end are the model's reading (log entries 11, 33
and 9). It says where `ackDelayExpiry`,
`syncResend` and `rtoExpiry` complete. -/
def Claim.TransportTimers : Prop :=
  ∀ (s : State) (m : MemberId) (vc : BitVec 2), s.awake = true →
    ((s.pair (pairKey m vc)).ackDue = 0 → exec (.ackDelayExpiry m vc) s = .next s) ∧
    ((s.pair (pairKey m vc)).ackDue ≠ 0 → exec (.ackDelayExpiry m vc) s =
      .next ((s.until ((s.pair (pairKey m vc)).ackSince + s.ackDelay)).sendBare m .ack (some vc))) ∧
    (Tab.get? s.net.syncs m.toNat = none → exec (.syncResend m) s = .next s.close) ∧
    (∀ y, Tab.get? s.net.syncs m.toNat = some y →
      let r := s.until (y.sentAt + s.rtoTb)
      (y.retx < s.retxMax → exec (.syncResend m) s = .next (r.sendSync m { y with retx := y.retx + 1 }).close) ∧
      (y.retx = s.retxMax → exec (.syncResend m) s = .next
        (({ r with net := { r.net with syncs := Tab.put r.net.syncs m.toNat { y with retx := s.retxMax + 1 } } } : State).raise
          Code.retransmitLimit { unit := 6, member := some m, detail := y.port.elim 0 (·.val) }).close) ∧
      (s.retxMax < y.retx → exec (.syncResend m) s = .next s.close)) ∧
    (∀ (seq : BitVec 32) (f : TxFrame), (s.pair (pairKey m vc)).unacked.find? (fun g => g.seq == seq) = some f →
      (∀ p, p < 16 → (s.mac p).egress = []) →
      let r := s.until (f.sentAt + s.rtoTb)
      let k := r.pair (pairKey m vc)
      let port := f.port.elim 0 (·.val)
      (f.retx < s.retxMax → exec (.rtoExpiry m vc seq) s = .next
        ((r.raiseOnce Code.frameSeq { unit := 6, member := some m, detail := port + 16 * vc.toNat }).transmit m vc
          { f with retx := f.retx + 1 } true).close) ∧
      (f.retx = s.retxMax → vc ≠ 3 → exec (.rtoExpiry m vc seq) s = .next
        ((r.setPair (pairKey m vc) { k with
          unacked := k.unacked.map (fun g => if g.seq = seq then { g with retx := s.retxMax + 1 } else g) }).raise
          Code.retransmitLimit { unit := 6, member := some m, detail := port + 16 * vc.toNat }).close) ∧
      (f.retx = s.retxMax → vc = 3 →
        let u := (r.setPair (pairKey m vc) { k with unacked := k.unacked.filter (fun g => g.seq ≠ seq) }).raise
          Code.retransmitLimit { unit := 6, member := some m, detail := port + 48, noPass := true }
        exec (.rtoExpiry m vc seq) s = .next
          ({ u with net := { u.net with limited := u.net.limited ++ [f.payload] } } : State).close) ∧
      (s.retxMax < f.retx → exec (.rtoExpiry m vc seq) s = .next s.close)) ∧
    (∀ seq, (s.pair (pairKey m vc)).unacked.find? (fun g => g.seq == seq) = none → exec (.rtoExpiry m vc seq) s = .next s.close)

/-- A link that goes down, or whose port is reset, leaves its set: the loss is counted, LINK_DOWN raised once per interval, and its frames
are sent again on other ports; a reset also empties the port's receive buffer, whatever its link; a link that comes up joins its set LINK_HOLD_TB
later; a pause status holds back and lets go the frames of its priorities (R252, R261, R399, R403, R412, R413). That a link-down of a port that is
down changes nothing is the model's reading (log entry 95). It says where `linkDown`,
`linkUp`, `linkHoldExpiry`, `pauseStatusChange` and `macRstN` complete. -/
def Claim.Links : Prop :=
  ∀ (s : State) (p : Fin 16),
    let k := s.mac p.val
    (s.portsRun = true →
      (k.linkUp = true →
        let down := ((((s.setEgress p.val []).setMac p.val { k with linkUp := false, inSet := false, egress := [] }).bump 0x21558).raiseOnce
          Code.linkDown { unit := 6, detail := p.val }).resendFrom p
        exec (.linkDown p) s = .next down ∧ exec (.macRstN p) s = .next (down.resetPort p)) ∧
      (k.linkUp = false → exec (.macRstN p) s = .next (s.resetPort p) ∧
        ∀ c ∈ [Instr.linkDown p, .linkHoldExpiry p], exec c s = .next s) ∧
      (∀ rate, k.linkUp = false → exec (.linkUp p rate) s = .next
        (s.setMac p.val { k with linkUp := true, rate800 := rate, upSince := s.tb, inSet := false })) ∧
      (∀ rate, k.linkUp = true → exec (.linkUp p rate) s = .next (s.setMac p.val { k with rate800 := rate })) ∧
      (k.linkUp = true → k.inSet = false → (∀ e ∈ s.net.pairs, ∀ f ∈ e.2.unacked, f.port.isSome = true) →
        exec (.linkHoldExpiry p) s = .next ((s.until (k.upSince + s.linkHold)).setMac p.val { k with inSet := true })) ∧
      (∀ status, (∀ e ∈ k.egress, bit status.toNat (s.pcp e.vc.toNat) = true) →
        exec (.pauseStatusChange p status) s = .next (s.setMac p.val { k with pause := status })) ∧
      (∀ status e, k.egress = [e] → bit status.toNat (s.pcp e.vc.toNat) = false →
        exec (.pauseStatusChange p status) s = .next (((s.setMac p.val { k with pause := status }).setEgress p.val []).leave p e))) ∧
    (s.portsRun = false → exec (.macRstN p) s = .next (s.resetPort p) ∧
      ∀ rate status, ∀ c ∈ [Instr.linkDown p, .linkHoldExpiry p, .linkUp p rate, .pauseStatusChange p status], exec c s = .next s)

/-- The transport's timers and links (R252, R256, R258, R260, R261, R399, R403, R412, R413). -/
def Obligations.TransportEvents : Prop := Claim.TransportTimers ∧ Claim.Links

/-! ### Timeouts, tiles and the cold stream -/

/-- A missing count or grant message, manifest, row, tile-done doorbell, shared-ready doorbell or collective frame of the open attempt raises
COLLECTIVE_TIMEOUT when its time has passed; with nothing missing the timer does nothing, and the tile timer does not run before the pass's cold
streaming has ended (R90, R121, R149, R286). The model's readings: the tile timer that waits for the cold streaming, and its time with nothing
cold or no tile done (log entry 83), and the timebase that first reaches the timeout's instant (log entry 9). It says where `exchangeTimeout`,
`manifestTimeout`, `rowTimeout`, `tileTimeout`, `sharedReadyTimeout` and `collectiveTimeout` complete. -/
def Obligations.AttemptTimeouts : Prop :=
  ∀ (s : State), s.awake = true → s.attemptOpen = true →
    let timeout (at_ unit : Nat) : State := ((s.until at_).raise Code.collectiveTimeout { unit := unit }).close
    (∀ a, s.att.grantAt = some a → s.att.grantDone = none → (s.allHeld s.att.countsIn = false ∨ s.allHeld s.att.grantsIn = false) →
      exec .exchangeTimeout s = .next (timeout (a + s.grantBlock.timeout) 5)) ∧
    (s.att.grantAt = none ∨ s.att.grantDone.isSome = true → exec .exchangeTimeout s = .next s.close) ∧
    (∀ a, s.att.grantDone = some a → s.allHeld s.att.manIn = false →
      exec .manifestTimeout s = .next (timeout (a + s.grantBlock.timeout) 7)) ∧
    (s.att.grantDone = none ∨ s.allHeld s.att.manIn = true → exec .manifestTimeout s = .next s.close) ∧
    (s.att.laidOut = true → (∃ x ∈ s.att.tiles, s.tileReady x = false) →
      exec .rowTimeout s = .next (timeout (s.sched.tEnd + s.grantBlock.timeout) 7)) ∧
    ((∀ x ∈ s.att.tiles, s.tileReady x = true) → exec .rowTimeout s = .next s.close) ∧
    (s.att.coldSlot < s.att.coldWon.length → exec .tileTimeout s = .next s.close) ∧
    (s.att.coldWon.length ≤ s.att.coldSlot → (∃ n, n < s.att.entered ∧ n ∉ s.att.doneTiles) → exec .tileTimeout s =
      .next (timeout (max s.sched.tEnd (max (s.att.comb.coldDone.getD 0) (s.att.comb.lastDone.getD 0)) + s.tileTimeoutTb) 6)) ∧
    ((∀ n, n < s.att.entered → n ∈ s.att.doneTiles) → exec .tileTimeout s = .next s.close) ∧
    (s.combineBlock.shared ≠ 0 → s.att.comb.shared = false →
      exec .sharedReadyTimeout s = .next (timeout (s.sched.tEnd + s.grantBlock.timeout) 8)) ∧
    (s.att.comb.shared = true → exec .sharedReadyTimeout s = .next s.close) ∧
    (∀ (op : BitVec 8) c, s.coll op.toNat = some c → c.awaits = true →
      exec (.collectiveTimeout op) s = .next (timeout (max c.started c.lastRx + c.record.timeout) 9)) ∧
    (∀ op : BitVec 8, (∀ c, s.coll op.toNat = some c → c.awaits = false) → exec (.collectiveTimeout op) s = .next s.close)

/-- The next tile whose rows are complete, with the responses of their writes in, and whose weights are staged enters the tile list as a descriptor
of 32 B and is counted, when the list has room (R115, R117, R125, R339, R392). It says where `tileEnter` completes. -/
def Claim.TileEnters : Prop :=
  ∀ (s : State) (q : Sequencer) (x : Tile), s.awake = true → s.openSeq = some q → q.aborted = false →
    s.att.tiles[s.att.entered]? = some x → s.att.tilesOn = true → s.att.laidOut = true →
    let l := s.dispatchBlock.queue
    (s.tileReady x = true → x.firstRow ∈ s.att.written → s.stagedTile x.expert = true → s.qEnable l = true → s.qRoom l 32 0 = true →
      exec .tileEnter s = .next ((((s.placeItem l 0 32 (s.descriptor q s.att.entered x)).bump 0x21730).modAtt
        (fun a => { a with entered := s.att.entered + 1 })).bump 0x210E8).close) ∧
    (s.tileReady x = false ∨ x.firstRow ∉ s.att.written ∨ s.stagedTile x.expert = false ∨ s.qEnable l = false ∨ s.qRoom l 32 0 = false →
      exec .tileEnter s = .next s.close)

/-- Each MiB of the cold stream copies the next bytes of the expert's weights from the quarry tier to its slot of COLD_BASE, counts
them, and sets the slot's progress word; every other byte of host memory is as before (R340). It says where `coldStreamProgress` completes. -/
def Claim.ColdStream : Prop :=
  ∀ (s : State) (q : Sequencer) (e : Nat), s.awake = true → s.openSeq = some q → q.aborted = false →
    s.att.coldWon[s.att.coldSlot]? = some e →
    let r := s.placementOf (s.plannerOf q.prog)
    let k := s.att.coldSlot
    let n := min 1048576 (r.expertBytes - s.att.coldBytes)
    s.att.coldBytes + n < r.expertBytes →
    exec .coldStreamProgress s = .next ((((s.write (r.coldBase + 4096 + k * r.expertBytes + s.att.coldBytes)
      (s.read (r.quarryAddr q.layer.toNat e + s.att.coldBytes) n)).bump 0x216C0 n).writeLe (r.coldBase + 8 * k) 8
      (shapeWord (ceilDiv (s.att.coldBytes + n) 1048576 + e * 2 ^ 20) q.gen (0x5400 + k))).modAtt
        (fun a => { a with coldBytes := s.att.coldBytes + n })).close

/-- Tiles enter the tile list and the cold stream goes on (R115, R117, R340). -/
def Obligations.TilesAndColdStream : Prop := Claim.TileEnters ∧ Claim.ColdStream

/-! ### Mortar lanes and the tree -/

/-- IDENT from the partner that the roster and the table name trains the lane afresh; from any other it leaves the lane untrained and marked
MISMATCH; either way this end sends its own (the model's reading, log entry 123). A block that lost itself and has no U0 joins by U1 (R298,
R320, R424, R442). It says where `ident` completes. -/
def Claim.LaneTraining : Prop :=
  ∀ (s : State) (l : Fin 6) (h : MortarHdr) (member : MemberId) (role : BitVec 8) (pos : BitVec 16), s.lanesRun = true →
    s.power.state = .run → h.crc = crc32c (mortarBytes h (.ident member role pos)) →
    let own : MortarOut := { lane := l.val, origin := s.me, seq := 0, copy := false, resend := false, down := decide (2 ≤ l.val),
                             body := .ident s.me (if l.val = 0 then 0 else if l.val = 1 then 1 else 2) (BitVec.ofNat 16 s.myPos) }
    let trained := (s.setLane l.val { trained := true, partner := member, lastRx := s.tb, clearFrom := s.tb }).emitMortar own
    (s.laneEnable l.val = false → exec (.ident l h member role pos) s = .next s.close) ∧
    (s.laneEnable l.val = true → s.partnerNamed l member role pos →
      (l.val ≠ 1 ∨ s.boot.selfLost = false ∨ (s.lane 0).trained = true →
        exec (.ident l h member role pos) s = .next trained.close) ∧
      (l.val = 1 → s.boot.selfLost = true → s.mortar.cal.loaded = false → (s.lane 0).trained = false →
        exec (.ident l h member role pos) s = .next
          ({ trained with mortar := { trained.mortar with tree := { s.mortar.tree with rehomed := true } } } : State).close)) ∧
    (s.laneEnable l.val = true → ¬ s.partnerNamed l member role pos → exec (.ident l h member role pos) s = .next
      ((s.setLane l.val { s.lane l.val with trained := false, mismatch := true, partner := member }).emitMortar own).close)

/-- HEARTBEAT that names the last message received shows only that the lane lives; one that names a later SEQ is answered with NAK. NAK has
the messages sent again from the SEQ that it names. Trained lanes send HEARTBEAT at every multiple of 5,000 tb once the timebase is loaded, and
before that at every 5,000 tb from their training; CAL_REQ goes to the parents one calibration interval after the latest, but for a root; CAL_REQ
of a child is answered once the own timebase counts; CAL_RESP of a parent sets delay and offset (R301, R304, R312, R315, R424). It says where
`heartbeat`, `nak`, `heartbeatTick`, `calibrationTick`, `calReq` and `calResp` complete. -/
def Claim.LaneUpkeep : Prop :=
  ∀ (s : State) (l : Fin 6) (h : MortarHdr), s.lanesRun = true → s.power.state = .run → (s.lane l.val).trained = true →
    let heard := s.setLane l.val { s.lane l.val with lastRx := s.tb }
    (h.crc = crc32c (mortarBytes h .heartbeat) →
      (h.seq + 1 = (s.lane l.val).rxNext → exec (.heartbeat l h) s = .next heard.close) ∧
      (1 ≤ (h.seq + 1 - (s.lane l.val).rxNext).toNat → (h.seq + 1 - (s.lane l.val).rxNext).toNat ≤ 32 →
        exec (.heartbeat l h) s = .next (heard.sendNak l.val).close)) ∧
    (h.crc = crc32c (mortarBytes h .nak) → exec (.nak l h) s = .next (heard.laneResend l.val h.seq).close) ∧
    (s.tbLoaded = true → exec .heartbeatTick s = .next ((s.until ((s.tb / 5000 + 1) * 5000)).each s.trainedLanes
      (fun u k => u.sendLane k u.me (decide (2 ≤ k)) .heartbeat))) ∧
    (s.tbLoaded = false → s.trainedLanes = [l.val] → (s.lane l.val).clearFrom ≤ s.tb →
      exec .heartbeatTick s = .next (let t := (s.lane l.val).clearFrom + ((s.tb - (s.lane l.val).clearFrom) / 5000 + 1) * 5000
        (s.until t).sendLane l.val (s.until t).me (decide (2 ≤ l.val)) .heartbeat)) ∧
    (∀ t, s.mortar.cal.lastReq = some t →
      let r := s.until (t + if s.mortar.cal.loaded then 1250000 else 12500)
      let r : State := { r with mortar := { r.mortar with cal := { r.mortar.cal with lastReq := some r.tb } } }
      (s.isRoot = false → exec .calibrationTick s = .next (r.each [0, 1] (fun u k => (u.sendLane k u.me false (.calReq u.fine)).useFree))) ∧
      (s.isRoot = true → exec .calibrationTick s = .next r)) ∧
    (s.mortar.cal.lastReq = none →
      let r : State := { s with mortar := { s.mortar with cal := { s.mortar.cal with lastReq := some s.tb } } }
      (s.isRoot = false → exec .calibrationTick s = .next (r.each [0, 1] (fun u k => (u.sendLane k u.me false (.calReq u.fine)).useFree))) ∧
      (s.isRoot = true → exec .calibrationTick s = .next r)) ∧
    (∀ t1, s.messageComes l h (.calReq t1) → 2 ≤ l.val →
      (s.mortar.cal.loaded = true ∨ s.isRoot = true → exec (.calReq l h t1) s =
        .next (((s.afterMessage l).sendLane l.val s.me true (.calResp t1 s.fine s.fine)).useFree).close) ∧
      (s.mortar.cal.loaded = false → s.isRoot = false → exec (.calReq l h t1) s = .next (s.afterMessage l).close)) ∧
    (∀ t1 t2 t3, s.messageComes l h (.calResp t1 t2 t3) → l.val < 2 →
      exec (.calResp l h t1 t2 t3) s = .next (((s.afterMessage l).calResult l.val t1 t2 t3).joinBarrier).close)

/-- A trained lane on which nothing came for 15,250 tb falls silent, is counted, and the member acts on it; a lane still untrained
12,500,000 tb after the image took effect counts as silent (R312, R313, R424). It says where `laneSilence` and `laneTrainTimeout` complete. -/
def Claim.SilentLanes : Prop :=
  ∀ (s : State) (l : Fin 6), s.lanesRun = true →
    ((s.lane l.val).trained = true →
      let r := s.until ((s.lane l.val).lastRx + 15250)
      exec (.laneSilence l) s = .next (((r.setLane l.val { r.lane l.val with trained := false, silent := true }).bump 0x21618).actOnSilence
        l.val).close) ∧
    ((s.lane l.val).trained = false → s.mortar.tree.roster ≠ [] →
      let r := s.until (s.boot.appliedAt + 12500000)
      let u := (r.setLane l.val { r.lane l.val with silent := true }).bump 0x21618
      (l.val = 0 → s.myPos = 0 → exec (.laneTrainTimeout l) s = .next u.close) ∧
      (l.val = 0 → s.myPos ≠ 0 → exec (.laneTrainTimeout l) s = .next (u.actOnSilence 0).close) ∧
      (l.val = 1 → s.secParent ≠ none → exec (.laneTrainTimeout l) s = .next (u.actOnSilence 1).close) ∧
      (2 ≤ l.val → s.primaryKids = [] → s.secondaryKids = [] → exec (.laneTrainTimeout l) s = .next u.close)) ∧
    ((s.lane l.val).trained = true → exec (.laneTrainTimeout l) s = .next s.close)

/-- Mortar lanes train, live and fall silent (R298, R301, R304, R312, R313, R315, R320, R424, R442). -/
def Obligations.Lanes : Prop := Claim.LaneTraining ∧ Claim.LaneUpkeep ∧ Claim.SilentLanes

/-- ARRIVE of a child for the barrier that gathers is taken into it; RELEASE for that barrier goes down to every child and is held until
T_REL; ABORT from above goes down and is acted on, from below goes up or is decided by the root; REDUCE from below joins the sum of
this node, from above is forwarded under its ORIGIN and is the result. A message of another barrier, or of an earlier pass, changes nothing beyond
its lane; one whose BN, MEMB_VER or GEN cannot be compared raises EPOCH_WINDOW (R280, R288, R299, R302, R307, R308, R317, R318). That an arrival or
release of another BN is discarded without a code, that the half range raises it, and that a GEN one ahead counts as current is the model's reading
(log entry 88). It says where
`arrive`, `release`, `abort` and `reduce` complete. -/
def Obligations.BarrierMessages : Prop :=
  ∀ (s : State) (l : Fin 6) (h : MortarHdr),
    let r := s.afterMessage l
    let old (g : BitVec 16) : Prop := 65536 - 1023 ≤ (g - s.sched.curGen).toNat
    let outside (g : BitVec 16) : Prop := 1 < (g - s.sched.curGen).toNat ∧ (g - s.sched.curGen).toNat < 65536 - 1023
    let fault (m : MemberId) : State := (r.raise Code.epochWindow { unit := 15, member := some m }).close
    (∀ a, s.messageComes l h (.arrive a) → 2 ≤ l.val → a.neutral = false → a.admitReq = false → h.origin = (s.lane l.val).partner →
      s.mortar.bar.begun = true → a.kind ≠ .first →
      ((a.bn - s.mortar.bar.bn).toNat = 2 ^ 31 → exec (.arrive l h a) s = .next (fault h.origin)) ∧
      (a.bn ≠ s.mortar.bar.bn → (a.bn - s.mortar.bar.bn).toNat ≠ 2 ^ 31 → exec (.arrive l h a) s = .next r.close) ∧
      (a.bn = s.mortar.bar.bn → old a.gen → exec (.arrive l h a) s = .next r.close) ∧
      (a.bn = s.mortar.bar.bn → outside a.gen → exec (.arrive l h a) s = .next (fault h.origin)) ∧
      (a.bn = s.mortar.bar.bn → (a.gen - s.sched.curGen).toNat ≤ 1 →
        (h.origin ∈ s.primaryKids → exec (.arrive l h a) s = .next
          ((r.modTree (fun t => { t with kidsOut := t.kidsOut.filter (· != h.origin) })).modBar (fun b => { b with
            kids := Tab.put b.kids h.origin.toNat a, lastIn := s.tb })).gather.close) ∧
        (h.origin ∉ s.primaryKids → (Tab.get? s.mortar.tree.kidsIn l.val).isSome = true → exec (.arrive l h a) s =
          .next (r.modBar (fun b => { b with kids := Tab.put b.kids h.origin.toNat a, lastIn := s.tb })).gather.close))) ∧
    (∀ x, s.messageComes l h (.release x) → s.upLane = some l.val → s.mortar.bar.begun = true →
      ((x.bn - s.mortar.bar.bn).toNat = 2 ^ 31 ∨ (x.membVer - s.mortar.tree.membVer).toNat = 2 ^ 15 →
        exec (.release l h x) s = .next (fault h.origin)) ∧
      ((x.bn - s.mortar.bar.bn).toNat ≠ 2 ^ 31 → (x.membVer - s.mortar.tree.membVer).toNat ≠ 2 ^ 15 →
        (x.bn ≠ s.mortar.bar.bn → exec (.release l h x) s = .next r.close) ∧
        (x.bn = s.mortar.bar.bn → old x.gen → exec (.release l h x) s = .next r.close) ∧
        (x.bn = s.mortar.bar.bn → outside x.gen → exec (.release l h x) s = .next (fault h.origin)) ∧
        (x.bn = s.mortar.bar.bn → (x.gen - s.sched.curGen).toNat ≤ 1 → exec (.release l h x) s = .next
          (((r.sendDown h.origin (.release x)).startVersions x.kind).modBar (fun b => { b with release := some x, relAt := s.tb })).close))) ∧
    (∀ a, s.messageComes l h (.abort a) → a.code ≠ Code.mortarRehome → (l.val < 2 → s.upLane = some l.val) →
      (old a.gen → exec (.abort l h a) s = .next r.close) ∧
      (outside a.gen → exec (.abort l h a) s = .next (fault h.origin)) ∧
      ((a.gen - s.sched.curGen).toNat ≤ 1 →
        (l.val < 2 → exec (.abort l h a) s = .next ((r.sendDown h.origin (.abort a)).doAbort
          { origin := h.origin, code := a.code, gen := a.gen, attempt := a.attempt }).close) ∧
        (2 ≤ l.val → s.isRoot = true → exec (.abort l h a) s = .next (r.rootAbort
          { origin := h.origin, code := a.code, gen := a.gen, attempt := a.attempt }).close) ∧
        (2 ≤ l.val → s.isRoot = false → exec (.abort l h a) s = .next (r.sendUp h.origin (.abort a)).close))) ∧
    (∀ b, s.messageComes l h (.reduce b) → (l.val < 2 → s.upLane = some l.val) →
      (old b.gen → exec (.reduce l h b) s = .next r.close) ∧
      (outside b.gen → exec (.reduce l h b) s = .next (fault (if l.val < 2 then h.origin else (s.lane l.val).partner))) ∧
      ((b.gen - s.sched.curGen).toNat ≤ 1 →
        (l.val < 2 → exec (.reduce l h b) s = .next ((r.sendDown h.origin (.reduce b)).sumResult b).close) ∧
        (2 ≤ l.val → exec (.reduce l h b) s =
          .next (match (r.noteSum b (fun t => { t with kids := Tab.put t.kids (s.lane l.val).partner.toNat b.words })).pushSum b with
            | (u, some w) => u.sumResult { b with words := w }
            | (u, none) => u).close)))

/-- When the timebase reaches T_REL of the release held, the next barrier gathers, BN is one higher, and the member acts on the release: a
member in service decides its attempt or its next slot, one that joins becomes ready (R308, R309, R420). When it reaches T_next, the
slot opens: a fresh pass takes the layer-pass counter as its generation. A root that waits at JOIN_WAIT_TB for absent members sends
the first release without them (R208, R220, R226, R425, R426). A block that holds a release in light sleep is awake for it, a member other than the
root forwards what it holds at JOIN_WAIT_TB, and A of such a release is the end of the wait: the model's reading and choice (log entries 22, 47 and
131); which members count as arrived is a choice too (log entry 93). It says where `keystoneRelease`, `slotOpen` and `joinWaitExpiry` complete. -/
def Obligations.BarrierAndSlotTimes : Prop :=
  ∀ s : State, s.boot.powered = true → s.held = false →
    (s.mortar.bar.release = none → exec .keystoneRelease s = .next s.close) ∧
    (∀ x, s.mortar.bar.release = some x → s.power.state = .light → exec .keystoneRelease s = .next (s.until x.tRel.toNat).resume.keystone.close) ∧
    (∀ x, s.mortar.bar.release = some x → s.power.state = .run → s.boot.phase = .join → s.mortar.bar.late = false →
      let u := ((s.until x.tRel.toNat).noteRelease x).1
      (u.mortar.bar.bn = x.bn + 1 ∧ u.mortar.bar.release = none ∧ u.mortar.bar.own = none) ∧
      (u.boot.phase = .join → u.mortar.bar.late = false →
        let r := u.agree x
        let r : State := { r with sched := { r.sched with count := 0 } }
        let r := (r.settleLoss r.mortar.tree.roster).becomeReady .admitted
        exec .keystoneRelease s = .next (r.boundary x u.lastRel none []).close)) ∧
    (∀ x, s.mortar.bar.release = some x → s.power.state = .run →
      let u := s.until x.tRel.toNat
      (u.noteRelease x).1.boot.phase = .admitted → (u.noteRelease x).1.power.state = .run →
      exec .keystoneRelease s = .next ((u.noteRelease x).1.releaseAdmitted x u.settled (u.noteRelease x).2).close) ∧
    (∀ x, s.sched.next = some x → s.power.state = .run → s.boot.phase = .admitted → x.aborted = false → s.mortar.bar.own = none →
      x.count = none → s.openNum = none → s.sched.seqs = [] →
      let u := s.until x.tNext
      let u := u.moveProg x.prog (u.placeOf x.prog false)
      let entry := (u.prog x.prog).passIndex
      let e := u.passEntry (u.prog x.prog).image entry
      let u := if e.last then u.modPlacement x.prog (fun r => { r with lastOpened := true }) else u
      let q : Sequencer :=
        { prog := x.prog, entry := entry, layer := BitVec.ofNat 8 e.layer,
          gen := BitVec.ofNat 16 u.sched.count.toNat, attempt := x.attempt, tOpen := x.tNext, pc := e.code,
          names := u.codeGroup x.prog e.code }
      let r : State := { u with sched := { u.sched with
        seqs := [(0, q)], tOpen := x.tNext, tEnd := x.tNext + e.slot, next := none, count := u.sched.count + 1, curGen := q.gen,
        curLayer := q.layer, curAttempt := q.attempt, slotRaised := false } }
      exec .slotOpen s = .next ((((r.newInterval.dropSums q).setPop x.prog 1).openPass q u.sched.count).replayEarly).close) ∧
    (s.sched.next = none → exec .slotOpen s = .next s.close) ∧
    (∀ own, s.mortar.bar.own = some own → s.boot.memberValid = true → s.mortar.bar.begun = false → s.mortar.bar.sentUp = false →
      own.kind = .first → s.mortar.bar.kids = [] →
      let r := s.until (s.reg 0x3040 0 32)
      (s.isRoot = true → exec .joinWaitExpiry s = .next ((r.modBar (fun b => { b with lastIn := r.tb })).rootRelease own)) ∧
      (s.isRoot = false → exec .joinWaitExpiry s = .next
        ((r.sendUp s.me (.arrive own)).modBar (fun b => { b with sentUp := true })))) ∧
    (s.mortar.bar.own = none → s.boot.memberValid = true → exec .joinWaitExpiry s = .next (s.until (s.reg 0x3040 0 32)))

/-- SUSPECT goes up, or counts at the root; LOST from the up lane goes down and takes the member out of the tree; REHOME joins the child here;
ADMIT goes down and is taken up; STATE overwrites the state of a block that is being admitted, part by part (R311, R314, R315,
R428). Which reports the root needs for a SUSPECT, the awaiting of a re-homed child after its REHOME and the membership that a joiner starts from
are the model's readings and choices (log entries 92, 26 and 25). It says where `suspect`, `lost`, `rehome`, `admitMsg` and `stateMsg` complete. -/
def Obligations.MembershipMessages : Prop :=
  ∀ (s : State) (l : Fin 6) (h : MortarHdr),
    let r := s.afterMessage l
    (∀ m role, s.messageComes l h (.suspect m role) → 2 ≤ l.val →
      (s.isRoot = false → exec (.suspect l h m role) s = .next (r.sendUp h.origin (.suspect m role)).close) ∧
      (s.isRoot = true → exec (.suspect l h m role) s = .next (r.rootSuspect h.origin m role).close)) ∧
    (∀ m v, s.messageComes l h (.lost m v) → s.upLane = some l.val →
      exec (.lost l h m v) s = .next ((r.sendDown h.origin (.lost m v)).acceptLost m v).close) ∧
    (∀ k v, s.messageComes l h (.rehome k v) → 2 ≤ l.val → exec (.rehome l h k v) s = .next (r.takeRehome l.val h k v).close) ∧
    (∀ m v, s.messageComes l h (.admitMsg m v) → s.upLane = some l.val → s.isKid m = false →
      exec (.admitMsg l h m v) s = .next ((r.sendDown h.origin (.admitMsg m v)).acceptAdmit m v).close) ∧
    (∀ counter bn rr ver mask crc, s.messageComes l h (.state (.common counter bn rr ver mask crc)) → s.upLane = some l.val →
      s.mortar.bar.admitted = true → s.boot.phase = .joined → 0 ∉ s.mortar.bar.stateIn → s.mortar.bar.stateIn.length < 12 →
      ∃ t : State, exec (.stateMsg l h (.common counter bn rr ver mask crc)) s = .next t.close ∧ t.sched.count = counter ∧
        t.sched.rrPtr = Fin.ofNat 16 rr.toNat ∧ t.mortar.bar.bn = bn ∧ t.mortar.bar.agreed.ready = mask ∧
        t.mortar.bar.agreed.crc = crc ∧ t.mortar.tree.membVer = ver ∧ t.mortar.bar.stateIn = s.mortar.bar.stateIn ++ [0] ∧
        t = { s with sched := t.sched, mortar := t.mortar }) ∧
    (∀ b, s.messageComes l h (.state b) → s.mortar.bar.admitted = false → exec (.stateMsg l h b) s = .next r.close)

/-! ### Tests, host port responses, resets, start and supply -/

/-- A maintenance span tests the column out of service, or counts the wrong answers of a function pipeline, which is then fenced at the next
boundary; a scrubbed line that is clean changes only where the scrubber stands, a corrected one raises SRAM_CORRECTED outside any pass; an
uncorrectable one awaits repair of its row and is recorded only, where an open pass does not hold the line; of the session table its record loses
VALID; after deep sleep a line of a store whose contents went is skipped while nothing has written it; an engine is ungated 30 core cycles before
its planned start: 63 tb at 600 MHz, 94 tb while every other cycle is stretched, 84 tb at 450 MHz (R5, R173, R432, R433, R438, R451, R461, R464).
That a line is a row, how columns are visited, and that stores 3 to 7 hold nothing for a pass are the model's choice (log entry 100), as is which
lines have been written since the sleep (a free value, log entry 132). It says where `maintenanceTest`, `scrubLine` and `engineUngate` complete.
-/
def Obligations.Maintenance : Prop :=
  ∀ s : State, s.testing = true →
    (∀ ok, s.boot.rotating = true → exec (.maintenanceTest (.column ok)) s = .next { s with
      boot := { s.boot with testPassed := some (ok && s.boot.testPassed.getD true) } }) ∧
    (∀ ok, s.boot.rotating = false → exec (.maintenanceTest (.column ok)) s = .next s) ∧
    (∀ (pipe : Fin 128) (wrong : Nat), pipe.val ∉ s.boot.fenced → pipe.val ∉ s.boot.toFence → wrong ≠ 0 →
      exec (.maintenanceTest (.pipeline pipe wrong)) s = .next { s.bump 0x21160 wrong with
        boot := { s.boot with toFence := insertNat pipe.val s.boot.toFence } }) ∧
    (∀ (pipe : Fin 128), pipe.val ∉ s.boot.fenced → exec (.maintenanceTest (.pipeline pipe 0)) s = .next (s.bump 0x21160 0)) ∧
    (∀ (store : Fin 8) (line : Nat) find, storeLines store.val line = true → s.scrubSkips store.val line = true →
      exec (.scrubLine store line find) s = .next { s with freeCtr := s.freeCtr + 1 }) ∧
    (∀ (store : Fin 8) (line : Nat), storeLines store.val line = true → s.scrubSkips store.val line = false →
      let k := (s.store store.val).visit line
      exec (.scrubLine store line .clean) s = .next (s.setStore store.val k) ∧
      (line ∉ k.before → exec (.scrubLine store line .corrected) s = .next
        ((s.setStore store.val { k with corrected := line :: k.corrected }).raise Code.sramCorrected
          { unit := 17, detail := store.val * 2 ^ 56 + 64 * line, noPass := true })) ∧
      (line ∈ k.before → exec (.scrubLine store line .corrected) s = .next
        ((s.setStore store.val { k.markHard line with corrected := line :: (k.markHard line).corrected }).raise Code.sramCorrected
          { unit := 17, detail := store.val * 2 ^ 56 + 64 * line, noPass := true })) ∧
      (store.val = 0 → exec (.scrubLine store line .uncorrectable) s = .next
        ((s.setStore 0 (k.markHard line)).raise Code.sramUncorrectable { unit := 17, detail := 64 * line, noPass := !(s.passHolds 0 line) })) ∧
      (store.val = 1 → exec (.scrubLine store line .uncorrectable) s = .next
        (({ s.setStore 1 (k.markHard line) with freeCtr := s.freeCtr + 1 } : State).raise Code.sramUncorrectable
          { unit := 17, detail := 2 ^ 56 + 64 * line, noPass := !(s.passHolds 1 line) })) ∧
      (store.val = 2 → exec (.scrubLine store line .uncorrectable) s = .next
        (((s.setStore 2 (k.markHard line)).loseSession line).raise Code.sramUncorrectable
          { unit := 17, detail := 2 * 2 ^ 56 + 64 * line, noPass := true })) ∧
      (3 ≤ store.val → exec (.scrubLine store line .uncorrectable) s = .next
        ((s.setStore store.val (k.markHard line)).raise Code.sramUncorrectable
          { unit := 17, detail := store.val * 2 ^ 56 + 64 * line, noPass := true }))) ∧
    (∀ (store : Fin 8) (line : Nat) find, storeLines store.val line = false → exec (.scrubLine store line find) s = .next s) ∧
    (∀ e q k i at_, (s.engineQueue e).head? = some (q, k, i) → i.planned = some at_ → ∃ t, exec (.engineUngate e) s = .next t ∧
      t.tb = max s.tb (at_ - if s.power.stepped then 84 else if s.power.sag then 94 else 63) ∧
      t.power = { s.power with ungated := (e :: s.power.ungated).eraseDups } ∧
      t = { s with power := t.power, mortar := t.mortar, counters := t.counters })

/-- A response of the host port: the status of a read is DECODE_ERR when a beat's is, else DATA_ERR when a beat's is. One other than OK in an
attempt raises SRAM_UNCORRECTABLE (data error) or ILLEGAL_INSTRUCTION (decode error) there; on a read of a LOAD that has accepted its program it
refuses the load with reason 11; on the write of a descriptor's entry it leaves the entry damaged, so that no MOVE finds it; elsewhere it is
recorded only. A failed write of the save area undoes the entry into deep sleep, and the block goes on as at a wake. OK lets a tile enter whose rows
it writes, a chunk complete whose sum it writes, a move write the window that it read from the quarry tier and go on once the window is written, and
changes nothing else; a write's response says that the write is no longer outstanding (R115, R205, R284, R336, R392, R394). A load refused by a later
response, the damaged descriptor and the waiting for write responses are the model's reading (log entry 102), the undone entry into sleep log entry
90. It says where `hostReadResponse` and `hostWriteResponse` complete. -/
def Obligations.HostResponses : Prop :=
  ∀ s : State, s.portsRun = true →
    let seen (r : State) (code : BitVec 8) (outside : Bool) : State := (r.raise code { unit := 18, noPass := outside }).close
    let out (ctx : HostCtx) : State := { s with hostOut := s.hostOut.filter (· != ctx) }
    (∀ (row : BitVec 24) (op : BitVec 8) (ch : BitVec 32), ∀ ctx ∈ [HostCtx.attempt, .tile row, .chunk op ch],
      (∀ beats, .decodeErr ∈ beats → exec (.hostReadResponse ctx beats) s = .next (seen s Code.illegalInstruction false)) ∧
      (∀ beats, .decodeErr ∉ beats → .dataErr ∈ beats →
        exec (.hostReadResponse ctx beats) s = .next (seen s Code.sramUncorrectable false)) ∧
      (∀ beats, .decodeErr ∉ beats → .dataErr ∉ beats → exec (.hostReadResponse ctx beats) s = .next s.close) ∧
      exec (.hostWriteResponse ctx .dataErr) s = .next (seen (out ctx) Code.sramUncorrectable false) ∧
      exec (.hostWriteResponse ctx .decodeErr) s = .next (seen (out ctx) Code.illegalInstruction false)) ∧
    (∀ h : BitVec 14, ∀ ctx ∈ [HostCtx.other, .save, .descriptor h],
      (∀ beats, .decodeErr ∈ beats → exec (.hostReadResponse ctx beats) s = .next (seen s Code.illegalInstruction true)) ∧
      (∀ beats, .decodeErr ∉ beats → .dataErr ∈ beats → exec (.hostReadResponse ctx beats) s = .next (seen s Code.sramUncorrectable true)) ∧
      (∀ beats, .decodeErr ∉ beats → .dataErr ∉ beats → exec (.hostReadResponse ctx beats) s = .next s.close)) ∧
    exec (.hostWriteResponse .other .dataErr) s = .next (seen (out .other) Code.sramUncorrectable true) ∧
    exec (.hostWriteResponse .other .decodeErr) s = .next (seen (out .other) Code.illegalInstruction true) ∧
    (∀ h : BitVec 14, h.toNat ∈ s.layout.descs →
      let u : State := { out (.descriptor h) with
        layout := { s.layout with damaged := insertNat h.toNat (s.layout.damaged.erase h.toNat) } }
      exec (.hostWriteResponse (.descriptor h) .dataErr) s =
        .next (u.raise Code.sramUncorrectable { unit := 18, noPass := true }).close ∧
      exec (.hostWriteResponse (.descriptor h) .decodeErr) s =
        .next (u.raise Code.illegalInstruction { unit := 18, noPass := true }).close ∧ u.descOf h.toNat = none) ∧
    (∀ h, ∀ ctx ∈ [HostCtx.other, .save, .attempt, .descriptor h], exec (.hostWriteResponse ctx .ok) s = .next (out ctx).close) ∧
    (∀ (row : BitVec 24) x, x ∈ s.att.tiles → x.firstRow = row.toNat → s.tileReady x = true → row.toNat ∉ s.att.written →
      exec (.hostWriteResponse (.tile row) .ok) s =
        .next ((out (.tile row)).modAtt (fun a => { a with written := row.toNat :: a.written })).close) ∧
    (∀ (op : BitVec 8) (ch : BitVec 32) c, s.coll op.toNat = some c → ch.toNat ∈ c.landed → ch.toNat ∉ c.doneCh →
      exec (.hostWriteResponse (.chunk op ch) .ok) s = .next ((out (.chunk op ch)).closeChunk op.toNat ch.toNat).close) ∧
    (∀ p (index : BitVec 16) entry beats,
      ((.decodeErr ∈ beats ∨ .dataErr ∈ beats) → (s.prog p).state = .loaded →
        exec (.hostReadResponse (.load p index entry) beats) s = .next
          (s.refuseLoad p { reason := 11, index := index.toNat, entry := entry }).close) ∧
      ((.decodeErr ∉ beats ∧ .dataErr ∉ beats) ∨ (s.prog p).state ≠ .loaded →
        exec (.hostReadResponse (.load p index entry) beats) s = .next s.close)) ∧
    (∀ p l e staging m, s.moveNamed p l.toNat e.toNat staging (fun m => m.src.isNone && !m.wait) = some m →
      (exec (.hostReadResponse (.move p l e staging) [.ok]) s = .next (s.quarryWindow p m).close) ∧
      (exec (.hostReadResponse (.move p l e staging) [.dataErr]) s = .next (s.windowAgain p m).close)) ∧
    (∀ p l e staging m, s.moveNamed p l.toNat e.toNat staging (·.wait) = some m →
      (exec (.hostWriteResponse (.move p l e staging) .ok) s = .next ((out (.move p l e staging)).windowDone p m).close) ∧
      (exec (.hostWriteResponse (.move p l e staging) .dataErr) s = .next ((out (.move p l e staging)).windowAgain p m).close) ∧
      (exec (.hostWriteResponse (.move p l e staging) .decodeErr) s = .next
        ((out (.move p l e staging)).quarryFallback p { m with wait := false }).close)) ∧
    (∀ st, st ≠ .ok → s.power.state = .deep →
      let r : State := { out .save with power := { s.power with deepRefused := true, pllLock := true } }
      exec (.hostWriteResponse .save st) s = .next ((r.resume.uncount 0x21828 1).recordStatus st).close)

/-- HP_RST_N loses the target requests in flight and the kept doorbells, and keeps every register, program, buffer and queued session write
(R413); each response that it loses acts as DATA_ERR (R394). VP_RST_N asserted withdraws what is presented, keeps every batch and every active
stack, and stays so until it is released (R408). That the doorbell writes kept of a sleeping block are lost with the rest is the model's reading
(log entry 47), as is the list of lost accesses that comes with the command (log entry 102). It says where `hpRstN` and `vpRstN` complete. -/
def Obligations.PortResets : Prop :=
  ∀ s : State,
    (∃ t : State, (∀ lost, exec (.hpRstN lost) s = .next (if s.portsRun = true then
        t.each lost (fun u x => if x.1 then u.readResponse x.2 .dataErr else u.writeResponse x.2 .dataErr) else t).close) ∧
      t.port = { tag := s.port.tag } ∧ t.late = [] ∧ t.power.heldReqs = [] ∧ t.power.kept = [] ∧
      (∀ c, (t.poolWindow c).held = [] ∧ (t.poolWindow c).stalled = []) ∧ (∀ c, (t.push c).held = []) ∧
      (∀ c, (t.layoutWindow c).stalled = []) ∧
      (∀ q, (t.queue q).stalls = [] ∧ (t.queue q).entries = (s.queue q).entries) ∧
      t.sched.sessQueue = s.sched.sessQueue.take 512 ∧ t.sched.sessReads = [] ∧ t.sched.sessHeld = [] ∧
      t.layout.allocs = s.layout.allocs ∧ t.layout.descs = s.layout.descs ∧
      t = { s with storage := t.storage, layout := t.layout, sched := t.sched, power := t.power, port := t.port, late := [] }) ∧
    (∀ a, ∃ t, exec (.vpRstN a) s = .next t ∧ t.signals.vpReset = a ∧ (∀ n, t.source n = s.source n) ∧
      (∀ k, (t.target k).stack = (s.target k).stack) ∧
      (a = true → ∀ k, k < 16 → (t.target k).presented = none) ∧ t = { s with signals := t.signals })

/-- The start of the block: a good image is applied in one step, registers in effect, member id, roster and groups set, and self-test is next; an
image whose header, table or a section fails its check is refused with that section in FAIL_SECTION, and its code raised. BIST with nothing found
goes on to the second read; that read, with good CRCs, loads the function stores and the block joins. The core PLL's lock is noted (R415, R418,
R419, R422, R435). The model's readings and choices: BOOT_PHASE stays RESET until IMAGE_PASS1 (log entry 28), FAIL_SECTION is 0x3F for a missing
section (log entry 99), and the function stores beyond the section's length read 0 (log entry 116). It says where `imagePass1`,
`selfTestComplete`, `imagePass2` and `corePllLock` complete. -/
def Obligations.StartOfTheBlock : Prop :=
  ∀ s : State, s.boot.powered = true → s.stopped = false →
    (∀ b, s.boot.phase = .reset → s.boot.cfgMode.toNat < 2 →
      let u : State := { s with boot := { s.boot with phase := .image } }
      let l := sectionsOf b
      (∀ f, headerFault b = some f → exec (.imagePass1 b) s = .next
        (({ u with boot := { u.boot with failSection := BitVec.ofNat 6 f.2 } } : State).raise f.1
          { unit := 19, detail := f.2, noPass := true })) ∧
      (∀ f, headerFault b = none → tableFault b l = some f → exec (.imagePass1 b) s = .next
        (({ u with boot := { u.boot with failSection := BitVec.ofNat 6 f.2 } } : State).raise f.1
          { unit := 19, detail := f.2, noPass := true })) ∧
      (∀ r f, headerFault b = none → tableFault b l = none → u.sectionsFault b l l.zipIdx = (r, some f) →
        exec (.imagePass1 b) s = .next (({ u with boot := { u.boot with failSection := BitVec.ofNat 6 f.2 } } : State).raise f.1
          { unit := 19, detail := f.2, noPass := true })) ∧
      (∀ r, headerFault b = none → tableFault b l = none → u.sectionsFault b l l.zipIdx = (r, none) →
        ∃ t, exec (.imagePass1 b) s = .next t ∧ t.boot.phase = .selfTest ∧ t.regs = r.regs ∧ t.effect = r.regs ∧
          t.boot.memberId = BitVec.ofNat 10 (le b 14 2) ∧ t.boot.memberValid = true ∧
          t.mortar.tree.roster = rosterOf (sectionBytes b l 0x01) ∧ t.boot.sections = l ∧ t.mem = r.mem)) ∧
    (∀ b, s.boot.phase ≠ .reset → exec (.imagePass1 b) s = .next s) ∧
    (s.boot.phase = .selfTest → s.power.pllLock = true →
      exec (.selfTestComplete { stores := [], failedCols := [], failedPipes := [] }) s = .next { s with
        boot := { s.boot with retired := [], toFence := [], rotating := true, testColumn := nextColumn 527 [], phase := .load } }) ∧
    (∀ r, s.boot.phase ≠ .selfTest → exec (.selfTestComplete r) s = .next s) ∧
    (∀ b, s.boot.phase = .load →
      let l := s.boot.sections
      ((∀ x ∈ l, x.typ = 0x11 ∨ x.typ = 0x12 → crc32c (x.bytes b) = x.crc) → exec (.imagePass2 b) s = .next
        ({ s with funcs := { micro := sectionBytes b l 0x11, table := sectionBytes b l 0x12 },
                  boot := { s.boot with phase := .join, loaded := true } } : State).joinBarrier)) ∧
    (∀ b, s.boot.phase ≠ .load → exec (.imagePass2 b) s = .next s) ∧
    exec .corePllLock s = .next { s with power := { s.power with pllLock := true, refAbsent := false } }

/-- A sag of a core at 600 MHz raises DROOP_STRETCH once per interval; its end counts the cycles stretched since the last count, every other one,
within the cycle or two that a time in tb units leaves open; a recovery says how many mV the supply lies above the threshold, and once that is
more than SAG_HYST_MV the time above begins. After SUSTAIN_TB of sag the clock steps to 450 MHz if STEP_ENABLE allows it, the cycles stretched
so far and the step counted, and RESTORE_TB after the supply has come above threshold and hysteresis it goes back; without that it stays (R451 to
R453). UNIT 0 of DROOP_STRETCH, that the cycles are counted where a stay ends, and that SUPPLY_RECOVER brings the height above the threshold are the
model's reading (log entry 103), the count between its two bounds is a free value (log entry 7), the times that a command waits for are log entry 9.
It says where `supplySag`, `supplyRecover`, `clockStep` and `clockRestore` complete. -/
def Claim.SagAndStep : Prop :=
  ∀ s : State, s.awake = true →
    (s.power.sag = false → exec .supplySag s = .next
      (let r : State := { s with power := { s.power with sag := true, above := false, sagSince := s.tb, stretchFrom := s.tb } }
       if s.power.stepped then r else r.raiseOnce Code.droopStretch { unit := 0 })) ∧
    (s.power.sag = true → exec .supplySag s = .next s) ∧
    (∀ mv : BitVec 8,
      let high := decide (s.reg 0x1008 8 8 < mv.toNat)
      let since := if high = true ∧ s.power.above = false then s.tb else s.power.recovered
      (s.power.sag = false ∨ s.power.stepped = true → exec (.supplyRecover mv) s = .next { s with
        power := { s.power with sag := false, above := high, recovered := since } }) ∧
      (s.power.sag = true → s.power.stepped = false → ∃ t n, exec (.supplyRecover mv) s = .next t ∧
        (stretchedIn (s.tb - s.power.stretchFrom)).1 ≤ n ∧ n ≤ (stretchedIn (s.tb - s.power.stretchFrom)).2 ∧
        t.ctr 0x21800 = s.ctr 0x21800 + n ∧ (∀ c, c ≠ 0x21800 → t.ctr c = s.ctr c) ∧
        t.power = { s.power with sag := false, above := high, recovered := since, stretchFrom := s.tb } ∧
        t = { s with power := t.power, counters := t.counters, freeCtr := s.freeCtr + 1 })) ∧
    (s.power.sag = true → s.power.stepped = false → s.reg 0x1004 2 1 ≠ 0 → ∃ t, exec .clockStep s = .next t ∧
      t.power.stepped = true ∧ max s.tb (s.power.sagSince + s.reg 0x100C 0 32) = t.tb ∧ t.regs = s.regs ∧ t.mem = s.mem ∧
      t.ctr 0x21808 = s.ctr 0x21808 + 1 ∧ s.ctr 0x21800 + (stretchedIn (t.tb - s.power.stretchFrom)).1 ≤ t.ctr 0x21800 ∧
      t.ctr 0x21800 ≤ s.ctr 0x21800 + (stretchedIn (t.tb - s.power.stretchFrom)).2) ∧
    ((s.power.sag = false ∨ s.power.stepped = true ∨ s.reg 0x1004 2 1 = 0) → exec .clockStep s = .next s) ∧
    (s.power.above = true → s.power.stepped = true → ∃ t, exec .clockRestore s = .next t ∧
      t.power = { s.power with stepped := false } ∧ t.tb = max s.tb (s.power.recovered + s.reg 0x1010 0 32) ∧
      t = { s with power := t.power, mortar := t.mortar, counters := t.counters }) ∧
    ((s.power.above = false ∨ s.power.stepped = false) → exec .clockRestore s = .next s)

/-- The cycles stretched in n tb units at 600 MHz are within two of one in each 6.25 (three periods of 1.667 ns, a tb unit being 0.8 ns), which
is every other cycle (R5, R451). -/
def Claim.StretchedShare : Prop :=
  ∀ n : Nat, 1 ≤ n → let r := stretchedIn n
    r.1 ≤ r.2 ∧ 25 * r.1 ≤ 4 * n ∧ 4 * n ≤ 25 * r.2 ∧ 25 * r.2 ≤ 4 * n + 28 ∧ 4 * n ≤ 25 * r.1 + 28

/-- What a sag does to the core clock, and how many cycles it stretches (R5, R451 to R453). -/
def Obligations.SagAndClockStep : Prop := Claim.SagAndStep ∧ Claim.StretchedShare

/-! ### Scoring, selection and generations -/

/-- SELECT's ranking of a token's pairs, none of them a NaN score: every pair stands in it once; a pair before another has the higher score,
or, where the scores compare equal (+0 and −0 do), the lower expert index (R55). -/
def Obligations.SelectionRanking : Prop :=
  ∀ ps : List PairRec, (∀ p ∈ ps, (f32 p.s.toNat).isNan = false) →
    ((ranking ps).map (·.e)).Perm (List.range ps.length) ∧
    (∀ x ∈ ranking ps, ps[x.e]? = some x.pair ∧ x.s = f32 x.pair.s.toNat) ∧
    (ranking ps).Pairwise (fun x y => FV.lt y.s x.s = true ∨ (FV.lt x.s y.s = false ∧ x.e < y.e))

/-- Two n-bit values compare by serial-number arithmetic: equal when they are the same, a before b when (b − a) mod 2^n is from 1 to
2^(n−1) − 1, after when (a − b) mod 2^n is, and undefined exactly 2^(n−1) apart (R317). -/
def Obligations.SerialComparison : Prop :=
  ∀ n a b : Nat, 1 ≤ n → a < 2 ^ n → b < 2 ^ n →
    (serial n a b = .same ↔ a = b) ∧
    (serial n a b = .before ↔ 1 ≤ (b + 2 ^ n - a) % 2 ^ n ∧ (b + 2 ^ n - a) % 2 ^ n ≤ 2 ^ (n - 1) - 1) ∧
    (serial n a b = .after ↔ 1 ≤ (a + 2 ^ n - b) % 2 ^ n ∧ (a + 2 ^ n - b) % 2 ^ n ≤ 2 ^ (n - 1) - 1) ∧
    (serial n a b = .undefined ↔ (b + 2 ^ n - a) % 2 ^ n = 2 ^ (n - 1))
end

