-- ==== Sys2Proof/Laws/Bytes.lean ====
section
/-! SUPPORT. Little-endian byte lists: lengths, round trips, and a field of their number. -/

namespace Sys2Proof.Machine

variable {s : State} {α : Type}

/-- The number of bytes. -/
theorem leBytes_length : ∀ n v, (leBytes n v).length = n
  | 0, _ => rfl
  | n + 1, v => by simp [leBytes, leBytes_length n]

/-- The bytes of a number spell it. -/
theorem ofLe_leBytes : ∀ n v, ofLe (leBytes n v) = v % 256 ^ n
  | 0, v => by simp [leBytes, ofLe, Nat.mod_one]
  | n + 1, v => by
    simp only [leBytes, ofLe, ofLe_leBytes n, BitVec.toNat_ofNat]
    show v % 256 + 256 * (v / 256 % 256 ^ n) = v % 256 ^ (n + 1)
    rw [Nat.pow_succ, Nat.mul_comm (256^n) 256, Nat.mod_mul]

/-- The bound of what bytes spell. -/
theorem ofLe_lt : ∀ l : List Byte, ofLe l < 256 ^ l.length
  | [] => by simp [ofLe]
  | b :: t => by
    have := ofLe_lt t; have hb := b.isLt
    simp only [ofLe, List.length_cons, Nat.pow_succ]
    have : 256 * (ofLe t + 1) ≤ 256 * 256 ^ t.length := Nat.mul_le_mul_left _ this
    omega

/-- The number of two lists in a row. -/
theorem ofLe_append : ∀ a b : List Byte, ofLe (a ++ b) = ofLe a + 256 ^ a.length * ofLe b
  | [], b => by simp [ofLe]
  | x :: a, b => by
    simp only [List.cons_append, ofLe, ofLe_append a b, List.length_cons, Nat.pow_succ]
    rw [Nat.mul_add, Nat.mul_comm (256 ^ a.length) 256, Nat.mul_assoc, ← Nat.add_assoc]

/-- The bytes in the middle are a field of the number. -/
theorem field_mid (a m b : List Byte) : field (ofLe (a ++ m ++ b)) (8 * a.length) (8 * m.length) = ofLe m := by
  unfold field
  rw [Nat.pow_mul, Nat.pow_mul, show 2^8 = 256 from rfl, List.append_assoc, ofLe_append, ofLe_append]
  rw [Nat.add_mul_div_left _ _ (Nat.pow_pos (by decide)), Nat.div_eq_of_lt (ofLe_lt a), Nat.zero_add, Nat.add_mul_mod_self_left]
  exact Nat.mod_eq_of_lt (ofLe_lt m)

/-- The number that bytes spell has these bytes. -/
theorem leBytes_ofLe : ∀ l : List Byte, leBytes l.length (ofLe l) = l
  | [] => rfl
  | b :: t => by
    have hb := b.isLt
    show BitVec.ofNat 8 (ofLe (b :: t)) :: leBytes t.length (ofLe (b :: t) / 256) = _
    have e1 : ofLe (b :: t) = b.toNat + 256 * ofLe t := rfl
    have e2 : ofLe (b :: t) / 256 = ofLe t := by rw [e1]; omega
    rw [e2, leBytes_ofLe t]
    congr 1
    apply BitVec.eq_of_toNat_eq; rw [BitVec.toNat_ofNat, e1]; omega

/-- Writing a place keeps the length. -/
theorem setAt_length : ∀ (l : List α) i v, (setAt l i v).length = l.length
  | [], _, _ => rfl
  | _ :: _, 0, _ => rfl
  | x :: t, i+1, v => by simp [setAt, setAt_length t]

/-- What stands at a place after a write. -/
theorem setAt_get : ∀ (l : List α) i v j, (setAt l i v)[j]? = if i = j ∧ i < l.length then some v else l[j]?
  | [], i, v, j => by simp [setAt]
  | x :: t, 0, v, j => by cases j <;> simp [setAt]
  | x :: t, i+1, v, j => by cases j <;> simp [setAt, setAt_get t]

/-- A bit of a register word. -/
theorem bit_getLsbD (v : BitVec 64) (i : Nat) : bit v.toNat i = v.getLsbD i := by
  unfold bit; rw [BitVec.getLsbD, Nat.testBit_eq_decide_div_mod_eq]
  have : v.toNat / 2 ^ i % 2 = 0 ∨ v.toNat / 2 ^ i % 2 = 1 := by omega
  rcases this with h | h <;> simp [h]

/-- The field that is a whole 4-byte word. -/
theorem field_word (v : BitVec 32) : field v.toNat 0 32 = v.toNat := by
  unfold field; have := v.isLt; simp only [Nat.pow_zero, Nat.div_one]; exact Nat.mod_eq_of_lt this

end Sys2Proof.Machine
end

