-- ==== Sys2Proof/Laws/State.lean ====
section
/-! SUPPORT. One lemma for each field of the state under each plain update of it: what the update writes and what it leaves. -/

namespace Sys2Proof.Machine

variable (s : State)

/-! #### setWord -/

@[simp] theorem State.setWord_regs (k : Nat) (v : BitVec 64) : (s.setWord k v).regs = Tab.set regReset s.regs k v := rfl
@[simp] theorem State.setWord_effect (k : Nat) (v : BitVec 64) : (s.setWord k v).effect = s.effect := rfl
@[simp] theorem State.setWord_counters (k : Nat) (v : BitVec 64) : (s.setWord k v).counters = s.counters := rfl
@[simp] theorem State.setWord_mem (k : Nat) (v : BitVec 64) : (s.setWord k v).mem = s.mem := rfl
@[simp] theorem State.setWord_port (k : Nat) (v : BitVec 64) : (s.setWord k v).port = s.port := rfl
@[simp] theorem State.setWord_late (k : Nat) (v : BitVec 64) : (s.setWord k v).late = s.late := rfl
@[simp] theorem State.setWord_hostOut (k : Nat) (v : BitVec 64) : (s.setWord k v).hostOut = s.hostOut := rfl
@[simp] theorem State.setWord_boot (k : Nat) (v : BitVec 64) : (s.setWord k v).boot = s.boot := rfl
@[simp] theorem State.setWord_power (k : Nat) (v : BitVec 64) : (s.setWord k v).power = s.power := rfl
@[simp] theorem State.setWord_testInstr (k : Nat) (v : BitVec 64) : (s.setWord k v).testInstr = s.testInstr := rfl
@[simp] theorem State.setWord_testReset (k : Nat) (v : BitVec 64) : (s.setWord k v).testReset = s.testReset := rfl
@[simp] theorem State.setWord_testOut (k : Nat) (v : BitVec 64) : (s.setWord k v).testOut = s.testOut := rfl
@[simp] theorem State.setWord_ledger (k : Nat) (v : BitVec 64) : (s.setWord k v).ledger = s.ledger := rfl
@[simp] theorem State.setWord_signals (k : Nat) (v : BitVec 64) : (s.setWord k v).signals = s.signals := rfl
@[simp] theorem State.setWord_storage (k : Nat) (v : BitVec 64) : (s.setWord k v).storage = s.storage := rfl
@[simp] theorem State.setWord_net (k : Nat) (v : BitVec 64) : (s.setWord k v).net = s.net := rfl
@[simp] theorem State.setWord_mortar (k : Nat) (v : BitVec 64) : (s.setWord k v).mortar = s.mortar := rfl
@[simp] theorem State.setWord_sched (k : Nat) (v : BitVec 64) : (s.setWord k v).sched = s.sched := rfl
@[simp] theorem State.setWord_att (k : Nat) (v : BitVec 64) : (s.setWord k v).att = s.att := rfl
@[simp] theorem State.setWord_weights (k : Nat) (v : BitVec 64) : (s.setWord k v).weights = s.weights := rfl
@[simp] theorem State.setWord_early (k : Nat) (v : BitVec 64) : (s.setWord k v).early = s.early := rfl
@[simp] theorem State.setWord_groups (k : Nat) (v : BitVec 64) : (s.setWord k v).groups = s.groups := rfl
@[simp] theorem State.setWord_layout (k : Nat) (v : BitVec 64) : (s.setWord k v).layout = s.layout := rfl
@[simp] theorem State.setWord_placement (k : Nat) (v : BitVec 64) : (s.setWord k v).placement = s.placement := rfl
@[simp] theorem State.setWord_funcs (k : Nat) (v : BitVec 64) : (s.setWord k v).funcs = s.funcs := rfl
@[simp] theorem State.setWord_marks (k : Nat) (v : BitVec 64) : (s.setWord k v).marks = s.marks := rfl
@[simp] theorem State.setWord_freeCtr (k : Nat) (v : BitVec 64) : (s.setWord k v).freeCtr = s.freeCtr := rfl
@[simp] theorem State.setWord_pending (k : Nat) (v : BitVec 64) : (s.setWord k v).pending = s.pending := rfl

/-! #### bump -/

@[simp] theorem State.bump_regs (c n : Nat) : (s.bump c n).regs = s.regs := rfl
@[simp] theorem State.bump_effect (c n : Nat) : (s.bump c n).effect = s.effect := rfl
@[simp] theorem State.bump_counters (c n : Nat) : (s.bump c n).counters = Tab.set (fun _ => 0) s.counters c (s.ctr c + n) := rfl
@[simp] theorem State.bump_mem (c n : Nat) : (s.bump c n).mem = s.mem := rfl
@[simp] theorem State.bump_port (c n : Nat) : (s.bump c n).port = s.port := rfl
@[simp] theorem State.bump_late (c n : Nat) : (s.bump c n).late = s.late := rfl
@[simp] theorem State.bump_hostOut (c n : Nat) : (s.bump c n).hostOut = s.hostOut := rfl
@[simp] theorem State.bump_boot (c n : Nat) : (s.bump c n).boot = s.boot := rfl
@[simp] theorem State.bump_power (c n : Nat) : (s.bump c n).power = s.power := rfl
@[simp] theorem State.bump_testInstr (c n : Nat) : (s.bump c n).testInstr = s.testInstr := rfl
@[simp] theorem State.bump_testReset (c n : Nat) : (s.bump c n).testReset = s.testReset := rfl
@[simp] theorem State.bump_testOut (c n : Nat) : (s.bump c n).testOut = s.testOut := rfl
@[simp] theorem State.bump_ledger (c n : Nat) : (s.bump c n).ledger = s.ledger := rfl
@[simp] theorem State.bump_signals (c n : Nat) : (s.bump c n).signals = s.signals := rfl
@[simp] theorem State.bump_storage (c n : Nat) : (s.bump c n).storage = s.storage := rfl
@[simp] theorem State.bump_net (c n : Nat) : (s.bump c n).net = s.net := rfl
@[simp] theorem State.bump_mortar (c n : Nat) : (s.bump c n).mortar = s.mortar := rfl
@[simp] theorem State.bump_sched (c n : Nat) : (s.bump c n).sched = s.sched := rfl
@[simp] theorem State.bump_att (c n : Nat) : (s.bump c n).att = s.att := rfl
@[simp] theorem State.bump_weights (c n : Nat) : (s.bump c n).weights = s.weights := rfl
@[simp] theorem State.bump_early (c n : Nat) : (s.bump c n).early = s.early := rfl
@[simp] theorem State.bump_groups (c n : Nat) : (s.bump c n).groups = s.groups := rfl
@[simp] theorem State.bump_layout (c n : Nat) : (s.bump c n).layout = s.layout := rfl
@[simp] theorem State.bump_placement (c n : Nat) : (s.bump c n).placement = s.placement := rfl
@[simp] theorem State.bump_funcs (c n : Nat) : (s.bump c n).funcs = s.funcs := rfl
@[simp] theorem State.bump_marks (c n : Nat) : (s.bump c n).marks = s.marks := rfl
@[simp] theorem State.bump_freeCtr (c n : Nat) : (s.bump c n).freeCtr = s.freeCtr := rfl
@[simp] theorem State.bump_pending (c n : Nat) : (s.bump c n).pending = s.pending := rfl

/-! #### uncount -/

@[simp] theorem State.uncount_regs (c n : Nat) : (s.uncount c n).regs = s.regs := rfl
@[simp] theorem State.uncount_effect (c n : Nat) : (s.uncount c n).effect = s.effect := rfl
@[simp] theorem State.uncount_counters (c n : Nat) : (s.uncount c n).counters = Tab.set (fun _ => 0) s.counters c (s.ctr c - n) := rfl
@[simp] theorem State.uncount_mem (c n : Nat) : (s.uncount c n).mem = s.mem := rfl
@[simp] theorem State.uncount_port (c n : Nat) : (s.uncount c n).port = s.port := rfl
@[simp] theorem State.uncount_late (c n : Nat) : (s.uncount c n).late = s.late := rfl
@[simp] theorem State.uncount_hostOut (c n : Nat) : (s.uncount c n).hostOut = s.hostOut := rfl
@[simp] theorem State.uncount_boot (c n : Nat) : (s.uncount c n).boot = s.boot := rfl
@[simp] theorem State.uncount_power (c n : Nat) : (s.uncount c n).power = s.power := rfl
@[simp] theorem State.uncount_testInstr (c n : Nat) : (s.uncount c n).testInstr = s.testInstr := rfl
@[simp] theorem State.uncount_testReset (c n : Nat) : (s.uncount c n).testReset = s.testReset := rfl
@[simp] theorem State.uncount_testOut (c n : Nat) : (s.uncount c n).testOut = s.testOut := rfl
@[simp] theorem State.uncount_ledger (c n : Nat) : (s.uncount c n).ledger = s.ledger := rfl
@[simp] theorem State.uncount_signals (c n : Nat) : (s.uncount c n).signals = s.signals := rfl
@[simp] theorem State.uncount_storage (c n : Nat) : (s.uncount c n).storage = s.storage := rfl
@[simp] theorem State.uncount_net (c n : Nat) : (s.uncount c n).net = s.net := rfl
@[simp] theorem State.uncount_mortar (c n : Nat) : (s.uncount c n).mortar = s.mortar := rfl
@[simp] theorem State.uncount_sched (c n : Nat) : (s.uncount c n).sched = s.sched := rfl
@[simp] theorem State.uncount_att (c n : Nat) : (s.uncount c n).att = s.att := rfl
@[simp] theorem State.uncount_weights (c n : Nat) : (s.uncount c n).weights = s.weights := rfl
@[simp] theorem State.uncount_early (c n : Nat) : (s.uncount c n).early = s.early := rfl
@[simp] theorem State.uncount_groups (c n : Nat) : (s.uncount c n).groups = s.groups := rfl
@[simp] theorem State.uncount_layout (c n : Nat) : (s.uncount c n).layout = s.layout := rfl
@[simp] theorem State.uncount_placement (c n : Nat) : (s.uncount c n).placement = s.placement := rfl
@[simp] theorem State.uncount_funcs (c n : Nat) : (s.uncount c n).funcs = s.funcs := rfl
@[simp] theorem State.uncount_marks (c n : Nat) : (s.uncount c n).marks = s.marks := rfl
@[simp] theorem State.uncount_freeCtr (c n : Nat) : (s.uncount c n).freeCtr = s.freeCtr := rfl
@[simp] theorem State.uncount_pending (c n : Nat) : (s.uncount c n).pending = s.pending := rfl

/-! #### write -/

@[simp] theorem State.write_regs (a : Nat) (b : List Byte) : (s.write a b).regs = s.regs := rfl
@[simp] theorem State.write_effect (a : Nat) (b : List Byte) : (s.write a b).effect = s.effect := rfl
@[simp] theorem State.write_counters (a : Nat) (b : List Byte) : (s.write a b).counters = s.counters := rfl
@[simp] theorem State.write_mem (a : Nat) (b : List Byte) : (s.write a b).mem = storeBytes s.mem a b := rfl
@[simp] theorem State.write_port (a : Nat) (b : List Byte) : (s.write a b).port = s.port := rfl
@[simp] theorem State.write_late (a : Nat) (b : List Byte) : (s.write a b).late = s.late := rfl
@[simp] theorem State.write_hostOut (a : Nat) (b : List Byte) : (s.write a b).hostOut = s.hostOut := rfl
@[simp] theorem State.write_boot (a : Nat) (b : List Byte) : (s.write a b).boot = s.boot := rfl
@[simp] theorem State.write_power (a : Nat) (b : List Byte) : (s.write a b).power = s.power := rfl
@[simp] theorem State.write_testInstr (a : Nat) (b : List Byte) : (s.write a b).testInstr = s.testInstr := rfl
@[simp] theorem State.write_testReset (a : Nat) (b : List Byte) : (s.write a b).testReset = s.testReset := rfl
@[simp] theorem State.write_testOut (a : Nat) (b : List Byte) : (s.write a b).testOut = s.testOut := rfl
@[simp] theorem State.write_ledger (a : Nat) (b : List Byte) : (s.write a b).ledger = s.ledger := rfl
@[simp] theorem State.write_signals (a : Nat) (b : List Byte) : (s.write a b).signals = s.signals := rfl
@[simp] theorem State.write_storage (a : Nat) (b : List Byte) : (s.write a b).storage = s.storage := rfl
@[simp] theorem State.write_net (a : Nat) (b : List Byte) : (s.write a b).net = s.net := rfl
@[simp] theorem State.write_mortar (a : Nat) (b : List Byte) : (s.write a b).mortar = s.mortar := rfl
@[simp] theorem State.write_sched (a : Nat) (b : List Byte) : (s.write a b).sched = s.sched := rfl
@[simp] theorem State.write_att (a : Nat) (b : List Byte) : (s.write a b).att = s.att := rfl
@[simp] theorem State.write_weights (a : Nat) (b : List Byte) : (s.write a b).weights = s.weights := rfl
@[simp] theorem State.write_early (a : Nat) (b : List Byte) : (s.write a b).early = s.early := rfl
@[simp] theorem State.write_groups (a : Nat) (b : List Byte) : (s.write a b).groups = s.groups := rfl
@[simp] theorem State.write_layout (a : Nat) (b : List Byte) : (s.write a b).layout = s.layout := rfl
@[simp] theorem State.write_placement (a : Nat) (b : List Byte) : (s.write a b).placement = s.placement := rfl
@[simp] theorem State.write_funcs (a : Nat) (b : List Byte) : (s.write a b).funcs = s.funcs := rfl
@[simp] theorem State.write_marks (a : Nat) (b : List Byte) : (s.write a b).marks = s.marks := rfl
@[simp] theorem State.write_freeCtr (a : Nat) (b : List Byte) : (s.write a b).freeCtr = s.freeCtr := rfl
@[simp] theorem State.write_pending (a : Nat) (b : List Byte) : (s.write a b).pending = s.pending := rfl

/-! #### writeLe -/

@[simp] theorem State.writeLe_regs (a n v : Nat) : (s.writeLe a n v).regs = s.regs := rfl
@[simp] theorem State.writeLe_effect (a n v : Nat) : (s.writeLe a n v).effect = s.effect := rfl
@[simp] theorem State.writeLe_counters (a n v : Nat) : (s.writeLe a n v).counters = s.counters := rfl
@[simp] theorem State.writeLe_mem (a n v : Nat) : (s.writeLe a n v).mem = storeBytes s.mem a (leBytes n v) := rfl
@[simp] theorem State.writeLe_port (a n v : Nat) : (s.writeLe a n v).port = s.port := rfl
@[simp] theorem State.writeLe_late (a n v : Nat) : (s.writeLe a n v).late = s.late := rfl
@[simp] theorem State.writeLe_hostOut (a n v : Nat) : (s.writeLe a n v).hostOut = s.hostOut := rfl
@[simp] theorem State.writeLe_boot (a n v : Nat) : (s.writeLe a n v).boot = s.boot := rfl
@[simp] theorem State.writeLe_power (a n v : Nat) : (s.writeLe a n v).power = s.power := rfl
@[simp] theorem State.writeLe_testInstr (a n v : Nat) : (s.writeLe a n v).testInstr = s.testInstr := rfl
@[simp] theorem State.writeLe_testReset (a n v : Nat) : (s.writeLe a n v).testReset = s.testReset := rfl
@[simp] theorem State.writeLe_testOut (a n v : Nat) : (s.writeLe a n v).testOut = s.testOut := rfl
@[simp] theorem State.writeLe_ledger (a n v : Nat) : (s.writeLe a n v).ledger = s.ledger := rfl
@[simp] theorem State.writeLe_signals (a n v : Nat) : (s.writeLe a n v).signals = s.signals := rfl
@[simp] theorem State.writeLe_storage (a n v : Nat) : (s.writeLe a n v).storage = s.storage := rfl
@[simp] theorem State.writeLe_net (a n v : Nat) : (s.writeLe a n v).net = s.net := rfl
@[simp] theorem State.writeLe_mortar (a n v : Nat) : (s.writeLe a n v).mortar = s.mortar := rfl
@[simp] theorem State.writeLe_sched (a n v : Nat) : (s.writeLe a n v).sched = s.sched := rfl
@[simp] theorem State.writeLe_att (a n v : Nat) : (s.writeLe a n v).att = s.att := rfl
@[simp] theorem State.writeLe_weights (a n v : Nat) : (s.writeLe a n v).weights = s.weights := rfl
@[simp] theorem State.writeLe_early (a n v : Nat) : (s.writeLe a n v).early = s.early := rfl
@[simp] theorem State.writeLe_groups (a n v : Nat) : (s.writeLe a n v).groups = s.groups := rfl
@[simp] theorem State.writeLe_layout (a n v : Nat) : (s.writeLe a n v).layout = s.layout := rfl
@[simp] theorem State.writeLe_placement (a n v : Nat) : (s.writeLe a n v).placement = s.placement := rfl
@[simp] theorem State.writeLe_funcs (a n v : Nat) : (s.writeLe a n v).funcs = s.funcs := rfl
@[simp] theorem State.writeLe_marks (a n v : Nat) : (s.writeLe a n v).marks = s.marks := rfl
@[simp] theorem State.writeLe_freeCtr (a n v : Nat) : (s.writeLe a n v).freeCtr = s.freeCtr := rfl
@[simp] theorem State.writeLe_pending (a n v : Nat) : (s.writeLe a n v).pending = s.pending := rfl

/-! #### answer -/

@[simp] theorem State.answer_regs (d : Nat) : (s.answer d).regs = s.regs := rfl
@[simp] theorem State.answer_effect (d : Nat) : (s.answer d).effect = s.effect := rfl
@[simp] theorem State.answer_counters (d : Nat) : (s.answer d).counters = s.counters := rfl
@[simp] theorem State.answer_mem (d : Nat) : (s.answer d).mem = s.mem := rfl
@[simp] theorem State.answer_port (d : Nat) : (s.answer d).port = { tag := s.port.tag, data := BitVec.ofNat 512 d } := rfl
@[simp] theorem State.answer_late (d : Nat) : (s.answer d).late = s.late := rfl
@[simp] theorem State.answer_hostOut (d : Nat) : (s.answer d).hostOut = s.hostOut := rfl
@[simp] theorem State.answer_boot (d : Nat) : (s.answer d).boot = s.boot := rfl
@[simp] theorem State.answer_power (d : Nat) : (s.answer d).power = s.power := rfl
@[simp] theorem State.answer_testInstr (d : Nat) : (s.answer d).testInstr = s.testInstr := rfl
@[simp] theorem State.answer_testReset (d : Nat) : (s.answer d).testReset = s.testReset := rfl
@[simp] theorem State.answer_testOut (d : Nat) : (s.answer d).testOut = s.testOut := rfl
@[simp] theorem State.answer_ledger (d : Nat) : (s.answer d).ledger = s.ledger := rfl
@[simp] theorem State.answer_signals (d : Nat) : (s.answer d).signals = s.signals := rfl
@[simp] theorem State.answer_storage (d : Nat) : (s.answer d).storage = s.storage := rfl
@[simp] theorem State.answer_net (d : Nat) : (s.answer d).net = s.net := rfl
@[simp] theorem State.answer_mortar (d : Nat) : (s.answer d).mortar = s.mortar := rfl
@[simp] theorem State.answer_sched (d : Nat) : (s.answer d).sched = s.sched := rfl
@[simp] theorem State.answer_att (d : Nat) : (s.answer d).att = s.att := rfl
@[simp] theorem State.answer_weights (d : Nat) : (s.answer d).weights = s.weights := rfl
@[simp] theorem State.answer_early (d : Nat) : (s.answer d).early = s.early := rfl
@[simp] theorem State.answer_groups (d : Nat) : (s.answer d).groups = s.groups := rfl
@[simp] theorem State.answer_layout (d : Nat) : (s.answer d).layout = s.layout := rfl
@[simp] theorem State.answer_placement (d : Nat) : (s.answer d).placement = s.placement := rfl
@[simp] theorem State.answer_funcs (d : Nat) : (s.answer d).funcs = s.funcs := rfl
@[simp] theorem State.answer_marks (d : Nat) : (s.answer d).marks = s.marks := rfl
@[simp] theorem State.answer_freeCtr (d : Nat) : (s.answer d).freeCtr = s.freeCtr := rfl
@[simp] theorem State.answer_pending (d : Nat) : (s.answer d).pending = s.pending := rfl

/-! #### ok -/

@[simp] theorem State.ok_regs : (s.ok).regs = s.regs := rfl
@[simp] theorem State.ok_effect : (s.ok).effect = s.effect := rfl
@[simp] theorem State.ok_counters : (s.ok).counters = s.counters := rfl
@[simp] theorem State.ok_mem : (s.ok).mem = s.mem := rfl
@[simp] theorem State.ok_port : (s.ok).port = { tag := s.port.tag } := rfl
@[simp] theorem State.ok_late : (s.ok).late = s.late := rfl
@[simp] theorem State.ok_hostOut : (s.ok).hostOut = s.hostOut := rfl
@[simp] theorem State.ok_boot : (s.ok).boot = s.boot := rfl
@[simp] theorem State.ok_power : (s.ok).power = s.power := rfl
@[simp] theorem State.ok_testInstr : (s.ok).testInstr = s.testInstr := rfl
@[simp] theorem State.ok_testReset : (s.ok).testReset = s.testReset := rfl
@[simp] theorem State.ok_testOut : (s.ok).testOut = s.testOut := rfl
@[simp] theorem State.ok_ledger : (s.ok).ledger = s.ledger := rfl
@[simp] theorem State.ok_signals : (s.ok).signals = s.signals := rfl
@[simp] theorem State.ok_storage : (s.ok).storage = s.storage := rfl
@[simp] theorem State.ok_net : (s.ok).net = s.net := rfl
@[simp] theorem State.ok_mortar : (s.ok).mortar = s.mortar := rfl
@[simp] theorem State.ok_sched : (s.ok).sched = s.sched := rfl
@[simp] theorem State.ok_att : (s.ok).att = s.att := rfl
@[simp] theorem State.ok_weights : (s.ok).weights = s.weights := rfl
@[simp] theorem State.ok_early : (s.ok).early = s.early := rfl
@[simp] theorem State.ok_groups : (s.ok).groups = s.groups := rfl
@[simp] theorem State.ok_layout : (s.ok).layout = s.layout := rfl
@[simp] theorem State.ok_placement : (s.ok).placement = s.placement := rfl
@[simp] theorem State.ok_funcs : (s.ok).funcs = s.funcs := rfl
@[simp] theorem State.ok_marks : (s.ok).marks = s.marks := rfl
@[simp] theorem State.ok_freeCtr : (s.ok).freeCtr = s.freeCtr := rfl
@[simp] theorem State.ok_pending : (s.ok).pending = s.pending := rfl

/-! #### notReady -/

@[simp] theorem State.notReady_regs : (s.notReady).regs = s.regs := rfl
@[simp] theorem State.notReady_effect : (s.notReady).effect = s.effect := rfl
@[simp] theorem State.notReady_counters : (s.notReady).counters = s.counters := rfl
@[simp] theorem State.notReady_mem : (s.notReady).mem = s.mem := rfl
@[simp] theorem State.notReady_port : (s.notReady).port = { tag := s.port.tag, status := 1 } := rfl
@[simp] theorem State.notReady_late : (s.notReady).late = s.late := rfl
@[simp] theorem State.notReady_hostOut : (s.notReady).hostOut = s.hostOut := rfl
@[simp] theorem State.notReady_boot : (s.notReady).boot = s.boot := rfl
@[simp] theorem State.notReady_power : (s.notReady).power = s.power := rfl
@[simp] theorem State.notReady_testInstr : (s.notReady).testInstr = s.testInstr := rfl
@[simp] theorem State.notReady_testReset : (s.notReady).testReset = s.testReset := rfl
@[simp] theorem State.notReady_testOut : (s.notReady).testOut = s.testOut := rfl
@[simp] theorem State.notReady_ledger : (s.notReady).ledger = s.ledger := rfl
@[simp] theorem State.notReady_signals : (s.notReady).signals = s.signals := rfl
@[simp] theorem State.notReady_storage : (s.notReady).storage = s.storage := rfl
@[simp] theorem State.notReady_net : (s.notReady).net = s.net := rfl
@[simp] theorem State.notReady_mortar : (s.notReady).mortar = s.mortar := rfl
@[simp] theorem State.notReady_sched : (s.notReady).sched = s.sched := rfl
@[simp] theorem State.notReady_att : (s.notReady).att = s.att := rfl
@[simp] theorem State.notReady_weights : (s.notReady).weights = s.weights := rfl
@[simp] theorem State.notReady_early : (s.notReady).early = s.early := rfl
@[simp] theorem State.notReady_groups : (s.notReady).groups = s.groups := rfl
@[simp] theorem State.notReady_layout : (s.notReady).layout = s.layout := rfl
@[simp] theorem State.notReady_placement : (s.notReady).placement = s.placement := rfl
@[simp] theorem State.notReady_funcs : (s.notReady).funcs = s.funcs := rfl
@[simp] theorem State.notReady_marks : (s.notReady).marks = s.marks := rfl
@[simp] theorem State.notReady_freeCtr : (s.notReady).freeCtr = s.freeCtr := rfl
@[simp] theorem State.notReady_pending : (s.notReady).pending = s.pending := rfl

/-! #### stall -/

@[simp] theorem State.stall_regs : (s.stall).regs = s.regs := rfl
@[simp] theorem State.stall_effect : (s.stall).effect = s.effect := rfl
@[simp] theorem State.stall_counters : (s.stall).counters = s.counters := rfl
@[simp] theorem State.stall_mem : (s.stall).mem = s.mem := rfl
@[simp] theorem State.stall_port : (s.stall).port = { tag := s.port.tag, stalled := true } := rfl
@[simp] theorem State.stall_late : (s.stall).late = s.late := rfl
@[simp] theorem State.stall_hostOut : (s.stall).hostOut = s.hostOut := rfl
@[simp] theorem State.stall_boot : (s.stall).boot = s.boot := rfl
@[simp] theorem State.stall_power : (s.stall).power = s.power := rfl
@[simp] theorem State.stall_testInstr : (s.stall).testInstr = s.testInstr := rfl
@[simp] theorem State.stall_testReset : (s.stall).testReset = s.testReset := rfl
@[simp] theorem State.stall_testOut : (s.stall).testOut = s.testOut := rfl
@[simp] theorem State.stall_ledger : (s.stall).ledger = s.ledger := rfl
@[simp] theorem State.stall_signals : (s.stall).signals = s.signals := rfl
@[simp] theorem State.stall_storage : (s.stall).storage = s.storage := rfl
@[simp] theorem State.stall_net : (s.stall).net = s.net := rfl
@[simp] theorem State.stall_mortar : (s.stall).mortar = s.mortar := rfl
@[simp] theorem State.stall_sched : (s.stall).sched = s.sched := rfl
@[simp] theorem State.stall_att : (s.stall).att = s.att := rfl
@[simp] theorem State.stall_weights : (s.stall).weights = s.weights := rfl
@[simp] theorem State.stall_early : (s.stall).early = s.early := rfl
@[simp] theorem State.stall_groups : (s.stall).groups = s.groups := rfl
@[simp] theorem State.stall_layout : (s.stall).layout = s.layout := rfl
@[simp] theorem State.stall_placement : (s.stall).placement = s.placement := rfl
@[simp] theorem State.stall_funcs : (s.stall).funcs = s.funcs := rfl
@[simp] theorem State.stall_marks : (s.stall).marks = s.marks := rfl
@[simp] theorem State.stall_freeCtr : (s.stall).freeCtr = s.freeCtr := rfl
@[simp] theorem State.stall_pending : (s.stall).pending = s.pending := rfl

/-! #### newTag -/

@[simp] theorem State.newTag_regs : (s.newTag).regs = s.regs := rfl
@[simp] theorem State.newTag_effect : (s.newTag).effect = s.effect := rfl
@[simp] theorem State.newTag_counters : (s.newTag).counters = s.counters := rfl
@[simp] theorem State.newTag_mem : (s.newTag).mem = s.mem := rfl
@[simp] theorem State.newTag_port : (s.newTag).port = { tag := s.port.tag + 1 } := rfl
@[simp] theorem State.newTag_late : (s.newTag).late = [] := rfl
@[simp] theorem State.newTag_hostOut : (s.newTag).hostOut = s.hostOut := rfl
@[simp] theorem State.newTag_boot : (s.newTag).boot = s.boot := rfl
@[simp] theorem State.newTag_power : (s.newTag).power = s.power := rfl
@[simp] theorem State.newTag_testInstr : (s.newTag).testInstr = s.testInstr := rfl
@[simp] theorem State.newTag_testReset : (s.newTag).testReset = s.testReset := rfl
@[simp] theorem State.newTag_testOut : (s.newTag).testOut = s.testOut := rfl
@[simp] theorem State.newTag_ledger : (s.newTag).ledger = s.ledger := rfl
@[simp] theorem State.newTag_signals : (s.newTag).signals = s.signals := rfl
@[simp] theorem State.newTag_storage : (s.newTag).storage = s.storage := rfl
@[simp] theorem State.newTag_net : (s.newTag).net = s.net := rfl
@[simp] theorem State.newTag_mortar : (s.newTag).mortar = s.mortar := rfl
@[simp] theorem State.newTag_sched : (s.newTag).sched = s.sched := rfl
@[simp] theorem State.newTag_att : (s.newTag).att = s.att := rfl
@[simp] theorem State.newTag_weights : (s.newTag).weights = s.weights := rfl
@[simp] theorem State.newTag_early : (s.newTag).early = s.early := rfl
@[simp] theorem State.newTag_groups : (s.newTag).groups = s.groups := rfl
@[simp] theorem State.newTag_layout : (s.newTag).layout = s.layout := rfl
@[simp] theorem State.newTag_placement : (s.newTag).placement = s.placement := rfl
@[simp] theorem State.newTag_funcs : (s.newTag).funcs = s.funcs := rfl
@[simp] theorem State.newTag_marks : (s.newTag).marks = s.marks := rfl
@[simp] theorem State.newTag_freeCtr : (s.newTag).freeCtr = s.freeCtr := rfl
@[simp] theorem State.newTag_pending : (s.newTag).pending = s.pending := rfl

/-! #### lateAnswer -/

@[simp] theorem State.lateAnswer_regs (t d : Nat) : (s.lateAnswer t d).regs = s.regs := rfl
@[simp] theorem State.lateAnswer_effect (t d : Nat) : (s.lateAnswer t d).effect = s.effect := rfl
@[simp] theorem State.lateAnswer_counters (t d : Nat) : (s.lateAnswer t d).counters = s.counters := rfl
@[simp] theorem State.lateAnswer_mem (t d : Nat) : (s.lateAnswer t d).mem = s.mem := rfl
@[simp] theorem State.lateAnswer_port (t d : Nat) : (s.lateAnswer t d).port = s.port := rfl
@[simp] theorem State.lateAnswer_late (t d : Nat) : (s.lateAnswer t d).late = s.late ++ [{ tag := t, data := BitVec.ofNat 512 d }] := rfl
@[simp] theorem State.lateAnswer_hostOut (t d : Nat) : (s.lateAnswer t d).hostOut = s.hostOut := rfl
@[simp] theorem State.lateAnswer_boot (t d : Nat) : (s.lateAnswer t d).boot = s.boot := rfl
@[simp] theorem State.lateAnswer_power (t d : Nat) : (s.lateAnswer t d).power = s.power := rfl
@[simp] theorem State.lateAnswer_testInstr (t d : Nat) : (s.lateAnswer t d).testInstr = s.testInstr := rfl
@[simp] theorem State.lateAnswer_testReset (t d : Nat) : (s.lateAnswer t d).testReset = s.testReset := rfl
@[simp] theorem State.lateAnswer_testOut (t d : Nat) : (s.lateAnswer t d).testOut = s.testOut := rfl
@[simp] theorem State.lateAnswer_ledger (t d : Nat) : (s.lateAnswer t d).ledger = s.ledger := rfl
@[simp] theorem State.lateAnswer_signals (t d : Nat) : (s.lateAnswer t d).signals = s.signals := rfl
@[simp] theorem State.lateAnswer_storage (t d : Nat) : (s.lateAnswer t d).storage = s.storage := rfl
@[simp] theorem State.lateAnswer_net (t d : Nat) : (s.lateAnswer t d).net = s.net := rfl
@[simp] theorem State.lateAnswer_mortar (t d : Nat) : (s.lateAnswer t d).mortar = s.mortar := rfl
@[simp] theorem State.lateAnswer_sched (t d : Nat) : (s.lateAnswer t d).sched = s.sched := rfl
@[simp] theorem State.lateAnswer_att (t d : Nat) : (s.lateAnswer t d).att = s.att := rfl
@[simp] theorem State.lateAnswer_weights (t d : Nat) : (s.lateAnswer t d).weights = s.weights := rfl
@[simp] theorem State.lateAnswer_early (t d : Nat) : (s.lateAnswer t d).early = s.early := rfl
@[simp] theorem State.lateAnswer_groups (t d : Nat) : (s.lateAnswer t d).groups = s.groups := rfl
@[simp] theorem State.lateAnswer_layout (t d : Nat) : (s.lateAnswer t d).layout = s.layout := rfl
@[simp] theorem State.lateAnswer_placement (t d : Nat) : (s.lateAnswer t d).placement = s.placement := rfl
@[simp] theorem State.lateAnswer_funcs (t d : Nat) : (s.lateAnswer t d).funcs = s.funcs := rfl
@[simp] theorem State.lateAnswer_marks (t d : Nat) : (s.lateAnswer t d).marks = s.marks := rfl
@[simp] theorem State.lateAnswer_freeCtr (t d : Nat) : (s.lateAnswer t d).freeCtr = s.freeCtr := rfl
@[simp] theorem State.lateAnswer_pending (t d : Nat) : (s.lateAnswer t d).pending = s.pending := rfl

/-! #### setMac -/

@[simp] theorem State.setMac_regs (p : Nat) (v : MacPort) : (s.setMac p v).regs = s.regs := rfl
@[simp] theorem State.setMac_effect (p : Nat) (v : MacPort) : (s.setMac p v).effect = s.effect := rfl
@[simp] theorem State.setMac_counters (p : Nat) (v : MacPort) : (s.setMac p v).counters = s.counters := rfl
@[simp] theorem State.setMac_mem (p : Nat) (v : MacPort) : (s.setMac p v).mem = s.mem := rfl
@[simp] theorem State.setMac_port (p : Nat) (v : MacPort) : (s.setMac p v).port = s.port := rfl
@[simp] theorem State.setMac_late (p : Nat) (v : MacPort) : (s.setMac p v).late = s.late := rfl
@[simp] theorem State.setMac_hostOut (p : Nat) (v : MacPort) : (s.setMac p v).hostOut = s.hostOut := rfl
@[simp] theorem State.setMac_boot (p : Nat) (v : MacPort) : (s.setMac p v).boot = s.boot := rfl
@[simp] theorem State.setMac_power (p : Nat) (v : MacPort) : (s.setMac p v).power = s.power := rfl
@[simp] theorem State.setMac_testInstr (p : Nat) (v : MacPort) : (s.setMac p v).testInstr = s.testInstr := rfl
@[simp] theorem State.setMac_testReset (p : Nat) (v : MacPort) : (s.setMac p v).testReset = s.testReset := rfl
@[simp] theorem State.setMac_testOut (p : Nat) (v : MacPort) : (s.setMac p v).testOut = s.testOut := rfl
@[simp] theorem State.setMac_ledger (p : Nat) (v : MacPort) : (s.setMac p v).ledger = s.ledger := rfl
@[simp] theorem State.setMac_signals (p : Nat) (v : MacPort) : (s.setMac p v).signals = s.signals := rfl
@[simp] theorem State.setMac_storage (p : Nat) (v : MacPort) : (s.setMac p v).storage = s.storage := rfl
@[simp] theorem State.setMac_net (p : Nat) (v : MacPort) : (s.setMac p v).net = { s.net with ports := Tab.set (fun _ => {}) s.net.ports p v } := rfl
@[simp] theorem State.setMac_mortar (p : Nat) (v : MacPort) : (s.setMac p v).mortar = s.mortar := rfl
@[simp] theorem State.setMac_sched (p : Nat) (v : MacPort) : (s.setMac p v).sched = s.sched := rfl
@[simp] theorem State.setMac_att (p : Nat) (v : MacPort) : (s.setMac p v).att = s.att := rfl
@[simp] theorem State.setMac_weights (p : Nat) (v : MacPort) : (s.setMac p v).weights = s.weights := rfl
@[simp] theorem State.setMac_early (p : Nat) (v : MacPort) : (s.setMac p v).early = s.early := rfl
@[simp] theorem State.setMac_groups (p : Nat) (v : MacPort) : (s.setMac p v).groups = s.groups := rfl
@[simp] theorem State.setMac_layout (p : Nat) (v : MacPort) : (s.setMac p v).layout = s.layout := rfl
@[simp] theorem State.setMac_placement (p : Nat) (v : MacPort) : (s.setMac p v).placement = s.placement := rfl
@[simp] theorem State.setMac_funcs (p : Nat) (v : MacPort) : (s.setMac p v).funcs = s.funcs := rfl
@[simp] theorem State.setMac_marks (p : Nat) (v : MacPort) : (s.setMac p v).marks = s.marks := rfl
@[simp] theorem State.setMac_freeCtr (p : Nat) (v : MacPort) : (s.setMac p v).freeCtr = s.freeCtr := rfl
@[simp] theorem State.setMac_pending (p : Nat) (v : MacPort) : (s.setMac p v).pending = s.pending := rfl

/-! #### setPair -/

@[simp] theorem State.setPair_regs (k : Nat) (v : PairVc) : (s.setPair k v).regs = s.regs := rfl
@[simp] theorem State.setPair_effect (k : Nat) (v : PairVc) : (s.setPair k v).effect = s.effect := rfl
@[simp] theorem State.setPair_counters (k : Nat) (v : PairVc) : (s.setPair k v).counters = s.counters := rfl
@[simp] theorem State.setPair_mem (k : Nat) (v : PairVc) : (s.setPair k v).mem = s.mem := rfl
@[simp] theorem State.setPair_port (k : Nat) (v : PairVc) : (s.setPair k v).port = s.port := rfl
@[simp] theorem State.setPair_late (k : Nat) (v : PairVc) : (s.setPair k v).late = s.late := rfl
@[simp] theorem State.setPair_hostOut (k : Nat) (v : PairVc) : (s.setPair k v).hostOut = s.hostOut := rfl
@[simp] theorem State.setPair_boot (k : Nat) (v : PairVc) : (s.setPair k v).boot = s.boot := rfl
@[simp] theorem State.setPair_power (k : Nat) (v : PairVc) : (s.setPair k v).power = s.power := rfl
@[simp] theorem State.setPair_testInstr (k : Nat) (v : PairVc) : (s.setPair k v).testInstr = s.testInstr := rfl
@[simp] theorem State.setPair_testReset (k : Nat) (v : PairVc) : (s.setPair k v).testReset = s.testReset := rfl
@[simp] theorem State.setPair_testOut (k : Nat) (v : PairVc) : (s.setPair k v).testOut = s.testOut := rfl
@[simp] theorem State.setPair_ledger (k : Nat) (v : PairVc) : (s.setPair k v).ledger = s.ledger := rfl
@[simp] theorem State.setPair_signals (k : Nat) (v : PairVc) : (s.setPair k v).signals = s.signals := rfl
@[simp] theorem State.setPair_storage (k : Nat) (v : PairVc) : (s.setPair k v).storage = s.storage := rfl
@[simp] theorem State.setPair_net (k : Nat) (v : PairVc) : (s.setPair k v).net = { s.net with pairs := Tab.set (fun _ => {}) s.net.pairs k v } := rfl
@[simp] theorem State.setPair_mortar (k : Nat) (v : PairVc) : (s.setPair k v).mortar = s.mortar := rfl
@[simp] theorem State.setPair_sched (k : Nat) (v : PairVc) : (s.setPair k v).sched = s.sched := rfl
@[simp] theorem State.setPair_att (k : Nat) (v : PairVc) : (s.setPair k v).att = s.att := rfl
@[simp] theorem State.setPair_weights (k : Nat) (v : PairVc) : (s.setPair k v).weights = s.weights := rfl
@[simp] theorem State.setPair_early (k : Nat) (v : PairVc) : (s.setPair k v).early = s.early := rfl
@[simp] theorem State.setPair_groups (k : Nat) (v : PairVc) : (s.setPair k v).groups = s.groups := rfl
@[simp] theorem State.setPair_layout (k : Nat) (v : PairVc) : (s.setPair k v).layout = s.layout := rfl
@[simp] theorem State.setPair_placement (k : Nat) (v : PairVc) : (s.setPair k v).placement = s.placement := rfl
@[simp] theorem State.setPair_funcs (k : Nat) (v : PairVc) : (s.setPair k v).funcs = s.funcs := rfl
@[simp] theorem State.setPair_marks (k : Nat) (v : PairVc) : (s.setPair k v).marks = s.marks := rfl
@[simp] theorem State.setPair_freeCtr (k : Nat) (v : PairVc) : (s.setPair k v).freeCtr = s.freeCtr := rfl
@[simp] theorem State.setPair_pending (k : Nat) (v : PairVc) : (s.setPair k v).pending = s.pending := rfl

/-! #### openRx -/

@[simp] theorem State.openRx_regs (p : Fin 16) (h : Option Nat) : (s.openRx p h).regs = s.regs := rfl
@[simp] theorem State.openRx_effect (p : Fin 16) (h : Option Nat) : (s.openRx p h).effect = s.effect := rfl
@[simp] theorem State.openRx_counters (p : Fin 16) (h : Option Nat) : (s.openRx p h).counters = s.counters := rfl
@[simp] theorem State.openRx_mem (p : Fin 16) (h : Option Nat) : (s.openRx p h).mem = s.mem := rfl
@[simp] theorem State.openRx_port (p : Fin 16) (h : Option Nat) : (s.openRx p h).port = s.port := rfl
@[simp] theorem State.openRx_late (p : Fin 16) (h : Option Nat) : (s.openRx p h).late = s.late := rfl
@[simp] theorem State.openRx_hostOut (p : Fin 16) (h : Option Nat) : (s.openRx p h).hostOut = s.hostOut := rfl
@[simp] theorem State.openRx_boot (p : Fin 16) (h : Option Nat) : (s.openRx p h).boot = s.boot := rfl
@[simp] theorem State.openRx_power (p : Fin 16) (h : Option Nat) : (s.openRx p h).power = s.power := rfl
@[simp] theorem State.openRx_testInstr (p : Fin 16) (h : Option Nat) : (s.openRx p h).testInstr = s.testInstr := rfl
@[simp] theorem State.openRx_testReset (p : Fin 16) (h : Option Nat) : (s.openRx p h).testReset = s.testReset := rfl
@[simp] theorem State.openRx_testOut (p : Fin 16) (h : Option Nat) : (s.openRx p h).testOut = s.testOut := rfl
@[simp] theorem State.openRx_ledger (p : Fin 16) (h : Option Nat) : (s.openRx p h).ledger = s.ledger := rfl
@[simp] theorem State.openRx_signals (p : Fin 16) (h : Option Nat) : (s.openRx p h).signals = s.signals := rfl
@[simp] theorem State.openRx_storage (p : Fin 16) (h : Option Nat) : (s.openRx p h).storage = s.storage := rfl
@[simp] theorem State.openRx_net (p : Fin 16) (h : Option Nat) : (s.openRx p h).net = { s.net with rx := some { port := p, handle := h } } := rfl
@[simp] theorem State.openRx_mortar (p : Fin 16) (h : Option Nat) : (s.openRx p h).mortar = s.mortar := rfl
@[simp] theorem State.openRx_sched (p : Fin 16) (h : Option Nat) : (s.openRx p h).sched = s.sched := rfl
@[simp] theorem State.openRx_att (p : Fin 16) (h : Option Nat) : (s.openRx p h).att = s.att := rfl
@[simp] theorem State.openRx_weights (p : Fin 16) (h : Option Nat) : (s.openRx p h).weights = s.weights := rfl
@[simp] theorem State.openRx_early (p : Fin 16) (h : Option Nat) : (s.openRx p h).early = s.early := rfl
@[simp] theorem State.openRx_groups (p : Fin 16) (h : Option Nat) : (s.openRx p h).groups = s.groups := rfl
@[simp] theorem State.openRx_layout (p : Fin 16) (h : Option Nat) : (s.openRx p h).layout = s.layout := rfl
@[simp] theorem State.openRx_placement (p : Fin 16) (h : Option Nat) : (s.openRx p h).placement = s.placement := rfl
@[simp] theorem State.openRx_funcs (p : Fin 16) (h : Option Nat) : (s.openRx p h).funcs = s.funcs := rfl
@[simp] theorem State.openRx_marks (p : Fin 16) (h : Option Nat) : (s.openRx p h).marks = s.marks := rfl
@[simp] theorem State.openRx_freeCtr (p : Fin 16) (h : Option Nat) : (s.openRx p h).freeCtr = s.freeCtr := rfl
@[simp] theorem State.openRx_pending (p : Fin 16) (h : Option Nat) : (s.openRx p h).pending = s.pending := rfl

/-! #### setTb -/

@[simp] theorem State.setTb_regs (t : Nat) : (s.setTb t).regs = s.regs := rfl
@[simp] theorem State.setTb_effect (t : Nat) : (s.setTb t).effect = s.effect := rfl
@[simp] theorem State.setTb_counters (t : Nat) : (s.setTb t).counters = s.counters := rfl
@[simp] theorem State.setTb_mem (t : Nat) : (s.setTb t).mem = s.mem := rfl
@[simp] theorem State.setTb_port (t : Nat) : (s.setTb t).port = s.port := rfl
@[simp] theorem State.setTb_late (t : Nat) : (s.setTb t).late = s.late := rfl
@[simp] theorem State.setTb_hostOut (t : Nat) : (s.setTb t).hostOut = s.hostOut := rfl
@[simp] theorem State.setTb_boot (t : Nat) : (s.setTb t).boot = s.boot := rfl
@[simp] theorem State.setTb_power (t : Nat) : (s.setTb t).power = s.power := rfl
@[simp] theorem State.setTb_testInstr (t : Nat) : (s.setTb t).testInstr = s.testInstr := rfl
@[simp] theorem State.setTb_testReset (t : Nat) : (s.setTb t).testReset = s.testReset := rfl
@[simp] theorem State.setTb_testOut (t : Nat) : (s.setTb t).testOut = s.testOut := rfl
@[simp] theorem State.setTb_ledger (t : Nat) : (s.setTb t).ledger = s.ledger := rfl
@[simp] theorem State.setTb_signals (t : Nat) : (s.setTb t).signals = s.signals := rfl
@[simp] theorem State.setTb_storage (t : Nat) : (s.setTb t).storage = s.storage := rfl
@[simp] theorem State.setTb_net (t : Nat) : (s.setTb t).net = s.net := rfl
@[simp] theorem State.setTb_mortar (t : Nat) : (s.setTb t).mortar = { s.mortar with cal := { s.mortar.cal with tb := t } } := rfl
@[simp] theorem State.setTb_sched (t : Nat) : (s.setTb t).sched = s.sched := rfl
@[simp] theorem State.setTb_att (t : Nat) : (s.setTb t).att = s.att := rfl
@[simp] theorem State.setTb_weights (t : Nat) : (s.setTb t).weights = s.weights := rfl
@[simp] theorem State.setTb_early (t : Nat) : (s.setTb t).early = s.early := rfl
@[simp] theorem State.setTb_groups (t : Nat) : (s.setTb t).groups = s.groups := rfl
@[simp] theorem State.setTb_layout (t : Nat) : (s.setTb t).layout = s.layout := rfl
@[simp] theorem State.setTb_placement (t : Nat) : (s.setTb t).placement = s.placement := rfl
@[simp] theorem State.setTb_funcs (t : Nat) : (s.setTb t).funcs = s.funcs := rfl
@[simp] theorem State.setTb_marks (t : Nat) : (s.setTb t).marks = s.marks := rfl
@[simp] theorem State.setTb_freeCtr (t : Nat) : (s.setTb t).freeCtr = s.freeCtr := rfl
@[simp] theorem State.setTb_pending (t : Nat) : (s.setTb t).pending = s.pending := rfl

/-! #### useFree -/

@[simp] theorem State.useFree_regs : (s.useFree).regs = s.regs := rfl
@[simp] theorem State.useFree_effect : (s.useFree).effect = s.effect := rfl
@[simp] theorem State.useFree_counters : (s.useFree).counters = s.counters := rfl
@[simp] theorem State.useFree_mem : (s.useFree).mem = s.mem := rfl
@[simp] theorem State.useFree_port : (s.useFree).port = s.port := rfl
@[simp] theorem State.useFree_late : (s.useFree).late = s.late := rfl
@[simp] theorem State.useFree_hostOut : (s.useFree).hostOut = s.hostOut := rfl
@[simp] theorem State.useFree_boot : (s.useFree).boot = s.boot := rfl
@[simp] theorem State.useFree_power : (s.useFree).power = s.power := rfl
@[simp] theorem State.useFree_testInstr : (s.useFree).testInstr = s.testInstr := rfl
@[simp] theorem State.useFree_testReset : (s.useFree).testReset = s.testReset := rfl
@[simp] theorem State.useFree_testOut : (s.useFree).testOut = s.testOut := rfl
@[simp] theorem State.useFree_ledger : (s.useFree).ledger = s.ledger := rfl
@[simp] theorem State.useFree_signals : (s.useFree).signals = s.signals := rfl
@[simp] theorem State.useFree_storage : (s.useFree).storage = s.storage := rfl
@[simp] theorem State.useFree_net : (s.useFree).net = s.net := rfl
@[simp] theorem State.useFree_mortar : (s.useFree).mortar = s.mortar := rfl
@[simp] theorem State.useFree_sched : (s.useFree).sched = s.sched := rfl
@[simp] theorem State.useFree_att : (s.useFree).att = s.att := rfl
@[simp] theorem State.useFree_weights : (s.useFree).weights = s.weights := rfl
@[simp] theorem State.useFree_early : (s.useFree).early = s.early := rfl
@[simp] theorem State.useFree_groups : (s.useFree).groups = s.groups := rfl
@[simp] theorem State.useFree_layout : (s.useFree).layout = s.layout := rfl
@[simp] theorem State.useFree_placement : (s.useFree).placement = s.placement := rfl
@[simp] theorem State.useFree_funcs : (s.useFree).funcs = s.funcs := rfl
@[simp] theorem State.useFree_marks : (s.useFree).marks = s.marks := rfl
@[simp] theorem State.useFree_freeCtr : (s.useFree).freeCtr = s.freeCtr + 1 := rfl
@[simp] theorem State.useFree_pending : (s.useFree).pending = s.pending := rfl

/-! #### setProg -/

@[simp] theorem State.setProg_regs (p : Fin 16) (v : Program) : (s.setProg p v).regs = s.regs := rfl
@[simp] theorem State.setProg_effect (p : Fin 16) (v : Program) : (s.setProg p v).effect = s.effect := rfl
@[simp] theorem State.setProg_counters (p : Fin 16) (v : Program) : (s.setProg p v).counters = s.counters := rfl
@[simp] theorem State.setProg_mem (p : Fin 16) (v : Program) : (s.setProg p v).mem = s.mem := rfl
@[simp] theorem State.setProg_port (p : Fin 16) (v : Program) : (s.setProg p v).port = s.port := rfl
@[simp] theorem State.setProg_late (p : Fin 16) (v : Program) : (s.setProg p v).late = s.late := rfl
@[simp] theorem State.setProg_hostOut (p : Fin 16) (v : Program) : (s.setProg p v).hostOut = s.hostOut := rfl
@[simp] theorem State.setProg_boot (p : Fin 16) (v : Program) : (s.setProg p v).boot = s.boot := rfl
@[simp] theorem State.setProg_power (p : Fin 16) (v : Program) : (s.setProg p v).power = s.power := rfl
@[simp] theorem State.setProg_testInstr (p : Fin 16) (v : Program) : (s.setProg p v).testInstr = s.testInstr := rfl
@[simp] theorem State.setProg_testReset (p : Fin 16) (v : Program) : (s.setProg p v).testReset = s.testReset := rfl
@[simp] theorem State.setProg_testOut (p : Fin 16) (v : Program) : (s.setProg p v).testOut = s.testOut := rfl
@[simp] theorem State.setProg_ledger (p : Fin 16) (v : Program) : (s.setProg p v).ledger = s.ledger := rfl
@[simp] theorem State.setProg_signals (p : Fin 16) (v : Program) : (s.setProg p v).signals = s.signals := rfl
@[simp] theorem State.setProg_storage (p : Fin 16) (v : Program) : (s.setProg p v).storage = s.storage := rfl
@[simp] theorem State.setProg_net (p : Fin 16) (v : Program) : (s.setProg p v).net = s.net := rfl
@[simp] theorem State.setProg_mortar (p : Fin 16) (v : Program) : (s.setProg p v).mortar = s.mortar := rfl
@[simp] theorem State.setProg_sched (p : Fin 16) (v : Program) : (s.setProg p v).sched = { s.sched with programs := Tab.set (fun _ => {}) s.sched.programs p.val v } := rfl
@[simp] theorem State.setProg_att (p : Fin 16) (v : Program) : (s.setProg p v).att = s.att := rfl
@[simp] theorem State.setProg_weights (p : Fin 16) (v : Program) : (s.setProg p v).weights = s.weights := rfl
@[simp] theorem State.setProg_early (p : Fin 16) (v : Program) : (s.setProg p v).early = s.early := rfl
@[simp] theorem State.setProg_groups (p : Fin 16) (v : Program) : (s.setProg p v).groups = s.groups := rfl
@[simp] theorem State.setProg_layout (p : Fin 16) (v : Program) : (s.setProg p v).layout = s.layout := rfl
@[simp] theorem State.setProg_placement (p : Fin 16) (v : Program) : (s.setProg p v).placement = s.placement := rfl
@[simp] theorem State.setProg_funcs (p : Fin 16) (v : Program) : (s.setProg p v).funcs = s.funcs := rfl
@[simp] theorem State.setProg_marks (p : Fin 16) (v : Program) : (s.setProg p v).marks = s.marks := rfl
@[simp] theorem State.setProg_freeCtr (p : Fin 16) (v : Program) : (s.setProg p v).freeCtr = s.freeCtr := rfl
@[simp] theorem State.setProg_pending (p : Fin 16) (v : Program) : (s.setProg p v).pending = s.pending := rfl

/-! #### modSeq -/

@[simp] theorem State.modSeq_regs (q : Nat) (f : Sequencer → Sequencer) : (s.modSeq q f).regs = s.regs := rfl
@[simp] theorem State.modSeq_effect (q : Nat) (f : Sequencer → Sequencer) : (s.modSeq q f).effect = s.effect := rfl
@[simp] theorem State.modSeq_counters (q : Nat) (f : Sequencer → Sequencer) : (s.modSeq q f).counters = s.counters := rfl
@[simp] theorem State.modSeq_mem (q : Nat) (f : Sequencer → Sequencer) : (s.modSeq q f).mem = s.mem := rfl
@[simp] theorem State.modSeq_port (q : Nat) (f : Sequencer → Sequencer) : (s.modSeq q f).port = s.port := rfl
@[simp] theorem State.modSeq_late (q : Nat) (f : Sequencer → Sequencer) : (s.modSeq q f).late = s.late := rfl
@[simp] theorem State.modSeq_hostOut (q : Nat) (f : Sequencer → Sequencer) : (s.modSeq q f).hostOut = s.hostOut := rfl
@[simp] theorem State.modSeq_boot (q : Nat) (f : Sequencer → Sequencer) : (s.modSeq q f).boot = s.boot := rfl
@[simp] theorem State.modSeq_power (q : Nat) (f : Sequencer → Sequencer) : (s.modSeq q f).power = s.power := rfl
@[simp] theorem State.modSeq_testInstr (q : Nat) (f : Sequencer → Sequencer) : (s.modSeq q f).testInstr = s.testInstr := rfl
@[simp] theorem State.modSeq_testReset (q : Nat) (f : Sequencer → Sequencer) : (s.modSeq q f).testReset = s.testReset := rfl
@[simp] theorem State.modSeq_testOut (q : Nat) (f : Sequencer → Sequencer) : (s.modSeq q f).testOut = s.testOut := rfl
@[simp] theorem State.modSeq_ledger (q : Nat) (f : Sequencer → Sequencer) : (s.modSeq q f).ledger = s.ledger := rfl
@[simp] theorem State.modSeq_signals (q : Nat) (f : Sequencer → Sequencer) : (s.modSeq q f).signals = s.signals := rfl
@[simp] theorem State.modSeq_storage (q : Nat) (f : Sequencer → Sequencer) : (s.modSeq q f).storage = s.storage := rfl
@[simp] theorem State.modSeq_net (q : Nat) (f : Sequencer → Sequencer) : (s.modSeq q f).net = s.net := rfl
@[simp] theorem State.modSeq_mortar (q : Nat) (f : Sequencer → Sequencer) : (s.modSeq q f).mortar = s.mortar := rfl
@[simp] theorem State.modSeq_sched (q : Nat) (f : Sequencer → Sequencer) : (s.modSeq q f).sched = { s.sched with seqs := Tab.modify s.sched.seqs q f } := rfl
@[simp] theorem State.modSeq_att (q : Nat) (f : Sequencer → Sequencer) : (s.modSeq q f).att = s.att := rfl
@[simp] theorem State.modSeq_weights (q : Nat) (f : Sequencer → Sequencer) : (s.modSeq q f).weights = s.weights := rfl
@[simp] theorem State.modSeq_early (q : Nat) (f : Sequencer → Sequencer) : (s.modSeq q f).early = s.early := rfl
@[simp] theorem State.modSeq_groups (q : Nat) (f : Sequencer → Sequencer) : (s.modSeq q f).groups = s.groups := rfl
@[simp] theorem State.modSeq_layout (q : Nat) (f : Sequencer → Sequencer) : (s.modSeq q f).layout = s.layout := rfl
@[simp] theorem State.modSeq_placement (q : Nat) (f : Sequencer → Sequencer) : (s.modSeq q f).placement = s.placement := rfl
@[simp] theorem State.modSeq_funcs (q : Nat) (f : Sequencer → Sequencer) : (s.modSeq q f).funcs = s.funcs := rfl
@[simp] theorem State.modSeq_marks (q : Nat) (f : Sequencer → Sequencer) : (s.modSeq q f).marks = s.marks := rfl
@[simp] theorem State.modSeq_freeCtr (q : Nat) (f : Sequencer → Sequencer) : (s.modSeq q f).freeCtr = s.freeCtr := rfl
@[simp] theorem State.modSeq_pending (q : Nat) (f : Sequencer → Sequencer) : (s.modSeq q f).pending = s.pending := rfl

/-! #### setPop -/

@[simp] theorem State.setPop_regs (p : Fin 16) (c : Nat) : (s.setPop p c).regs = s.regs := rfl
@[simp] theorem State.setPop_effect (p : Fin 16) (c : Nat) : (s.setPop p c).effect = s.effect := rfl
@[simp] theorem State.setPop_counters (p : Fin 16) (c : Nat) : (s.setPop p c).counters = s.counters := rfl
@[simp] theorem State.setPop_mem (p : Fin 16) (c : Nat) : (s.setPop p c).mem = s.mem := rfl
@[simp] theorem State.setPop_port (p : Fin 16) (c : Nat) : (s.setPop p c).port = s.port := rfl
@[simp] theorem State.setPop_late (p : Fin 16) (c : Nat) : (s.setPop p c).late = s.late := rfl
@[simp] theorem State.setPop_hostOut (p : Fin 16) (c : Nat) : (s.setPop p c).hostOut = s.hostOut := rfl
@[simp] theorem State.setPop_boot (p : Fin 16) (c : Nat) : (s.setPop p c).boot = s.boot := rfl
@[simp] theorem State.setPop_power (p : Fin 16) (c : Nat) : (s.setPop p c).power = s.power := rfl
@[simp] theorem State.setPop_testInstr (p : Fin 16) (c : Nat) : (s.setPop p c).testInstr = s.testInstr := rfl
@[simp] theorem State.setPop_testReset (p : Fin 16) (c : Nat) : (s.setPop p c).testReset = s.testReset := rfl
@[simp] theorem State.setPop_testOut (p : Fin 16) (c : Nat) : (s.setPop p c).testOut = s.testOut := rfl
@[simp] theorem State.setPop_ledger (p : Fin 16) (c : Nat) : (s.setPop p c).ledger = s.ledger := rfl
@[simp] theorem State.setPop_signals (p : Fin 16) (c : Nat) : (s.setPop p c).signals = s.signals := rfl
@[simp] theorem State.setPop_storage (p : Fin 16) (c : Nat) : (s.setPop p c).storage = s.storage := rfl
@[simp] theorem State.setPop_net (p : Fin 16) (c : Nat) : (s.setPop p c).net = s.net := rfl
@[simp] theorem State.setPop_mortar (p : Fin 16) (c : Nat) : (s.setPop p c).mortar = s.mortar := rfl
@[simp] theorem State.setPop_sched (p : Fin 16) (c : Nat) : (s.setPop p c).sched = { s.sched with popCode := Tab.put s.sched.popCode p.val c } := rfl
@[simp] theorem State.setPop_att (p : Fin 16) (c : Nat) : (s.setPop p c).att = s.att := rfl
@[simp] theorem State.setPop_weights (p : Fin 16) (c : Nat) : (s.setPop p c).weights = s.weights := rfl
@[simp] theorem State.setPop_early (p : Fin 16) (c : Nat) : (s.setPop p c).early = s.early := rfl
@[simp] theorem State.setPop_groups (p : Fin 16) (c : Nat) : (s.setPop p c).groups = s.groups := rfl
@[simp] theorem State.setPop_layout (p : Fin 16) (c : Nat) : (s.setPop p c).layout = s.layout := rfl
@[simp] theorem State.setPop_placement (p : Fin 16) (c : Nat) : (s.setPop p c).placement = s.placement := rfl
@[simp] theorem State.setPop_funcs (p : Fin 16) (c : Nat) : (s.setPop p c).funcs = s.funcs := rfl
@[simp] theorem State.setPop_marks (p : Fin 16) (c : Nat) : (s.setPop p c).marks = s.marks := rfl
@[simp] theorem State.setPop_freeCtr (p : Fin 16) (c : Nat) : (s.setPop p c).freeCtr = s.freeCtr := rfl
@[simp] theorem State.setPop_pending (p : Fin 16) (c : Nat) : (s.setPop p c).pending = s.pending := rfl

/-! #### modAtt -/

@[simp] theorem State.modAtt_regs (f : Attempt → Attempt) : (s.modAtt f).regs = s.regs := rfl
@[simp] theorem State.modAtt_effect (f : Attempt → Attempt) : (s.modAtt f).effect = s.effect := rfl
@[simp] theorem State.modAtt_counters (f : Attempt → Attempt) : (s.modAtt f).counters = s.counters := rfl
@[simp] theorem State.modAtt_mem (f : Attempt → Attempt) : (s.modAtt f).mem = s.mem := rfl
@[simp] theorem State.modAtt_port (f : Attempt → Attempt) : (s.modAtt f).port = s.port := rfl
@[simp] theorem State.modAtt_late (f : Attempt → Attempt) : (s.modAtt f).late = s.late := rfl
@[simp] theorem State.modAtt_hostOut (f : Attempt → Attempt) : (s.modAtt f).hostOut = s.hostOut := rfl
@[simp] theorem State.modAtt_boot (f : Attempt → Attempt) : (s.modAtt f).boot = s.boot := rfl
@[simp] theorem State.modAtt_power (f : Attempt → Attempt) : (s.modAtt f).power = s.power := rfl
@[simp] theorem State.modAtt_testInstr (f : Attempt → Attempt) : (s.modAtt f).testInstr = s.testInstr := rfl
@[simp] theorem State.modAtt_testReset (f : Attempt → Attempt) : (s.modAtt f).testReset = s.testReset := rfl
@[simp] theorem State.modAtt_testOut (f : Attempt → Attempt) : (s.modAtt f).testOut = s.testOut := rfl
@[simp] theorem State.modAtt_ledger (f : Attempt → Attempt) : (s.modAtt f).ledger = s.ledger := rfl
@[simp] theorem State.modAtt_signals (f : Attempt → Attempt) : (s.modAtt f).signals = s.signals := rfl
@[simp] theorem State.modAtt_storage (f : Attempt → Attempt) : (s.modAtt f).storage = s.storage := rfl
@[simp] theorem State.modAtt_net (f : Attempt → Attempt) : (s.modAtt f).net = s.net := rfl
@[simp] theorem State.modAtt_mortar (f : Attempt → Attempt) : (s.modAtt f).mortar = s.mortar := rfl
@[simp] theorem State.modAtt_sched (f : Attempt → Attempt) : (s.modAtt f).sched = s.sched := rfl
@[simp] theorem State.modAtt_att (f : Attempt → Attempt) : (s.modAtt f).att = f s.att := rfl
@[simp] theorem State.modAtt_weights (f : Attempt → Attempt) : (s.modAtt f).weights = s.weights := rfl
@[simp] theorem State.modAtt_early (f : Attempt → Attempt) : (s.modAtt f).early = s.early := rfl
@[simp] theorem State.modAtt_groups (f : Attempt → Attempt) : (s.modAtt f).groups = s.groups := rfl
@[simp] theorem State.modAtt_layout (f : Attempt → Attempt) : (s.modAtt f).layout = s.layout := rfl
@[simp] theorem State.modAtt_placement (f : Attempt → Attempt) : (s.modAtt f).placement = s.placement := rfl
@[simp] theorem State.modAtt_funcs (f : Attempt → Attempt) : (s.modAtt f).funcs = s.funcs := rfl
@[simp] theorem State.modAtt_marks (f : Attempt → Attempt) : (s.modAtt f).marks = s.marks := rfl
@[simp] theorem State.modAtt_freeCtr (f : Attempt → Attempt) : (s.modAtt f).freeCtr = s.freeCtr := rfl
@[simp] theorem State.modAtt_pending (f : Attempt → Attempt) : (s.modAtt f).pending = s.pending := rfl

/-! #### setSource -/

@[simp] theorem State.setSource_regs (n : Nat) (v : Source) : (s.setSource n v).regs = s.regs := rfl
@[simp] theorem State.setSource_effect (n : Nat) (v : Source) : (s.setSource n v).effect = s.effect := rfl
@[simp] theorem State.setSource_counters (n : Nat) (v : Source) : (s.setSource n v).counters = s.counters := rfl
@[simp] theorem State.setSource_mem (n : Nat) (v : Source) : (s.setSource n v).mem = s.mem := rfl
@[simp] theorem State.setSource_port (n : Nat) (v : Source) : (s.setSource n v).port = s.port := rfl
@[simp] theorem State.setSource_late (n : Nat) (v : Source) : (s.setSource n v).late = s.late := rfl
@[simp] theorem State.setSource_hostOut (n : Nat) (v : Source) : (s.setSource n v).hostOut = s.hostOut := rfl
@[simp] theorem State.setSource_boot (n : Nat) (v : Source) : (s.setSource n v).boot = s.boot := rfl
@[simp] theorem State.setSource_power (n : Nat) (v : Source) : (s.setSource n v).power = s.power := rfl
@[simp] theorem State.setSource_testInstr (n : Nat) (v : Source) : (s.setSource n v).testInstr = s.testInstr := rfl
@[simp] theorem State.setSource_testReset (n : Nat) (v : Source) : (s.setSource n v).testReset = s.testReset := rfl
@[simp] theorem State.setSource_testOut (n : Nat) (v : Source) : (s.setSource n v).testOut = s.testOut := rfl
@[simp] theorem State.setSource_ledger (n : Nat) (v : Source) : (s.setSource n v).ledger = s.ledger := rfl
@[simp] theorem State.setSource_signals (n : Nat) (v : Source) : (s.setSource n v).signals = { s.signals with sources := Tab.set (fun _ => {}) s.signals.sources n v } := rfl
@[simp] theorem State.setSource_storage (n : Nat) (v : Source) : (s.setSource n v).storage = s.storage := rfl
@[simp] theorem State.setSource_net (n : Nat) (v : Source) : (s.setSource n v).net = s.net := rfl
@[simp] theorem State.setSource_mortar (n : Nat) (v : Source) : (s.setSource n v).mortar = s.mortar := rfl
@[simp] theorem State.setSource_sched (n : Nat) (v : Source) : (s.setSource n v).sched = s.sched := rfl
@[simp] theorem State.setSource_att (n : Nat) (v : Source) : (s.setSource n v).att = s.att := rfl
@[simp] theorem State.setSource_weights (n : Nat) (v : Source) : (s.setSource n v).weights = s.weights := rfl
@[simp] theorem State.setSource_early (n : Nat) (v : Source) : (s.setSource n v).early = s.early := rfl
@[simp] theorem State.setSource_groups (n : Nat) (v : Source) : (s.setSource n v).groups = s.groups := rfl
@[simp] theorem State.setSource_layout (n : Nat) (v : Source) : (s.setSource n v).layout = s.layout := rfl
@[simp] theorem State.setSource_placement (n : Nat) (v : Source) : (s.setSource n v).placement = s.placement := rfl
@[simp] theorem State.setSource_funcs (n : Nat) (v : Source) : (s.setSource n v).funcs = s.funcs := rfl
@[simp] theorem State.setSource_marks (n : Nat) (v : Source) : (s.setSource n v).marks = s.marks := rfl
@[simp] theorem State.setSource_freeCtr (n : Nat) (v : Source) : (s.setSource n v).freeCtr = s.freeCtr := rfl
@[simp] theorem State.setSource_pending (n : Nat) (v : Source) : (s.setSource n v).pending = s.pending := rfl

/-! #### setTarget -/

@[simp] theorem State.setTarget_regs (t : Nat) (v : Target) : (s.setTarget t v).regs = s.regs := rfl
@[simp] theorem State.setTarget_effect (t : Nat) (v : Target) : (s.setTarget t v).effect = s.effect := rfl
@[simp] theorem State.setTarget_counters (t : Nat) (v : Target) : (s.setTarget t v).counters = s.counters := rfl
@[simp] theorem State.setTarget_mem (t : Nat) (v : Target) : (s.setTarget t v).mem = s.mem := rfl
@[simp] theorem State.setTarget_port (t : Nat) (v : Target) : (s.setTarget t v).port = s.port := rfl
@[simp] theorem State.setTarget_late (t : Nat) (v : Target) : (s.setTarget t v).late = s.late := rfl
@[simp] theorem State.setTarget_hostOut (t : Nat) (v : Target) : (s.setTarget t v).hostOut = s.hostOut := rfl
@[simp] theorem State.setTarget_boot (t : Nat) (v : Target) : (s.setTarget t v).boot = s.boot := rfl
@[simp] theorem State.setTarget_power (t : Nat) (v : Target) : (s.setTarget t v).power = s.power := rfl
@[simp] theorem State.setTarget_testInstr (t : Nat) (v : Target) : (s.setTarget t v).testInstr = s.testInstr := rfl
@[simp] theorem State.setTarget_testReset (t : Nat) (v : Target) : (s.setTarget t v).testReset = s.testReset := rfl
@[simp] theorem State.setTarget_testOut (t : Nat) (v : Target) : (s.setTarget t v).testOut = s.testOut := rfl
@[simp] theorem State.setTarget_ledger (t : Nat) (v : Target) : (s.setTarget t v).ledger = s.ledger := rfl
@[simp] theorem State.setTarget_signals (t : Nat) (v : Target) : (s.setTarget t v).signals = { s.signals with targets := Tab.set (fun _ => {}) s.signals.targets t v } := rfl
@[simp] theorem State.setTarget_storage (t : Nat) (v : Target) : (s.setTarget t v).storage = s.storage := rfl
@[simp] theorem State.setTarget_net (t : Nat) (v : Target) : (s.setTarget t v).net = s.net := rfl
@[simp] theorem State.setTarget_mortar (t : Nat) (v : Target) : (s.setTarget t v).mortar = s.mortar := rfl
@[simp] theorem State.setTarget_sched (t : Nat) (v : Target) : (s.setTarget t v).sched = s.sched := rfl
@[simp] theorem State.setTarget_att (t : Nat) (v : Target) : (s.setTarget t v).att = s.att := rfl
@[simp] theorem State.setTarget_weights (t : Nat) (v : Target) : (s.setTarget t v).weights = s.weights := rfl
@[simp] theorem State.setTarget_early (t : Nat) (v : Target) : (s.setTarget t v).early = s.early := rfl
@[simp] theorem State.setTarget_groups (t : Nat) (v : Target) : (s.setTarget t v).groups = s.groups := rfl
@[simp] theorem State.setTarget_layout (t : Nat) (v : Target) : (s.setTarget t v).layout = s.layout := rfl
@[simp] theorem State.setTarget_placement (t : Nat) (v : Target) : (s.setTarget t v).placement = s.placement := rfl
@[simp] theorem State.setTarget_funcs (t : Nat) (v : Target) : (s.setTarget t v).funcs = s.funcs := rfl
@[simp] theorem State.setTarget_marks (t : Nat) (v : Target) : (s.setTarget t v).marks = s.marks := rfl
@[simp] theorem State.setTarget_freeCtr (t : Nat) (v : Target) : (s.setTarget t v).freeCtr = s.freeCtr := rfl
@[simp] theorem State.setTarget_pending (t : Nat) (v : Target) : (s.setTarget t v).pending = s.pending := rfl

/-! #### setPoolClass -/

@[simp] theorem State.setPoolClass_regs (p c : Nat) (v : PoolClass) : (s.setPoolClass p c v).regs = s.regs := rfl
@[simp] theorem State.setPoolClass_effect (p c : Nat) (v : PoolClass) : (s.setPoolClass p c v).effect = s.effect := rfl
@[simp] theorem State.setPoolClass_counters (p c : Nat) (v : PoolClass) : (s.setPoolClass p c v).counters = s.counters := rfl
@[simp] theorem State.setPoolClass_mem (p c : Nat) (v : PoolClass) : (s.setPoolClass p c v).mem = s.mem := rfl
@[simp] theorem State.setPoolClass_port (p c : Nat) (v : PoolClass) : (s.setPoolClass p c v).port = s.port := rfl
@[simp] theorem State.setPoolClass_late (p c : Nat) (v : PoolClass) : (s.setPoolClass p c v).late = s.late := rfl
@[simp] theorem State.setPoolClass_hostOut (p c : Nat) (v : PoolClass) : (s.setPoolClass p c v).hostOut = s.hostOut := rfl
@[simp] theorem State.setPoolClass_boot (p c : Nat) (v : PoolClass) : (s.setPoolClass p c v).boot = s.boot := rfl
@[simp] theorem State.setPoolClass_power (p c : Nat) (v : PoolClass) : (s.setPoolClass p c v).power = s.power := rfl
@[simp] theorem State.setPoolClass_testInstr (p c : Nat) (v : PoolClass) : (s.setPoolClass p c v).testInstr = s.testInstr := rfl
@[simp] theorem State.setPoolClass_testReset (p c : Nat) (v : PoolClass) : (s.setPoolClass p c v).testReset = s.testReset := rfl
@[simp] theorem State.setPoolClass_testOut (p c : Nat) (v : PoolClass) : (s.setPoolClass p c v).testOut = s.testOut := rfl
@[simp] theorem State.setPoolClass_ledger (p c : Nat) (v : PoolClass) : (s.setPoolClass p c v).ledger = s.ledger := rfl
@[simp] theorem State.setPoolClass_signals (p c : Nat) (v : PoolClass) : (s.setPoolClass p c v).signals = s.signals := rfl
@[simp] theorem State.setPoolClass_storage (p c : Nat) (v : PoolClass) : (s.setPoolClass p c v).storage = { s.storage with classes := Tab.set (fun _ => {}) s.storage.classes (8 * p + c) v } := rfl
@[simp] theorem State.setPoolClass_net (p c : Nat) (v : PoolClass) : (s.setPoolClass p c v).net = s.net := rfl
@[simp] theorem State.setPoolClass_mortar (p c : Nat) (v : PoolClass) : (s.setPoolClass p c v).mortar = s.mortar := rfl
@[simp] theorem State.setPoolClass_sched (p c : Nat) (v : PoolClass) : (s.setPoolClass p c v).sched = s.sched := rfl
@[simp] theorem State.setPoolClass_att (p c : Nat) (v : PoolClass) : (s.setPoolClass p c v).att = s.att := rfl
@[simp] theorem State.setPoolClass_weights (p c : Nat) (v : PoolClass) : (s.setPoolClass p c v).weights = s.weights := rfl
@[simp] theorem State.setPoolClass_early (p c : Nat) (v : PoolClass) : (s.setPoolClass p c v).early = s.early := rfl
@[simp] theorem State.setPoolClass_groups (p c : Nat) (v : PoolClass) : (s.setPoolClass p c v).groups = s.groups := rfl
@[simp] theorem State.setPoolClass_layout (p c : Nat) (v : PoolClass) : (s.setPoolClass p c v).layout = s.layout := rfl
@[simp] theorem State.setPoolClass_placement (p c : Nat) (v : PoolClass) : (s.setPoolClass p c v).placement = s.placement := rfl
@[simp] theorem State.setPoolClass_funcs (p c : Nat) (v : PoolClass) : (s.setPoolClass p c v).funcs = s.funcs := rfl
@[simp] theorem State.setPoolClass_marks (p c : Nat) (v : PoolClass) : (s.setPoolClass p c v).marks = s.marks := rfl
@[simp] theorem State.setPoolClass_freeCtr (p c : Nat) (v : PoolClass) : (s.setPoolClass p c v).freeCtr = s.freeCtr := rfl
@[simp] theorem State.setPoolClass_pending (p c : Nat) (v : PoolClass) : (s.setPoolClass p c v).pending = s.pending := rfl

/-! #### setPoolWindow -/

@[simp] theorem State.setPoolWindow_regs (c : Fin 16) (v : PoolWindow) : (s.setPoolWindow c v).regs = s.regs := rfl
@[simp] theorem State.setPoolWindow_effect (c : Fin 16) (v : PoolWindow) : (s.setPoolWindow c v).effect = s.effect := rfl
@[simp] theorem State.setPoolWindow_counters (c : Fin 16) (v : PoolWindow) : (s.setPoolWindow c v).counters = s.counters := rfl
@[simp] theorem State.setPoolWindow_mem (c : Fin 16) (v : PoolWindow) : (s.setPoolWindow c v).mem = s.mem := rfl
@[simp] theorem State.setPoolWindow_port (c : Fin 16) (v : PoolWindow) : (s.setPoolWindow c v).port = s.port := rfl
@[simp] theorem State.setPoolWindow_late (c : Fin 16) (v : PoolWindow) : (s.setPoolWindow c v).late = s.late := rfl
@[simp] theorem State.setPoolWindow_hostOut (c : Fin 16) (v : PoolWindow) : (s.setPoolWindow c v).hostOut = s.hostOut := rfl
@[simp] theorem State.setPoolWindow_boot (c : Fin 16) (v : PoolWindow) : (s.setPoolWindow c v).boot = s.boot := rfl
@[simp] theorem State.setPoolWindow_power (c : Fin 16) (v : PoolWindow) : (s.setPoolWindow c v).power = s.power := rfl
@[simp] theorem State.setPoolWindow_testInstr (c : Fin 16) (v : PoolWindow) : (s.setPoolWindow c v).testInstr = s.testInstr := rfl
@[simp] theorem State.setPoolWindow_testReset (c : Fin 16) (v : PoolWindow) : (s.setPoolWindow c v).testReset = s.testReset := rfl
@[simp] theorem State.setPoolWindow_testOut (c : Fin 16) (v : PoolWindow) : (s.setPoolWindow c v).testOut = s.testOut := rfl
@[simp] theorem State.setPoolWindow_ledger (c : Fin 16) (v : PoolWindow) : (s.setPoolWindow c v).ledger = s.ledger := rfl
@[simp] theorem State.setPoolWindow_signals (c : Fin 16) (v : PoolWindow) : (s.setPoolWindow c v).signals = s.signals := rfl
@[simp] theorem State.setPoolWindow_storage (c : Fin 16) (v : PoolWindow) : (s.setPoolWindow c v).storage = { s.storage with windows := Tab.set (fun _ => {}) s.storage.windows c.val v } := rfl
@[simp] theorem State.setPoolWindow_net (c : Fin 16) (v : PoolWindow) : (s.setPoolWindow c v).net = s.net := rfl
@[simp] theorem State.setPoolWindow_mortar (c : Fin 16) (v : PoolWindow) : (s.setPoolWindow c v).mortar = s.mortar := rfl
@[simp] theorem State.setPoolWindow_sched (c : Fin 16) (v : PoolWindow) : (s.setPoolWindow c v).sched = s.sched := rfl
@[simp] theorem State.setPoolWindow_att (c : Fin 16) (v : PoolWindow) : (s.setPoolWindow c v).att = s.att := rfl
@[simp] theorem State.setPoolWindow_weights (c : Fin 16) (v : PoolWindow) : (s.setPoolWindow c v).weights = s.weights := rfl
@[simp] theorem State.setPoolWindow_early (c : Fin 16) (v : PoolWindow) : (s.setPoolWindow c v).early = s.early := rfl
@[simp] theorem State.setPoolWindow_groups (c : Fin 16) (v : PoolWindow) : (s.setPoolWindow c v).groups = s.groups := rfl
@[simp] theorem State.setPoolWindow_layout (c : Fin 16) (v : PoolWindow) : (s.setPoolWindow c v).layout = s.layout := rfl
@[simp] theorem State.setPoolWindow_placement (c : Fin 16) (v : PoolWindow) : (s.setPoolWindow c v).placement = s.placement := rfl
@[simp] theorem State.setPoolWindow_funcs (c : Fin 16) (v : PoolWindow) : (s.setPoolWindow c v).funcs = s.funcs := rfl
@[simp] theorem State.setPoolWindow_marks (c : Fin 16) (v : PoolWindow) : (s.setPoolWindow c v).marks = s.marks := rfl
@[simp] theorem State.setPoolWindow_freeCtr (c : Fin 16) (v : PoolWindow) : (s.setPoolWindow c v).freeCtr = s.freeCtr := rfl
@[simp] theorem State.setPoolWindow_pending (c : Fin 16) (v : PoolWindow) : (s.setPoolWindow c v).pending = s.pending := rfl

/-! #### putQueue -/

@[simp] theorem State.putQueue_regs (q : Nat) (v : Queue) : (s.putQueue q v).regs = s.regs := rfl
@[simp] theorem State.putQueue_effect (q : Nat) (v : Queue) : (s.putQueue q v).effect = s.effect := rfl
@[simp] theorem State.putQueue_counters (q : Nat) (v : Queue) : (s.putQueue q v).counters = s.counters := rfl
@[simp] theorem State.putQueue_mem (q : Nat) (v : Queue) : (s.putQueue q v).mem = s.mem := rfl
@[simp] theorem State.putQueue_port (q : Nat) (v : Queue) : (s.putQueue q v).port = s.port := rfl
@[simp] theorem State.putQueue_late (q : Nat) (v : Queue) : (s.putQueue q v).late = s.late := rfl
@[simp] theorem State.putQueue_hostOut (q : Nat) (v : Queue) : (s.putQueue q v).hostOut = s.hostOut := rfl
@[simp] theorem State.putQueue_boot (q : Nat) (v : Queue) : (s.putQueue q v).boot = s.boot := rfl
@[simp] theorem State.putQueue_power (q : Nat) (v : Queue) : (s.putQueue q v).power = s.power := rfl
@[simp] theorem State.putQueue_testInstr (q : Nat) (v : Queue) : (s.putQueue q v).testInstr = s.testInstr := rfl
@[simp] theorem State.putQueue_testReset (q : Nat) (v : Queue) : (s.putQueue q v).testReset = s.testReset := rfl
@[simp] theorem State.putQueue_testOut (q : Nat) (v : Queue) : (s.putQueue q v).testOut = s.testOut := rfl
@[simp] theorem State.putQueue_ledger (q : Nat) (v : Queue) : (s.putQueue q v).ledger = s.ledger := rfl
@[simp] theorem State.putQueue_signals (q : Nat) (v : Queue) : (s.putQueue q v).signals = s.signals := rfl
@[simp] theorem State.putQueue_storage (q : Nat) (v : Queue) : (s.putQueue q v).storage = { s.storage with queues := Tab.set (fun _ => {}) s.storage.queues q v } := rfl
@[simp] theorem State.putQueue_net (q : Nat) (v : Queue) : (s.putQueue q v).net = s.net := rfl
@[simp] theorem State.putQueue_mortar (q : Nat) (v : Queue) : (s.putQueue q v).mortar = s.mortar := rfl
@[simp] theorem State.putQueue_sched (q : Nat) (v : Queue) : (s.putQueue q v).sched = s.sched := rfl
@[simp] theorem State.putQueue_att (q : Nat) (v : Queue) : (s.putQueue q v).att = s.att := rfl
@[simp] theorem State.putQueue_weights (q : Nat) (v : Queue) : (s.putQueue q v).weights = s.weights := rfl
@[simp] theorem State.putQueue_early (q : Nat) (v : Queue) : (s.putQueue q v).early = s.early := rfl
@[simp] theorem State.putQueue_groups (q : Nat) (v : Queue) : (s.putQueue q v).groups = s.groups := rfl
@[simp] theorem State.putQueue_layout (q : Nat) (v : Queue) : (s.putQueue q v).layout = s.layout := rfl
@[simp] theorem State.putQueue_placement (q : Nat) (v : Queue) : (s.putQueue q v).placement = s.placement := rfl
@[simp] theorem State.putQueue_funcs (q : Nat) (v : Queue) : (s.putQueue q v).funcs = s.funcs := rfl
@[simp] theorem State.putQueue_marks (q : Nat) (v : Queue) : (s.putQueue q v).marks = s.marks := rfl
@[simp] theorem State.putQueue_freeCtr (q : Nat) (v : Queue) : (s.putQueue q v).freeCtr = s.freeCtr := rfl
@[simp] theorem State.putQueue_pending (q : Nat) (v : Queue) : (s.putQueue q v).pending = s.pending := rfl

/-! #### setPush -/

@[simp] theorem State.setPush_regs (c : Nat) (v : PushWindow) : (s.setPush c v).regs = s.regs := rfl
@[simp] theorem State.setPush_effect (c : Nat) (v : PushWindow) : (s.setPush c v).effect = s.effect := rfl
@[simp] theorem State.setPush_counters (c : Nat) (v : PushWindow) : (s.setPush c v).counters = s.counters := rfl
@[simp] theorem State.setPush_mem (c : Nat) (v : PushWindow) : (s.setPush c v).mem = s.mem := rfl
@[simp] theorem State.setPush_port (c : Nat) (v : PushWindow) : (s.setPush c v).port = s.port := rfl
@[simp] theorem State.setPush_late (c : Nat) (v : PushWindow) : (s.setPush c v).late = s.late := rfl
@[simp] theorem State.setPush_hostOut (c : Nat) (v : PushWindow) : (s.setPush c v).hostOut = s.hostOut := rfl
@[simp] theorem State.setPush_boot (c : Nat) (v : PushWindow) : (s.setPush c v).boot = s.boot := rfl
@[simp] theorem State.setPush_power (c : Nat) (v : PushWindow) : (s.setPush c v).power = s.power := rfl
@[simp] theorem State.setPush_testInstr (c : Nat) (v : PushWindow) : (s.setPush c v).testInstr = s.testInstr := rfl
@[simp] theorem State.setPush_testReset (c : Nat) (v : PushWindow) : (s.setPush c v).testReset = s.testReset := rfl
@[simp] theorem State.setPush_testOut (c : Nat) (v : PushWindow) : (s.setPush c v).testOut = s.testOut := rfl
@[simp] theorem State.setPush_ledger (c : Nat) (v : PushWindow) : (s.setPush c v).ledger = s.ledger := rfl
@[simp] theorem State.setPush_signals (c : Nat) (v : PushWindow) : (s.setPush c v).signals = s.signals := rfl
@[simp] theorem State.setPush_storage (c : Nat) (v : PushWindow) : (s.setPush c v).storage = { s.storage with pushes := Tab.set (fun _ => {}) s.storage.pushes c v } := rfl
@[simp] theorem State.setPush_net (c : Nat) (v : PushWindow) : (s.setPush c v).net = s.net := rfl
@[simp] theorem State.setPush_mortar (c : Nat) (v : PushWindow) : (s.setPush c v).mortar = s.mortar := rfl
@[simp] theorem State.setPush_sched (c : Nat) (v : PushWindow) : (s.setPush c v).sched = s.sched := rfl
@[simp] theorem State.setPush_att (c : Nat) (v : PushWindow) : (s.setPush c v).att = s.att := rfl
@[simp] theorem State.setPush_weights (c : Nat) (v : PushWindow) : (s.setPush c v).weights = s.weights := rfl
@[simp] theorem State.setPush_early (c : Nat) (v : PushWindow) : (s.setPush c v).early = s.early := rfl
@[simp] theorem State.setPush_groups (c : Nat) (v : PushWindow) : (s.setPush c v).groups = s.groups := rfl
@[simp] theorem State.setPush_layout (c : Nat) (v : PushWindow) : (s.setPush c v).layout = s.layout := rfl
@[simp] theorem State.setPush_placement (c : Nat) (v : PushWindow) : (s.setPush c v).placement = s.placement := rfl
@[simp] theorem State.setPush_funcs (c : Nat) (v : PushWindow) : (s.setPush c v).funcs = s.funcs := rfl
@[simp] theorem State.setPush_marks (c : Nat) (v : PushWindow) : (s.setPush c v).marks = s.marks := rfl
@[simp] theorem State.setPush_freeCtr (c : Nat) (v : PushWindow) : (s.setPush c v).freeCtr = s.freeCtr := rfl
@[simp] theorem State.setPush_pending (c : Nat) (v : PushWindow) : (s.setPush c v).pending = s.pending := rfl

/-! #### setLane -/

@[simp] theorem State.setLane_regs (l : Nat) (v : Lane) : (s.setLane l v).regs = s.regs := rfl
@[simp] theorem State.setLane_effect (l : Nat) (v : Lane) : (s.setLane l v).effect = s.effect := rfl
@[simp] theorem State.setLane_counters (l : Nat) (v : Lane) : (s.setLane l v).counters = s.counters := rfl
@[simp] theorem State.setLane_mem (l : Nat) (v : Lane) : (s.setLane l v).mem = s.mem := rfl
@[simp] theorem State.setLane_port (l : Nat) (v : Lane) : (s.setLane l v).port = s.port := rfl
@[simp] theorem State.setLane_late (l : Nat) (v : Lane) : (s.setLane l v).late = s.late := rfl
@[simp] theorem State.setLane_hostOut (l : Nat) (v : Lane) : (s.setLane l v).hostOut = s.hostOut := rfl
@[simp] theorem State.setLane_boot (l : Nat) (v : Lane) : (s.setLane l v).boot = s.boot := rfl
@[simp] theorem State.setLane_power (l : Nat) (v : Lane) : (s.setLane l v).power = s.power := rfl
@[simp] theorem State.setLane_testInstr (l : Nat) (v : Lane) : (s.setLane l v).testInstr = s.testInstr := rfl
@[simp] theorem State.setLane_testReset (l : Nat) (v : Lane) : (s.setLane l v).testReset = s.testReset := rfl
@[simp] theorem State.setLane_testOut (l : Nat) (v : Lane) : (s.setLane l v).testOut = s.testOut := rfl
@[simp] theorem State.setLane_ledger (l : Nat) (v : Lane) : (s.setLane l v).ledger = s.ledger := rfl
@[simp] theorem State.setLane_signals (l : Nat) (v : Lane) : (s.setLane l v).signals = s.signals := rfl
@[simp] theorem State.setLane_storage (l : Nat) (v : Lane) : (s.setLane l v).storage = s.storage := rfl
@[simp] theorem State.setLane_net (l : Nat) (v : Lane) : (s.setLane l v).net = s.net := rfl
@[simp] theorem State.setLane_mortar (l : Nat) (v : Lane) : (s.setLane l v).mortar = { s.mortar with lanes := Tab.set (fun _ => {}) s.mortar.lanes l v } := rfl
@[simp] theorem State.setLane_sched (l : Nat) (v : Lane) : (s.setLane l v).sched = s.sched := rfl
@[simp] theorem State.setLane_att (l : Nat) (v : Lane) : (s.setLane l v).att = s.att := rfl
@[simp] theorem State.setLane_weights (l : Nat) (v : Lane) : (s.setLane l v).weights = s.weights := rfl
@[simp] theorem State.setLane_early (l : Nat) (v : Lane) : (s.setLane l v).early = s.early := rfl
@[simp] theorem State.setLane_groups (l : Nat) (v : Lane) : (s.setLane l v).groups = s.groups := rfl
@[simp] theorem State.setLane_layout (l : Nat) (v : Lane) : (s.setLane l v).layout = s.layout := rfl
@[simp] theorem State.setLane_placement (l : Nat) (v : Lane) : (s.setLane l v).placement = s.placement := rfl
@[simp] theorem State.setLane_funcs (l : Nat) (v : Lane) : (s.setLane l v).funcs = s.funcs := rfl
@[simp] theorem State.setLane_marks (l : Nat) (v : Lane) : (s.setLane l v).marks = s.marks := rfl
@[simp] theorem State.setLane_freeCtr (l : Nat) (v : Lane) : (s.setLane l v).freeCtr = s.freeCtr := rfl
@[simp] theorem State.setLane_pending (l : Nat) (v : Lane) : (s.setLane l v).pending = s.pending := rfl

/-! #### modBar -/

@[simp] theorem State.modBar_regs (f : Barrier → Barrier) : (s.modBar f).regs = s.regs := rfl
@[simp] theorem State.modBar_effect (f : Barrier → Barrier) : (s.modBar f).effect = s.effect := rfl
@[simp] theorem State.modBar_counters (f : Barrier → Barrier) : (s.modBar f).counters = s.counters := rfl
@[simp] theorem State.modBar_mem (f : Barrier → Barrier) : (s.modBar f).mem = s.mem := rfl
@[simp] theorem State.modBar_port (f : Barrier → Barrier) : (s.modBar f).port = s.port := rfl
@[simp] theorem State.modBar_late (f : Barrier → Barrier) : (s.modBar f).late = s.late := rfl
@[simp] theorem State.modBar_hostOut (f : Barrier → Barrier) : (s.modBar f).hostOut = s.hostOut := rfl
@[simp] theorem State.modBar_boot (f : Barrier → Barrier) : (s.modBar f).boot = s.boot := rfl
@[simp] theorem State.modBar_power (f : Barrier → Barrier) : (s.modBar f).power = s.power := rfl
@[simp] theorem State.modBar_testInstr (f : Barrier → Barrier) : (s.modBar f).testInstr = s.testInstr := rfl
@[simp] theorem State.modBar_testReset (f : Barrier → Barrier) : (s.modBar f).testReset = s.testReset := rfl
@[simp] theorem State.modBar_testOut (f : Barrier → Barrier) : (s.modBar f).testOut = s.testOut := rfl
@[simp] theorem State.modBar_ledger (f : Barrier → Barrier) : (s.modBar f).ledger = s.ledger := rfl
@[simp] theorem State.modBar_signals (f : Barrier → Barrier) : (s.modBar f).signals = s.signals := rfl
@[simp] theorem State.modBar_storage (f : Barrier → Barrier) : (s.modBar f).storage = s.storage := rfl
@[simp] theorem State.modBar_net (f : Barrier → Barrier) : (s.modBar f).net = s.net := rfl
@[simp] theorem State.modBar_mortar (f : Barrier → Barrier) : (s.modBar f).mortar = { s.mortar with bar := f s.mortar.bar } := rfl
@[simp] theorem State.modBar_sched (f : Barrier → Barrier) : (s.modBar f).sched = s.sched := rfl
@[simp] theorem State.modBar_att (f : Barrier → Barrier) : (s.modBar f).att = s.att := rfl
@[simp] theorem State.modBar_weights (f : Barrier → Barrier) : (s.modBar f).weights = s.weights := rfl
@[simp] theorem State.modBar_early (f : Barrier → Barrier) : (s.modBar f).early = s.early := rfl
@[simp] theorem State.modBar_groups (f : Barrier → Barrier) : (s.modBar f).groups = s.groups := rfl
@[simp] theorem State.modBar_layout (f : Barrier → Barrier) : (s.modBar f).layout = s.layout := rfl
@[simp] theorem State.modBar_placement (f : Barrier → Barrier) : (s.modBar f).placement = s.placement := rfl
@[simp] theorem State.modBar_funcs (f : Barrier → Barrier) : (s.modBar f).funcs = s.funcs := rfl
@[simp] theorem State.modBar_marks (f : Barrier → Barrier) : (s.modBar f).marks = s.marks := rfl
@[simp] theorem State.modBar_freeCtr (f : Barrier → Barrier) : (s.modBar f).freeCtr = s.freeCtr := rfl
@[simp] theorem State.modBar_pending (f : Barrier → Barrier) : (s.modBar f).pending = s.pending := rfl

/-! #### modTree -/

@[simp] theorem State.modTree_regs (f : Tree → Tree) : (s.modTree f).regs = s.regs := rfl
@[simp] theorem State.modTree_effect (f : Tree → Tree) : (s.modTree f).effect = s.effect := rfl
@[simp] theorem State.modTree_counters (f : Tree → Tree) : (s.modTree f).counters = s.counters := rfl
@[simp] theorem State.modTree_mem (f : Tree → Tree) : (s.modTree f).mem = s.mem := rfl
@[simp] theorem State.modTree_port (f : Tree → Tree) : (s.modTree f).port = s.port := rfl
@[simp] theorem State.modTree_late (f : Tree → Tree) : (s.modTree f).late = s.late := rfl
@[simp] theorem State.modTree_hostOut (f : Tree → Tree) : (s.modTree f).hostOut = s.hostOut := rfl
@[simp] theorem State.modTree_boot (f : Tree → Tree) : (s.modTree f).boot = s.boot := rfl
@[simp] theorem State.modTree_power (f : Tree → Tree) : (s.modTree f).power = s.power := rfl
@[simp] theorem State.modTree_testInstr (f : Tree → Tree) : (s.modTree f).testInstr = s.testInstr := rfl
@[simp] theorem State.modTree_testReset (f : Tree → Tree) : (s.modTree f).testReset = s.testReset := rfl
@[simp] theorem State.modTree_testOut (f : Tree → Tree) : (s.modTree f).testOut = s.testOut := rfl
@[simp] theorem State.modTree_ledger (f : Tree → Tree) : (s.modTree f).ledger = s.ledger := rfl
@[simp] theorem State.modTree_signals (f : Tree → Tree) : (s.modTree f).signals = s.signals := rfl
@[simp] theorem State.modTree_storage (f : Tree → Tree) : (s.modTree f).storage = s.storage := rfl
@[simp] theorem State.modTree_net (f : Tree → Tree) : (s.modTree f).net = s.net := rfl
@[simp] theorem State.modTree_mortar (f : Tree → Tree) : (s.modTree f).mortar = { s.mortar with tree := f s.mortar.tree } := rfl
@[simp] theorem State.modTree_sched (f : Tree → Tree) : (s.modTree f).sched = s.sched := rfl
@[simp] theorem State.modTree_att (f : Tree → Tree) : (s.modTree f).att = s.att := rfl
@[simp] theorem State.modTree_weights (f : Tree → Tree) : (s.modTree f).weights = s.weights := rfl
@[simp] theorem State.modTree_early (f : Tree → Tree) : (s.modTree f).early = s.early := rfl
@[simp] theorem State.modTree_groups (f : Tree → Tree) : (s.modTree f).groups = s.groups := rfl
@[simp] theorem State.modTree_layout (f : Tree → Tree) : (s.modTree f).layout = s.layout := rfl
@[simp] theorem State.modTree_placement (f : Tree → Tree) : (s.modTree f).placement = s.placement := rfl
@[simp] theorem State.modTree_funcs (f : Tree → Tree) : (s.modTree f).funcs = s.funcs := rfl
@[simp] theorem State.modTree_marks (f : Tree → Tree) : (s.modTree f).marks = s.marks := rfl
@[simp] theorem State.modTree_freeCtr (f : Tree → Tree) : (s.modTree f).freeCtr = s.freeCtr := rfl
@[simp] theorem State.modTree_pending (f : Tree → Tree) : (s.modTree f).pending = s.pending := rfl

/-! #### setLayoutWindow -/

@[simp] theorem State.setLayoutWindow_regs (c : Fin 16) (v : LayoutWindow) : (s.setLayoutWindow c v).regs = s.regs := rfl
@[simp] theorem State.setLayoutWindow_effect (c : Fin 16) (v : LayoutWindow) : (s.setLayoutWindow c v).effect = s.effect := rfl
@[simp] theorem State.setLayoutWindow_counters (c : Fin 16) (v : LayoutWindow) : (s.setLayoutWindow c v).counters = s.counters := rfl
@[simp] theorem State.setLayoutWindow_mem (c : Fin 16) (v : LayoutWindow) : (s.setLayoutWindow c v).mem = s.mem := rfl
@[simp] theorem State.setLayoutWindow_port (c : Fin 16) (v : LayoutWindow) : (s.setLayoutWindow c v).port = s.port := rfl
@[simp] theorem State.setLayoutWindow_late (c : Fin 16) (v : LayoutWindow) : (s.setLayoutWindow c v).late = s.late := rfl
@[simp] theorem State.setLayoutWindow_hostOut (c : Fin 16) (v : LayoutWindow) : (s.setLayoutWindow c v).hostOut = s.hostOut := rfl
@[simp] theorem State.setLayoutWindow_boot (c : Fin 16) (v : LayoutWindow) : (s.setLayoutWindow c v).boot = s.boot := rfl
@[simp] theorem State.setLayoutWindow_power (c : Fin 16) (v : LayoutWindow) : (s.setLayoutWindow c v).power = s.power := rfl
@[simp] theorem State.setLayoutWindow_testInstr (c : Fin 16) (v : LayoutWindow) : (s.setLayoutWindow c v).testInstr = s.testInstr := rfl
@[simp] theorem State.setLayoutWindow_testReset (c : Fin 16) (v : LayoutWindow) : (s.setLayoutWindow c v).testReset = s.testReset := rfl
@[simp] theorem State.setLayoutWindow_testOut (c : Fin 16) (v : LayoutWindow) : (s.setLayoutWindow c v).testOut = s.testOut := rfl
@[simp] theorem State.setLayoutWindow_ledger (c : Fin 16) (v : LayoutWindow) : (s.setLayoutWindow c v).ledger = s.ledger := rfl
@[simp] theorem State.setLayoutWindow_signals (c : Fin 16) (v : LayoutWindow) : (s.setLayoutWindow c v).signals = s.signals := rfl
@[simp] theorem State.setLayoutWindow_storage (c : Fin 16) (v : LayoutWindow) : (s.setLayoutWindow c v).storage = s.storage := rfl
@[simp] theorem State.setLayoutWindow_net (c : Fin 16) (v : LayoutWindow) : (s.setLayoutWindow c v).net = s.net := rfl
@[simp] theorem State.setLayoutWindow_mortar (c : Fin 16) (v : LayoutWindow) : (s.setLayoutWindow c v).mortar = s.mortar := rfl
@[simp] theorem State.setLayoutWindow_sched (c : Fin 16) (v : LayoutWindow) : (s.setLayoutWindow c v).sched = s.sched := rfl
@[simp] theorem State.setLayoutWindow_att (c : Fin 16) (v : LayoutWindow) : (s.setLayoutWindow c v).att = s.att := rfl
@[simp] theorem State.setLayoutWindow_weights (c : Fin 16) (v : LayoutWindow) : (s.setLayoutWindow c v).weights = s.weights := rfl
@[simp] theorem State.setLayoutWindow_early (c : Fin 16) (v : LayoutWindow) : (s.setLayoutWindow c v).early = s.early := rfl
@[simp] theorem State.setLayoutWindow_groups (c : Fin 16) (v : LayoutWindow) : (s.setLayoutWindow c v).groups = s.groups := rfl
@[simp] theorem State.setLayoutWindow_layout (c : Fin 16) (v : LayoutWindow) : (s.setLayoutWindow c v).layout = { s.layout with windows := Tab.set (fun _ => {}) s.layout.windows c.val v } := rfl
@[simp] theorem State.setLayoutWindow_placement (c : Fin 16) (v : LayoutWindow) : (s.setLayoutWindow c v).placement = s.placement := rfl
@[simp] theorem State.setLayoutWindow_funcs (c : Fin 16) (v : LayoutWindow) : (s.setLayoutWindow c v).funcs = s.funcs := rfl
@[simp] theorem State.setLayoutWindow_marks (c : Fin 16) (v : LayoutWindow) : (s.setLayoutWindow c v).marks = s.marks := rfl
@[simp] theorem State.setLayoutWindow_freeCtr (c : Fin 16) (v : LayoutWindow) : (s.setLayoutWindow c v).freeCtr = s.freeCtr := rfl
@[simp] theorem State.setLayoutWindow_pending (c : Fin 16) (v : LayoutWindow) : (s.setLayoutWindow c v).pending = s.pending := rfl

/-! #### setPlacement -/

@[simp] theorem State.setPlacement_regs (p : Fin 16) (v : Placement) : (s.setPlacement p v).regs = s.regs := rfl
@[simp] theorem State.setPlacement_effect (p : Fin 16) (v : Placement) : (s.setPlacement p v).effect = s.effect := rfl
@[simp] theorem State.setPlacement_counters (p : Fin 16) (v : Placement) : (s.setPlacement p v).counters = s.counters := rfl
@[simp] theorem State.setPlacement_mem (p : Fin 16) (v : Placement) : (s.setPlacement p v).mem = s.mem := rfl
@[simp] theorem State.setPlacement_port (p : Fin 16) (v : Placement) : (s.setPlacement p v).port = s.port := rfl
@[simp] theorem State.setPlacement_late (p : Fin 16) (v : Placement) : (s.setPlacement p v).late = s.late := rfl
@[simp] theorem State.setPlacement_hostOut (p : Fin 16) (v : Placement) : (s.setPlacement p v).hostOut = s.hostOut := rfl
@[simp] theorem State.setPlacement_boot (p : Fin 16) (v : Placement) : (s.setPlacement p v).boot = s.boot := rfl
@[simp] theorem State.setPlacement_power (p : Fin 16) (v : Placement) : (s.setPlacement p v).power = s.power := rfl
@[simp] theorem State.setPlacement_testInstr (p : Fin 16) (v : Placement) : (s.setPlacement p v).testInstr = s.testInstr := rfl
@[simp] theorem State.setPlacement_testReset (p : Fin 16) (v : Placement) : (s.setPlacement p v).testReset = s.testReset := rfl
@[simp] theorem State.setPlacement_testOut (p : Fin 16) (v : Placement) : (s.setPlacement p v).testOut = s.testOut := rfl
@[simp] theorem State.setPlacement_ledger (p : Fin 16) (v : Placement) : (s.setPlacement p v).ledger = s.ledger := rfl
@[simp] theorem State.setPlacement_signals (p : Fin 16) (v : Placement) : (s.setPlacement p v).signals = s.signals := rfl
@[simp] theorem State.setPlacement_storage (p : Fin 16) (v : Placement) : (s.setPlacement p v).storage = s.storage := rfl
@[simp] theorem State.setPlacement_net (p : Fin 16) (v : Placement) : (s.setPlacement p v).net = s.net := rfl
@[simp] theorem State.setPlacement_mortar (p : Fin 16) (v : Placement) : (s.setPlacement p v).mortar = s.mortar := rfl
@[simp] theorem State.setPlacement_sched (p : Fin 16) (v : Placement) : (s.setPlacement p v).sched = s.sched := rfl
@[simp] theorem State.setPlacement_att (p : Fin 16) (v : Placement) : (s.setPlacement p v).att = s.att := rfl
@[simp] theorem State.setPlacement_weights (p : Fin 16) (v : Placement) : (s.setPlacement p v).weights = s.weights := rfl
@[simp] theorem State.setPlacement_early (p : Fin 16) (v : Placement) : (s.setPlacement p v).early = s.early := rfl
@[simp] theorem State.setPlacement_groups (p : Fin 16) (v : Placement) : (s.setPlacement p v).groups = s.groups := rfl
@[simp] theorem State.setPlacement_layout (p : Fin 16) (v : Placement) : (s.setPlacement p v).layout = s.layout := rfl
@[simp] theorem State.setPlacement_placement (p : Fin 16) (v : Placement) : (s.setPlacement p v).placement = Tab.set (fun _ => {}) s.placement p.val v := rfl
@[simp] theorem State.setPlacement_funcs (p : Fin 16) (v : Placement) : (s.setPlacement p v).funcs = s.funcs := rfl
@[simp] theorem State.setPlacement_marks (p : Fin 16) (v : Placement) : (s.setPlacement p v).marks = s.marks := rfl
@[simp] theorem State.setPlacement_freeCtr (p : Fin 16) (v : Placement) : (s.setPlacement p v).freeCtr = s.freeCtr := rfl
@[simp] theorem State.setPlacement_pending (p : Fin 16) (v : Placement) : (s.setPlacement p v).pending = s.pending := rfl

/-! #### setStore -/

@[simp] theorem State.setStore_regs (i : Nat) (v : StoreMap) : (s.setStore i v).regs = s.regs := rfl
@[simp] theorem State.setStore_effect (i : Nat) (v : StoreMap) : (s.setStore i v).effect = s.effect := rfl
@[simp] theorem State.setStore_counters (i : Nat) (v : StoreMap) : (s.setStore i v).counters = s.counters := rfl
@[simp] theorem State.setStore_mem (i : Nat) (v : StoreMap) : (s.setStore i v).mem = s.mem := rfl
@[simp] theorem State.setStore_port (i : Nat) (v : StoreMap) : (s.setStore i v).port = s.port := rfl
@[simp] theorem State.setStore_late (i : Nat) (v : StoreMap) : (s.setStore i v).late = s.late := rfl
@[simp] theorem State.setStore_hostOut (i : Nat) (v : StoreMap) : (s.setStore i v).hostOut = s.hostOut := rfl
@[simp] theorem State.setStore_boot (i : Nat) (v : StoreMap) : (s.setStore i v).boot = { s.boot with stores := Tab.set (fun _ => {}) s.boot.stores i v } := rfl
@[simp] theorem State.setStore_power (i : Nat) (v : StoreMap) : (s.setStore i v).power = s.power := rfl
@[simp] theorem State.setStore_testInstr (i : Nat) (v : StoreMap) : (s.setStore i v).testInstr = s.testInstr := rfl
@[simp] theorem State.setStore_testReset (i : Nat) (v : StoreMap) : (s.setStore i v).testReset = s.testReset := rfl
@[simp] theorem State.setStore_testOut (i : Nat) (v : StoreMap) : (s.setStore i v).testOut = s.testOut := rfl
@[simp] theorem State.setStore_ledger (i : Nat) (v : StoreMap) : (s.setStore i v).ledger = s.ledger := rfl
@[simp] theorem State.setStore_signals (i : Nat) (v : StoreMap) : (s.setStore i v).signals = s.signals := rfl
@[simp] theorem State.setStore_storage (i : Nat) (v : StoreMap) : (s.setStore i v).storage = s.storage := rfl
@[simp] theorem State.setStore_net (i : Nat) (v : StoreMap) : (s.setStore i v).net = s.net := rfl
@[simp] theorem State.setStore_mortar (i : Nat) (v : StoreMap) : (s.setStore i v).mortar = s.mortar := rfl
@[simp] theorem State.setStore_sched (i : Nat) (v : StoreMap) : (s.setStore i v).sched = s.sched := rfl
@[simp] theorem State.setStore_att (i : Nat) (v : StoreMap) : (s.setStore i v).att = s.att := rfl
@[simp] theorem State.setStore_weights (i : Nat) (v : StoreMap) : (s.setStore i v).weights = s.weights := rfl
@[simp] theorem State.setStore_early (i : Nat) (v : StoreMap) : (s.setStore i v).early = s.early := rfl
@[simp] theorem State.setStore_groups (i : Nat) (v : StoreMap) : (s.setStore i v).groups = s.groups := rfl
@[simp] theorem State.setStore_layout (i : Nat) (v : StoreMap) : (s.setStore i v).layout = s.layout := rfl
@[simp] theorem State.setStore_placement (i : Nat) (v : StoreMap) : (s.setStore i v).placement = s.placement := rfl
@[simp] theorem State.setStore_funcs (i : Nat) (v : StoreMap) : (s.setStore i v).funcs = s.funcs := rfl
@[simp] theorem State.setStore_marks (i : Nat) (v : StoreMap) : (s.setStore i v).marks = s.marks := rfl
@[simp] theorem State.setStore_freeCtr (i : Nat) (v : StoreMap) : (s.setStore i v).freeCtr = s.freeCtr := rfl
@[simp] theorem State.setStore_pending (i : Nat) (v : StoreMap) : (s.setStore i v).pending = s.pending := rfl

/-! #### applyAll -/

@[simp] theorem State.applyAll_regs : (s.applyAll).regs = s.regs := rfl
@[simp] theorem State.applyAll_effect : (s.applyAll).effect = s.regs := rfl
@[simp] theorem State.applyAll_counters : (s.applyAll).counters = s.counters := rfl
@[simp] theorem State.applyAll_mem : (s.applyAll).mem = s.mem := rfl
@[simp] theorem State.applyAll_port : (s.applyAll).port = s.port := rfl
@[simp] theorem State.applyAll_late : (s.applyAll).late = s.late := rfl
@[simp] theorem State.applyAll_hostOut : (s.applyAll).hostOut = s.hostOut := rfl
@[simp] theorem State.applyAll_boot : (s.applyAll).boot = s.boot := rfl
@[simp] theorem State.applyAll_power : (s.applyAll).power = s.power := rfl
@[simp] theorem State.applyAll_testInstr : (s.applyAll).testInstr = s.testInstr := rfl
@[simp] theorem State.applyAll_testReset : (s.applyAll).testReset = s.testReset := rfl
@[simp] theorem State.applyAll_testOut : (s.applyAll).testOut = s.testOut := rfl
@[simp] theorem State.applyAll_ledger : (s.applyAll).ledger = s.ledger := rfl
@[simp] theorem State.applyAll_signals : (s.applyAll).signals = s.signals := rfl
@[simp] theorem State.applyAll_storage : (s.applyAll).storage = s.storage := rfl
@[simp] theorem State.applyAll_net : (s.applyAll).net = s.net := rfl
@[simp] theorem State.applyAll_mortar : (s.applyAll).mortar = s.mortar := rfl
@[simp] theorem State.applyAll_sched : (s.applyAll).sched = s.sched := rfl
@[simp] theorem State.applyAll_att : (s.applyAll).att = s.att := rfl
@[simp] theorem State.applyAll_weights : (s.applyAll).weights = s.weights := rfl
@[simp] theorem State.applyAll_early : (s.applyAll).early = s.early := rfl
@[simp] theorem State.applyAll_groups : (s.applyAll).groups = s.groups := rfl
@[simp] theorem State.applyAll_layout : (s.applyAll).layout = s.layout := rfl
@[simp] theorem State.applyAll_placement : (s.applyAll).placement = s.placement := rfl
@[simp] theorem State.applyAll_funcs : (s.applyAll).funcs = s.funcs := rfl
@[simp] theorem State.applyAll_marks : (s.applyAll).marks = s.marks := rfl
@[simp] theorem State.applyAll_freeCtr : (s.applyAll).freeCtr = s.freeCtr := rfl
@[simp] theorem State.applyAll_pending : (s.applyAll).pending = s.pending := rfl

/-! #### hostAnswered -/

@[simp] theorem State.hostAnswered_regs (c : HostCtx) : (s.hostAnswered c).regs = s.regs := rfl
@[simp] theorem State.hostAnswered_effect (c : HostCtx) : (s.hostAnswered c).effect = s.effect := rfl
@[simp] theorem State.hostAnswered_counters (c : HostCtx) : (s.hostAnswered c).counters = s.counters := rfl
@[simp] theorem State.hostAnswered_mem (c : HostCtx) : (s.hostAnswered c).mem = s.mem := rfl
@[simp] theorem State.hostAnswered_port (c : HostCtx) : (s.hostAnswered c).port = s.port := rfl
@[simp] theorem State.hostAnswered_late (c : HostCtx) : (s.hostAnswered c).late = s.late := rfl
@[simp] theorem State.hostAnswered_hostOut (c : HostCtx) : (s.hostAnswered c).hostOut = s.hostOut.filter (fun x => x != c) := rfl
@[simp] theorem State.hostAnswered_boot (c : HostCtx) : (s.hostAnswered c).boot = s.boot := rfl
@[simp] theorem State.hostAnswered_power (c : HostCtx) : (s.hostAnswered c).power = s.power := rfl
@[simp] theorem State.hostAnswered_testInstr (c : HostCtx) : (s.hostAnswered c).testInstr = s.testInstr := rfl
@[simp] theorem State.hostAnswered_testReset (c : HostCtx) : (s.hostAnswered c).testReset = s.testReset := rfl
@[simp] theorem State.hostAnswered_testOut (c : HostCtx) : (s.hostAnswered c).testOut = s.testOut := rfl
@[simp] theorem State.hostAnswered_ledger (c : HostCtx) : (s.hostAnswered c).ledger = s.ledger := rfl
@[simp] theorem State.hostAnswered_signals (c : HostCtx) : (s.hostAnswered c).signals = s.signals := rfl
@[simp] theorem State.hostAnswered_storage (c : HostCtx) : (s.hostAnswered c).storage = s.storage := rfl
@[simp] theorem State.hostAnswered_net (c : HostCtx) : (s.hostAnswered c).net = s.net := rfl
@[simp] theorem State.hostAnswered_mortar (c : HostCtx) : (s.hostAnswered c).mortar = s.mortar := rfl
@[simp] theorem State.hostAnswered_sched (c : HostCtx) : (s.hostAnswered c).sched = s.sched := rfl
@[simp] theorem State.hostAnswered_att (c : HostCtx) : (s.hostAnswered c).att = s.att := rfl
@[simp] theorem State.hostAnswered_weights (c : HostCtx) : (s.hostAnswered c).weights = s.weights := rfl
@[simp] theorem State.hostAnswered_early (c : HostCtx) : (s.hostAnswered c).early = s.early := rfl
@[simp] theorem State.hostAnswered_groups (c : HostCtx) : (s.hostAnswered c).groups = s.groups := rfl
@[simp] theorem State.hostAnswered_layout (c : HostCtx) : (s.hostAnswered c).layout = s.layout := rfl
@[simp] theorem State.hostAnswered_placement (c : HostCtx) : (s.hostAnswered c).placement = s.placement := rfl
@[simp] theorem State.hostAnswered_funcs (c : HostCtx) : (s.hostAnswered c).funcs = s.funcs := rfl
@[simp] theorem State.hostAnswered_marks (c : HostCtx) : (s.hostAnswered c).marks = s.marks := rfl
@[simp] theorem State.hostAnswered_freeCtr (c : HostCtx) : (s.hostAnswered c).freeCtr = s.freeCtr := rfl
@[simp] theorem State.hostAnswered_pending (c : HostCtx) : (s.hostAnswered c).pending = s.pending := rfl

/-! #### requestDeep -/

@[simp] theorem State.requestDeep_regs : (s.requestDeep).regs = s.regs := rfl
@[simp] theorem State.requestDeep_effect : (s.requestDeep).effect = s.effect := rfl
@[simp] theorem State.requestDeep_counters : (s.requestDeep).counters = s.counters := rfl
@[simp] theorem State.requestDeep_mem : (s.requestDeep).mem = s.mem := rfl
@[simp] theorem State.requestDeep_port : (s.requestDeep).port = s.port := rfl
@[simp] theorem State.requestDeep_late : (s.requestDeep).late = s.late := rfl
@[simp] theorem State.requestDeep_hostOut : (s.requestDeep).hostOut = s.hostOut := rfl
@[simp] theorem State.requestDeep_boot : (s.requestDeep).boot = s.boot := rfl
@[simp] theorem State.requestDeep_power : (s.requestDeep).power = { s.power with deepPending := true } := rfl
@[simp] theorem State.requestDeep_testInstr : (s.requestDeep).testInstr = s.testInstr := rfl
@[simp] theorem State.requestDeep_testReset : (s.requestDeep).testReset = s.testReset := rfl
@[simp] theorem State.requestDeep_testOut : (s.requestDeep).testOut = s.testOut := rfl
@[simp] theorem State.requestDeep_ledger : (s.requestDeep).ledger = s.ledger := rfl
@[simp] theorem State.requestDeep_signals : (s.requestDeep).signals = s.signals := rfl
@[simp] theorem State.requestDeep_storage : (s.requestDeep).storage = s.storage := rfl
@[simp] theorem State.requestDeep_net : (s.requestDeep).net = s.net := rfl
@[simp] theorem State.requestDeep_mortar : (s.requestDeep).mortar = s.mortar := rfl
@[simp] theorem State.requestDeep_sched : (s.requestDeep).sched = s.sched := rfl
@[simp] theorem State.requestDeep_att : (s.requestDeep).att = s.att := rfl
@[simp] theorem State.requestDeep_weights : (s.requestDeep).weights = s.weights := rfl
@[simp] theorem State.requestDeep_early : (s.requestDeep).early = s.early := rfl
@[simp] theorem State.requestDeep_groups : (s.requestDeep).groups = s.groups := rfl
@[simp] theorem State.requestDeep_layout : (s.requestDeep).layout = s.layout := rfl
@[simp] theorem State.requestDeep_placement : (s.requestDeep).placement = s.placement := rfl
@[simp] theorem State.requestDeep_funcs : (s.requestDeep).funcs = s.funcs := rfl
@[simp] theorem State.requestDeep_marks : (s.requestDeep).marks = s.marks := rfl
@[simp] theorem State.requestDeep_freeCtr : (s.requestDeep).freeCtr = s.freeCtr := rfl
@[simp] theorem State.requestDeep_pending : (s.requestDeep).pending = s.pending := rfl

end Sys2Proof.Machine
end

