-- ==== Sys2Proof/Laws/Commands.lean ====
section
/-! SUPPORT. What stands before and after a command, said once for each shared operation: the gate of the target port, the turn of a sequencer
and of an engine, reception of frames and messages, the passing of time, and what follows from a command. -/

namespace Sys2Proof.Machine

variable {s : State}

/-! ### Time -/

@[simp] theorem State.pass_zero (s : State) : (s.pass 0).tb = s.tb := by
  unfold State.pass
  simp only
  split
  · split <;> simp [State.tb, State.setTb, State.bump]
  · simp [State.tb, State.setTb, State.bump]
  · simp [State.tb, State.setTb, State.bump]

theorem State.pass_tb (s : State) (n : Nat) : (s.pass n).tb = s.tb + n := by
  unfold State.pass
  simp only
  split
  · split <;> simp [State.tb, State.setTb, State.bump]
  · simp [State.tb, State.setTb, State.bump]
  · simp [State.tb, State.setTb, State.bump]

/-- Time changes the timebase and the time counters, nothing else. -/
theorem State.pass_frame (s : State) (n : Nat) :
    s.pass n = { s with
      mortar := { s.mortar with cal := { s.mortar.cal with tb := s.tb + n } }, counters := (s.pass n).counters } := by
  unfold State.pass
  simp only
  split
  · split <;> rfl
  · rfl
  · rfl

theorem State.until_tb (s : State) (t : Nat) : (s.until t).tb = max s.tb t := by
  unfold State.until
  split
  · rw [State.pass_tb]; omega
  · omega

theorem State.until_frame (s : State) (t : Nat) :
    s.until t = { s with
      mortar := { s.mortar with cal := { s.mortar.cal with tb := (s.until t).tb } }, counters := (s.until t).counters } := by
  unfold State.until
  split
  · rw [State.pass_tb]; exact s.pass_frame _
  · rfl

/-! ### The gate of the target port -/

theorem State.servesNow.serving (h : s.servesNow) : s.serving = true := by
  simp [State.serving, h.2.1, h.2.2.1]

theorem State.servesNow.awake (h : s.servesNow) : s.awake = true := by
  simp [State.awake, h.1, h.2.1, h.2.2.2.1]

theorem State.cancelDeep_of (h : s.power.deepPending = false) : s.cancelDeep = s := by simp [State.cancelDeep, h]

/-- A block that serves at once gives the request its tag and does what it is. -/
theorem State.request_serves (h : s.servesNow) (i : Instr) : s.request i = s.newTag.serve i := by
  have hs := h.serving
  obtain ⟨h1, h2, h3, h4, h5⟩ := h
  simp [State.request, State.gatePort, h1, hs, h4, State.cancelDeep_of (s := s.newTag) (by simpa using h5)]

theorem State.bell_serves (h : s.servesNow) (i : Instr) (b : KeptBell) : s.bell i b = (s.newTag.ringKept b).ok := by
  have hs := h.serving
  obtain ⟨h1, h2, h3, h4, h5⟩ := h
  simp [State.bell, State.gateBell, h1, hs, h4, State.cancelDeep_of (s := s.newTag) (by simpa using h5)]

theorem State.request_notReady (hp : s.boot.powered = true) (h : s.serving = false) (i : Instr) :
    s.request i = s.newTag.notReady := by
  simp [State.request, State.gatePort, hp, h]

theorem State.bell_notReady (hp : s.boot.powered = true) (h : s.serving = false) (i : Instr) (b : KeptBell) :
    s.bell i b = s.newTag.notReady := by
  simp [State.bell, State.gateBell, hp, h]

theorem State.request_asleep (hp : s.boot.powered = true) (h : s.serving = true) (hr : s.power.state ≠ .run) (i : Instr) :
    s.request i = s.newTag.holdRequest i := by
  simp [State.request, State.gatePort, hp, h, hr]

theorem State.bell_asleep (hp : s.boot.powered = true) (h : s.serving = true) (hr : s.power.state ≠ .run)
    (hk : s.power.kept.length < 64) (i : Instr) (b : KeptBell) :
    s.bell i b = ({ s.newTag.latchDoorbell with
      power := { s.newTag.latchDoorbell.power with kept := s.newTag.latchDoorbell.power.kept ++ [(s.newTag.latchDoorbell.port.tag, b)] } } : State).ok := by
  simp [State.bell, State.gateBell, hp, h, hr, hk]

@[simp] theorem State.countWake_power (s : State) : s.countWake.power = s.power := by
  unfold State.countWake; split <;> rfl

@[simp] theorem State.countWake_port (s : State) : s.countWake.port = s.port := by
  unfold State.countWake; split <;> rfl

/-! ### What follows from a command -/

theorem State.close_idle (h : s.awake = false) : s.close = s := by simp [State.close, h]

/-! ### Sequencers and engines -/

/-- A sequencer that may issue runs its instruction. -/
theorem State.onSeq_issuing {q : Fin 16} {x : Sequencer} (h : s.issuing q x) (f : Sequencer → State) : s.onSeq q.val f = f x := by
  obtain ⟨h1, h2, h3⟩ := h
  simp [State.onSeq, h1, h2, h3]

/-- The instruction at the head of an engine's queue, when its turn has come: it starts, does what its operation does, and completes
when it is one that runs to its end at once. -/
theorem State.runEngine_head {e : Engine} {op : Nat} {sub : Option Nat} {q k : Nat} {x : Sequencer} {i : Issued}
    (h : s.headRuns e op sub q k x i) (want : Nat → Bool) (hw : want i.word.toNat = true) (f : EngineFaults) :
    s.runEngine e want f = if atOnce i.op then ((s.startedAt e q k x i).perform x k i f).completeInstr q k i
      else (s.startedAt e q k x i).perform x k i f := by
  obtain ⟨h1, h2, h3, h4, _, _, h7⟩ := h
  simp [State.runEngine, h2, h3, h1, h4, hw, h7, State.startedAt]

/-- An engine with nothing at the head that the command names does nothing. -/
theorem State.runEngine_other {e : Engine} {want : Nat → Bool}
    (h : (s.engineQueue e).head? = none ∨ ∃ q k x i, (s.engineQueue e).head? = some (q, k, i) ∧ s.seq q = some x ∧
      (i.prog ≠ .waiting ∨ want i.word.toNat = false ∨ s.inputsIn x k i = false)) (f : EngineFaults) : s.runEngine e want f = s := by
  rcases h with h | ⟨q, k, x, i, h1, h2, h3⟩
  · simp [State.runEngine, h]
  · rcases h3 with h3 | h3 | h3 <;> simp [State.runEngine, h1, h2, h3]

end Sys2Proof.Machine
end

