-- ==== Sys2Proof/Laws/Far.lean ====
section
/-! SUPPORT. Far cells (R357): keeping them writes host memory, the list of far cells and the counter of free values, and nothing else. -/

namespace Sys2Proof.Machine

/-- b is a but for host memory, the far cells and the counter of free values. -/
def FarOnly (a b : State) : Prop := ∃ m f n, b = { a with mem := m, freeCtr := n, storage := { a.storage with far := f } }

theorem FarOnly.refl (a : State) : FarOnly a a := ⟨_, _, _, rfl⟩

theorem FarOnly.trans {a b c : State} : FarOnly a b → FarOnly b c → FarOnly a c := by
  rintro ⟨m, f, n, rfl⟩ ⟨m', f', n', rfl⟩
  exact ⟨m', f', n', rfl⟩

theorem FarOnly.each {α : Type} {f : State → α → State} (hf : ∀ s x, FarOnly s (f s x)) (s : State) (l : List α) : FarOnly s (s.each l f) := by
  induction l generalizing s with
  | nil => exact .refl s
  | cons x t ih => exact (hf s x).trans (ih _)

theorem State.writeLink_only (s : State) (c : Nat) (n : Option Nat) : FarOnly s (s.writeLink c n) := by
  cases n <;> exact ⟨_, _, _, rfl⟩

theorem State.writeFar_only (s : State) (q c : Nat) (b : List Byte) : FarOnly s (s.writeFar q c b) := by
  unfold State.writeFar
  split <;> exact ⟨_, _, _, rfl⟩

theorem State.dropFar_only (s : State) (q : Nat) (w : List ChainCell) : FarOnly s (s.dropFar q w) := by
  unfold State.dropFar
  exact .trans ⟨s.mem, _, s.freeCtr, rfl⟩ (.each (fun _ _ => State.writeLink_only _ _ _) _ _)

theorem State.placeFar_only (s : State) (q : Nat) (c : ChainCell) : FarOnly s (s.placeFar q c) := by
  unfold State.placeFar
  dsimp only
  split
  · split
    · exact .refl s
    · exact .trans ⟨s.mem, _, s.freeCtr, rfl⟩ (State.writeFar_only _ _ _ _)
  · exact .trans ⟨s.mem, _, _, rfl⟩ ((State.writeFar_only _ _ _ _).trans (State.writeLink_only _ _ _))

theorem State.linkFar_only (s : State) (x : FarCell × Option Nat) : FarOnly s (s.linkFar x) := by
  unfold State.linkFar
  split
  · exact .refl s
  · exact .trans ⟨s.mem, _, s.freeCtr, rfl⟩ (State.writeLink_only _ _ _)

theorem State.syncFar_only (s : State) (q : Nat) (v : Queue) : FarOnly s (s.syncFar q v) := by
  unfold State.syncFar
  split
  · exact .refl s
  · exact ((State.dropFar_only _ _ _).trans (.each (fun _ _ => State.placeFar_only _ _ _) _ _)).trans
      (.each State.linkFar_only _ _)

/-- What writing a queue does. -/
theorem State.setQueue_only (s : State) (q : Nat) (v : Queue) : FarOnly (s.putQueue q v) (s.setQueue q v) := State.syncFar_only _ _ _

/-- A queue that fits in its head and tail cells, and has no far cell, is written as it stands. -/
theorem State.setQueue_near (s : State) (q : Nat) (v : Queue) (hc : v.cells ≤ 8) (hf : s.storage.far.all (fun f => f.queue != q) = true) :
    s.setQueue q v = s.putQueue q v := by
  unfold State.setQueue State.syncFar
  exact if_pos ⟨hc, hf⟩

variable (s : State)

@[simp] theorem State.setQueue_regs (q : Nat) (v : Queue) : (s.setQueue q v).regs = s.regs := by
  obtain ⟨_, _, _, h⟩ := s.setQueue_only q v
  rw [h] <;> rfl

@[simp] theorem State.setQueue_effect (q : Nat) (v : Queue) : (s.setQueue q v).effect = s.effect := by
  obtain ⟨_, _, _, h⟩ := s.setQueue_only q v
  rw [h] <;> rfl

@[simp] theorem State.setQueue_counters (q : Nat) (v : Queue) : (s.setQueue q v).counters = s.counters := by
  obtain ⟨_, _, _, h⟩ := s.setQueue_only q v
  rw [h] <;> rfl

@[simp] theorem State.setQueue_port (q : Nat) (v : Queue) : (s.setQueue q v).port = s.port := by
  obtain ⟨_, _, _, h⟩ := s.setQueue_only q v
  rw [h] <;> rfl

@[simp] theorem State.setQueue_late (q : Nat) (v : Queue) : (s.setQueue q v).late = s.late := by
  obtain ⟨_, _, _, h⟩ := s.setQueue_only q v
  rw [h] <;> rfl

@[simp] theorem State.setQueue_hostOut (q : Nat) (v : Queue) : (s.setQueue q v).hostOut = s.hostOut := by
  obtain ⟨_, _, _, h⟩ := s.setQueue_only q v
  rw [h] <;> rfl

@[simp] theorem State.setQueue_boot (q : Nat) (v : Queue) : (s.setQueue q v).boot = s.boot := by
  obtain ⟨_, _, _, h⟩ := s.setQueue_only q v
  rw [h] <;> rfl

@[simp] theorem State.setQueue_power (q : Nat) (v : Queue) : (s.setQueue q v).power = s.power := by
  obtain ⟨_, _, _, h⟩ := s.setQueue_only q v
  rw [h] <;> rfl

@[simp] theorem State.setQueue_testInstr (q : Nat) (v : Queue) : (s.setQueue q v).testInstr = s.testInstr := by
  obtain ⟨_, _, _, h⟩ := s.setQueue_only q v
  rw [h] <;> rfl

@[simp] theorem State.setQueue_testReset (q : Nat) (v : Queue) : (s.setQueue q v).testReset = s.testReset := by
  obtain ⟨_, _, _, h⟩ := s.setQueue_only q v
  rw [h] <;> rfl

@[simp] theorem State.setQueue_testOut (q : Nat) (v : Queue) : (s.setQueue q v).testOut = s.testOut := by
  obtain ⟨_, _, _, h⟩ := s.setQueue_only q v
  rw [h] <;> rfl

@[simp] theorem State.setQueue_ledger (q : Nat) (v : Queue) : (s.setQueue q v).ledger = s.ledger := by
  obtain ⟨_, _, _, h⟩ := s.setQueue_only q v
  rw [h] <;> rfl

@[simp] theorem State.setQueue_signals (q : Nat) (v : Queue) : (s.setQueue q v).signals = s.signals := by
  obtain ⟨_, _, _, h⟩ := s.setQueue_only q v
  rw [h] <;> rfl

@[simp] theorem State.setQueue_net (q : Nat) (v : Queue) : (s.setQueue q v).net = s.net := by
  obtain ⟨_, _, _, h⟩ := s.setQueue_only q v
  rw [h] <;> rfl

@[simp] theorem State.setQueue_mortar (q : Nat) (v : Queue) : (s.setQueue q v).mortar = s.mortar := by
  obtain ⟨_, _, _, h⟩ := s.setQueue_only q v
  rw [h] <;> rfl

@[simp] theorem State.setQueue_sched (q : Nat) (v : Queue) : (s.setQueue q v).sched = s.sched := by
  obtain ⟨_, _, _, h⟩ := s.setQueue_only q v
  rw [h] <;> rfl

@[simp] theorem State.setQueue_att (q : Nat) (v : Queue) : (s.setQueue q v).att = s.att := by
  obtain ⟨_, _, _, h⟩ := s.setQueue_only q v
  rw [h] <;> rfl

@[simp] theorem State.setQueue_weights (q : Nat) (v : Queue) : (s.setQueue q v).weights = s.weights := by
  obtain ⟨_, _, _, h⟩ := s.setQueue_only q v
  rw [h] <;> rfl

@[simp] theorem State.setQueue_early (q : Nat) (v : Queue) : (s.setQueue q v).early = s.early := by
  obtain ⟨_, _, _, h⟩ := s.setQueue_only q v
  rw [h] <;> rfl

@[simp] theorem State.setQueue_groups (q : Nat) (v : Queue) : (s.setQueue q v).groups = s.groups := by
  obtain ⟨_, _, _, h⟩ := s.setQueue_only q v
  rw [h] <;> rfl

@[simp] theorem State.setQueue_layout (q : Nat) (v : Queue) : (s.setQueue q v).layout = s.layout := by
  obtain ⟨_, _, _, h⟩ := s.setQueue_only q v
  rw [h] <;> rfl

@[simp] theorem State.setQueue_placement (q : Nat) (v : Queue) : (s.setQueue q v).placement = s.placement := by
  obtain ⟨_, _, _, h⟩ := s.setQueue_only q v
  rw [h] <;> rfl

@[simp] theorem State.setQueue_funcs (q : Nat) (v : Queue) : (s.setQueue q v).funcs = s.funcs := by
  obtain ⟨_, _, _, h⟩ := s.setQueue_only q v
  rw [h] <;> rfl

@[simp] theorem State.setQueue_marks (q : Nat) (v : Queue) : (s.setQueue q v).marks = s.marks := by
  obtain ⟨_, _, _, h⟩ := s.setQueue_only q v
  rw [h] <;> rfl

@[simp] theorem State.setQueue_pending (q : Nat) (v : Queue) : (s.setQueue q v).pending = s.pending := by
  obtain ⟨_, _, _, h⟩ := s.setQueue_only q v
  rw [h] <;> rfl

@[simp] theorem State.setQueue_queues (q : Nat) (v : Queue) :
    (s.setQueue q v).storage.queues = Tab.set (fun _ => {}) s.storage.queues q v := by
  obtain ⟨_, _, _, h⟩ := s.setQueue_only q v
  rw [h] <;> rfl

@[simp] theorem State.setQueue_pushes (q : Nat) (v : Queue) : (s.setQueue q v).storage.pushes = s.storage.pushes := by
  obtain ⟨_, _, _, h⟩ := s.setQueue_only q v
  rw [h] <;> rfl

end Sys2Proof.Machine
end

