-- ==== Sys2Proof/Laws/Table.lean ====
section
/-! SUPPORT. Laws of the sparse tables and of host memory: read after write, and that every write keeps the canonical form. -/

namespace Sys2Proof.Machine

variable {α : Type}

/-! ### Tables -/

theorem Tab.get_insert (d : Nat → α) (k : Nat) (v : α) (j : Nat) :
    ∀ t : Tab α, (∀ p ∈ t, p.1 ≠ k) → Tab.get d (Tab.insert k v t) j = if k = j then v else Tab.get d t j
  | [], _ => by simp [Tab.insert, Tab.get]
  | (a, x) :: t, h => by
    have ha : a ≠ k := h (a, x) (by simp)
    have ih := Tab.get_insert d k v j t (fun p hp => h p (by simp [hp]))
    unfold Tab.insert
    split
    · simp [Tab.get]
    · simp only [Tab.get, ih]
      by_cases h1 : a = j
      · subst h1; simp [Ne.symm ha]
      · simp [h1]

theorem Tab.get_erase (d : Nat → α) (k j : Nat) : ∀ t : Tab α, Tab.get d (Tab.erase t k) j = if k = j then d j else Tab.get d t j
  | [] => by simp [Tab.erase, Tab.get]
  | (a, x) :: t => by
    have ih := Tab.get_erase d k j t
    unfold Tab.erase at ih ⊢
    by_cases h : a = k
    · subst h
      simp only [List.filter_cons, bne_self_eq_false, Bool.false_eq_true, if_false, ih, Tab.get]
      split <;> simp_all
    · have hk : (a != k) = true := by simp [h]
      simp only [List.filter_cons, hk, if_true, Tab.get, ih]
      by_cases h1 : a = j
      · subst h1; simp [Ne.symm h]
      · simp [h1]

theorem Tab.mem_erase {t : Tab α} {k : Nat} {p : Nat × α} : p ∈ Tab.erase t k ↔ p ∈ t ∧ p.1 ≠ k := by
  simp [Tab.erase]

theorem Tab.get_set [DecidableEq α] (d : Nat → α) (t : Tab α) (k : Nat) (v : α) (j : Nat) :
    Tab.get d (Tab.set d t k v) j = if k = j then v else Tab.get d t j := by
  unfold Tab.set
  split
  · next hv => rw [Tab.get_erase]; split <;> simp_all
  · rw [Tab.get_insert d k v j _ (fun p hp => (Tab.mem_erase.1 hp).2), Tab.get_erase]
    split <;> rfl

theorem Tab.mem_insert {k : Nat} {v : α} {p : Nat × α} : ∀ {t : Tab α}, p ∈ Tab.insert k v t ↔ p = (k, v) ∨ p ∈ t
  | [] => by simp [Tab.insert]
  | (a, x) :: t => by
    unfold Tab.insert
    split
    · simp
    · simp only [List.mem_cons, Tab.mem_insert (t := t)]
      exact or_left_comm

theorem Tab.pairwise_insert {k : Nat} {v : α} :
    ∀ {t : Tab α}, t.Pairwise (fun a b => a.1 < b.1) → (∀ p ∈ t, p.1 ≠ k) → (Tab.insert k v t).Pairwise (fun a b => a.1 < b.1)
  | [], _, _ => by simp [Tab.insert]
  | (a, x) :: t, h, hk => by
    have hc := List.pairwise_cons.1 h
    unfold Tab.insert
    split
    · next hlt =>
      refine List.pairwise_cons.2 ⟨?_, h⟩
      intro p hp
      rcases List.mem_cons.1 hp with rfl | hp
      · exact hlt
      · exact Nat.lt_trans hlt (hc.1 p hp)
    · next hlt =>
      have hne : a ≠ k := hk (a, x) (by simp)
      refine List.pairwise_cons.2 ⟨?_, Tab.pairwise_insert hc.2 (fun p hp => hk p (by simp [hp]))⟩
      intro p hp
      rcases Tab.mem_insert.1 hp with rfl | hp
      · show a < k; omega
      · exact hc.1 p hp

/-- A write keeps the canonical form. -/
theorem Tab.wf_set [DecidableEq α] {d : Nat → α} {t : Tab α} (h : Tab.wf d t) (k : Nat) (v : α) : Tab.wf d (Tab.set d t k v) := by
  have he : (Tab.erase t k).Pairwise (fun a b => a.1 < b.1) := h.1.filter _
  have hd : ∀ p ∈ Tab.erase t k, p.2 ≠ d p.1 := fun p hp => h.2 p (Tab.mem_erase.1 hp).1
  unfold Tab.set
  split
  · exact ⟨he, hd⟩
  · next hv =>
    refine ⟨Tab.pairwise_insert he (fun p hp => (Tab.mem_erase.1 hp).2), ?_⟩
    intro p hp
    rcases Tab.mem_insert.1 hp with rfl | hp
    · exact hv
    · exact hd p hp

/-- Two canonical tables that read alike are equal data. -/
theorem Tab.wf_nil (d : Nat → α) : Tab.wf d ([] : Tab α) := ⟨List.Pairwise.nil, by simp⟩

/-! ### Host memory -/

theorem storeByte_wf {m : List Host.Cell} (h : Memory.wf m) (a : Nat) (v : Byte) : Memory.wf (storeByte m a v) := by
  unfold storeByte
  split
  · next ha =>
    refine ⟨Tab.wf_set h.1 a v, ?_⟩
    intro c hc
    unfold Tab.set at hc
    split at hc
    · exact h.2 c (Tab.mem_erase.1 hc).1
    · rcases Tab.mem_insert.1 hc with rfl | hc
      · exact ha
      · exact h.2 c (Tab.mem_erase.1 hc).1
  · exact h

theorem storeBytes_wf : ∀ (b : List Byte) {m : List Host.Cell} (_ : Memory.wf m) (a : Nat), Memory.wf (storeBytes m a b)
  | [], _, h, _ => h
  | x :: b, _, h, a => storeBytes_wf b (storeByte_wf h a x) (a + 1)

/-- A byte after a store of one byte. -/
theorem get_storeByte (m : List Host.Cell) (a : Nat) (v : Byte) (j : Nat) :
    Tab.get memDefault (storeByte m a v) j = if a = j ∧ a < hostTop then v else Tab.get memDefault m j := by
  unfold storeByte
  by_cases h : a < hostTop
  · simp [h, Tab.get_set]
  · simp [h]

/-- A store of bytes leaves every byte outside them. -/
theorem get_storeBytes_out : ∀ (b : List Byte) (m : List Host.Cell) (a j : Nat), (j < a ∨ a + b.length ≤ j) →
    Tab.get memDefault (storeBytes m a b) j = Tab.get memDefault m j
  | [], _, _, _, _ => rfl
  | x :: b, m, a, j, h => by
    simp only [List.length_cons] at h
    rw [storeBytes, get_storeBytes_out b _ (a + 1) j (by omega), get_storeByte]
    have : a ≠ j := by omega
    simp [this]

/-- A store of bytes below the top of the address space puts each of them in its place. -/
theorem get_storeBytes_in : ∀ (b : List Byte) (m : List Host.Cell) (a i : Nat) (_ : i < b.length), a + i < hostTop →
    Tab.get memDefault (storeBytes m a b) (a + i) = b.getD i 0
  | [], _, _, _, hi, _ => by simp at hi
  | x :: b, m, a, 0, _, ht => by
    rw [storeBytes, get_storeBytes_out b _ (a + 1) (a + 0) (by omega), get_storeByte]
    simp only [Nat.add_zero] at ht ⊢
    simp [ht]
  | x :: b, m, a, i + 1, hi, ht => by
    simp only [List.length_cons] at hi
    have := get_storeBytes_in b (storeByte m a x) (a + 1) i (by omega) (by omega)
    rw [storeBytes, show a + (i + 1) = a + 1 + i by omega, this]
    simp

variable {α : Type}

/-- Erasing what was inserted. -/
theorem Tab.erase_insert (k : Nat) (v : α) : ∀ t : Tab α, Tab.erase (Tab.insert k v t) k = Tab.erase t k
  | [] => by simp [Tab.insert, Tab.erase]
  | (k', v') :: t => by
    unfold Tab.insert; split
    · show List.filter _ _ = _; rw [List.filter_cons_of_neg (by simp)]; rfl
    · have := Tab.erase_insert k v t
      unfold Tab.erase at this ⊢
      rw [List.filter_cons, List.filter_cons, this]

/-- Erasing twice. -/
theorem Tab.erase_erase (k : Nat) (t : Tab α) : Tab.erase (Tab.erase t k) k = Tab.erase t k := by
  unfold Tab.erase; rw [List.filter_filter]; simp

/-- The later of two writes stands. -/
theorem Tab.set_set [DecidableEq α] (d : Nat → α) (t : Tab α) (k : Nat) (a b : α) : Tab.set d (Tab.set d t k a) k b = Tab.set d t k b := by
  have h : Tab.erase (Tab.set d t k a) k = Tab.erase t k := by
    unfold Tab.set; split
    · exact Tab.erase_erase _ _
    · rw [Tab.erase_insert, Tab.erase_erase]
  show (if b = d k then Tab.erase (Tab.set d t k a) k else Tab.insert k b (Tab.erase (Tab.set d t k a) k)) = _
  rw [h]; rfl

/-- A listed record after an insertion. -/
theorem Tab.get?_insert (k : Nat) (v : α) (j : Nat) : ∀ t : Tab α, (∀ p ∈ t, p.1 ≠ k) → Tab.get? (Tab.insert k v t) j = if k = j then some v else Tab.get? t j
  | [], _ => by simp [Tab.insert, Tab.get?]
  | (k', v') :: t, h => by
    unfold Tab.insert; split
    · rfl
    · have ih := Tab.get?_insert k v j t (fun p hp => h p (List.mem_cons_of_mem _ hp))
      have hne := h (k', v') (List.mem_cons_self ..)
      show (if k' = j then _ else _) = _
      by_cases hk : k = j
      · subst hk; rw [if_neg hne, ih]; simp
      · rw [ih, if_neg hk, if_neg hk]; rfl

/-- A listed record after an erasure. -/
theorem Tab.get?_erase (k j : Nat) : ∀ t : Tab α, Tab.get? (Tab.erase t k) j = if k = j then none else Tab.get? t j
  | [] => by simp [Tab.erase, Tab.get?]
  | (k', v') :: t => by
    have ih := Tab.get?_erase k j t
    unfold Tab.erase at ih ⊢
    by_cases h : k' = k
    · subst h; rw [List.filter_cons_of_neg (by simp), ih]; split
      · rfl
      · show _ = if k' = j then _ else _; rw [if_neg (by assumption)]
    · rw [List.filter_cons_of_pos (by simpa using h)]
      show (if k' = j then _ else _) = _
      rw [ih]; by_cases hk : k = j
      · subst hk; simp [h]
      · simp only [if_neg hk]; rfl

/-- A listed record after a write. -/
theorem Tab.get?_put (t : Tab α) (k : Nat) (v : α) (j : Nat) : Tab.get? (Tab.put t k v) j = if k = j then some v else Tab.get? t j := by
  unfold Tab.put; rw [Tab.get?_insert]
  · rw [Tab.get?_erase]; split <;> rfl
  · intro p hp; exact (Tab.mem_erase.1 hp).2

/-- A table whose every record is changed by a function that keeps the defaults. -/
theorem Tab.get_map {α : Type} (d : Nat → α) (f : α → α) (hf : ∀ k, f (d k) = d k) (t : Tab α) (k : Nat) :
    Tab.get d (t.map (fun p => (p.1, f p.2))) k = f (Tab.get d t k) := by
  induction t with
  | nil => exact (hf k).symm
  | cons p t ih => 
    show Tab.get d ((p.1, f p.2) :: _) k = f (Tab.get d ((p.1, p.2) :: t) k)
    unfold Tab.get; split
    · rfl
    · exact ih

end Sys2Proof.Machine
end

