-- ==== Sys2Proof/Laws/Raise.lean ====
section
/-! SUPPORT. Fires, arbitration and raises: which parts of the state they can change (R287, R377 to R382, R438 to R441). -/

namespace Sys2Proof.Machine

variable {s : State} {α : Type}

theorem State.each_nil {α : Type} (s : State) (f : State → α → State) : s.each [] f = s := rfl

theorem State.each_cons {α : Type} (s : State) (x : α) (l) (f : State → α → State) : s.each (x :: l) f = (f s x).each l f := rfl

theorem State.each_one {α : Type} (s : State) (x : α) (f : State → α → State) : s.each [x] f = f s x := rfl

/-- A walk in which no step changes anything. -/
theorem State.each_id {α : Type} (l : List α) (f : State → α → State) (s : State) (h : ∀ x ∈ l, f s x = s) : s.each l f = s := by
  induction l with
  | nil => rfl
  | cons a l ih => rw [State.each_cons, h a List.mem_cons_self]; exact ih (fun x hx => h x (List.mem_cons_of_mem _ hx))

/-- A walk in which one member alone acts. -/
theorem State.each_single {α : Type} (l : List α) (f : State → α → State) (s u : State) (a : α) (ha : a ∈ l) (hn : l.Nodup) (h : ∀ x ∈ l, x ≠ a → f s x = s) (h2 : ∀ x ∈ l, x ≠ a → f u x = u) (hu : f s a = u) : s.each l f = u := by
  induction l with
  | nil => cases ha
  | cons b l ih =>
    rw [State.each_cons]
    rw [List.nodup_cons] at hn
    by_cases hb : b = a
    · subst hb; rw [hu]; exact State.each_id _ _ _ (fun x hx => h2 x (List.mem_cons_of_mem _ hx) (fun e => hn.1 (e ▸ hx)))
    · rw [h b List.mem_cons_self hb]
      rcases List.mem_cons.1 ha with e | e
      · exact absurd e.symm hb
      · exact ih e hn.2 (fun x hx => h x (List.mem_cons_of_mem _ hx)) (fun x hx => h2 x (List.mem_cons_of_mem _ hx))

/-- A counter after another has counted. -/
theorem State.ctr_bump (s : State) (c n k) : (s.bump c n).ctr k = if c = k then s.ctr c + n else s.ctr k := by
  show Tab.get (fun _ => 0) (Tab.set (fun _ => 0) s.counters c _) k = _; rw [Tab.get_set]; rfl

theorem State.target_setTarget (s : State) (t v k) : (s.setTarget t v).target k = if t = k then v else s.target k := Tab.get_set _ _ _ _ _

theorem State.source_setSource (s : State) (t v k) : (s.setSource t v).source k = if t = k then v else s.source k := Tab.get_set _ _ _ _ _

theorem State.setTarget_frame (s : State) (t v) : s.setTarget t v = { s with signals := { s.signals with targets := Tab.set (fun _ => {}) s.signals.targets t v } } := rfl

/-- Arbitration leaves the state or sets what one target presents. -/
theorem State.arbitrate_cases (s : State) (t : Nat) : s.arbitrate t = s ∨ ∃ p, s.arbitrate t = s.present t p := by
  unfold State.arbitrate; dsimp only
  split
  · exact .inr ⟨_, rfl⟩
  · split
    · exact .inl rfl
    · split
      · exact .inr ⟨_, rfl⟩
      · split
        · exact .inr ⟨_, rfl⟩
        · split
          · exact .inr ⟨_, rfl⟩
          · split <;> exact .inr ⟨_, rfl⟩

/-- Arbitration changes targets alone. -/
theorem State.arbitrate_frame (s : State) (t : Nat) : s.arbitrate t = { s with signals := { s.signals with targets := (s.arbitrate t).signals.targets } } := by
  rcases s.arbitrate_cases t with h | ⟨p, h⟩ <;> rw [h] <;> rfl

theorem State.each_arbitrate_frame (l : List Nat) (s : State) : s.each l State.arbitrate = { s with signals := { s.signals with targets := (s.each l State.arbitrate).signals.targets } } := by
  induction l generalizing s with
  | nil => rfl
  | cons t l ih => show (s.arbitrate t).each l State.arbitrate = { s with signals := { s.signals with targets := ((s.arbitrate t).each l State.arbitrate).signals.targets } }
                   rw [ih, s.arbitrate_frame t]

/-- No other target changes. -/
theorem State.arbitrate_target_other (s : State) {t k : Nat} (h : k ≠ t) : (s.arbitrate t).target k = s.target k := by
  rcases s.arbitrate_cases t with h' | ⟨p, h'⟩ <;> rw [h']
  rw [State.present.eq_def, State.target_setTarget, if_neg (Ne.symm h)]

/-- A target keeps its stack. -/
theorem State.arbitrate_target (s : State) (t : Nat) : (s.arbitrate t).target t =
    { s.target t with presented := ((s.arbitrate t).target t).presented, addr := ((s.arbitrate t).target t).addr } := by
  rcases s.arbitrate_cases t with h' | ⟨p, h'⟩ <;> rw [h']
  rw [State.present.eq_def, State.target_setTarget, if_pos rfl]

/-- No source changes. -/
theorem State.arbitrate_source (s : State) (t n : Nat) : (s.arbitrate t).source n = s.source n := by rw [State.arbitrate_frame]; rfl

theorem State.arbitrate_signals (s : State) (n : Nat) : s.arbitrate n = { s with signals := (s.arbitrate n).signals } := by
  rcases s.arbitrate_cases n with h | ⟨p, h⟩ <;> rw [h] <;> rfl

def fired (s : State) (n : Nat) : Source := if (s.source n).pending then (s.source n).count1 else
      let b := if (s.source n).isOpen then (s.source n).count1 else (s.source n).start s.tb (s.srcCoalTb n)
      if s.srcCoalCount n ≤ b.count.toNat then { b with isOpen := false, pending := true } else b

theorem State.fireBatch_cases (s : State) (n : Nat) : s.fireBatch n = s.setSource n (fired s n) ∨ ∃ b, s.fireBatch n = (s.setSource n b).setSource n (fired s n) := by
  unfold State.fireBatch fired; dsimp only
  by_cases h : (s.source n).pending = true
  · left; rw [if_pos h, if_pos h]
  · rw [if_neg h, if_neg h]
    generalize (if (s.source n).isOpen = true then (s.source n).count1 else _) = b
    have e3 (v) : (s.setSource n v).srcCoalCount n = s.srcCoalCount n := rfl
    rw [e3]
    by_cases h2 : s.srcCoalCount n ≤ b.count.toNat
    · right; rw [if_pos h2, if_pos h2]; refine ⟨b, ?_⟩; unfold State.closeBatch; dsimp only; rw [State.source_setSource, if_pos rfl]
    · left; rw [if_neg h2, if_neg h2]

theorem State.fireBatch_frame (s : State) (n : Nat) : s.fireBatch n = { s with signals := (s.fireBatch n).signals } := by
  rcases State.fireBatch_cases s n with h | ⟨b, h⟩ <;> rw [h] <;> rfl

/-- A fire changes the signal unit and its counters. -/
theorem State.fire_rest (s : State) (n : Nat) : s.fire n = { s with signals := (s.fire n).signals, counters := (s.fire n).counters } := by
  unfold State.fire; split
  · rw [State.arbitrate_signals, State.fireBatch_frame]; rfl
  · rfl

/-- What the held state changes. -/
theorem State.hold_rest (s : State) (c) : s.hold c = { s with boot := (s.hold c).boot, ledger := (s.hold c).ledger, signals := (s.hold c).signals, net := (s.hold c).net, mortar := (s.hold c).mortar } := rfl

theorem State.offer_rest (s : State) (r) : s.offer r = { s with boot := (s.offer r).boot, ledger := (s.offer r).ledger, signals := (s.offer r).signals, net := (s.offer r).net, mortar := (s.offer r).mortar, counters := (s.offer r).counters } := by
  unfold State.offer; dsimp only; split
  · rfl
  · split <;> rfl

/-- What a record and its source change. -/
theorem State.note_rest (s : State) (c w) : s.note c w = { s with boot := (s.note c w).boot, ledger := (s.note c w).ledger, signals := (s.note c w).signals, net := (s.note c w).net, mortar := (s.note c w).mortar, counters := (s.note c w).counters } := by
  unfold State.note; dsimp only; split
  · rw [State.fire_rest]; rw [State.offer_rest]
  · exact State.offer_rest _ _

/-- What a raise can change; host memory, registers, stores, layout and port stand. -/
theorem State.raise_rest (s : State) (c w) : s.raise c w = { s with sched := (s.raise c w).sched, boot := (s.raise c w).boot, ledger := (s.raise c w).ledger, signals := (s.raise c w).signals, net := (s.raise c w).net, mortar := (s.raise c w).mortar, counters := (s.raise c w).counters } := by
  unfold State.raise; dsimp only
  split
  · split <;> (rw [State.note_rest])
  · split
    · unfold State.modOpen; split <;> (rw [State.note_rest]; try rfl)
    · rw [State.note_rest]

theorem State.fire_ctr (s : State) (n k) (h : 0x21790 < k) : (s.fire n).ctr k = s.ctr k := by
  unfold State.fire; split
  · have : ∀ u : State, (u.fireBatch n).ctr k = u.ctr k := fun u => by rw [State.fireBatch_frame]; rfl
    rw [State.arbitrate_signals]
    exact (this _).trans (by rw [State.ctr_bump, if_neg (by omega)])
  · rw [State.ctr_bump, if_neg (by omega)]

theorem State.offer_ctr (s : State) (r k) (h : 0x21790 < k) : (s.offer r).ctr k = s.ctr k := by
  have hc := r.code.isLt
  have hs := r.sev.isLt
  have e : ((s.bump (codeCount r.code)).bump (0x20100 + 8 * r.sev.toNat)).ctr k = s.ctr k := by
    rw [State.ctr_bump, if_neg (by omega), State.ctr_bump, if_neg (by unfold codeCount; omega)]
  have g : ∀ l : Ledger, (({ (s.bump (codeCount r.code)).bump (0x20100 + 8 * r.sev.toNat) with ledger := l } : State).bump 0x20130).ctr k = s.ctr k :=
    fun l => (State.ctr_bump _ _ _ _).trans ((if_neg (by omega)).trans e)
  unfold State.offer; dsimp only; split
  · exact e
  · split
    · exact g _
    · exact g _

/-- A raise counts in the ledger's and the signal unit's counters, none above them. -/
theorem State.raise_ctr (s : State) (c w k) (h : 0x21790 < k) : (s.raise c w).ctr k = s.ctr k := by
  have hn : (s.note c w).ctr k = s.ctr k := by
    unfold State.note; dsimp only; split
    · rw [State.fire_ctr _ _ _ h, State.offer_ctr _ _ _ h]
    · exact State.offer_ctr _ _ _ h
  unfold State.raise; dsimp only; split
  · split <;> exact hn
  · split
    · unfold State.modOpen; split <;> exact hn
    · exact hn

@[simp] theorem State.raise_storage (s : State) (c w) : (s.raise c w).storage = s.storage := by rw [State.raise_rest]

@[simp] theorem State.raise_layout (s : State) (c w) : (s.raise c w).layout = s.layout := by rw [State.raise_rest]

@[simp] theorem State.raise_port (s : State) (c w) : (s.raise c w).port = s.port := by rw [State.raise_rest]

@[simp] theorem State.raise_power (s : State) (c w) : (s.raise c w).power = s.power := by rw [State.raise_rest]

@[simp] theorem State.raise_effect (s : State) (c w) : (s.raise c w).effect = s.effect := by rw [State.raise_rest]

@[simp] theorem State.raise_regs (s : State) (c w) : (s.raise c w).regs = s.regs := by rw [State.raise_rest]

theorem State.fire_mortar (s : State) (n) : (s.fire n).mortar = s.mortar := by rw [State.fire_rest]

theorem State.fire_power (s : State) (n) : (s.fire n).power = s.power := by rw [State.fire_rest]

theorem State.fire_boot (s : State) (n) : (s.fire n).boot = s.boot := by rw [State.fire_rest]

theorem State.offer_bar (s : State) (r) : (s.offer r).mortar.bar = s.mortar.bar := by
  unfold State.offer; dsimp only; split
  · rfl
  · split <;> rfl

theorem State.note_bar (s : State) (r w) : (s.note r w).mortar.bar = s.mortar.bar := by
  unfold State.note; dsimp only; split
  · rw [State.fire_mortar, State.offer_bar]
  · rw [State.offer_bar]

theorem State.offer_pairs (s : State) (r) : (s.offer r).net.pairs = s.net.pairs := by
  unfold State.offer; dsimp only; split
  · rfl
  · split <;> rfl

theorem State.note_pairs (s : State) (r w) : (s.note r w).net.pairs = s.net.pairs := by
  unfold State.note; dsimp only; split
  · rw [State.fire_rest]; exact State.offer_pairs _ _
  · exact State.offer_pairs _ _

/-- A raise leaves the transport's pairs as they are. -/
theorem State.raise_pairs (s : State) (r w) : (s.raise r w).net.pairs = s.net.pairs := by
  unfold State.raise; dsimp only; split
  · split <;> exact State.note_pairs _ _ _
  · split
    · unfold State.modOpen; split <;> exact State.note_pairs _ _ _
    · exact State.note_pairs _ _ _

/-- A raise leaves the barrier as it is. -/
theorem State.raise_bar (s : State) (r w) : (s.raise r w).mortar.bar = s.mortar.bar := by
  unfold State.raise; dsimp only; split
  · split <;> exact State.note_bar _ _ _
  · split
    · unfold State.modOpen; split <;> exact State.note_bar _ _ _
    · exact State.note_bar _ _ _

end Sys2Proof.Machine
end

