-- ==== Sys2Proof/Laws/Port.lean ====
section
/-! SUPPORT. Requests that are served at once: which part of the window takes a write, and windows of pools and queues after a write. -/

namespace Sys2Proof.Machine

variable {s : State} {α : Type}

/-- A request of a block that serves at once is what the block does for it. -/
theorem exec_serves (hs : s.servesNow) (c : Instr) (hc : isRequest c = true) : exec c s = .next (s.newTag.serve c) := by
  have e (i) := State.request_serves hs i
  cases c <;> simp [isRequest] at hc <;> exact congrArg Host.Outcome.next (e _)

/-- A doorbell of a block that serves at once rings. -/
theorem exec_bell (hs : s.servesNow) (c : Instr) {b} (hc : bellOf c = some b) (h : ∀ z v, b ≠ .signal z v) : exec c s = .next (s.newTag.ringKept b).ok.close := by
  have e (i b) := State.bell_serves hs i b
  cases c <;> simp [bellOf] at hc <;> subst hc <;> first | exact congrArg (fun t => Host.Outcome.next (State.close t)) (e _ _) | exact absurd rfl (h _ _)

theorem exec_signalDoorbell (hs : s.servesNow) (z v) : exec (.signalDoorbell z v) s = .next (s.newTag.ringSignal z v).ok := congrArg Host.Outcome.next (State.bell_serves hs _ _)

/-- An aligned write below the windows that stand apart goes to a register word. -/
theorem State.portWrite_reg (s : State) (off size v : Nat) (ha : off % 2 ^ size = 0) (h2 : 2 ≤ size) (h6 : size ≤ 6) (hl : off < 0x40000)
    (hn : ¬ (0xC800 ≤ off ∧ off < 0xCA00)) (hd : ¬ (0xD008 ≤ off ∧ off < 0xD018)) : s.portWrite off size v = (s.writeReg off size v).ok := by
  unfold State.portWrite
  rw [if_neg (by omega), if_neg (by omega), if_neg (by omega), if_neg hn, if_neg (by omega), if_neg (by omega), if_neg (by omega), if_neg hd, if_pos hl]

/-- A write of Q_CONFIG or FLUSH is answered, then applied: a stalled read that it ends returns after it. -/
theorem State.portWrite_queue (s : State) (off size v : Nat) (ha : off % 2 ^ size = 0) (h2 : 2 ≤ size) (h6 : size ≤ 6)
    (hd : 0xD008 ≤ off ∧ off < 0xD018) : s.portWrite off size v = s.ok.writeReg off size v := by
  unfold State.portWrite
  iterate 7 rw [if_neg (by omega)]
  exact if_pos hd

/-- A 4-byte write of a lower half. -/
theorem State.write4_low (s : State) (off : Nat) (v : BitVec 32) (h8 : off % 8 = 0) (hl : off < 0x40000) (hn : ¬ (0xC800 ≤ off ∧ off < 0xCA00)) (hd : ¬ (0xD008 ≤ off ∧ off < 0xD018)) :
   s.write4 off v = (s.writeWord off v.toNat (2^32-1)).ok := by
  unfold State.write4
  rw [State.portWrite_reg s off 2 _ (by omega) (by omega) (by omega) hl hn hd]
  unfold State.writeReg
  dsimp only
  rw [if_neg (by omega), if_pos rfl, h8, field_word, show off / 8 * 8 = off by omega]; simp

/-- A 4-byte write of an upper half. -/
theorem State.write4_high (s : State) (off : Nat) (v : BitVec 32) (h8 : off % 8 = 0) (hl : off < 0x40000) (hn : ¬ (0xC800 ≤ off ∧ off < 0xCA00)) (hd : ¬ (0xD008 ≤ off ∧ off < 0xD018)) :
   s.write4 (off + 4) v = (s.writeWord off (v.toNat * 2^32) ((2^32-1)*2^32)).ok := by
  unfold State.write4
  rw [State.portWrite_reg s (off+4) 2 _ (by omega) (by omega) (by omega) (by omega) (by omega) (by omega)]
  unfold State.writeReg
  dsimp only
  rw [if_neg (by omega), if_pos rfl, show (off+4) % 8 * 8 = 32 by omega, field_word, show (off+4) / 8 * 8 = off by omega]

theorem State.poolClass_set (s : State) (p c p' c') (v) : (s.setPoolClass p c v).poolClass p' c' = if 8*p+c = 8*p'+c' then v else s.poolClass p' c' := Tab.get_set _ _ _ _ _

theorem State.takeBuffer_classes (s : State) (p c r i) : s.takeBuffer p c r i = { (s.takeBuffer p c r i) with storage := { s.storage with classes := Tab.set (fun _ => {}) s.storage.classes (8*p+c) { s.poolClass p c with used := Tab.put (s.poolClass p c).used i r, peak := max (s.poolClass p c).peak ((s.poolClass p c).used.length + 1) } } } := by
  have key : ∀ (l : List Nat) (u : State) (n : Nat), (u.each l (fun s l => if l = n then (s.bump 0x21710).raise Code.poolWatermark { unit := 13 } else s)).storage = u.storage := by
    intro l; induction l with
    | nil => intro u n; rfl
    | cons a l ih => intro u n; rw [State.each_cons, ih]; split
                     · rw [State.raise_storage]; rfl
                     · rfl
  have : (s.takeBuffer p c r i).storage = { s.storage with classes := Tab.set (fun _ => {}) s.storage.classes (8*p+c) { s.poolClass p c with used := Tab.put (s.poolClass p c).used i r, peak := max (s.poolClass p c).peak ((s.poolClass p c).used.length + 1) } } := by
    unfold State.takeBuffer; dsimp only; rw [key]; rfl
  rw [← this]

/-- A class after a buffer is taken. -/
theorem State.takeBuffer_class (s : State) (p c r i p' c') : (s.takeBuffer p c r i).poolClass p' c' = if 8*p+c = 8*p'+c' then { s.poolClass p c with used := Tab.put (s.poolClass p c).used i r, peak := max (s.poolClass p c).peak ((s.poolClass p c).used.length + 1) } else s.poolClass p' c' := by
  rw [State.takeBuffer_classes]; exact Tab.get_set _ _ _ _ _

theorem State.push_set (s : State) (c d v) : (s.setPush c v).push d = if c = d then v else s.push d := Tab.get_set _ _ _ _ _

theorem State.setPush_twice (s : State) (c a b) : (s.setPush c a).setPush c b = s.setPush c b := by
  unfold State.setPush; dsimp only; rw [Tab.set_set]

theorem State.queue_set (s : State) (c d v) : (s.setQueue c v).queue d = if c = d then v else s.queue d := by
  unfold State.queue; rw [State.setQueue_queues]; exact Tab.get_set _ _ _ _ _

theorem State.putQueue_twice (s : State) (c a b) : (s.putQueue c a).putQueue c b = s.putQueue c b := by
  unfold State.putQueue; dsimp only; rw [Tab.set_set]

theorem State.raiseOnce_storage (s : State) (c w) : (s.raiseOnce c w).storage = s.storage := by
  unfold State.raiseOnce
  split
  · rfl
  · rw [State.raise_storage]; unfold State.mark; split <;> rfl

/-- A new or a dropped item, and bytes for an open one, leave the push windows as they are. -/
@[simp] theorem State.setQueue_push (s : State) (q v c) : (s.setQueue q v).push c = s.push c := by unfold State.push; rw [State.setQueue_pushes]

@[simp] theorem State.placeItem_push (s : State) (q p n d c) : (s.placeItem q p n d).push c = s.push c := State.setQueue_push _ _ _ _

@[simp] theorem State.dropItem_push (s : State) (q p l c) : (s.dropItem q p l).push c = s.push c := by
  have e : (s.dropItem q p l).storage = (s.setQueue q { (s.queue q).addGap p with drops := (s.queue q).drops + 1 }).storage := by
    unfold State.dropItem
    dsimp only
    split
    · rfl
    · split
      · rw [State.raise_storage, State.raiseOnce_storage]; rfl
      · rw [State.raiseOnce_storage]; rfl
  unfold State.push
  rw [e, State.setQueue_pushes]

/-- A read that meets no wrong word answers what the cache holds. -/
@[simp] theorem State.readCache_nil (s : State) (n : Nat) : s.readCache n [] = s := by unfold State.readCache; split <;> rfl

/-- A request that completes with no read stalled. -/
theorem State.poolDone_plain (s : State) (c : Fin 16) (st : BitVec 2) (h : Nat) (hs : (s.poolWindow c).stalled = []) :
   s.poolDone c st h = s.setPoolWindow c { s.poolWindow c with done := true, status := st, handle := BitVec.ofNat 32 h, waiting := false } := by
  unfold State.poolDone; dsimp only; rw [hs]; rfl

/-- A write that leaves nothing held. -/
theorem State.writePush_one (c : Nat) (w) (u : State) (h : s.pushWrite c w = u) (hh : (u.push c).held = []) : s.writePush c w = u.ok := by
  unfold State.writePush; dsimp only; rw [h, hh]; rfl

end Sys2Proof.Machine
end

