-- ==== Sys2Proof/Laws/Frames.lean ====
section
/-! SUPPORT. Frames received: a good one in sequence reaches its unit in `afterFrame` (R249, R255, R257, R352). -/

namespace Sys2Proof.Machine

variable {s : State} {α : Type}

theorem advanceCum_none : ∀ n (k : PairVc), k.rmap = 0 → advanceCum n k = k
  | 0, k, h => rfl
  | n+1, k, h => by unfold advanceCum; rw [h]; simp

/-- What being in service says. -/
theorem State.inService_all (h : s.inService = true) : s.boot.powered = true ∧ s.held = false ∧ s.boot.ready = true ∧ s.power.state = .run := by
  simp [State.inService, State.awake] at h; exact ⟨h.2.1.1, h.2.1.2, h.1, h.2.2⟩

/-- A frame that meets the tests on the wire and finds room meets the checks of the transport, and lies in its buffer while its unit takes it. -/
theorem State.receive_eq {h p} (hs : s.inService = true) (hf : h.fcsErr = false) (hw : s.wireOk h = true) (he : s.portEnable h.port.val = true)
    (hg : frameGood s h p = true) (f : State → State)
    (hq : s.overQuota (inboundNeeds h.vc p).1 (inboundNeeds h.vc p).2.2 = false)
    (hr : s.hasRoom 0 (inboundNeeds h.vc p).2.2 (inboundNeeds h.vc p).1 (inboundNeeds h.vc p).2.1 = true) :
   s.receive h p f = match s.receiveFrame h p with
     | (t, true) => (f (t.stageFrame h p)).closeRx
     | (t, false) => t := by
  obtain ⟨a, b, c, d⟩ := State.inService_all hs
  unfold State.receive
  dsimp only
  rw [if_neg (by simp [a, b, c, hf, hw, he]), if_neg (by simp [d]), if_neg (by simp [hg]), if_neg (by simp [hq]), if_pos hr] <;> rfl

/-- What a payload that passed the checks does in the transport. -/
def passesTo (r : State) (h : FrameHdr) : Payload → State × Bool
  | .ack => (r, true)
  | .sync _ => (r, true)
  | _ => r.sequence h

/-- A frame that passes R249 and R257: its acknowledgement first, then its sequence. -/
theorem State.receiveFrame_good {h p} (h3 : frameGood s h p = true) (h4 : (s.tb + 2 ^ 32 - h.tstamp.toNat) % 2 ^ 32 < 2 ^ 31) (h5 : (s.tb + 2 ^ 32 - h.tstamp.toNat) % 2 ^ 32 ≤ s.frameLife)
   (h6 : (h.ackValid && s.ackUndefined h.src h.ackVc h.ackSeq) = false) :
   s.receiveFrame h p = passesTo (if h.ackValid then s.acknowledge h.src h.ackVc h.ackSeq h.sack else s) h p := by
  have hA : (s.tb + 2 ^ 32 - h.tstamp.toNat) % 2 ^ 32 ≠ 2 ^ 31 := Nat.ne_of_lt h4
  have hB : ¬ ((decide ((s.tb + 2 ^ 32 - h.tstamp.toNat) % 2 ^ 32 < 2 ^ 31) && decide (s.frameLife < (s.tb + 2 ^ 32 - h.tstamp.toNat) % 2 ^ 32)) || (decide (2 ^ 31 < (s.tb + 2 ^ 32 - h.tstamp.toNat) % 2 ^ 32) && decide (1250 < 2 ^ 32 - (s.tb + 2 ^ 32 - h.tstamp.toNat) % 2 ^ 32))) = true := by
    rw [decide_eq_false (Nat.not_lt.2 h5), decide_eq_false (Nat.not_lt.2 (Nat.le_of_lt h4))]; simp
  cases p <;> (show (if (!(frameGood s h _)) = true then _ else if _ then _ else if _ then _ else if _ then _ else _) = _; rw [if_neg (by rw [h3]; decide), if_neg hA, if_neg hB, if_neg (by rw [h6]; decide)]; rfl)

/-- The pair after the next frame in sequence: the next number is expected, an acknowledgement is due (R255, R256). -/
def State.inOrder (s : State) (h : FrameHdr) : State :=
  let k := s.pair (pairKey h.src h.vc)
  (s.setPair (pairKey h.src h.vc)
    { k with cum := k.cum + 1, ackDue := k.ackDue + 1, ackSince := if k.ackDue = 0 then s.tb else k.ackSince }).bump 0x21508

/-- A watermark changes no sequencer and no pair of the transport. -/
theorem State.raise_watermark_rest (s : State) (w) :
    (s.raise Code.poolWatermark w).sched = s.sched ∧ (s.raise Code.poolWatermark w).net.pairs = s.net.pairs := by
  refine ⟨?_, State.raise_pairs _ _ _⟩
  have h1 : abortKind Code.poolWatermark = false := by decide
  have h2 : voteKind Code.poolWatermark = false := by decide
  unfold State.raise; dsimp only; rw [h1, h2, if_neg (by simp), if_neg (by simp), State.note_rest] <;> rfl

/-- Nor does a buffer taken. -/
theorem State.takeBuffer_rest (s : State) (pool cls r i : Nat) :
    (s.takeBuffer pool cls r i).sched = s.sched ∧ (s.takeBuffer pool cls r i).net.pairs = s.net.pairs := by
  have key : ∀ (l : List Nat) (u : State) (n : Nat),
      let t := u.each l (fun s l => if l = n then (s.bump 0x21710).raise Code.poolWatermark { unit := 13 } else s)
      t.sched = u.sched ∧ t.net.pairs = u.net.pairs := by
    intro l
    induction l with
    | nil => intro u n; exact ⟨rfl, rfl⟩
    | cons a l ih =>
      intro u n
      dsimp only
      rw [State.each_cons, (ih _ _).1, (ih _ _).2]
      split
      · exact ⟨(State.raise_watermark_rest _ _).1, (State.raise_watermark_rest _ _).2⟩
      · exact ⟨rfl, rfl⟩
  unfold State.takeBuffer; dsimp only; rw [(key _ _ _).1, (key _ _ _).2]; exact ⟨rfl, rfl⟩

/-- A frame that found room is staged, and no sequencer and no transport state changes. -/
theorem State.stageFrame_rest (h p) (hq : s.overQuota (inboundNeeds h.vc p).1 (inboundNeeds h.vc p).2.2 = false) :
    (s.stageFrame h p).sched = s.sched ∧ (s.stageFrame h p).net.pairs = s.net.pairs := by
  unfold State.stageFrame State.requestBuffer; dsimp only
  unfold State.overQuota at hq
  rw [if_neg (of_decide_eq_false hq)]
  generalize (if s.heldBack 0 _ _ = true then none else s.freeIndex 0 _ _ : Option Nat) = o
  cases o with
  | none => exact ⟨rfl, rfl⟩
  | some i => exact ⟨(State.takeBuffer_rest _ _ _ _ _).1, (State.takeBuffer_rest s _ _ _ _).2⟩

theorem State.stageFrame_sched (h p) (hq : s.overQuota (inboundNeeds h.vc p).1 (inboundNeeds h.vc p).2.2 = false) :
    (s.stageFrame h p).sched = s.sched := (State.stageFrame_rest h p hq).1

/-- A good ACK or SYNC is handled in a buffer, with no place in the sequence (R256, R260). -/
theorem State.receive_bare {h p} (hc : s.frameComes h p) (hr : s.roomFor h p) (ha : (h.ackValid && s.ackUndefined h.src h.ackVc h.ackSeq) = false)
    (f : State → State) (hp : ∀ r, passesTo r h p = (r, true)) :
    s.receive h p f = (f ((if h.ackValid then s.acknowledge h.src h.ackVc h.ackSeq h.sack else s).stageFrame h p)).closeRx := by
  obtain ⟨c1, c2, c3, c4, c5, c6, c7⟩ := hc
  rw [State.receive_eq c1 c2 c4 c5 c3 f hr.1 hr.2, State.receiveFrame_good c3 c6 c7 ha, hp]

/-- A frame for which the reserve has no buffer is discarded and counted (R352). -/
theorem State.receive_noRoom {h p} (hc : s.frameComes h p) (hr : s.noRoomFor h p) (f : State → State) : s.receive h p f = s.bump 0x21728 := by
  obtain ⟨c1, c2, c3, c4, c5, c6, c7⟩ := hc
  obtain ⟨a, b, c, d⟩ := State.inService_all c1
  obtain ⟨r1, r2, r3⟩ := hr
  unfold State.receive
  dsimp only
  rw [if_neg (by simp [a, b, c, c2, c4, c5]), if_neg (by simp [d]), if_neg (by simp [c3]), if_neg (by simp [r2]), if_neg (by simp [r3]), if_pos r1]

/-- The next frame in sequence is accepted. -/
theorem State.receive_seq {h p} (hc : s.frameComes h p) (f : State → State) (hq : s.inSequence h p) (hp : ∀ r, passesTo r h p = r.sequence h) :
   s.receive h p f = (f (s.afterFrame h p)).closeRx := by
  obtain ⟨q1, q2, q3, q4, q5, q6⟩ := hq
  obtain ⟨c1, c2, c3, c4, c5, c6, c7⟩ := hc
  rw [State.receive_eq c1 c2 c4 c5 c3 f q5 q6, State.receiveFrame_good c3 c6 c7 (by rw [q4]; rfl)]
  have hz : s.sequence h = (s.inOrder h, true) := by
    unfold State.sequence; dsimp only
    have hd : (h.seq - (s.pair (pairKey h.src h.vc)).cum).toNat = 0 := by rw [q1]; simp
    rw [hd, if_neg (by decide), if_neg (by rw [q2]; simp), if_neg (by decide)]
    have ha : advanceCum 256 { s.pair (pairKey h.src h.vc) with rmap := (s.pair (pairKey h.src h.vc)).rmap ||| (BitVec.ofNat 256 (2 ^ 0)) } = { s.pair (pairKey h.src h.vc) with cum := (s.pair (pairKey h.src h.vc)).cum + 1 } := by
      rw [q2]
      show advanceCum (255+1) _ = _
      unfold advanceCum; dsimp only
      rw [if_pos (by decide), advanceCum_none]
      · have : ((0 : BitVec 256) ||| BitVec.ofNat 256 (2^0)) >>> 1 = 0 := by decide
        rw [this, ← q2]
      · show ((0 : BitVec 256) ||| BitVec.ofNat 256 (2^0)) >>> 1 = 0; decide
    rw [ha]; dsimp only
    rw [if_neg (by exact Nat.not_le.2 q3)]
    rfl
  have hz' : (if h.ackValid = true then s.acknowledge h.src h.ackVc h.ackSeq h.sack else s).sequence h = (s.inOrder h, true) := by rw [if_neg (by rw [q4]; decide)]; exact hz
  rw [hp, hz'] <;> rfl

end Sys2Proof.Machine
end

