-- ==== Sys2Proof/Laws/Keeps.lean ====
section
/-! SUPPORT. What every operation of the block keeps: the queue of commands, the test port's instruction, the canonical form of host
memory, and (unless it writes registers) the RW registers. One lemma per operation, in the files Laws/Keeps<Module>; each says that an
operation after s keeps what s has kept. -/

namespace Sys2Proof.Machine

/-- From s₀ to s the queue, the test instruction and the canonical form of memory are kept; with `r`, the RW registers too. -/
structure Keeps (r : Bool) (s₀ s : State) : Prop where
  queue : s.pending = s₀.pending
  test  : s.testInstr = s₀.testInstr
  regs  : r = true → s.regs = s₀.regs
  mem   : Memory.wf s₀.mem → Memory.wf s.mem

theorem Keeps.refl (r : Bool) (s : State) : Keeps r s s := ⟨rfl, rfl, fun _ => rfl, id⟩

theorem Keeps.weaken {r : Bool} {s₀ s : State} (h : Keeps true s₀ s) : Keeps r s₀ s := ⟨h.1, h.2, fun _ => h.3 rfl, h.4⟩

theorem Keeps.ite {r : Bool} {s₀ a b : State} {c : Prop} [Decidable c] (ha : Keeps r s₀ a) (hb : Keeps r s₀ b) :
    Keeps r s₀ (if c then a else b) := by split <;> assumption

/-- An operation that answers something beside the state. -/
def Keeps.Pair {α : Type} (r : Bool) (s₀ : State) (p : State × α) : Prop := Keeps r s₀ p.1

theorem Keeps.Pair.pair {α : Type} {r : Bool} {s₀ a : State} {x : α} (h : Keeps r s₀ a) : Keeps.Pair r s₀ (a, x) := h

theorem Keeps.Pair.ite {α : Type} {r : Bool} {s₀ : State} {a b : State × α} {c : Prop} [Decidable c] (ha : Keeps.Pair r s₀ a)
    (hb : Keeps.Pair r s₀ b) : Keeps.Pair r s₀ (if c then a else b) := by split <;> assumption

theorem Keeps.Pair.out {α : Type} {r : Bool} {s₀ t : State} {p : State × α} {x : α} (h : Keeps.Pair r s₀ p) (e : p = (t, x)) :
    Keeps r s₀ t := by rw [e] at h; exact h

theorem Keeps.Pair.fst {α : Type} {r : Bool} {s₀ : State} {p : State × α} (h : Keeps.Pair r s₀ p) : Keeps r s₀ p.1 := h

/-- An operation that may refuse to go on. -/
structure Keeps.Opt (r : Bool) (s₀ : State) (o : Option State) : Prop where
  keeps : ∀ t, o = some t → Keeps r s₀ t

theorem Keeps.Opt.some {r : Bool} {s₀ a : State} (h : Keeps r s₀ a) : Keeps.Opt r s₀ (some a) :=
  ⟨fun t e => by cases e; exact h⟩

theorem Keeps.Opt.none {r : Bool} {s₀ : State} : Keeps.Opt r s₀ none := ⟨fun _ e => by cases e⟩

theorem Keeps.Opt.ite {r : Bool} {s₀ : State} {a b : Option State} {c : Prop} [Decidable c] (ha : Keeps.Opt r s₀ a)
    (hb : Keeps.Opt r s₀ b) : Keeps.Opt r s₀ (if c then a else b) := by split <;> assumption

theorem Keeps.Opt.map {r : Bool} {s₀ : State} {a : Option State} {f : State → State} (ha : Keeps.Opt r s₀ a)
    (hf : ∀ v, Keeps r s₀ v → Keeps r s₀ (f v)) : Keeps.Opt r s₀ (a.map f) := by
  refine ⟨fun t e => ?_⟩
  obtain ⟨v, hv, rfl⟩ := Option.map_eq_some_iff.1 e
  exact hf v (ha.keeps v hv)

theorem Keeps.Opt.out {r : Bool} {s₀ t : State} {o : Option State} (h : Keeps.Opt r s₀ o) (e : o = Option.some t) : Keeps r s₀ t :=
  h.keeps t e

/-- A record update of the other fields. -/
theorem Keeps.cons {r : Bool} {s₀ s : State} (h : Keeps r s₀ s)
    (effect : Tab (BitVec 64)) (counters : Tab Nat) (port : PortAnswer) (late : List PortAnswer) (hostOut : List HostCtx) (boot : Boot) (power : Power) (testReset : Bool) (testOut : BitVec 64) (ledger : Ledger) (signals : SignalUnit) (storage : Storage) (net : Transport) (mortar : Mortar) (sched : Schedule) (att : Attempt) (weights : WeightBuffer) (early : List EarlyItem) (groups : Tab (List MemberId)) (layout : Layout) (placement : Tab Placement) (funcs : FuncStore) (marks : List Nat) (freeCtr : Nat) :
    Keeps r s₀ ⟨s.regs, effect, counters, s.mem, port, late, hostOut, boot, power, s.testInstr, testReset, testOut, ledger, signals, storage, net, mortar, sched, att, weights, early, groups, layout, placement, funcs, marks, freeCtr, s.pending⟩ := ⟨h.1, h.2, h.3, h.4⟩

theorem Keeps.each {α : Type} {r : Bool} {s₀ : State} {f : State → α → State} (hf : ∀ v, Keeps r s₀ v → ∀ x, Keeps r s₀ (f v x)) :
    ∀ (l : List α) (s : State), Keeps r s₀ s → Keeps r s₀ (s.each l f)
  | [], _, h => h
  | x :: l, s, h => Keeps.each hf l (f s x) (hf s h x)

theorem Keeps.write {r : Bool} {s₀ s : State} (h : Keeps r s₀ s) (a : Nat) (b : List Byte) : Keeps r s₀ (s.write a b) :=
  ⟨h.1, h.2, h.3, fun m => storeBytes_wf b (h.4 m) a⟩

theorem Keeps.writeLe {r : Bool} {s₀ s : State} (h : Keeps r s₀ s) (a n v : Nat) : Keeps r s₀ (s.writeLe a n v) := h.write a _

theorem Keeps.setWord {s₀ s : State} (h : Keeps false s₀ s) (k : Nat) (v : BitVec 64) : Keeps false s₀ (s.setWord k v) :=
  ⟨h.1, h.2, (fun e => by cases e), h.4⟩

end Sys2Proof.Machine
end

