-- ==== Sys2Proof/Laws/KeepsOps.lean ====
section
/-! SUPPORT. What the operations of Machine/Ops.lean keep (`Keeps`). -/

set_option Elab.async false

namespace Sys2Proof.Machine

theorem State.applyWords_keeps {w₀ : Bool} {s₀ s : State} (hk : Keeps w₀ s₀ s) (lo hi : Nat) :
    Keeps w₀ s₀ (State.applyWords s lo hi) := by
  unfold State.applyWords
  repeat' first
    | with_reducible assumption
    | with_reducible apply Keeps.each
    | with_reducible apply Keeps.ite
    | intro _
    | (with_reducible apply Keeps.cons; first | with_reducible assumption | with_reducible apply Keeps.each | with_reducible apply Keeps.ite)
    | split
    | dsimp only

theorem State.bump_keeps {w₀ : Bool} {s₀ s : State} (hk : Keeps w₀ s₀ s) (c : Nat) (n : Nat) :
    Keeps w₀ s₀ (State.bump s c n) := by
  unfold State.bump
  repeat' first
    | with_reducible assumption
    | with_reducible apply Keeps.each
    | with_reducible apply Keeps.ite
    | intro _
    | (with_reducible apply Keeps.cons; first | with_reducible assumption | with_reducible apply Keeps.each | with_reducible apply Keeps.ite)
    | split
    | dsimp only

theorem State.answer_keeps {w₀ : Bool} {s₀ s : State} (hk : Keeps w₀ s₀ s) (data : Nat) :
    Keeps w₀ s₀ (State.answer s data) := by
  unfold State.answer
  repeat' first
    | with_reducible assumption
    | with_reducible apply Keeps.each
    | with_reducible apply Keeps.ite
    | intro _
    | (with_reducible apply Keeps.cons; first | with_reducible assumption | with_reducible apply Keeps.each | with_reducible apply Keeps.ite)
    | split
    | dsimp only

theorem State.ok_keeps {w₀ : Bool} {s₀ s : State} (hk : Keeps w₀ s₀ s) :
    Keeps w₀ s₀ (State.ok s) := by
  unfold State.ok
  repeat' first
    | with_reducible assumption
    | with_reducible apply State.answer_keeps
    | with_reducible apply Keeps.each
    | with_reducible apply Keeps.ite
    | intro _
    | (with_reducible apply Keeps.cons; first | with_reducible assumption | with_reducible apply State.answer_keeps | with_reducible apply Keeps.each | with_reducible apply Keeps.ite)
    | split
    | dsimp only

theorem State.notReady_keeps {w₀ : Bool} {s₀ s : State} (hk : Keeps w₀ s₀ s) :
    Keeps w₀ s₀ (State.notReady s) := by
  unfold State.notReady
  repeat' first
    | with_reducible assumption
    | with_reducible apply Keeps.each
    | with_reducible apply Keeps.ite
    | intro _
    | (with_reducible apply Keeps.cons; first | with_reducible assumption | with_reducible apply Keeps.each | with_reducible apply Keeps.ite)
    | split
    | dsimp only

theorem State.stall_keeps {w₀ : Bool} {s₀ s : State} (hk : Keeps w₀ s₀ s) :
    Keeps w₀ s₀ (State.stall s) := by
  unfold State.stall
  repeat' first
    | with_reducible assumption
    | with_reducible apply Keeps.each
    | with_reducible apply Keeps.ite
    | intro _
    | (with_reducible apply Keeps.cons; first | with_reducible assumption | with_reducible apply Keeps.each | with_reducible apply Keeps.ite)
    | split
    | dsimp only

theorem State.newTag_keeps {w₀ : Bool} {s₀ s : State} (hk : Keeps w₀ s₀ s) :
    Keeps w₀ s₀ (State.newTag s) := by
  unfold State.newTag
  repeat' first
    | with_reducible assumption
    | with_reducible apply Keeps.each
    | with_reducible apply Keeps.ite
    | intro _
    | (with_reducible apply Keeps.cons; first | with_reducible assumption | with_reducible apply Keeps.each | with_reducible apply Keeps.ite)
    | split
    | dsimp only

theorem State.lateAnswer_keeps {w₀ : Bool} {s₀ s : State} (hk : Keeps w₀ s₀ s) (tag data : Nat) :
    Keeps w₀ s₀ (State.lateAnswer s tag data) := by
  unfold State.lateAnswer
  repeat' first
    | with_reducible assumption
    | with_reducible apply Keeps.each
    | with_reducible apply Keeps.ite
    | intro _
    | (with_reducible apply Keeps.cons; first | with_reducible assumption | with_reducible apply Keeps.each | with_reducible apply Keeps.ite)
    | split
    | dsimp only

theorem State.setTb_keeps {w₀ : Bool} {s₀ s : State} (hk : Keeps w₀ s₀ s) (t : Nat) :
    Keeps w₀ s₀ (State.setTb s t) := by
  unfold State.setTb
  repeat' first
    | with_reducible assumption
    | with_reducible apply Keeps.each
    | with_reducible apply Keeps.ite
    | intro _
    | (with_reducible apply Keeps.cons; first | with_reducible assumption | with_reducible apply Keeps.each | with_reducible apply Keeps.ite)
    | split
    | dsimp only

theorem State.pass_keeps {w₀ : Bool} {s₀ s : State} (hk : Keeps w₀ s₀ s) (n : Nat) :
    Keeps w₀ s₀ (State.pass s n) := by
  unfold State.pass
  repeat' first
    | with_reducible assumption
    | with_reducible apply State.setTb_keeps
    | with_reducible apply State.bump_keeps
    | with_reducible apply Keeps.each
    | with_reducible apply Keeps.ite
    | intro _
    | (with_reducible apply Keeps.cons; first | with_reducible assumption | with_reducible apply State.setTb_keeps | with_reducible apply State.bump_keeps | with_reducible apply Keeps.each | with_reducible apply Keeps.ite)
    | split
    | dsimp only

theorem State.until_keeps {w₀ : Bool} {s₀ s : State} (hk : Keeps w₀ s₀ s) (t : Nat) :
    Keeps w₀ s₀ (State.until s t) := by
  unfold State.until
  repeat' first
    | with_reducible assumption
    | with_reducible apply State.pass_keeps
    | with_reducible apply Keeps.each
    | with_reducible apply Keeps.ite
    | intro _
    | (with_reducible apply Keeps.cons; first | with_reducible assumption | with_reducible apply State.pass_keeps | with_reducible apply Keeps.each | with_reducible apply Keeps.ite)
    | split
    | dsimp only

theorem State.useFree_keeps {w₀ : Bool} {s₀ s : State} (hk : Keeps w₀ s₀ s) :
    Keeps w₀ s₀ (State.useFree s) := by
  unfold State.useFree
  repeat' first
    | with_reducible assumption
    | with_reducible apply Keeps.each
    | with_reducible apply Keeps.ite
    | intro _
    | (with_reducible apply Keeps.cons; first | with_reducible assumption | with_reducible apply Keeps.each | with_reducible apply Keeps.ite)
    | split
    | dsimp only

theorem State.mark_keeps {w₀ : Bool} {s₀ s : State} (hk : Keeps w₀ s₀ s) (m : Nat) :
    Keeps w₀ s₀ (State.mark s m) := by
  unfold State.mark
  repeat' first
    | with_reducible assumption
    | with_reducible apply Keeps.each
    | with_reducible apply Keeps.ite
    | intro _
    | (with_reducible apply Keeps.cons; first | with_reducible assumption | with_reducible apply Keeps.each | with_reducible apply Keeps.ite)
    | split
    | dsimp only

theorem State.setProg_keeps {w₀ : Bool} {s₀ s : State} (hk : Keeps w₀ s₀ s) (p : Fin 16) (v : Program) :
    Keeps w₀ s₀ (State.setProg s p v) := by
  unfold State.setProg
  repeat' first
    | with_reducible assumption
    | with_reducible apply Keeps.each
    | with_reducible apply Keeps.ite
    | intro _
    | (with_reducible apply Keeps.cons; first | with_reducible assumption | with_reducible apply Keeps.each | with_reducible apply Keeps.ite)
    | split
    | dsimp only

theorem State.hostIssue_keeps {w₀ : Bool} {s₀ s : State} (hk : Keeps w₀ s₀ s) (c : HostCtx) :
    Keeps w₀ s₀ (State.hostIssue s c) := by
  unfold State.hostIssue
  repeat' first
    | with_reducible assumption
    | with_reducible apply Keeps.each
    | with_reducible apply Keeps.ite
    | intro _
    | (with_reducible apply Keeps.cons; first | with_reducible assumption | with_reducible apply Keeps.each | with_reducible apply Keeps.ite)
    | split
    | dsimp only

theorem State.hostAnswered_keeps {w₀ : Bool} {s₀ s : State} (hk : Keeps w₀ s₀ s) (c : HostCtx) :
    Keeps w₀ s₀ (State.hostAnswered s c) := by
  unfold State.hostAnswered
  repeat' first
    | with_reducible assumption
    | with_reducible apply Keeps.each
    | with_reducible apply Keeps.ite
    | intro _
    | (with_reducible apply Keeps.cons; first | with_reducible assumption | with_reducible apply Keeps.each | with_reducible apply Keeps.ite)
    | split
    | dsimp only

end Sys2Proof.Machine
end

