-- ==== Sys2Proof/Laws/KeepsSignal.lean ====
section
/-! SUPPORT. What the operations of Machine/Signal.lean keep (`Keeps`). -/

set_option Elab.async false

namespace Sys2Proof.Machine

theorem State.setSource_keeps {w₀ : Bool} {s₀ s : State} (hk : Keeps w₀ s₀ s) (n : Nat) (v : Source) :
    Keeps w₀ s₀ (State.setSource s n v) := by
  unfold State.setSource
  repeat' first
    | with_reducible assumption
    | with_reducible apply Keeps.each
    | with_reducible apply Keeps.ite
    | intro _
    | (with_reducible apply Keeps.cons; first | with_reducible assumption | with_reducible apply Keeps.each | with_reducible apply Keeps.ite)
    | split
    | dsimp only

theorem State.setTarget_keeps {w₀ : Bool} {s₀ s : State} (hk : Keeps w₀ s₀ s) (t : Nat) (v : Target) :
    Keeps w₀ s₀ (State.setTarget s t v) := by
  unfold State.setTarget
  repeat' first
    | with_reducible assumption
    | with_reducible apply Keeps.each
    | with_reducible apply Keeps.ite
    | intro _
    | (with_reducible apply Keeps.cons; first | with_reducible assumption | with_reducible apply Keeps.each | with_reducible apply Keeps.ite)
    | split
    | dsimp only

theorem State.present_keeps {w₀ : Bool} {s₀ s : State} (hk : Keeps w₀ s₀ s) (t : Nat) (p : Option Nat) :
    Keeps w₀ s₀ (State.present s t p) := by
  unfold State.present
  repeat' first
    | with_reducible assumption
    | with_reducible apply State.setTarget_keeps
    | with_reducible apply Keeps.each
    | with_reducible apply Keeps.ite
    | intro _
    | (with_reducible apply Keeps.cons; first | with_reducible assumption | with_reducible apply State.setTarget_keeps | with_reducible apply Keeps.each | with_reducible apply Keeps.ite)
    | split
    | dsimp only

theorem State.arbitrate_keeps {w₀ : Bool} {s₀ s : State} (hk : Keeps w₀ s₀ s) (t : Nat) :
    Keeps w₀ s₀ (State.arbitrate s t) := by
  unfold State.arbitrate
  repeat' first
    | with_reducible assumption
    | with_reducible apply State.present_keeps
    | with_reducible apply Keeps.each
    | with_reducible apply Keeps.ite
    | intro _
    | (with_reducible apply Keeps.cons; first | with_reducible assumption | with_reducible apply State.present_keeps | with_reducible apply Keeps.each | with_reducible apply Keeps.ite)
    | split
    | dsimp only

theorem State.arbitrateAll_keeps {w₀ : Bool} {s₀ s : State} (hk : Keeps w₀ s₀ s) :
    Keeps w₀ s₀ (State.arbitrateAll s) := by
  unfold State.arbitrateAll
  repeat' first
    | with_reducible assumption
    | with_reducible apply State.arbitrate_keeps
    | with_reducible apply Keeps.each
    | with_reducible apply Keeps.ite
    | intro _
    | (with_reducible apply Keeps.cons; first | with_reducible assumption | with_reducible apply State.arbitrate_keeps | with_reducible apply Keeps.each | with_reducible apply Keeps.ite)
    | split
    | dsimp only

theorem State.closeBatch_keeps {w₀ : Bool} {s₀ s : State} (hk : Keeps w₀ s₀ s) (n : Nat) :
    Keeps w₀ s₀ (State.closeBatch s n) := by
  unfold State.closeBatch
  repeat' first
    | with_reducible assumption
    | with_reducible apply State.setSource_keeps
    | with_reducible apply Keeps.each
    | with_reducible apply Keeps.ite
    | intro _
    | (with_reducible apply Keeps.cons; first | with_reducible assumption | with_reducible apply State.setSource_keeps | with_reducible apply Keeps.each | with_reducible apply Keeps.ite)
    | split
    | dsimp only

theorem State.batchExpiry_keeps {w₀ : Bool} {s₀ s : State} (hk : Keeps w₀ s₀ s) (n : Nat) :
    Keeps w₀ s₀ (State.batchExpiry s n) := by
  unfold State.batchExpiry
  repeat' first
    | with_reducible assumption
    | with_reducible apply State.until_keeps
    | with_reducible apply State.closeBatch_keeps
    | with_reducible apply State.arbitrate_keeps
    | with_reducible apply Keeps.each
    | with_reducible apply Keeps.ite
    | intro _
    | (with_reducible apply Keeps.cons; first | with_reducible assumption | with_reducible apply State.until_keeps | with_reducible apply State.closeBatch_keeps | with_reducible apply State.arbitrate_keeps | with_reducible apply Keeps.each | with_reducible apply Keeps.ite)
    | split
    | dsimp only

theorem State.fireBatch_keeps {w₀ : Bool} {s₀ s : State} (hk : Keeps w₀ s₀ s) (n : Nat) :
    Keeps w₀ s₀ (State.fireBatch s n) := by
  unfold State.fireBatch
  repeat' first
    | with_reducible assumption
    | with_reducible apply State.setSource_keeps
    | with_reducible apply State.closeBatch_keeps
    | with_reducible apply Keeps.each
    | with_reducible apply Keeps.ite
    | intro _
    | (with_reducible apply Keeps.cons; first | with_reducible assumption | with_reducible apply State.setSource_keeps | with_reducible apply State.closeBatch_keeps | with_reducible apply Keeps.each | with_reducible apply Keeps.ite)
    | split
    | dsimp only

theorem State.fire_keeps {w₀ : Bool} {s₀ s : State} (hk : Keeps w₀ s₀ s) (n : Nat) :
    Keeps w₀ s₀ (State.fire s n) := by
  unfold State.fire
  repeat' first
    | with_reducible assumption
    | with_reducible apply State.bump_keeps
    | with_reducible apply State.fireBatch_keeps
    | with_reducible apply State.arbitrate_keeps
    | with_reducible apply Keeps.each
    | with_reducible apply Keeps.ite
    | intro _
    | (with_reducible apply Keeps.cons; first | with_reducible assumption | with_reducible apply State.bump_keeps | with_reducible apply State.fireBatch_keeps | with_reducible apply State.arbitrate_keeps | with_reducible apply Keeps.each | with_reducible apply Keeps.ite)
    | split
    | dsimp only

theorem State.dropBatch_keeps {w₀ : Bool} {s₀ s : State} (hk : Keeps w₀ s₀ s) (n : Nat) :
    Keeps w₀ s₀ (State.dropBatch s n) := by
  unfold State.dropBatch
  repeat' first
    | with_reducible assumption
    | with_reducible apply State.setSource_keeps
    | with_reducible apply Keeps.each
    | with_reducible apply Keeps.ite
    | intro _
    | (with_reducible apply Keeps.cons; first | with_reducible assumption | with_reducible apply State.setSource_keeps | with_reducible apply Keeps.each | with_reducible apply Keeps.ite)
    | split
    | dsimp only

theorem State.configureSource_keeps {s₀ s : State} (hk : Keeps false s₀ s) (n : Nat) (v : BitVec 64) :
    Keeps false s₀ (State.configureSource s n v) := by
  unfold State.configureSource
  repeat' first
    | with_reducible assumption
    | with_reducible apply State.setTarget_keeps
    | with_reducible apply State.dropBatch_keeps
    | with_reducible apply Keeps.setWord
    | with_reducible apply State.closeBatch_keeps
    | with_reducible apply State.arbitrate_keeps
    | with_reducible apply Keeps.each
    | with_reducible apply Keeps.ite
    | intro _
    | (with_reducible apply Keeps.cons; first | with_reducible assumption | with_reducible apply State.setTarget_keeps | with_reducible apply State.dropBatch_keeps | with_reducible apply Keeps.setWord | with_reducible apply State.closeBatch_keeps | with_reducible apply State.arbitrate_keeps | with_reducible apply Keeps.each | with_reducible apply Keeps.ite)
    | split
    | dsimp only

theorem State.setPending_keeps {w₀ : Bool} {s₀ s : State} (hk : Keeps w₀ s₀ s) (n : Nat) :
    Keeps w₀ s₀ (State.setPending s n) := by
  unfold State.setPending
  repeat' first
    | with_reducible assumption
    | with_reducible apply State.bump_keeps
    | with_reducible apply State.fireBatch_keeps
    | with_reducible apply State.closeBatch_keeps
    | with_reducible apply State.arbitrate_keeps
    | with_reducible apply Keeps.each
    | with_reducible apply Keeps.ite
    | intro _
    | (with_reducible apply Keeps.cons; first | with_reducible assumption | with_reducible apply State.bump_keeps | with_reducible apply State.fireBatch_keeps | with_reducible apply State.closeBatch_keeps | with_reducible apply State.arbitrate_keeps | with_reducible apply Keeps.each | with_reducible apply Keeps.ite)
    | split
    | dsimp only

theorem State.clearPending_keeps {w₀ : Bool} {s₀ s : State} (hk : Keeps w₀ s₀ s) (n : Nat) :
    Keeps w₀ s₀ (State.clearPending s n) := by
  unfold State.clearPending
  repeat' first
    | with_reducible assumption
    | with_reducible apply State.dropBatch_keeps
    | with_reducible apply State.arbitrate_keeps
    | with_reducible apply Keeps.each
    | with_reducible apply Keeps.ite
    | intro _
    | (with_reducible apply Keeps.cons; first | with_reducible assumption | with_reducible apply State.dropBatch_keeps | with_reducible apply State.arbitrate_keeps | with_reducible apply Keeps.each | with_reducible apply Keeps.ite)
    | split
    | dsimp only

theorem State.endInterrupt_keeps {w₀ : Bool} {s₀ s : State} (hk : Keeps w₀ s₀ s) (t n : Nat) :
    Keeps w₀ s₀ (State.endInterrupt s t n) := by
  unfold State.endInterrupt
  repeat' first
    | with_reducible assumption
    | with_reducible apply State.setTarget_keeps
    | with_reducible apply State.arbitrate_keeps
    | with_reducible apply State.bump_keeps
    | with_reducible apply Keeps.each
    | with_reducible apply Keeps.ite
    | intro _
    | (with_reducible apply Keeps.cons; first | with_reducible assumption | with_reducible apply State.setTarget_keeps | with_reducible apply State.arbitrate_keeps | with_reducible apply State.bump_keeps | with_reducible apply Keeps.each | with_reducible apply Keeps.ite)
    | split
    | dsimp only

theorem State.accept_keeps {w₀ : Bool} {s₀ s : State} (hk : Keeps w₀ s₀ s) (t : Nat) :
    Keeps w₀ s₀ (State.accept s t) := by
  unfold State.accept
  repeat' first
    | with_reducible assumption
    | with_reducible apply State.bump_keeps
    | with_reducible apply State.setTarget_keeps
    | with_reducible apply State.dropBatch_keeps
    | with_reducible apply State.arbitrate_keeps
    | with_reducible apply Keeps.each
    | with_reducible apply Keeps.ite
    | intro _
    | (with_reducible apply Keeps.cons; first | with_reducible assumption | with_reducible apply State.bump_keeps | with_reducible apply State.setTarget_keeps | with_reducible apply State.dropBatch_keeps | with_reducible apply State.arbitrate_keeps | with_reducible apply Keeps.each | with_reducible apply Keeps.ite)
    | split
    | dsimp only

theorem State.ringSignal_keeps {w₀ : Bool} {s₀ s : State} (hk : Keeps w₀ s₀ s) (size : BitVec 3) (v : BitVec 32) :
    Keeps w₀ s₀ (State.ringSignal s size v) := by
  unfold State.ringSignal
  repeat' first
    | with_reducible assumption
    | with_reducible apply State.fire_keeps
    | with_reducible apply State.bump_keeps
    | with_reducible apply Keeps.each
    | with_reducible apply Keeps.ite
    | intro _
    | (with_reducible apply Keeps.cons; first | with_reducible assumption | with_reducible apply State.fire_keeps | with_reducible apply State.bump_keeps | with_reducible apply Keeps.each | with_reducible apply Keeps.ite)
    | split
    | dsimp only

end Sys2Proof.Machine
end

