-- ==== Sys2Proof/Laws/KeepsFlags.lean ====
section
/-! SUPPORT. What the operations of Machine/Flags.lean keep (`Keeps`). -/

set_option Elab.async false

namespace Sys2Proof.Machine

theorem State.modSeq_keeps {w₀ : Bool} {s₀ s : State} (hk : Keeps w₀ s₀ s) (q : Nat) (f : Sequencer → Sequencer) :
    Keeps w₀ s₀ (State.modSeq s q f) := by
  unfold State.modSeq
  repeat' first
    | with_reducible assumption
    | with_reducible apply Keeps.each
    | with_reducible apply Keeps.ite
    | intro _
    | (with_reducible apply Keeps.cons; first | with_reducible assumption | with_reducible apply Keeps.each | with_reducible apply Keeps.ite)
    | split
    | dsimp only

theorem State.modOpen_keeps {w₀ : Bool} {s₀ s : State} (hk : Keeps w₀ s₀ s) (f : Sequencer → Sequencer) :
    Keeps w₀ s₀ (State.modOpen s f) := by
  unfold State.modOpen
  repeat' first
    | with_reducible assumption
    | with_reducible apply State.modSeq_keeps
    | with_reducible apply Keeps.each
    | with_reducible apply Keeps.ite
    | intro _
    | (with_reducible apply Keeps.cons; first | with_reducible assumption | with_reducible apply State.modSeq_keeps | with_reducible apply Keeps.each | with_reducible apply Keeps.ite)
    | split
    | dsimp only

theorem State.hold_keeps {w₀ : Bool} {s₀ s : State} (hk : Keeps w₀ s₀ s) (code : BitVec 8) :
    Keeps w₀ s₀ (State.hold s code) := by
  unfold State.hold
  repeat' first
    | with_reducible assumption
    | with_reducible apply Keeps.each
    | with_reducible apply Keeps.ite
    | intro _
    | (with_reducible apply Keeps.cons; first | with_reducible assumption | with_reducible apply Keeps.each | with_reducible apply Keeps.ite)
    | split
    | dsimp only

theorem State.offer_keeps {w₀ : Bool} {s₀ s : State} (hk : Keeps w₀ s₀ s) (r : LedgerRec) :
    Keeps w₀ s₀ (State.offer s r) := by
  unfold State.offer
  repeat' first
    | with_reducible assumption
    | with_reducible apply State.bump_keeps
    | with_reducible apply State.hold_keeps
    | with_reducible apply Keeps.each
    | with_reducible apply Keeps.ite
    | intro _
    | (with_reducible apply Keeps.cons; first | with_reducible assumption | with_reducible apply State.bump_keeps | with_reducible apply State.hold_keeps | with_reducible apply Keeps.each | with_reducible apply Keeps.ite)
    | split
    | dsimp only

theorem State.note_keeps {w₀ : Bool} {s₀ s : State} (hk : Keeps w₀ s₀ s) (code : BitVec 8) (w : Where) :
    Keeps w₀ s₀ (State.note s code w) := by
  unfold State.note
  repeat' first
    | with_reducible assumption
    | with_reducible apply State.offer_keeps
    | with_reducible apply State.fire_keeps
    | with_reducible apply Keeps.each
    | with_reducible apply Keeps.ite
    | intro _
    | (with_reducible apply Keeps.cons; first | with_reducible assumption | with_reducible apply State.offer_keeps | with_reducible apply State.fire_keeps | with_reducible apply Keeps.each | with_reducible apply Keeps.ite)
    | split
    | dsimp only

theorem State.raise_keeps {w₀ : Bool} {s₀ s : State} (hk : Keeps w₀ s₀ s) (code : BitVec 8) (w : Where) :
    Keeps w₀ s₀ (State.raise s code w) := by
  unfold State.raise
  repeat' first
    | with_reducible assumption
    | with_reducible apply State.note_keeps
    | with_reducible apply State.modOpen_keeps
    | with_reducible apply Keeps.each
    | with_reducible apply Keeps.ite
    | intro _
    | (with_reducible apply Keeps.cons; first | with_reducible assumption | with_reducible apply State.note_keeps | with_reducible apply State.modOpen_keeps | with_reducible apply Keeps.each | with_reducible apply Keeps.ite)
    | split
    | dsimp only

theorem State.foundWord_keeps {w₀ : Bool} {s₀ s : State} (hk : Keeps w₀ s₀ s) (store unit : Nat) (f : ReadFind) (chunk : Option Nat) :
    Keeps w₀ s₀ (State.foundWord s store unit f chunk) := by
  unfold State.foundWord
  repeat' first
    | with_reducible assumption
    | with_reducible apply State.raise_keeps
    | with_reducible apply Keeps.each
    | with_reducible apply Keeps.ite
    | intro _
    | (with_reducible apply Keeps.cons; first | with_reducible assumption | with_reducible apply State.raise_keeps | with_reducible apply Keeps.each | with_reducible apply Keeps.ite)
    | split
    | dsimp only

theorem State.foundWords_keeps {w₀ : Bool} {s₀ s : State} (hk : Keeps w₀ s₀ s) (store unit : Nat) (finds : List ReadFind) (chunk : Option Nat) :
    Keeps w₀ s₀ (State.foundWords s store unit finds chunk) := by
  unfold State.foundWords
  repeat' first
    | with_reducible assumption
    | with_reducible apply State.foundWord_keeps
    | with_reducible apply Keeps.each
    | with_reducible apply Keeps.ite
    | intro _
    | (with_reducible apply Keeps.cons; first | with_reducible assumption | with_reducible apply State.foundWord_keeps | with_reducible apply Keeps.each | with_reducible apply Keeps.ite)
    | split
    | dsimp only

theorem State.raiseOnce_keeps {w₀ : Bool} {s₀ s : State} (hk : Keeps w₀ s₀ s) (code : BitVec 8) (w : Where) :
    Keeps w₀ s₀ (State.raiseOnce s code w) := by
  unfold State.raiseOnce
  repeat' first
    | with_reducible assumption
    | with_reducible apply State.mark_keeps
    | with_reducible apply State.raise_keeps
    | with_reducible apply Keeps.each
    | with_reducible apply Keeps.ite
    | intro _
    | (with_reducible apply Keeps.cons; first | with_reducible assumption | with_reducible apply State.mark_keeps | with_reducible apply State.raise_keeps | with_reducible apply Keeps.each | with_reducible apply Keeps.ite)
    | split
    | dsimp only

theorem State.countStay_keeps {w₀ : Bool} {s₀ s : State} (hk : Keeps w₀ s₀ s) :
    Keeps w₀ s₀ (State.countStay s) := by
  unfold State.countStay
  repeat' first
    | with_reducible assumption
    | with_reducible apply State.bump_keeps
    | with_reducible apply State.useFree_keeps
    | with_reducible apply Keeps.each
    | with_reducible apply Keeps.ite
    | intro _
    | (with_reducible apply Keeps.cons; first | with_reducible assumption | with_reducible apply State.bump_keeps | with_reducible apply State.useFree_keeps | with_reducible apply Keeps.each | with_reducible apply Keeps.ite)
    | split
    | dsimp only

theorem State.noteDroop_keeps {w₀ : Bool} {s₀ s : State} (hk : Keeps w₀ s₀ s) :
    Keeps w₀ s₀ (State.noteDroop s) := by
  unfold State.noteDroop
  repeat' first
    | with_reducible assumption
    | with_reducible apply State.raiseOnce_keeps
    | with_reducible apply Keeps.each
    | with_reducible apply Keeps.ite
    | intro _
    | (with_reducible apply Keeps.cons; first | with_reducible assumption | with_reducible apply State.raiseOnce_keeps | with_reducible apply Keeps.each | with_reducible apply Keeps.ite)
    | split
    | dsimp only

theorem State.stretchAgain_keeps {w₀ : Bool} {s₀ s : State} (hk : Keeps w₀ s₀ s) :
    Keeps w₀ s₀ (State.stretchAgain s) := by
  unfold State.stretchAgain
  repeat' first
    | with_reducible assumption
    | with_reducible apply State.noteDroop_keeps
    | with_reducible apply Keeps.each
    | with_reducible apply Keeps.ite
    | intro _
    | (with_reducible apply Keeps.cons; first | with_reducible assumption | with_reducible apply State.noteDroop_keeps | with_reducible apply Keeps.each | with_reducible apply Keeps.ite)
    | split
    | dsimp only

theorem State.newInterval_keeps {w₀ : Bool} {s₀ s : State} (hk : Keeps w₀ s₀ s) :
    Keeps w₀ s₀ (State.newInterval s) := by
  unfold State.newInterval
  repeat' first
    | with_reducible assumption
    | with_reducible apply State.noteDroop_keeps
    | with_reducible apply Keeps.each
    | with_reducible apply Keeps.ite
    | intro _
    | (with_reducible apply Keeps.cons; first | with_reducible assumption | with_reducible apply State.noteDroop_keeps | with_reducible apply Keeps.each | with_reducible apply Keeps.ite)
    | split
    | dsimp only

end Sys2Proof.Machine
end

