-- ==== Sys2Proof/Laws/KeepsPools.lean ====
section
/-! SUPPORT. What the operations of Machine/Pools.lean keep (`Keeps`). -/

set_option Elab.async false

namespace Sys2Proof.Machine

theorem State.setPoolClass_keeps {w₀ : Bool} {s₀ s : State} (hk : Keeps w₀ s₀ s) (pool cls : Nat) (v : PoolClass) :
    Keeps w₀ s₀ (State.setPoolClass s pool cls v) := by
  unfold State.setPoolClass
  repeat' first
    | with_reducible assumption
    | with_reducible apply Keeps.each
    | with_reducible apply Keeps.ite
    | intro _
    | (with_reducible apply Keeps.cons; first | with_reducible assumption | with_reducible apply Keeps.each | with_reducible apply Keeps.ite)
    | split
    | dsimp only

theorem State.takeBuffer_keeps {w₀ : Bool} {s₀ s : State} (hk : Keeps w₀ s₀ s) (pool cls r i : Nat) :
    Keeps w₀ s₀ (State.takeBuffer s pool cls r i) := by
  unfold State.takeBuffer
  repeat' first
    | with_reducible assumption
    | with_reducible apply State.setPoolClass_keeps
    | with_reducible apply State.bump_keeps
    | with_reducible apply State.raise_keeps
    | with_reducible apply Keeps.each
    | with_reducible apply Keeps.ite
    | intro _
    | (with_reducible apply Keeps.cons; first | with_reducible assumption | with_reducible apply State.setPoolClass_keeps | with_reducible apply State.bump_keeps | with_reducible apply State.raise_keeps | with_reducible apply Keeps.each | with_reducible apply Keeps.ite)
    | split
    | dsimp only

theorem State.requestBuffer_all {w₀ : Bool} {s₀ s : State} (hk : Keeps w₀ s₀ s) (pool size r level : Nat) (nowait : Bool) (window : Option (Fin 16)) (job : Option PoolJob) :
    Keeps.Pair w₀ s₀ (State.requestBuffer s pool size r level nowait window job) := by
  unfold State.requestBuffer
  repeat' first
    | with_reducible assumption
    | with_reducible apply State.bump_keeps
    | with_reducible apply State.raise_keeps
    | with_reducible apply State.takeBuffer_keeps
    | with_reducible apply State.setPoolClass_keeps
    | with_reducible apply Keeps.each
    | with_reducible apply Keeps.ite
    | with_reducible apply Keeps.Pair.ite
    | intro _
    | (with_reducible apply Keeps.cons; first | with_reducible assumption | with_reducible apply State.bump_keeps | with_reducible apply State.raise_keeps | with_reducible apply State.takeBuffer_keeps | with_reducible apply State.setPoolClass_keeps | with_reducible apply Keeps.each | with_reducible apply Keeps.ite)
    | split
    | dsimp only
    | with_reducible apply Keeps.Pair.pair

theorem State.dropBuffer_keeps {w₀ : Bool} {s₀ s : State} (hk : Keeps w₀ s₀ s) (handle : Nat) :
    Keeps w₀ s₀ (State.dropBuffer s handle) := by
  unfold State.dropBuffer
  repeat' first
    | with_reducible assumption
    | with_reducible apply State.setPoolClass_keeps
    | with_reducible apply Keeps.each
    | with_reducible apply Keeps.ite
    | intro _
    | (with_reducible apply Keeps.cons; first | with_reducible assumption | with_reducible apply State.setPoolClass_keeps | with_reducible apply Keeps.each | with_reducible apply Keeps.ite)
    | split
    | dsimp only

theorem State.dropOwn_keeps {w₀ : Bool} {s₀ s : State} (hk : Keeps w₀ s₀ s) (handle : Option Nat) (r : Nat) :
    Keeps w₀ s₀ (State.dropOwn s handle r) := by
  unfold State.dropOwn
  repeat' first
    | with_reducible assumption
    | with_reducible apply State.dropBuffer_keeps
    | with_reducible apply Keeps.each
    | with_reducible apply Keeps.ite
    | intro _
    | (with_reducible apply Keeps.cons; first | with_reducible assumption | with_reducible apply State.dropBuffer_keeps | with_reducible apply Keeps.each | with_reducible apply Keeps.ite)
    | split
    | dsimp only

theorem State.freeBuffer_keeps {w₀ : Bool} {s₀ s : State} (hk : Keeps w₀ s₀ s) (handle : Nat) :
    Keeps w₀ s₀ (State.freeBuffer s handle) := by
  unfold State.freeBuffer
  repeat' first
    | with_reducible assumption
    | with_reducible apply State.dropBuffer_keeps
    | with_reducible apply State.bump_keeps
    | with_reducible apply State.raise_keeps
    | with_reducible apply Keeps.each
    | with_reducible apply Keeps.ite
    | intro _
    | (with_reducible apply Keeps.cons; first | with_reducible assumption | with_reducible apply State.dropBuffer_keeps | with_reducible apply State.bump_keeps | with_reducible apply State.raise_keeps | with_reducible apply Keeps.each | with_reducible apply Keeps.ite)
    | split
    | dsimp only

theorem State.freePass_keeps {w₀ : Bool} {s₀ s : State} (hk : Keeps w₀ s₀ s) :
    Keeps w₀ s₀ (State.freePass s) := by
  unfold State.freePass
  repeat' first
    | with_reducible assumption
    | with_reducible apply State.setPoolClass_keeps
    | with_reducible apply Keeps.each
    | with_reducible apply Keeps.ite
    | intro _
    | (with_reducible apply Keeps.cons; first | with_reducible assumption | with_reducible apply State.setPoolClass_keeps | with_reducible apply Keeps.each | with_reducible apply Keeps.ite)
    | split
    | dsimp only

theorem State.setPoolWindow_keeps {w₀ : Bool} {s₀ s : State} (hk : Keeps w₀ s₀ s) (c : Fin 16) (v : PoolWindow) :
    Keeps w₀ s₀ (State.setPoolWindow s c v) := by
  unfold State.setPoolWindow
  repeat' first
    | with_reducible assumption
    | with_reducible apply Keeps.each
    | with_reducible apply Keeps.ite
    | intro _
    | (with_reducible apply Keeps.cons; first | with_reducible assumption | with_reducible apply Keeps.each | with_reducible apply Keeps.ite)
    | split
    | dsimp only

theorem State.poolDone_keeps {w₀ : Bool} {s₀ s : State} (hk : Keeps w₀ s₀ s) (c : Fin 16) (status : BitVec 2) (handle : Nat) :
    Keeps w₀ s₀ (State.poolDone s c status handle) := by
  unfold State.poolDone
  repeat' first
    | with_reducible assumption
    | with_reducible apply State.setPoolWindow_keeps
    | with_reducible apply State.lateAnswer_keeps
    | with_reducible apply Keeps.each
    | with_reducible apply Keeps.ite
    | intro _
    | (with_reducible apply Keeps.cons; first | with_reducible assumption | with_reducible apply State.setPoolWindow_keeps | with_reducible apply State.lateAnswer_keeps | with_reducible apply Keeps.each | with_reducible apply Keeps.ite)
    | split
    | dsimp only

theorem State.poolFail_keeps {w₀ : Bool} {s₀ s : State} (hk : Keeps w₀ s₀ s) (c : Fin 16) (status : BitVec 2) :
    Keeps w₀ s₀ (State.poolFail s c status) := by
  unfold State.poolFail
  repeat' first
    | with_reducible assumption
    | with_reducible apply State.useFree_keeps
    | with_reducible apply State.poolDone_keeps
    | with_reducible apply Keeps.each
    | with_reducible apply Keeps.ite
    | intro _
    | (with_reducible apply Keeps.cons; first | with_reducible assumption | with_reducible apply State.useFree_keeps | with_reducible apply State.poolDone_keeps | with_reducible apply Keeps.each | with_reducible apply Keeps.ite)
    | split
    | dsimp only

theorem State.windowRequest_keeps {w₀ : Bool} {s₀ s : State} (hk : Keeps w₀ s₀ s) (c : Fin 16) (v : BitVec 64) :
    Keeps w₀ s₀ (State.windowRequest s c v) := by
  unfold State.windowRequest
  repeat' first
    | with_reducible assumption
    | with_reducible apply State.setPoolWindow_keeps
    | with_reducible apply State.poolFail_keeps
    | with_reducible refine Keeps.Pair.out (State.requestBuffer_all ?_ _ _ _ _ _ _ _) ‹_›
    | with_reducible apply State.requestBuffer_all
    | with_reducible refine Keeps.Pair.fst (State.requestBuffer_all ?_ _ _ _ _ _ _ _)
    | with_reducible apply State.poolDone_keeps
    | with_reducible apply Keeps.each
    | with_reducible apply Keeps.ite
    | intro _
    | (with_reducible apply Keeps.cons; first | with_reducible assumption | with_reducible apply State.setPoolWindow_keeps | with_reducible apply State.poolFail_keeps | with_reducible refine Keeps.Pair.out (State.requestBuffer_all ?_ _ _ _ _ _ _ _) ‹_› | with_reducible apply State.requestBuffer_all | with_reducible refine Keeps.Pair.fst (State.requestBuffer_all ?_ _ _ _ _ _ _ _) | with_reducible apply State.poolDone_keeps | with_reducible apply Keeps.each | with_reducible apply Keeps.ite)
    | split
    | dsimp only

theorem State.windowApply_keeps {w₀ : Bool} {s₀ s : State} (hk : Keeps w₀ s₀ s) (c : Fin 16) (w : PoolWrite) :
    Keeps w₀ s₀ (State.windowApply s c w) := by
  unfold State.windowApply
  repeat' first
    | with_reducible assumption
    | with_reducible apply State.request_keeps
    | with_reducible apply State.windowRequest_keeps
    | with_reducible apply State.freeBuffer_keeps
    | with_reducible apply Keeps.each
    | with_reducible apply Keeps.ite
    | intro _
    | (with_reducible apply Keeps.cons; first | with_reducible assumption | with_reducible apply State.request_keeps | with_reducible apply State.windowRequest_keeps | with_reducible apply State.freeBuffer_keeps | with_reducible apply Keeps.each | with_reducible apply Keeps.ite)
    | split
    | dsimp only

theorem State.windowWrite_keeps {w₀ : Bool} {s₀ s : State} (hk : Keeps w₀ s₀ s) (c : Fin 16) (w : PoolWrite) :
    Keeps w₀ s₀ (State.windowWrite s c w) := by
  unfold State.windowWrite
  repeat' first
    | with_reducible assumption
    | with_reducible apply State.setPoolWindow_keeps
    | with_reducible apply State.stall_keeps
    | with_reducible apply State.ok_keeps
    | with_reducible apply State.windowApply_keeps
    | with_reducible apply Keeps.each
    | with_reducible apply Keeps.ite
    | intro _
    | (with_reducible apply Keeps.cons; first | with_reducible assumption | with_reducible apply State.setPoolWindow_keeps | with_reducible apply State.stall_keeps | with_reducible apply State.ok_keeps | with_reducible apply State.windowApply_keeps | with_reducible apply Keeps.each | with_reducible apply Keeps.ite)
    | split
    | dsimp only

theorem State.windowDrain_keeps {w₀ : Bool} {s₀ : State} :
    ∀ (n : Nat) {s : State} (_ : Keeps w₀ s₀ s) (b : Fin 16), Keeps w₀ s₀ (State.windowDrain n s b)
  | 0, _, h, b => by
    unfold State.windowDrain
    repeat' first
      | with_reducible assumption
      | with_reducible apply State.windowDrain_keeps
      | with_reducible apply State.setPoolWindow_keeps
      | with_reducible apply State.lateAnswer_keeps
      | with_reducible apply State.windowApply_keeps
      | with_reducible apply Keeps.each
      | with_reducible apply Keeps.ite
      | intro _
      | (with_reducible apply Keeps.cons; first | with_reducible assumption | with_reducible apply State.setPoolWindow_keeps | with_reducible apply State.lateAnswer_keeps | with_reducible apply State.windowApply_keeps | with_reducible apply Keeps.each | with_reducible apply Keeps.ite)
      | split
      | dsimp only
  | n + 1, _, h, b => by
    unfold State.windowDrain
    repeat' first
      | with_reducible assumption
      | with_reducible apply State.windowDrain_keeps
      | with_reducible apply State.setPoolWindow_keeps
      | with_reducible apply State.lateAnswer_keeps
      | with_reducible apply State.windowApply_keeps
      | with_reducible apply Keeps.each
      | with_reducible apply Keeps.ite
      | intro _
      | (with_reducible apply Keeps.cons; first | with_reducible assumption | with_reducible apply State.setPoolWindow_keeps | with_reducible apply State.lateAnswer_keeps | with_reducible apply State.windowApply_keeps | with_reducible apply Keeps.each | with_reducible apply Keeps.ite)
      | split
      | dsimp only

theorem State.poolAddress_keeps {w₀ : Bool} {s₀ s : State} (hk : Keeps w₀ s₀ s) (c : Fin 16) :
    Keeps w₀ s₀ (State.poolAddress s c) := by
  unfold State.poolAddress
  repeat' first
    | with_reducible assumption
    | with_reducible apply State.answer_keeps
    | with_reducible apply State.useFree_keeps
    | with_reducible apply Keeps.each
    | with_reducible apply Keeps.ite
    | intro _
    | (with_reducible apply Keeps.cons; first | with_reducible assumption | with_reducible apply State.answer_keeps | with_reducible apply State.useFree_keeps | with_reducible apply Keeps.each | with_reducible apply Keeps.ite)
    | split
    | dsimp only

theorem State.serveWaiting_all {w₀ : Bool} {s₀ s : State} (hk : Keeps w₀ s₀ s) (pool cls : Nat) :
    Keeps.Pair w₀ s₀ (State.serveWaiting s pool cls) := by
  unfold State.serveWaiting
  repeat' first
    | with_reducible assumption
    | with_reducible apply State.setPoolClass_keeps
    | with_reducible apply State.takeBuffer_keeps
    | with_reducible apply State.poolDone_keeps
    | with_reducible apply State.windowDrain_keeps
    | with_reducible apply Keeps.each
    | with_reducible apply Keeps.ite
    | with_reducible apply Keeps.Pair.ite
    | intro _
    | (with_reducible apply Keeps.cons; first | with_reducible assumption | with_reducible apply State.setPoolClass_keeps | with_reducible apply State.takeBuffer_keeps | with_reducible apply State.poolDone_keeps | with_reducible apply State.windowDrain_keeps | with_reducible apply Keeps.each | with_reducible apply Keeps.ite)
    | split
    | dsimp only
    | with_reducible apply Keeps.Pair.pair

end Sys2Proof.Machine
end

