-- ==== Sys2Proof/Laws/KeepsQueues.lean ====
section
/-! SUPPORT. What the operations of Machine/Queues.lean keep (`Keeps`). -/

set_option Elab.async false

namespace Sys2Proof.Machine

theorem State.writeLink_keeps {w₀ : Bool} {s₀ s : State} (hk : Keeps w₀ s₀ s) (cell : Nat) (next : Option Nat) :
    Keeps w₀ s₀ (State.writeLink s cell next) := by
  unfold State.writeLink
  repeat' first
    | with_reducible assumption
    | with_reducible apply Keeps.writeLe
    | with_reducible apply State.useFree_keeps
    | with_reducible apply Keeps.each
    | with_reducible apply Keeps.ite
    | intro _
    | (with_reducible apply Keeps.cons; first | with_reducible assumption | with_reducible apply Keeps.writeLe | with_reducible apply State.useFree_keeps | with_reducible apply Keeps.each | with_reducible apply Keeps.ite)
    | split
    | dsimp only

theorem State.writeFar_keeps {w₀ : Bool} {s₀ s : State} (hk : Keeps w₀ s₀ s) (q cell : Nat) (b : List Byte) :
    Keeps w₀ s₀ (State.writeFar s q cell b) := by
  unfold State.writeFar
  repeat' first
    | with_reducible assumption
    | with_reducible apply Keeps.write
    | with_reducible apply State.useFree_keeps
    | with_reducible apply Keeps.each
    | with_reducible apply Keeps.ite
    | intro _
    | (with_reducible apply Keeps.cons; first | with_reducible assumption | with_reducible apply Keeps.write | with_reducible apply State.useFree_keeps | with_reducible apply Keeps.each | with_reducible apply Keeps.ite)
    | split
    | dsimp only

theorem State.dropFar_keeps {w₀ : Bool} {s₀ s : State} (hk : Keeps w₀ s₀ s) (q : Nat) (want : List ChainCell) :
    Keeps w₀ s₀ (State.dropFar s q want) := by
  unfold State.dropFar
  repeat' first
    | with_reducible assumption
    | with_reducible apply State.writeLink_keeps
    | with_reducible apply Keeps.each
    | with_reducible apply Keeps.ite
    | intro _
    | (with_reducible apply Keeps.cons; first | with_reducible assumption | with_reducible apply State.writeLink_keeps | with_reducible apply Keeps.each | with_reducible apply Keeps.ite)
    | split
    | dsimp only

theorem State.placeFar_keeps {w₀ : Bool} {s₀ s : State} (hk : Keeps w₀ s₀ s) (q : Nat) (c : ChainCell) :
    Keeps w₀ s₀ (State.placeFar s q c) := by
  unfold State.placeFar
  repeat' first
    | with_reducible assumption
    | with_reducible apply State.writeFar_keeps
    | with_reducible apply State.useFree_keeps
    | with_reducible apply State.writeLink_keeps
    | with_reducible apply Keeps.each
    | with_reducible apply Keeps.ite
    | intro _
    | (with_reducible apply Keeps.cons; first | with_reducible assumption | with_reducible apply State.writeFar_keeps | with_reducible apply State.useFree_keeps | with_reducible apply State.writeLink_keeps | with_reducible apply Keeps.each | with_reducible apply Keeps.ite)
    | split
    | dsimp only

theorem State.linkFar_keeps {w₀ : Bool} {s₀ s : State} (hk : Keeps w₀ s₀ s) (x : FarCell × Option Nat) :
    Keeps w₀ s₀ (State.linkFar s x) := by
  unfold State.linkFar
  repeat' first
    | with_reducible assumption
    | with_reducible apply State.writeLink_keeps
    | with_reducible apply Keeps.each
    | with_reducible apply Keeps.ite
    | intro _
    | (with_reducible apply Keeps.cons; first | with_reducible assumption | with_reducible apply State.writeLink_keeps | with_reducible apply Keeps.each | with_reducible apply Keeps.ite)
    | split
    | dsimp only

theorem State.syncFar_keeps {w₀ : Bool} {s₀ s : State} (hk : Keeps w₀ s₀ s) (q : Nat) (v : Queue) :
    Keeps w₀ s₀ (State.syncFar s q v) := by
  unfold State.syncFar
  repeat' first
    | with_reducible assumption
    | with_reducible apply State.dropFar_keeps
    | with_reducible apply State.placeFar_keeps
    | with_reducible apply State.linkFar_keeps
    | with_reducible apply Keeps.each
    | with_reducible apply Keeps.ite
    | intro _
    | (with_reducible apply Keeps.cons; first | with_reducible assumption | with_reducible apply State.dropFar_keeps | with_reducible apply State.placeFar_keeps | with_reducible apply State.linkFar_keeps | with_reducible apply Keeps.each | with_reducible apply Keeps.ite)
    | split
    | dsimp only

theorem State.putQueue_keeps {w₀ : Bool} {s₀ s : State} (hk : Keeps w₀ s₀ s) (q : Nat) (v : Queue) :
    Keeps w₀ s₀ (State.putQueue s q v) := by
  unfold State.putQueue
  repeat' first
    | with_reducible assumption
    | with_reducible apply Keeps.each
    | with_reducible apply Keeps.ite
    | intro _
    | (with_reducible apply Keeps.cons; first | with_reducible assumption | with_reducible apply Keeps.each | with_reducible apply Keeps.ite)
    | split
    | dsimp only

theorem State.setQueue_keeps {w₀ : Bool} {s₀ s : State} (hk : Keeps w₀ s₀ s) (q : Nat) (v : Queue) :
    Keeps w₀ s₀ (State.setQueue s q v) := by
  unfold State.setQueue
  repeat' first
    | with_reducible assumption
    | with_reducible apply State.putQueue_keeps
    | with_reducible apply State.syncFar_keeps
    | with_reducible apply Keeps.each
    | with_reducible apply Keeps.ite
    | intro _
    | (with_reducible apply Keeps.cons; first | with_reducible assumption | with_reducible apply State.putQueue_keeps | with_reducible apply State.syncFar_keeps | with_reducible apply Keeps.each | with_reducible apply Keeps.ite)
    | split
    | dsimp only

theorem State.dropItem_keeps {w₀ : Bool} {s₀ s : State} (hk : Keeps w₀ s₀ s) (q : Nat) (prio : BitVec 3) (ledger : Bool) :
    Keeps w₀ s₀ (State.dropItem s q prio ledger) := by
  unfold State.dropItem
  repeat' first
    | with_reducible assumption
    | with_reducible apply State.setQueue_keeps
    | with_reducible apply State.bump_keeps
    | with_reducible apply State.raiseOnce_keeps
    | with_reducible apply State.raise_keeps
    | with_reducible apply Keeps.each
    | with_reducible apply Keeps.ite
    | intro _
    | (with_reducible apply Keeps.cons; first | with_reducible assumption | with_reducible apply State.setQueue_keeps | with_reducible apply State.bump_keeps | with_reducible apply State.raiseOnce_keeps | with_reducible apply State.raise_keeps | with_reducible apply Keeps.each | with_reducible apply Keeps.ite)
    | split
    | dsimp only

theorem State.placeItem_keeps {w₀ : Bool} {s₀ s : State} (hk : Keeps w₀ s₀ s) (q : Nat) (prio : BitVec 3) (length : Nat) (data : List Byte) :
    Keeps w₀ s₀ (State.placeItem s q prio length data) := by
  unfold State.placeItem
  repeat' first
    | with_reducible assumption
    | with_reducible apply State.setQueue_keeps
    | with_reducible apply Keeps.each
    | with_reducible apply Keeps.ite
    | intro _
    | (with_reducible apply Keeps.cons; first | with_reducible assumption | with_reducible apply State.setQueue_keeps | with_reducible apply Keeps.each | with_reducible apply Keeps.ite)
    | split
    | dsimp only

theorem State.engineItem_all {w₀ : Bool} {s₀ s : State} (hk : Keeps w₀ s₀ s) (q : Nat) (prio : BitVec 3) (data : List Byte) (ledger : Bool) :
    Keeps.Opt w₀ s₀ (State.engineItem s q prio data ledger) := by
  unfold State.engineItem
  repeat' first
    | with_reducible assumption
    | with_reducible apply State.bump_keeps
    | with_reducible apply State.placeItem_keeps
    | with_reducible apply State.dropItem_keeps
    | with_reducible apply Keeps.each
    | with_reducible apply Keeps.ite
    | with_reducible apply Keeps.Opt.ite
    | with_reducible apply Keeps.Opt.some
    | with_reducible apply Keeps.Opt.none
    | with_reducible apply Keeps.Opt.map
    | intro _
    | (with_reducible apply Keeps.cons; first | with_reducible assumption | with_reducible apply State.bump_keeps | with_reducible apply State.placeItem_keeps | with_reducible apply State.dropItem_keeps | with_reducible apply Keeps.each | with_reducible apply Keeps.ite)
    | split
    | dsimp only

theorem State.setPush_keeps {w₀ : Bool} {s₀ s : State} (hk : Keeps w₀ s₀ s) (c : Nat) (v : PushWindow) :
    Keeps w₀ s₀ (State.setPush s c v) := by
  unfold State.setPush
  repeat' first
    | with_reducible assumption
    | with_reducible apply Keeps.each
    | with_reducible apply Keeps.ite
    | intro _
    | (with_reducible apply Keeps.cons; first | with_reducible assumption | with_reducible apply Keeps.each | with_reducible apply Keeps.ite)
    | split
    | dsimp only

theorem State.pushData_keeps {w₀ : Bool} {s₀ s : State} (hk : Keeps w₀ s₀ s) (c : Nat) (b : List Byte) :
    Keeps w₀ s₀ (State.pushData s c b) := by
  unfold State.pushData
  repeat' first
    | with_reducible assumption
    | with_reducible apply State.setQueue_keeps
    | with_reducible apply State.setPush_keeps
    | with_reducible apply State.bump_keeps
    | with_reducible apply Keeps.each
    | with_reducible apply Keeps.ite
    | intro _
    | (with_reducible apply Keeps.cons; first | with_reducible assumption | with_reducible apply State.setQueue_keeps | with_reducible apply State.setPush_keeps | with_reducible apply State.bump_keeps | with_reducible apply Keeps.each | with_reducible apply Keeps.ite)
    | split
    | dsimp only

theorem State.padOpen_keeps {w₀ : Bool} {s₀ s : State} (hk : Keeps w₀ s₀ s) (c : Nat) :
    Keeps w₀ s₀ (State.padOpen s c) := by
  unfold State.padOpen
  repeat' first
    | with_reducible assumption
    | with_reducible apply State.setPush_keeps
    | with_reducible apply State.pushData_keeps
    | with_reducible apply State.bump_keeps
    | with_reducible apply Keeps.each
    | with_reducible apply Keeps.ite
    | intro _
    | (with_reducible apply Keeps.cons; first | with_reducible assumption | with_reducible apply State.setPush_keeps | with_reducible apply State.pushData_keeps | with_reducible apply State.bump_keeps | with_reducible apply Keeps.each | with_reducible apply Keeps.ite)
    | split
    | dsimp only

theorem State.pushStart_all {w₀ : Bool} {s₀ s : State} (hk : Keeps w₀ s₀ s) (c : Nat) (v : BitVec 64) :
    Keeps.Opt w₀ s₀ (State.pushStart s c v) := by
  unfold State.pushStart
  repeat' first
    | with_reducible assumption
    | with_reducible apply State.padOpen_keeps
    | with_reducible apply State.bump_keeps
    | with_reducible apply State.setPush_keeps
    | with_reducible apply State.placeItem_keeps
    | with_reducible apply State.dropItem_keeps
    | with_reducible apply Keeps.each
    | with_reducible apply Keeps.ite
    | with_reducible apply Keeps.Opt.ite
    | with_reducible apply Keeps.Opt.some
    | with_reducible apply Keeps.Opt.none
    | with_reducible apply Keeps.Opt.map
    | intro _
    | (with_reducible apply Keeps.cons; first | with_reducible assumption | with_reducible apply State.padOpen_keeps | with_reducible apply State.bump_keeps | with_reducible apply State.setPush_keeps | with_reducible apply State.placeItem_keeps | with_reducible apply State.dropItem_keeps | with_reducible apply Keeps.each | with_reducible apply Keeps.ite)
    | split
    | dsimp only

theorem State.pushWrite_keeps {w₀ : Bool} {s₀ s : State} (hk : Keeps w₀ s₀ s) (c : Nat) (w : PushWrite) :
    Keeps w₀ s₀ (State.pushWrite s c w) := by
  unfold State.pushWrite
  repeat' first
    | with_reducible assumption
    | with_reducible apply State.setPush_keeps
    | with_reducible apply State.pushData_keeps
    | with_reducible refine Keeps.Opt.out (State.pushStart_all ?_ _ _) ‹_›
    | with_reducible apply State.pushStart_all
    | with_reducible apply State.padOpen_keeps
    | with_reducible apply Keeps.each
    | with_reducible apply Keeps.ite
    | intro _
    | (with_reducible apply Keeps.cons; first | with_reducible assumption | with_reducible apply State.setPush_keeps | with_reducible apply State.pushData_keeps | with_reducible refine Keeps.Opt.out (State.pushStart_all ?_ _ _) ‹_› | with_reducible apply State.pushStart_all | with_reducible apply State.padOpen_keeps | with_reducible apply Keeps.each | with_reducible apply Keeps.ite)
    | split
    | dsimp only

theorem State.pushDrain_keeps {w₀ : Bool} {s₀ : State} :
    ∀ (n : Nat) {s : State} (_ : Keeps w₀ s₀ s) (b : Nat), Keeps w₀ s₀ (State.pushDrain n s b)
  | 0, _, h, b => by
    unfold State.pushDrain
    repeat' first
      | with_reducible assumption
      | with_reducible apply State.pushDrain_keeps
      | with_reducible apply State.setPush_keeps
      | with_reducible apply State.pushData_keeps
      | with_reducible apply State.lateAnswer_keeps
      | with_reducible refine Keeps.Opt.out (State.pushStart_all ?_ _ _) ‹_›
      | with_reducible apply State.pushStart_all
      | with_reducible apply Keeps.each
      | with_reducible apply Keeps.ite
      | intro _
      | (with_reducible apply Keeps.cons; first | with_reducible assumption | with_reducible apply State.setPush_keeps | with_reducible apply State.pushData_keeps | with_reducible apply State.lateAnswer_keeps | with_reducible refine Keeps.Opt.out (State.pushStart_all ?_ _ _) ‹_› | with_reducible apply State.pushStart_all | with_reducible apply Keeps.each | with_reducible apply Keeps.ite)
      | split
      | dsimp only
  | n + 1, _, h, b => by
    unfold State.pushDrain
    repeat' first
      | with_reducible assumption
      | with_reducible apply State.pushDrain_keeps
      | with_reducible apply State.setPush_keeps
      | with_reducible apply State.pushData_keeps
      | with_reducible apply State.lateAnswer_keeps
      | with_reducible refine Keeps.Opt.out (State.pushStart_all ?_ _ _) ‹_›
      | with_reducible apply State.pushStart_all
      | with_reducible apply Keeps.each
      | with_reducible apply Keeps.ite
      | intro _
      | (with_reducible apply Keeps.cons; first | with_reducible assumption | with_reducible apply State.setPush_keeps | with_reducible apply State.pushData_keeps | with_reducible apply State.lateAnswer_keeps | with_reducible refine Keeps.Opt.out (State.pushStart_all ?_ _ _) ‹_› | with_reducible apply State.pushStart_all | with_reducible apply Keeps.each | with_reducible apply Keeps.ite)
      | split
      | dsimp only

theorem State.spaceFreed_keeps {w₀ : Bool} {s₀ s : State} (hk : Keeps w₀ s₀ s) (q : Nat) :
    Keeps w₀ s₀ (State.spaceFreed s q) := by
  unfold State.spaceFreed
  repeat' first
    | with_reducible assumption
    | with_reducible apply State.pushDrain_keeps
    | with_reducible apply Keeps.each
    | with_reducible apply Keeps.ite
    | intro _
    | (with_reducible apply Keeps.cons; first | with_reducible assumption | with_reducible apply State.pushDrain_keeps | with_reducible apply Keeps.each | with_reducible apply Keeps.ite)
    | split
    | dsimp only

theorem State.takeEntry_keeps {w₀ : Bool} {s₀ s : State} (hk : Keeps w₀ s₀ s) (q i : Nat) (e : QEntry) :
    Keeps w₀ s₀ (State.takeEntry s q i e) := by
  unfold State.takeEntry
  repeat' first
    | with_reducible assumption
    | with_reducible apply State.setQueue_keeps
    | with_reducible apply Keeps.each
    | with_reducible apply Keeps.ite
    | intro _
    | (with_reducible apply Keeps.cons; first | with_reducible assumption | with_reducible apply State.setQueue_keeps | with_reducible apply Keeps.each | with_reducible apply Keeps.ite)
    | split
    | dsimp only

theorem State.headerRead_keeps {w₀ : Bool} {s₀ s : State} (hk : Keeps w₀ s₀ s) (q : Nat) :
    Keeps w₀ s₀ (State.headerRead s q) := by
  unfold State.headerRead
  repeat' first
    | with_reducible assumption
    | with_reducible apply State.takeEntry_keeps
    | with_reducible apply State.answer_keeps
    | with_reducible apply State.setQueue_keeps
    | with_reducible apply State.bump_keeps
    | with_reducible apply State.stall_keeps
    | with_reducible apply Keeps.each
    | with_reducible apply Keeps.ite
    | intro _
    | (with_reducible apply Keeps.cons; first | with_reducible assumption | with_reducible apply State.takeEntry_keeps | with_reducible apply State.answer_keeps | with_reducible apply State.setQueue_keeps | with_reducible apply State.bump_keeps | with_reducible apply State.stall_keeps | with_reducible apply Keeps.each | with_reducible apply Keeps.ite)
    | split
    | dsimp only

theorem State.dataTake_keeps {w₀ : Bool} {s₀ s : State} (hk : Keeps w₀ s₀ s) (q n : Nat) :
    Keeps w₀ s₀ (State.dataTake s q n) := by
  unfold State.dataTake
  repeat' first
    | with_reducible assumption
    | with_reducible apply State.setQueue_keeps
    | with_reducible apply Keeps.each
    | with_reducible apply Keeps.ite
    | intro _
    | (with_reducible apply Keeps.cons; first | with_reducible assumption | with_reducible apply State.setQueue_keeps | with_reducible apply Keeps.each | with_reducible apply Keeps.ite)
    | split
    | dsimp only

theorem State.dataRead_keeps {w₀ : Bool} {s₀ s : State} (hk : Keeps w₀ s₀ s) (q n : Nat) :
    Keeps w₀ s₀ (State.dataRead s q n) := by
  unfold State.dataRead
  repeat' first
    | with_reducible assumption
    | with_reducible apply State.dataTake_keeps
    | with_reducible apply State.answer_keeps
    | with_reducible apply State.setQueue_keeps
    | with_reducible apply State.stall_keeps
    | with_reducible apply Keeps.each
    | with_reducible apply Keeps.ite
    | intro _
    | (with_reducible apply Keeps.cons; first | with_reducible assumption | with_reducible apply State.dataTake_keeps | with_reducible apply State.answer_keeps | with_reducible apply State.setQueue_keeps | with_reducible apply State.stall_keeps | with_reducible apply Keeps.each | with_reducible apply Keeps.ite)
    | split
    | dsimp only

theorem State.stalledReturn_keeps {w₀ : Bool} {s₀ s : State} (hk : Keeps w₀ s₀ s) (q : Nat) :
    Keeps w₀ s₀ (State.stalledReturn s q) := by
  unfold State.stalledReturn
  repeat' first
    | with_reducible assumption
    | with_reducible apply State.putQueue_keeps
    | with_reducible apply State.takeEntry_keeps
    | with_reducible apply State.lateAnswer_keeps
    | with_reducible apply State.dataTake_keeps
    | with_reducible apply Keeps.each
    | with_reducible apply Keeps.ite
    | intro _
    | (with_reducible apply Keeps.cons; first | with_reducible assumption | with_reducible apply State.putQueue_keeps | with_reducible apply State.takeEntry_keeps | with_reducible apply State.lateAnswer_keeps | with_reducible apply State.dataTake_keeps | with_reducible apply Keeps.each | with_reducible apply Keeps.ite)
    | split
    | dsimp only

theorem State.stallExpiry_keeps {w₀ : Bool} {s₀ s : State} (hk : Keeps w₀ s₀ s) (q : Nat) :
    Keeps w₀ s₀ (State.stallExpiry s q) := by
  unfold State.stallExpiry
  repeat' first
    | with_reducible assumption
    | with_reducible apply State.until_keeps
    | with_reducible apply State.setQueue_keeps
    | with_reducible apply State.lateAnswer_keeps
    | with_reducible apply Keeps.each
    | with_reducible apply Keeps.ite
    | intro _
    | (with_reducible apply Keeps.cons; first | with_reducible assumption | with_reducible apply State.until_keeps | with_reducible apply State.setQueue_keeps | with_reducible apply State.lateAnswer_keeps | with_reducible apply Keeps.each | with_reducible apply Keeps.ite)
    | split
    | dsimp only

theorem State.emptyEgress_keeps {w₀ : Bool} {s₀ s : State} (hk : Keeps w₀ s₀ s) (q : Nat) :
    Keeps w₀ s₀ (State.emptyEgress s q) := by
  unfold State.emptyEgress
  repeat' first
    | with_reducible assumption
    | with_reducible apply Keeps.each
    | with_reducible apply Keeps.ite
    | intro _
    | (with_reducible apply Keeps.cons; first | with_reducible assumption | with_reducible apply Keeps.each | with_reducible apply Keeps.ite)
    | split
    | dsimp only

theorem State.flushQueue_keeps {w₀ : Bool} {s₀ s : State} (hk : Keeps w₀ s₀ s) (q : Nat) :
    Keeps w₀ s₀ (State.flushQueue s q) := by
  unfold State.flushQueue
  repeat' first
    | with_reducible assumption
    | with_reducible apply State.setPush_keeps
    | with_reducible apply State.emptyEgress_keeps
    | with_reducible apply State.setQueue_keeps
    | with_reducible apply State.lateAnswer_keeps
    | with_reducible apply Keeps.each
    | with_reducible apply Keeps.ite
    | intro _
    | (with_reducible apply Keeps.cons; first | with_reducible assumption | with_reducible apply State.setPush_keeps | with_reducible apply State.emptyEgress_keeps | with_reducible apply State.setQueue_keeps | with_reducible apply State.lateAnswer_keeps | with_reducible apply Keeps.each | with_reducible apply Keeps.ite)
    | split
    | dsimp only

theorem State.configureQueue_keeps {s₀ s : State} (hk : Keeps false s₀ s) (q : Nat) (v : BitVec 64) :
    Keeps false s₀ (State.configureQueue s q v) := by
  unfold State.configureQueue
  repeat' first
    | with_reducible assumption
    | with_reducible apply Keeps.setWord
    | with_reducible apply State.flushQueue_keeps
    | with_reducible apply Keeps.each
    | with_reducible apply Keeps.ite
    | intro _
    | (with_reducible apply Keeps.cons; first | with_reducible assumption | with_reducible apply Keeps.setWord | with_reducible apply State.flushQueue_keeps | with_reducible apply Keeps.each | with_reducible apply Keeps.ite)
    | split
    | dsimp only

end Sys2Proof.Machine
end

