-- ==== Sys2Proof/Laws/KeepsLedger.lean ====
section
/-! SUPPORT. What the operations of Machine/Ledger.lean keep (`Keeps`). -/

set_option Elab.async false

namespace Sys2Proof.Machine

theorem State.directRecord_all {w₀ : Bool} {s₀ s : State} (hk : Keeps w₀ s₀ s) (r : LedgerRec) :
    Keeps.Opt w₀ s₀ (State.directRecord s r) := by
  unfold State.directRecord
  repeat' first
    | with_reducible assumption
    | with_reducible refine Keeps.Opt.out (State.engineItem_all ?_ _ _ _ _) ‹_›
    | with_reducible apply State.engineItem_all
    | with_reducible apply State.bump_keeps
    | with_reducible apply State.fire_keeps
    | with_reducible apply Keeps.each
    | with_reducible apply Keeps.ite
    | with_reducible apply Keeps.Opt.ite
    | with_reducible apply Keeps.Opt.some
    | with_reducible apply Keeps.Opt.none
    | with_reducible apply Keeps.Opt.map
    | intro _
    | (with_reducible apply Keeps.cons; first | with_reducible assumption | with_reducible refine Keeps.Opt.out (State.engineItem_all ?_ _ _ _ _) ‹_› | with_reducible apply State.engineItem_all | with_reducible apply State.bump_keeps | with_reducible apply State.fire_keeps | with_reducible apply Keeps.each | with_reducible apply Keeps.ite)
    | split
    | dsimp only

theorem State.place_all {w₀ : Bool} {s₀ s : State} (hk : Keeps w₀ s₀ s) (r : LedgerRec) :
    Keeps.Opt w₀ s₀ (State.place s r) := by
  unfold State.place
  repeat' first
    | with_reducible assumption
    | with_reducible apply State.fire_keeps
    | with_reducible refine Keeps.Opt.out (State.directRecord_all ?_ _) ‹_›
    | with_reducible apply State.directRecord_all
    | with_reducible apply Keeps.each
    | with_reducible apply Keeps.ite
    | with_reducible apply Keeps.Opt.ite
    | with_reducible apply Keeps.Opt.some
    | with_reducible apply Keeps.Opt.none
    | with_reducible apply Keeps.Opt.map
    | intro _
    | (with_reducible apply Keeps.cons; first | with_reducible assumption | with_reducible apply State.fire_keeps | with_reducible refine Keeps.Opt.out (State.directRecord_all ?_ _) ‹_› | with_reducible apply State.directRecord_all | with_reducible apply Keeps.each | with_reducible apply Keeps.ite)
    | split
    | dsimp only

theorem State.ledgerStep_keeps {w₀ : Bool} {s₀ s : State} (hk : Keeps w₀ s₀ s) :
    Keeps w₀ s₀ (State.ledgerStep s) := by
  unfold State.ledgerStep
  repeat' first
    | with_reducible assumption
    | with_reducible refine Keeps.Opt.out (State.place_all ?_ _) ‹_›
    | with_reducible apply State.place_all
    | with_reducible apply State.hold_keeps
    | with_reducible apply Keeps.each
    | with_reducible apply Keeps.ite
    | intro _
    | (with_reducible apply Keeps.cons; first | with_reducible assumption | with_reducible refine Keeps.Opt.out (State.place_all ?_ _) ‹_› | with_reducible apply State.place_all | with_reducible apply State.hold_keeps | with_reducible apply Keeps.each | with_reducible apply Keeps.ite)
    | split
    | dsimp only

end Sys2Proof.Machine
end

