-- ==== Sys2Proof/Laws/KeepsTransport.lean ====
section
/-! SUPPORT. What the operations of Machine/Transport.lean keep (`Keeps`). -/

set_option Elab.async false

namespace Sys2Proof.Machine

theorem State.setMac_keeps {w₀ : Bool} {s₀ s : State} (hk : Keeps w₀ s₀ s) (p : Nat) (v : MacPort) :
    Keeps w₀ s₀ (State.setMac s p v) := by
  unfold State.setMac
  repeat' first
    | with_reducible assumption
    | with_reducible apply Keeps.each
    | with_reducible apply Keeps.ite
    | intro _
    | (with_reducible apply Keeps.cons; first | with_reducible assumption | with_reducible apply Keeps.each | with_reducible apply Keeps.ite)
    | split
    | dsimp only

theorem State.setPair_keeps {w₀ : Bool} {s₀ s : State} (hk : Keeps w₀ s₀ s) (k : Nat) (v : PairVc) :
    Keeps w₀ s₀ (State.setPair s k v) := by
  unfold State.setPair
  repeat' first
    | with_reducible assumption
    | with_reducible apply Keeps.each
    | with_reducible apply Keeps.ite
    | intro _
    | (with_reducible apply Keeps.cons; first | with_reducible assumption | with_reducible apply Keeps.each | with_reducible apply Keeps.ite)
    | split
    | dsimp only

theorem State.sent_keeps {w₀ : Bool} {s₀ s : State} (hk : Keeps w₀ s₀ s) (o : FrameOut) :
    Keeps w₀ s₀ (State.sent s o) := by
  unfold State.sent
  repeat' first
    | with_reducible assumption
    | with_reducible apply State.bump_keeps
    | with_reducible apply Keeps.each
    | with_reducible apply Keeps.ite
    | intro _
    | (with_reducible apply Keeps.cons; first | with_reducible assumption | with_reducible apply State.bump_keeps | with_reducible apply Keeps.each | with_reducible apply Keeps.ite)
    | split
    | dsimp only

theorem State.emit_keeps {w₀ : Bool} {s₀ s : State} (hk : Keeps w₀ s₀ s) (port : Fin 16) (m : MemberId) (vc : BitVec 2) (seq : BitVec 32) (retx : Bool) (p : Payload) (av : Option (BitVec 2)) :
    Keeps w₀ s₀ (State.emit s port m vc seq retx p av) := by
  unfold State.emit
  repeat' first
    | with_reducible assumption
    | with_reducible apply State.setPair_keeps
    | with_reducible apply State.sent_keeps
    | with_reducible apply Keeps.each
    | with_reducible apply Keeps.ite
    | intro _
    | (with_reducible apply Keeps.cons; first | with_reducible assumption | with_reducible apply State.setPair_keeps | with_reducible apply State.sent_keeps | with_reducible apply Keeps.each | with_reducible apply Keeps.ite)
    | split
    | dsimp only

theorem State.emitNow_keeps {w₀ : Bool} {s₀ s : State} (hk : Keeps w₀ s₀ s) (port : Fin 16) (m : MemberId) (vc : BitVec 2) (seq : BitVec 32) (retx : Bool) (p : Payload) (av : Option (BitVec 2)) :
    Keeps w₀ s₀ (State.emitNow s port m vc seq retx p av) := by
  unfold State.emitNow
  repeat' first
    | with_reducible assumption
    | with_reducible apply State.emit_keeps
    | with_reducible apply State.bump_keeps
    | with_reducible apply Keeps.each
    | with_reducible apply Keeps.ite
    | intro _
    | (with_reducible apply Keeps.cons; first | with_reducible assumption | with_reducible apply State.emit_keeps | with_reducible apply State.bump_keeps | with_reducible apply Keeps.each | with_reducible apply Keeps.ite)
    | split
    | dsimp only

theorem State.setEgress_keeps {w₀ : Bool} {s₀ s : State} (hk : Keeps w₀ s₀ s) (p : Nat) (l : List Egress) :
    Keeps w₀ s₀ (State.setEgress s p l) := by
  unfold State.setEgress
  repeat' first
    | with_reducible assumption
    | with_reducible apply State.setMac_keeps
    | with_reducible apply State.setQueue_keeps
    | with_reducible apply Keeps.each
    | with_reducible apply Keeps.ite
    | intro _
    | (with_reducible apply Keeps.cons; first | with_reducible assumption | with_reducible apply State.setMac_keeps | with_reducible apply State.setQueue_keeps | with_reducible apply Keeps.each | with_reducible apply Keeps.ite)
    | split
    | dsimp only

theorem State.enqueue_keeps {w₀ : Bool} {s₀ s : State} (hk : Keeps w₀ s₀ s) (port : Fin 16) (e : Egress) :
    Keeps w₀ s₀ (State.enqueue s port e) := by
  unfold State.enqueue
  repeat' first
    | with_reducible assumption
    | with_reducible apply State.setMac_keeps
    | with_reducible apply State.placeItem_keeps
    | with_reducible apply State.bump_keeps
    | with_reducible apply State.dropItem_keeps
    | with_reducible apply Keeps.each
    | with_reducible apply Keeps.ite
    | intro _
    | (with_reducible apply Keeps.cons; first | with_reducible assumption | with_reducible apply State.setMac_keeps | with_reducible apply State.placeItem_keeps | with_reducible apply State.bump_keeps | with_reducible apply State.dropItem_keeps | with_reducible apply Keeps.each | with_reducible apply Keeps.ite)
    | split
    | dsimp only

theorem State.startFrame_keeps {w₀ : Bool} {s₀ s : State} (hk : Keeps w₀ s₀ s) (port : Fin 16) (m : MemberId) (vc : BitVec 2) (seq : BitVec 32) (retx : Bool) (p : Payload) :
    Keeps w₀ s₀ (State.startFrame s port m vc seq retx p) := by
  unfold State.startFrame
  repeat' first
    | with_reducible assumption
    | with_reducible apply State.enqueue_keeps
    | with_reducible apply State.emitNow_keeps
    | with_reducible apply Keeps.each
    | with_reducible apply Keeps.ite
    | intro _
    | (with_reducible apply Keeps.cons; first | with_reducible assumption | with_reducible apply State.enqueue_keeps | with_reducible apply State.emitNow_keeps | with_reducible apply Keeps.each | with_reducible apply Keeps.ite)
    | split
    | dsimp only

theorem State.sendBare_keeps {w₀ : Bool} {s₀ s : State} (hk : Keeps w₀ s₀ s) (m : MemberId) (p : Payload) (av : Option (BitVec 2)) :
    Keeps w₀ s₀ (State.sendBare s m p av) := by
  unfold State.sendBare
  repeat' first
    | with_reducible assumption
    | with_reducible apply State.enqueue_keeps
    | with_reducible apply State.emitNow_keeps
    | with_reducible apply Keeps.each
    | with_reducible apply Keeps.ite
    | intro _
    | (with_reducible apply Keeps.cons; first | with_reducible assumption | with_reducible apply State.enqueue_keeps | with_reducible apply State.emitNow_keeps | with_reducible apply Keeps.each | with_reducible apply Keeps.ite)
    | split
    | dsimp only

theorem State.transmit_keeps {w₀ : Bool} {s₀ s : State} (hk : Keeps w₀ s₀ s) (m : MemberId) (vc : BitVec 2) (f : TxFrame) (retx : Bool) :
    Keeps w₀ s₀ (State.transmit s m vc f retx) := by
  unfold State.transmit
  repeat' first
    | with_reducible assumption
    | with_reducible apply State.setPair_keeps
    | with_reducible apply State.startFrame_keeps
    | with_reducible apply Keeps.each
    | with_reducible apply Keeps.ite
    | intro _
    | (with_reducible apply Keeps.cons; first | with_reducible assumption | with_reducible apply State.setPair_keeps | with_reducible apply State.startFrame_keeps | with_reducible apply Keeps.each | with_reducible apply Keeps.ite)
    | split
    | dsimp only

theorem State.stageOut_all {w₀ : Bool} {s₀ s : State} (hk : Keeps w₀ s₀ s) (m : MemberId) (p : Payload) :
    Keeps.Pair w₀ s₀ (State.stageOut s m p) := by
  unfold State.stageOut
  repeat' first
    | with_reducible assumption
    | with_reducible refine Keeps.Pair.out (State.requestBuffer_all ?_ _ _ _ _ _ _ _) ‹_›
    | with_reducible apply State.requestBuffer_all
    | with_reducible refine Keeps.Pair.fst (State.requestBuffer_all ?_ _ _ _ _ _ _ _)
    | with_reducible apply Keeps.each
    | with_reducible apply Keeps.ite
    | with_reducible apply Keeps.Pair.ite
    | intro _
    | (with_reducible apply Keeps.cons; first | with_reducible assumption | with_reducible refine Keeps.Pair.out (State.requestBuffer_all ?_ _ _ _ _ _ _ _) ‹_› | with_reducible apply State.requestBuffer_all | with_reducible refine Keeps.Pair.fst (State.requestBuffer_all ?_ _ _ _ _ _ _ _) | with_reducible apply Keeps.each | with_reducible apply Keeps.ite)
    | split
    | dsimp only
    | with_reducible apply Keeps.Pair.pair

theorem State.sendNext_keeps {w₀ : Bool} {s₀ s : State} (hk : Keeps w₀ s₀ s) (m : MemberId) (vc : BitVec 2) (handle : Option Nat) :
    Keeps w₀ s₀ (State.sendNext s m vc handle) := by
  unfold State.sendNext
  repeat' first
    | with_reducible assumption
    | with_reducible apply State.dropOwn_keeps
    | with_reducible apply State.setPair_keeps
    | with_reducible apply State.transmit_keeps
    | with_reducible apply Keeps.each
    | with_reducible apply Keeps.ite
    | intro _
    | (with_reducible apply Keeps.cons; first | with_reducible assumption | with_reducible apply State.dropOwn_keeps | with_reducible apply State.setPair_keeps | with_reducible apply State.transmit_keeps | with_reducible apply Keeps.each | with_reducible apply Keeps.ite)
    | split
    | dsimp only

theorem State.pump_keeps {w₀ : Bool} {s₀ : State} :
    ∀ (n : Nat) {s : State} (_ : Keeps w₀ s₀ s) (b : MemberId) (c : BitVec 2), Keeps w₀ s₀ (State.pump n s b c)
  | 0, _, h, b, c => by
    unfold State.pump
    repeat' first
      | with_reducible assumption
      | with_reducible apply State.pump_keeps
      | with_reducible refine Keeps.Pair.out (State.stageOut_all ?_ _ _) ‹_›
      | with_reducible apply State.stageOut_all
      | with_reducible refine Keeps.Pair.fst (State.stageOut_all ?_ _ _)
      | with_reducible apply State.sendNext_keeps
      | with_reducible apply Keeps.each
      | with_reducible apply Keeps.ite
      | intro _
      | (with_reducible apply Keeps.cons; first | with_reducible assumption | with_reducible refine Keeps.Pair.out (State.stageOut_all ?_ _ _) ‹_› | with_reducible apply State.stageOut_all | with_reducible refine Keeps.Pair.fst (State.stageOut_all ?_ _ _) | with_reducible apply State.sendNext_keeps | with_reducible apply Keeps.each | with_reducible apply Keeps.ite)
      | split
      | dsimp only
  | n + 1, _, h, b, c => by
    unfold State.pump
    repeat' first
      | with_reducible assumption
      | with_reducible apply State.pump_keeps
      | with_reducible refine Keeps.Pair.out (State.stageOut_all ?_ _ _) ‹_›
      | with_reducible apply State.stageOut_all
      | with_reducible refine Keeps.Pair.fst (State.stageOut_all ?_ _ _)
      | with_reducible apply State.sendNext_keeps
      | with_reducible apply Keeps.each
      | with_reducible apply Keeps.ite
      | intro _
      | (with_reducible apply Keeps.cons; first | with_reducible assumption | with_reducible refine Keeps.Pair.out (State.stageOut_all ?_ _ _) ‹_› | with_reducible apply State.stageOut_all | with_reducible refine Keeps.Pair.fst (State.stageOut_all ?_ _ _) | with_reducible apply State.sendNext_keeps | with_reducible apply Keeps.each | with_reducible apply Keeps.ite)
      | split
      | dsimp only

theorem State.pumpPair_keeps {w₀ : Bool} {s₀ s : State} (hk : Keeps w₀ s₀ s) (m : MemberId) (vc : BitVec 2) :
    Keeps w₀ s₀ (State.pumpPair s m vc) := by
  unfold State.pumpPair
  repeat' first
    | with_reducible assumption
    | with_reducible apply State.pump_keeps
    | with_reducible apply Keeps.each
    | with_reducible apply Keeps.ite
    | intro _
    | (with_reducible apply Keeps.cons; first | with_reducible assumption | with_reducible apply State.pump_keeps | with_reducible apply Keeps.each | with_reducible apply Keeps.ite)
    | split
    | dsimp only

theorem State.pumpAll_keeps {w₀ : Bool} {s₀ : State} :
    ∀ (n : Nat) {s : State} (_ : Keeps w₀ s₀ s) (b : MemberId) (c : List Nat) (d : List Nat), Keeps w₀ s₀ (State.pumpAll n s b c d)
  | 0, _, h, b, c, d => by
    unfold State.pumpAll
    repeat' first
      | with_reducible assumption
      | with_reducible apply State.pumpAll_keeps
      | with_reducible refine Keeps.Pair.out (State.stageOut_all ?_ _ _) ‹_›
      | with_reducible apply State.stageOut_all
      | with_reducible refine Keeps.Pair.fst (State.stageOut_all ?_ _ _)
      | with_reducible apply State.sendNext_keeps
      | with_reducible apply Keeps.each
      | with_reducible apply Keeps.ite
      | intro _
      | (with_reducible apply Keeps.cons; first | with_reducible assumption | with_reducible refine Keeps.Pair.out (State.stageOut_all ?_ _ _) ‹_› | with_reducible apply State.stageOut_all | with_reducible refine Keeps.Pair.fst (State.stageOut_all ?_ _ _) | with_reducible apply State.sendNext_keeps | with_reducible apply Keeps.each | with_reducible apply Keeps.ite)
      | split
      | dsimp only
  | n + 1, _, h, b, c, d => by
    unfold State.pumpAll
    repeat' first
      | with_reducible assumption
      | with_reducible apply State.pumpAll_keeps
      | with_reducible refine Keeps.Pair.out (State.stageOut_all ?_ _ _) ‹_›
      | with_reducible apply State.stageOut_all
      | with_reducible refine Keeps.Pair.fst (State.stageOut_all ?_ _ _)
      | with_reducible apply State.sendNext_keeps
      | with_reducible apply Keeps.each
      | with_reducible apply Keeps.ite
      | intro _
      | (with_reducible apply Keeps.cons; first | with_reducible assumption | with_reducible refine Keeps.Pair.out (State.stageOut_all ?_ _ _) ‹_› | with_reducible apply State.stageOut_all | with_reducible refine Keeps.Pair.fst (State.stageOut_all ?_ _ _) | with_reducible apply State.sendNext_keeps | with_reducible apply Keeps.each | with_reducible apply Keeps.ite)
      | split
      | dsimp only

theorem State.pumpPeer_keeps {w₀ : Bool} {s₀ s : State} (hk : Keeps w₀ s₀ s) (m : MemberId) :
    Keeps w₀ s₀ (State.pumpPeer s m) := by
  unfold State.pumpPeer
  repeat' first
    | with_reducible assumption
    | with_reducible apply State.pumpAll_keeps
    | with_reducible apply Keeps.each
    | with_reducible apply Keeps.ite
    | intro _
    | (with_reducible apply Keeps.cons; first | with_reducible assumption | with_reducible apply State.pumpAll_keeps | with_reducible apply Keeps.each | with_reducible apply Keeps.ite)
    | split
    | dsimp only

theorem State.egressGranted_keeps {w₀ : Bool} {s₀ s : State} (hk : Keeps w₀ s₀ s) (m : MemberId) (handle : Nat) :
    Keeps w₀ s₀ (State.egressGranted s m handle) := by
  unfold State.egressGranted
  repeat' first
    | with_reducible assumption
    | with_reducible apply State.sendNext_keeps
    | with_reducible apply State.pumpPair_keeps
    | with_reducible apply State.dropOwn_keeps
    | with_reducible apply Keeps.each
    | with_reducible apply Keeps.ite
    | intro _
    | (with_reducible apply Keeps.cons; first | with_reducible assumption | with_reducible apply State.sendNext_keeps | with_reducible apply State.pumpPair_keeps | with_reducible apply State.dropOwn_keeps | with_reducible apply Keeps.each | with_reducible apply Keeps.ite)
    | split
    | dsimp only

theorem State.pumpStaged_keeps {w₀ : Bool} {s₀ s : State} (hk : Keeps w₀ s₀ s) :
    Keeps w₀ s₀ (State.pumpStaged s) := by
  unfold State.pumpStaged
  repeat' first
    | with_reducible assumption
    | with_reducible apply State.pumpPair_keeps
    | with_reducible apply Keeps.each
    | with_reducible apply Keeps.ite
    | intro _
    | (with_reducible apply Keeps.cons; first | with_reducible assumption | with_reducible apply State.pumpPair_keeps | with_reducible apply Keeps.each | with_reducible apply Keeps.ite)
    | split
    | dsimp only

theorem State.send_keeps {w₀ : Bool} {s₀ s : State} (hk : Keeps w₀ s₀ s) (m : MemberId) (p : Payload) :
    Keeps w₀ s₀ (State.send s m p) := by
  unfold State.send
  repeat' first
    | with_reducible assumption
    | with_reducible apply State.setPair_keeps
    | with_reducible apply State.pump_keeps
    | with_reducible apply Keeps.each
    | with_reducible apply Keeps.ite
    | intro _
    | (with_reducible apply Keeps.cons; first | with_reducible assumption | with_reducible apply State.setPair_keeps | with_reducible apply State.pump_keeps | with_reducible apply Keeps.each | with_reducible apply Keeps.ite)
    | split
    | dsimp only

theorem State.settleSync_keeps {w₀ : Bool} {s₀ s : State} (hk : Keeps w₀ s₀ s) (m : MemberId) (vc : BitVec 2) (ackSeq : BitVec 32) :
    Keeps w₀ s₀ (State.settleSync s m vc ackSeq) := by
  unfold State.settleSync
  repeat' first
    | with_reducible assumption
    | with_reducible apply Keeps.each
    | with_reducible apply Keeps.ite
    | intro _
    | (with_reducible apply Keeps.cons; first | with_reducible assumption | with_reducible apply Keeps.each | with_reducible apply Keeps.ite)
    | split
    | dsimp only

theorem State.dropStaged_keeps {w₀ : Bool} {s₀ s : State} (hk : Keeps w₀ s₀ s) (l : List TxFrame) :
    Keeps w₀ s₀ (State.dropStaged s l) := by
  unfold State.dropStaged
  repeat' first
    | with_reducible assumption
    | with_reducible apply State.dropOwn_keeps
    | with_reducible apply Keeps.each
    | with_reducible apply Keeps.ite
    | intro _
    | (with_reducible apply Keeps.cons; first | with_reducible assumption | with_reducible apply State.dropOwn_keeps | with_reducible apply Keeps.each | with_reducible apply Keeps.ite)
    | split
    | dsimp only

theorem State.retransmitLimit_keeps {w₀ : Bool} {s₀ s : State} (hk : Keeps w₀ s₀ s) (m : MemberId) (vc : BitVec 2) (port : Option (Fin 16)) :
    Keeps w₀ s₀ (State.retransmitLimit s m vc port) := by
  unfold State.retransmitLimit
  repeat' first
    | with_reducible assumption
    | with_reducible apply State.raise_keeps
    | with_reducible apply Keeps.each
    | with_reducible apply Keeps.ite
    | intro _
    | (with_reducible apply Keeps.cons; first | with_reducible assumption | with_reducible apply State.raise_keeps | with_reducible apply Keeps.each | with_reducible apply Keeps.ite)
    | split
    | dsimp only

theorem State.frameLimit_keeps {w₀ : Bool} {s₀ s : State} (hk : Keeps w₀ s₀ s) (m : MemberId) (vc : BitVec 2) (f : TxFrame) :
    Keeps w₀ s₀ (State.frameLimit s m vc f) := by
  unfold State.frameLimit
  repeat' first
    | with_reducible assumption
    | with_reducible apply State.setPair_keeps
    | with_reducible apply State.retransmitLimit_keeps
    | with_reducible apply Keeps.each
    | with_reducible apply Keeps.ite
    | intro _
    | (with_reducible apply Keeps.cons; first | with_reducible assumption | with_reducible apply State.setPair_keeps | with_reducible apply State.retransmitLimit_keeps | with_reducible apply Keeps.each | with_reducible apply Keeps.ite)
    | split
    | dsimp only

theorem State.sendAgain_keeps {w₀ : Bool} {s₀ s : State} (hk : Keeps w₀ s₀ s) (m : MemberId) (vc : BitVec 2) (f : TxFrame) :
    Keeps w₀ s₀ (State.sendAgain s m vc f) := by
  unfold State.sendAgain
  repeat' first
    | with_reducible assumption
    | with_reducible apply State.frameLimit_keeps
    | with_reducible apply State.raiseOnce_keeps
    | with_reducible apply State.transmit_keeps
    | with_reducible apply Keeps.each
    | with_reducible apply Keeps.ite
    | intro _
    | (with_reducible apply Keeps.cons; first | with_reducible assumption | with_reducible apply State.frameLimit_keeps | with_reducible apply State.raiseOnce_keeps | with_reducible apply State.transmit_keeps | with_reducible apply Keeps.each | with_reducible apply Keeps.ite)
    | split
    | dsimp only

theorem State.acknowledge_keeps {w₀ : Bool} {s₀ s : State} (hk : Keeps w₀ s₀ s) (m : MemberId) (vc : BitVec 2) (ackSeq sack : BitVec 32) :
    Keeps w₀ s₀ (State.acknowledge s m vc ackSeq sack) := by
  unfold State.acknowledge
  repeat' first
    | with_reducible assumption
    | with_reducible apply State.setPair_keeps
    | with_reducible apply State.dropStaged_keeps
    | with_reducible apply State.sendAgain_keeps
    | with_reducible apply State.settleSync_keeps
    | with_reducible apply State.pumpPeer_keeps
    | with_reducible apply Keeps.each
    | with_reducible apply Keeps.ite
    | intro _
    | (with_reducible apply Keeps.cons; first | with_reducible assumption | with_reducible apply State.setPair_keeps | with_reducible apply State.dropStaged_keeps | with_reducible apply State.sendAgain_keeps | with_reducible apply State.settleSync_keeps | with_reducible apply State.pumpPeer_keeps | with_reducible apply Keeps.each | with_reducible apply Keeps.ite)
    | split
    | dsimp only

theorem State.sendAck_keeps {w₀ : Bool} {s₀ s : State} (hk : Keeps w₀ s₀ s) (m : MemberId) (vc : BitVec 2) :
    Keeps w₀ s₀ (State.sendAck s m vc) := by
  unfold State.sendAck
  repeat' first
    | with_reducible assumption
    | with_reducible apply State.setPair_keeps
    | with_reducible apply State.sendBare_keeps
    | with_reducible apply Keeps.each
    | with_reducible apply Keeps.ite
    | intro _
    | (with_reducible apply Keeps.cons; first | with_reducible assumption | with_reducible apply State.setPair_keeps | with_reducible apply State.sendBare_keeps | with_reducible apply Keeps.each | with_reducible apply Keeps.ite)
    | split
    | dsimp only

theorem State.sequence_all {w₀ : Bool} {s₀ s : State} (hk : Keeps w₀ s₀ s) (h : FrameHdr) :
    Keeps.Pair w₀ s₀ (State.sequence s h) := by
  unfold State.sequence
  repeat' first
    | with_reducible assumption
    | with_reducible apply State.raise_keeps
    | with_reducible apply State.bump_keeps
    | with_reducible apply State.sendAck_keeps
    | with_reducible apply State.setPair_keeps
    | with_reducible apply State.sendBare_keeps
    | with_reducible apply Keeps.each
    | with_reducible apply Keeps.ite
    | with_reducible apply Keeps.Pair.ite
    | intro _
    | (with_reducible apply Keeps.cons; first | with_reducible assumption | with_reducible apply State.raise_keeps | with_reducible apply State.bump_keeps | with_reducible apply State.sendAck_keeps | with_reducible apply State.setPair_keeps | with_reducible apply State.sendBare_keeps | with_reducible apply Keeps.each | with_reducible apply Keeps.ite)
    | split
    | dsimp only
    | with_reducible apply Keeps.Pair.pair

theorem State.receiveFrame_all {w₀ : Bool} {s₀ s : State} (hk : Keeps w₀ s₀ s) (h : FrameHdr) (p : Payload) :
    Keeps.Pair w₀ s₀ (State.receiveFrame s h p) := by
  unfold State.receiveFrame
  repeat' first
    | with_reducible assumption
    | with_reducible apply State.bump_keeps
    | with_reducible apply State.raiseOnce_keeps
    | with_reducible apply State.raise_keeps
    | with_reducible apply State.acknowledge_keeps
    | with_reducible refine Keeps.Pair.out (State.sequence_all ?_ _) ‹_›
    | with_reducible apply State.sequence_all
    | with_reducible refine Keeps.Pair.fst (State.sequence_all ?_ _)
    | with_reducible apply Keeps.each
    | with_reducible apply Keeps.ite
    | with_reducible apply Keeps.Pair.ite
    | intro _
    | (with_reducible apply Keeps.cons; first | with_reducible assumption | with_reducible apply State.bump_keeps | with_reducible apply State.raiseOnce_keeps | with_reducible apply State.raise_keeps | with_reducible apply State.acknowledge_keeps | with_reducible refine Keeps.Pair.out (State.sequence_all ?_ _) ‹_› | with_reducible apply State.sequence_all | with_reducible refine Keeps.Pair.fst (State.sequence_all ?_ _) | with_reducible apply Keeps.each | with_reducible apply Keeps.ite)
    | split
    | dsimp only
    | with_reducible apply Keeps.Pair.pair

theorem State.receiveSync_keeps {w₀ : Bool} {s₀ s : State} (hk : Keeps w₀ s₀ s) (m : MemberId) (y : SyncBody) :
    Keeps w₀ s₀ (State.receiveSync s m y) := by
  unfold State.receiveSync
  repeat' first
    | with_reducible assumption
    | with_reducible apply State.raise_keeps
    | with_reducible apply State.setPair_keeps
    | with_reducible apply State.sendAck_keeps
    | with_reducible apply State.bump_keeps
    | with_reducible apply Keeps.each
    | with_reducible apply Keeps.ite
    | intro _
    | (with_reducible apply Keeps.cons; first | with_reducible assumption | with_reducible apply State.raise_keeps | with_reducible apply State.setPair_keeps | with_reducible apply State.sendAck_keeps | with_reducible apply State.bump_keeps | with_reducible apply Keeps.each | with_reducible apply Keeps.ite)
    | split
    | dsimp only

theorem State.ackExpiry_keeps {w₀ : Bool} {s₀ s : State} (hk : Keeps w₀ s₀ s) (m : MemberId) (vc : BitVec 2) :
    Keeps w₀ s₀ (State.ackExpiry s m vc) := by
  unfold State.ackExpiry
  repeat' first
    | with_reducible assumption
    | with_reducible apply State.until_keeps
    | with_reducible apply State.sendBare_keeps
    | with_reducible apply Keeps.each
    | with_reducible apply Keeps.ite
    | intro _
    | (with_reducible apply Keeps.cons; first | with_reducible assumption | with_reducible apply State.until_keeps | with_reducible apply State.sendBare_keeps | with_reducible apply Keeps.each | with_reducible apply Keeps.ite)
    | split
    | dsimp only

theorem State.rtoExpire_keeps {w₀ : Bool} {s₀ s : State} (hk : Keeps w₀ s₀ s) (m : MemberId) (vc : BitVec 2) (seq : BitVec 32) :
    Keeps w₀ s₀ (State.rtoExpire s m vc seq) := by
  unfold State.rtoExpire
  repeat' first
    | with_reducible assumption
    | with_reducible apply State.until_keeps
    | with_reducible apply State.sendAgain_keeps
    | with_reducible apply Keeps.each
    | with_reducible apply Keeps.ite
    | intro _
    | (with_reducible apply Keeps.cons; first | with_reducible assumption | with_reducible apply State.until_keeps | with_reducible apply State.sendAgain_keeps | with_reducible apply Keeps.each | with_reducible apply Keeps.ite)
    | split
    | dsimp only

theorem State.resendFrom_keeps {w₀ : Bool} {s₀ s : State} (hk : Keeps w₀ s₀ s) (port : Fin 16) :
    Keeps w₀ s₀ (State.resendFrom s port) := by
  unfold State.resendFrom
  repeat' first
    | with_reducible assumption
    | with_reducible apply State.transmit_keeps
    | with_reducible apply Keeps.each
    | with_reducible apply Keeps.ite
    | intro _
    | (with_reducible apply Keeps.cons; first | with_reducible assumption | with_reducible apply State.transmit_keeps | with_reducible apply Keeps.each | with_reducible apply Keeps.ite)
    | split
    | dsimp only

theorem State.portDown_keeps {w₀ : Bool} {s₀ s : State} (hk : Keeps w₀ s₀ s) (p : Fin 16) :
    Keeps w₀ s₀ (State.portDown s p) := by
  unfold State.portDown
  repeat' first
    | with_reducible assumption
    | with_reducible apply State.setEgress_keeps
    | with_reducible apply State.setMac_keeps
    | with_reducible apply State.bump_keeps
    | with_reducible apply State.raiseOnce_keeps
    | with_reducible apply State.resendFrom_keeps
    | with_reducible apply Keeps.each
    | with_reducible apply Keeps.ite
    | intro _
    | (with_reducible apply Keeps.cons; first | with_reducible assumption | with_reducible apply State.setEgress_keeps | with_reducible apply State.setMac_keeps | with_reducible apply State.bump_keeps | with_reducible apply State.raiseOnce_keeps | with_reducible apply State.resendFrom_keeps | with_reducible apply Keeps.each | with_reducible apply Keeps.ite)
    | split
    | dsimp only

theorem State.portHold_keeps {w₀ : Bool} {s₀ s : State} (hk : Keeps w₀ s₀ s) (p : Fin 16) :
    Keeps w₀ s₀ (State.portHold s p) := by
  unfold State.portHold
  repeat' first
    | with_reducible assumption
    | with_reducible apply State.until_keeps
    | with_reducible apply State.setMac_keeps
    | with_reducible apply State.transmit_keeps
    | with_reducible apply Keeps.each
    | with_reducible apply Keeps.ite
    | intro _
    | (with_reducible apply Keeps.cons; first | with_reducible assumption | with_reducible apply State.until_keeps | with_reducible apply State.setMac_keeps | with_reducible apply State.transmit_keeps | with_reducible apply Keeps.each | with_reducible apply Keeps.ite)
    | split
    | dsimp only

theorem State.leave_keeps {w₀ : Bool} {s₀ s : State} (hk : Keeps w₀ s₀ s) (p : Fin 16) (e : Egress) :
    Keeps w₀ s₀ (State.leave s p e) := by
  unfold State.leave
  repeat' first
    | with_reducible assumption
    | with_reducible apply State.emit_keeps
    | with_reducible apply State.setPair_keeps
    | with_reducible apply Keeps.each
    | with_reducible apply Keeps.ite
    | intro _
    | (with_reducible apply Keeps.cons; first | with_reducible assumption | with_reducible apply State.emit_keeps | with_reducible apply State.setPair_keeps | with_reducible apply Keeps.each | with_reducible apply Keeps.ite)
    | split
    | dsimp only

theorem State.portPause_keeps {w₀ : Bool} {s₀ s : State} (hk : Keeps w₀ s₀ s) (p : Fin 16) (status : BitVec 8) :
    Keeps w₀ s₀ (State.portPause s p status) := by
  unfold State.portPause
  repeat' first
    | with_reducible assumption
    | with_reducible apply State.setMac_keeps
    | with_reducible apply State.setEgress_keeps
    | with_reducible apply State.leave_keeps
    | with_reducible apply Keeps.each
    | with_reducible apply Keeps.ite
    | intro _
    | (with_reducible apply Keeps.cons; first | with_reducible assumption | with_reducible apply State.setMac_keeps | with_reducible apply State.setEgress_keeps | with_reducible apply State.leave_keeps | with_reducible apply Keeps.each | with_reducible apply Keeps.ite)
    | split
    | dsimp only

theorem State.requestPause_keeps {w₀ : Bool} {s₀ s : State} (hk : Keeps w₀ s₀ s) (on : Bool) :
    Keeps w₀ s₀ (State.requestPause s on) := by
  unfold State.requestPause
  repeat' first
    | with_reducible assumption
    | with_reducible apply State.setMac_keeps
    | with_reducible apply State.bump_keeps
    | with_reducible apply Keeps.each
    | with_reducible apply Keeps.ite
    | intro _
    | (with_reducible apply Keeps.cons; first | with_reducible assumption | with_reducible apply State.setMac_keeps | with_reducible apply State.bump_keeps | with_reducible apply Keeps.each | with_reducible apply Keeps.ite)
    | split
    | dsimp only

theorem State.sendSync_keeps {w₀ : Bool} {s₀ s : State} (hk : Keeps w₀ s₀ s) (m : MemberId) (y : SyncOut) :
    Keeps w₀ s₀ (State.sendSync s m y) := by
  unfold State.sendSync
  repeat' first
    | with_reducible assumption
    | with_reducible apply State.sendBare_keeps
    | with_reducible apply Keeps.each
    | with_reducible apply Keeps.ite
    | intro _
    | (with_reducible apply Keeps.cons; first | with_reducible assumption | with_reducible apply State.sendBare_keeps | with_reducible apply Keeps.each | with_reducible apply Keeps.ite)
    | split
    | dsimp only

theorem State.purgeReplay_keeps {w₀ : Bool} {s₀ s : State} (hk : Keeps w₀ s₀ s) :
    Keeps w₀ s₀ (State.purgeReplay s) := by
  unfold State.purgeReplay
  repeat' first
    | with_reducible assumption
    | with_reducible apply State.setEgress_keeps
    | with_reducible apply State.dropStaged_keeps
    | with_reducible apply State.setPair_keeps
    | with_reducible apply State.sendSync_keeps
    | with_reducible apply Keeps.each
    | with_reducible apply Keeps.ite
    | intro _
    | (with_reducible apply Keeps.cons; first | with_reducible assumption | with_reducible apply State.setEgress_keeps | with_reducible apply State.dropStaged_keeps | with_reducible apply State.setPair_keeps | with_reducible apply State.sendSync_keeps | with_reducible apply Keeps.each | with_reducible apply Keeps.ite)
    | split
    | dsimp only

theorem State.syncExpire_keeps {w₀ : Bool} {s₀ s : State} (hk : Keeps w₀ s₀ s) (m : MemberId) :
    Keeps w₀ s₀ (State.syncExpire s m) := by
  unfold State.syncExpire
  repeat' first
    | with_reducible assumption
    | with_reducible apply State.until_keeps
    | with_reducible apply State.retransmitLimit_keeps
    | with_reducible apply State.sendSync_keeps
    | with_reducible apply Keeps.each
    | with_reducible apply Keeps.ite
    | intro _
    | (with_reducible apply Keeps.cons; first | with_reducible assumption | with_reducible apply State.until_keeps | with_reducible apply State.retransmitLimit_keeps | with_reducible apply State.sendSync_keeps | with_reducible apply Keeps.each | with_reducible apply Keeps.ite)
    | split
    | dsimp only

theorem State.dropPeer_keeps {w₀ : Bool} {s₀ s : State} (hk : Keeps w₀ s₀ s) (m : MemberId) :
    Keeps w₀ s₀ (State.dropPeer s m) := by
  unfold State.dropPeer
  repeat' first
    | with_reducible assumption
    | with_reducible apply State.dropStaged_keeps
    | with_reducible apply Keeps.each
    | with_reducible apply Keeps.ite
    | intro _
    | (with_reducible apply Keeps.cons; first | with_reducible assumption | with_reducible apply State.dropStaged_keeps | with_reducible apply Keeps.each | with_reducible apply Keeps.ite)
    | split
    | dsimp only

end Sys2Proof.Machine
end

