-- ==== Sys2Proof/Laws/KeepsLanes.lean ====
section
/-! SUPPORT. What the operations of Machine/Lanes.lean keep (`Keeps`). -/

set_option Elab.async false

namespace Sys2Proof.Machine

theorem State.setLane_keeps {w₀ : Bool} {s₀ s : State} (hk : Keeps w₀ s₀ s) (l : Nat) (v : Lane) :
    Keeps w₀ s₀ (State.setLane s l v) := by
  unfold State.setLane
  repeat' first
    | with_reducible assumption
    | with_reducible apply Keeps.each
    | with_reducible apply Keeps.ite
    | intro _
    | (with_reducible apply Keeps.cons; first | with_reducible assumption | with_reducible apply Keeps.each | with_reducible apply Keeps.ite)
    | split
    | dsimp only

theorem State.emitMortar_keeps {w₀ : Bool} {s₀ s : State} (hk : Keeps w₀ s₀ s) (o : MortarOut) :
    Keeps w₀ s₀ (State.emitMortar s o) := by
  unfold State.emitMortar
  repeat' first
    | with_reducible assumption
    | with_reducible apply State.bump_keeps
    | with_reducible apply Keeps.each
    | with_reducible apply Keeps.ite
    | intro _
    | (with_reducible apply Keeps.cons; first | with_reducible assumption | with_reducible apply State.bump_keeps | with_reducible apply Keeps.each | with_reducible apply Keeps.ite)
    | split
    | dsimp only

theorem State.sendLane_keeps {w₀ : Bool} {s₀ s : State} (hk : Keeps w₀ s₀ s) (l : Nat) (origin : MemberId) (down : Bool) (b : MortarBody) :
    Keeps w₀ s₀ (State.sendLane s l origin down b) := by
  unfold State.sendLane
  repeat' first
    | with_reducible assumption
    | with_reducible apply State.emitMortar_keeps
    | with_reducible apply State.setLane_keeps
    | with_reducible apply Keeps.each
    | with_reducible apply Keeps.ite
    | intro _
    | (with_reducible apply Keeps.cons; first | with_reducible assumption | with_reducible apply State.emitMortar_keeps | with_reducible apply State.setLane_keeps | with_reducible apply Keeps.each | with_reducible apply Keeps.ite)
    | split
    | dsimp only

theorem State.sendUp_keeps {w₀ : Bool} {s₀ s : State} (hk : Keeps w₀ s₀ s) (origin : MemberId) (b : MortarBody) :
    Keeps w₀ s₀ (State.sendUp s origin b) := by
  unfold State.sendUp
  repeat' first
    | with_reducible assumption
    | with_reducible apply State.sendLane_keeps
    | with_reducible apply Keeps.each
    | with_reducible apply Keeps.ite
    | intro _
    | (with_reducible apply Keeps.cons; first | with_reducible assumption | with_reducible apply State.sendLane_keeps | with_reducible apply Keeps.each | with_reducible apply Keeps.ite)
    | split
    | dsimp only

theorem State.sendDown_keeps {w₀ : Bool} {s₀ s : State} (hk : Keeps w₀ s₀ s) (origin : MemberId) (b : MortarBody) :
    Keeps w₀ s₀ (State.sendDown s origin b) := by
  unfold State.sendDown
  repeat' first
    | with_reducible assumption
    | with_reducible apply State.sendLane_keeps
    | with_reducible apply Keeps.each
    | with_reducible apply Keeps.ite
    | intro _
    | (with_reducible apply Keeps.cons; first | with_reducible assumption | with_reducible apply State.sendLane_keeps | with_reducible apply Keeps.each | with_reducible apply Keeps.ite)
    | split
    | dsimp only

theorem State.laneResend_keeps {w₀ : Bool} {s₀ s : State} (hk : Keeps w₀ s₀ s) (l : Nat) (seq : BitVec 8) :
    Keeps w₀ s₀ (State.laneResend s l seq) := by
  unfold State.laneResend
  repeat' first
    | with_reducible assumption
    | with_reducible apply State.emitMortar_keeps
    | with_reducible apply Keeps.each
    | with_reducible apply Keeps.ite
    | intro _
    | (with_reducible apply Keeps.cons; first | with_reducible assumption | with_reducible apply State.emitMortar_keeps | with_reducible apply Keeps.each | with_reducible apply Keeps.ite)
    | split
    | dsimp only

theorem State.sendNak_keeps {w₀ : Bool} {s₀ s : State} (hk : Keeps w₀ s₀ s) (l : Nat) :
    Keeps w₀ s₀ (State.sendNak s l) := by
  unfold State.sendNak
  repeat' first
    | with_reducible assumption
    | with_reducible apply State.emitMortar_keeps
    | with_reducible apply State.bump_keeps
    | with_reducible apply Keeps.each
    | with_reducible apply Keeps.ite
    | intro _
    | (with_reducible apply Keeps.cons; first | with_reducible assumption | with_reducible apply State.emitMortar_keeps | with_reducible apply State.bump_keeps | with_reducible apply Keeps.each | with_reducible apply Keeps.ite)
    | split
    | dsimp only

theorem State.laneReceive_all {w₀ : Bool} {s₀ s : State} (hk : Keeps w₀ s₀ s) (l : Nat) (h : MortarHdr) (b : MortarBody) :
    Keeps.Pair w₀ s₀ (State.laneReceive s l h b) := by
  unfold State.laneReceive
  cases b <;> dsimp only
  repeat' first
    | with_reducible assumption
    | with_reducible apply State.bump_keeps
    | with_reducible apply State.setLane_keeps
    | with_reducible apply State.accept_keeps
    | with_reducible apply State.sendNak_keeps
    | with_reducible apply State.raise_keeps
    | with_reducible apply Keeps.each
    | with_reducible apply Keeps.ite
    | with_reducible apply Keeps.Pair.ite
    | intro _
    | (with_reducible apply Keeps.cons; first | with_reducible assumption | with_reducible apply State.bump_keeps | with_reducible apply State.setLane_keeps | with_reducible apply State.accept_keeps | with_reducible apply State.sendNak_keeps | with_reducible apply State.raise_keeps | with_reducible apply Keeps.each | with_reducible apply Keeps.ite)
    | split
    | dsimp only
    | with_reducible apply Keeps.Pair.pair

theorem State.sendIdent_keeps {w₀ : Bool} {s₀ s : State} (hk : Keeps w₀ s₀ s) (l : Nat) :
    Keeps w₀ s₀ (State.sendIdent s l) := by
  unfold State.sendIdent
  repeat' first
    | with_reducible assumption
    | with_reducible apply State.emitMortar_keeps
    | with_reducible apply Keeps.each
    | with_reducible apply Keeps.ite
    | intro _
    | (with_reducible apply Keeps.cons; first | with_reducible assumption | with_reducible apply State.emitMortar_keeps | with_reducible apply Keeps.each | with_reducible apply Keeps.ite)
    | split
    | dsimp only

theorem State.joinBy_keeps {w₀ : Bool} {s₀ s : State} (hk : Keeps w₀ s₀ s) (l : Nat) :
    Keeps w₀ s₀ (State.joinBy s l) := by
  unfold State.joinBy
  repeat' first
    | with_reducible assumption
    | with_reducible apply Keeps.each
    | with_reducible apply Keeps.ite
    | intro _
    | (with_reducible apply Keeps.cons; first | with_reducible assumption | with_reducible apply Keeps.each | with_reducible apply Keeps.ite)
    | split
    | dsimp only

theorem State.laneIdent_keeps {w₀ : Bool} {s₀ s : State} (hk : Keeps w₀ s₀ s) (l : Nat) (member : MemberId) (role : BitVec 8) (pos : BitVec 16) :
    Keeps w₀ s₀ (State.laneIdent s l member role pos) := by
  unfold State.laneIdent
  repeat' first
    | with_reducible assumption
    | with_reducible apply State.setLane_keeps
    | with_reducible apply State.sendIdent_keeps
    | with_reducible apply State.joinBy_keeps
    | with_reducible apply Keeps.each
    | with_reducible apply Keeps.ite
    | intro _
    | (with_reducible apply Keeps.cons; first | with_reducible assumption | with_reducible apply State.setLane_keeps | with_reducible apply State.sendIdent_keeps | with_reducible apply State.joinBy_keeps | with_reducible apply Keeps.each | with_reducible apply Keeps.ite)
    | split
    | dsimp only

theorem State.heartbeats_keeps {w₀ : Bool} {s₀ s : State} (hk : Keeps w₀ s₀ s) :
    Keeps w₀ s₀ (State.heartbeats s) := by
  unfold State.heartbeats
  repeat' first
    | with_reducible assumption
    | with_reducible apply State.until_keeps
    | with_reducible apply State.sendLane_keeps
    | with_reducible apply Keeps.each
    | with_reducible apply Keeps.ite
    | intro _
    | (with_reducible apply Keeps.cons; first | with_reducible assumption | with_reducible apply State.until_keeps | with_reducible apply State.sendLane_keeps | with_reducible apply Keeps.each | with_reducible apply Keeps.ite)
    | split
    | dsimp only

theorem State.calRequest_keeps {w₀ : Bool} {s₀ s : State} (hk : Keeps w₀ s₀ s) (l : Nat) :
    Keeps w₀ s₀ (State.calRequest s l) := by
  unfold State.calRequest
  repeat' first
    | with_reducible assumption
    | with_reducible apply State.sendLane_keeps
    | with_reducible apply State.useFree_keeps
    | with_reducible apply Keeps.each
    | with_reducible apply Keeps.ite
    | intro _
    | (with_reducible apply Keeps.cons; first | with_reducible assumption | with_reducible apply State.sendLane_keeps | with_reducible apply State.useFree_keeps | with_reducible apply Keeps.each | with_reducible apply Keeps.ite)
    | split
    | dsimp only

theorem State.calibrate_keeps {w₀ : Bool} {s₀ s : State} (hk : Keeps w₀ s₀ s) :
    Keeps w₀ s₀ (State.calibrate s) := by
  unfold State.calibrate
  repeat' first
    | with_reducible assumption
    | with_reducible apply State.until_keeps
    | with_reducible apply State.calRequest_keeps
    | with_reducible apply Keeps.each
    | with_reducible apply Keeps.ite
    | intro _
    | (with_reducible apply Keeps.cons; first | with_reducible assumption | with_reducible apply State.until_keeps | with_reducible apply State.calRequest_keeps | with_reducible apply Keeps.each | with_reducible apply Keeps.ite)
    | split
    | dsimp only

theorem State.calAnswer_keeps {w₀ : Bool} {s₀ s : State} (hk : Keeps w₀ s₀ s) (l : Nat) (t1 : BitVec 64) :
    Keeps w₀ s₀ (State.calAnswer s l t1) := by
  unfold State.calAnswer
  repeat' first
    | with_reducible assumption
    | with_reducible apply State.sendLane_keeps
    | with_reducible apply State.useFree_keeps
    | with_reducible apply Keeps.each
    | with_reducible apply Keeps.ite
    | intro _
    | (with_reducible apply Keeps.cons; first | with_reducible assumption | with_reducible apply State.sendLane_keeps | with_reducible apply State.useFree_keeps | with_reducible apply Keeps.each | with_reducible apply Keeps.ite)
    | split
    | dsimp only

theorem State.stepTimebase_keeps {w₀ : Bool} {s₀ s : State} (hk : Keeps w₀ s₀ s) (d : Int) :
    Keeps w₀ s₀ (State.stepTimebase s d) := by
  unfold State.stepTimebase
  repeat' first
    | with_reducible assumption
    | with_reducible apply State.setLane_keeps
    | with_reducible apply State.setMac_keeps
    | with_reducible apply Keeps.each
    | with_reducible apply Keeps.ite
    | intro _
    | (with_reducible apply Keeps.cons; first | with_reducible assumption | with_reducible apply State.setLane_keeps | with_reducible apply State.setMac_keeps | with_reducible apply Keeps.each | with_reducible apply Keeps.ite)
    | split
    | dsimp only

theorem State.checkOffset_keeps {w₀ : Bool} {s₀ s : State} (hk : Keeps w₀ s₀ s) (offset : Int) :
    Keeps w₀ s₀ (State.checkOffset s offset) := by
  unfold State.checkOffset
  repeat' first
    | with_reducible assumption
    | with_reducible apply State.bump_keeps
    | with_reducible apply State.raise_keeps
    | with_reducible apply Keeps.each
    | with_reducible apply Keeps.ite
    | intro _
    | (with_reducible apply Keeps.cons; first | with_reducible assumption | with_reducible apply State.bump_keeps | with_reducible apply State.raise_keeps | with_reducible apply Keeps.each | with_reducible apply Keeps.ite)
    | split
    | dsimp only

theorem State.parentExchange_keeps {w₀ : Bool} {s₀ s : State} (hk : Keeps w₀ s₀ s) (delay offset : Int) :
    Keeps w₀ s₀ (State.parentExchange s delay offset) := by
  unfold State.parentExchange
  repeat' first
    | with_reducible assumption
    | with_reducible apply State.checkOffset_keeps
    | with_reducible apply State.stepTimebase_keeps
    | with_reducible apply Keeps.each
    | with_reducible apply Keeps.ite
    | intro _
    | (with_reducible apply Keeps.cons; first | with_reducible assumption | with_reducible apply State.checkOffset_keeps | with_reducible apply State.stepTimebase_keeps | with_reducible apply Keeps.each | with_reducible apply Keeps.ite)
    | split
    | dsimp only

theorem State.calResult_keeps {w₀ : Bool} {s₀ s : State} (hk : Keeps w₀ s₀ s) (l : Nat) (t1 t2 t3 : BitVec 64) :
    Keeps w₀ s₀ (State.calResult s l t1 t2 t3) := by
  unfold State.calResult
  repeat' first
    | with_reducible assumption
    | with_reducible apply State.bump_keeps
    | with_reducible apply State.useFree_keeps
    | with_reducible apply State.parentExchange_keeps
    | with_reducible apply Keeps.each
    | with_reducible apply Keeps.ite
    | intro _
    | (with_reducible apply Keeps.cons; first | with_reducible assumption | with_reducible apply State.bump_keeps | with_reducible apply State.useFree_keeps | with_reducible apply State.parentExchange_keeps | with_reducible apply Keeps.each | with_reducible apply Keeps.ite)
    | split
    | dsimp only

theorem State.swapParents_keeps {w₀ : Bool} {s₀ s : State} (hk : Keeps w₀ s₀ s) :
    Keeps w₀ s₀ (State.swapParents s) := by
  unfold State.swapParents
  repeat' first
    | with_reducible assumption
    | with_reducible apply Keeps.each
    | with_reducible apply Keeps.ite
    | intro _
    | (with_reducible apply Keeps.cons; first | with_reducible assumption | with_reducible apply Keeps.each | with_reducible apply Keeps.ite)
    | split
    | dsimp only

end Sys2Proof.Machine
end

