-- ==== Sys2Proof/Laws/KeepsLayout.lean ====
section
/-! SUPPORT. What the operations of Machine/Layout.lean keep (`Keeps`). -/

set_option Elab.async false

namespace Sys2Proof.Machine

theorem State.setLayoutWindow_keeps {w₀ : Bool} {s₀ s : State} (hk : Keeps w₀ s₀ s) (c : Fin 16) (v : LayoutWindow) :
    Keeps w₀ s₀ (State.setLayoutWindow s c v) := by
  unfold State.setLayoutWindow
  repeat' first
    | with_reducible assumption
    | with_reducible apply Keeps.each
    | with_reducible apply Keeps.ite
    | intro _
    | (with_reducible apply Keeps.cons; first | with_reducible assumption | with_reducible apply Keeps.each | with_reducible apply Keeps.ite)
    | split
    | dsimp only

theorem State.layoutDone_keeps {w₀ : Bool} {s₀ s : State} (hk : Keeps w₀ s₀ s) (c : Fin 16) (reason : Option Nat) (id : Nat) :
    Keeps w₀ s₀ (State.layoutDone s c reason id) := by
  unfold State.layoutDone
  repeat' first
    | with_reducible assumption
    | with_reducible apply State.setLayoutWindow_keeps
    | with_reducible apply State.bump_keeps
    | with_reducible apply State.lateAnswer_keeps
    | with_reducible apply Keeps.each
    | with_reducible apply Keeps.ite
    | intro _
    | (with_reducible apply Keeps.cons; first | with_reducible assumption | with_reducible apply State.setLayoutWindow_keeps | with_reducible apply State.bump_keeps | with_reducible apply State.lateAnswer_keeps | with_reducible apply Keeps.each | with_reducible apply Keeps.ite)
    | split
    | dsimp only

theorem State.createDesc_keeps {w₀ : Bool} {s₀ s : State} (hk : Keeps w₀ s₀ s) (c : Fin 16) (b : List Byte) :
    Keeps w₀ s₀ (State.createDesc s c b) := by
  unfold State.createDesc
  repeat' first
    | with_reducible assumption
    | with_reducible apply State.raise_keeps
    | with_reducible apply State.layoutDone_keeps
    | with_reducible apply Keeps.write
    | with_reducible apply State.hostIssue_keeps
    | with_reducible apply Keeps.each
    | with_reducible apply Keeps.ite
    | intro _
    | (with_reducible apply Keeps.cons; first | with_reducible assumption | with_reducible apply State.raise_keeps | with_reducible apply State.layoutDone_keeps | with_reducible apply Keeps.write | with_reducible apply State.hostIssue_keeps | with_reducible apply Keeps.each | with_reducible apply Keeps.ite)
    | split
    | dsimp only

theorem State.registerAlloc_keeps {w₀ : Bool} {s₀ s : State} (hk : Keeps w₀ s₀ s) (c : Fin 16) (b : List Byte) :
    Keeps w₀ s₀ (State.registerAlloc s c b) := by
  unfold State.registerAlloc
  repeat' first
    | with_reducible assumption
    | with_reducible apply State.layoutDone_keeps
    | with_reducible apply Keeps.write
    | with_reducible apply Keeps.each
    | with_reducible apply Keeps.ite
    | intro _
    | (with_reducible apply Keeps.cons; first | with_reducible assumption | with_reducible apply State.layoutDone_keeps | with_reducible apply Keeps.write | with_reducible apply Keeps.each | with_reducible apply Keeps.ite)
    | split
    | dsimp only

theorem State.releaseDesc_keeps {w₀ : Bool} {s₀ s : State} (hk : Keeps w₀ s₀ s) (c : Fin 16) (b : List Byte) :
    Keeps w₀ s₀ (State.releaseDesc s c b) := by
  unfold State.releaseDesc
  repeat' first
    | with_reducible assumption
    | with_reducible apply State.layoutDone_keeps
    | with_reducible apply Keeps.each
    | with_reducible apply Keeps.ite
    | intro _
    | (with_reducible apply Keeps.cons; first | with_reducible assumption | with_reducible apply State.layoutDone_keeps | with_reducible apply Keeps.each | with_reducible apply Keeps.ite)
    | split
    | dsimp only

theorem State.releaseAlloc_keeps {w₀ : Bool} {s₀ s : State} (hk : Keeps w₀ s₀ s) (c : Fin 16) (b : List Byte) :
    Keeps w₀ s₀ (State.releaseAlloc s c b) := by
  unfold State.releaseAlloc
  repeat' first
    | with_reducible assumption
    | with_reducible apply State.layoutDone_keeps
    | with_reducible apply Keeps.each
    | with_reducible apply Keeps.ite
    | intro _
    | (with_reducible apply Keeps.cons; first | with_reducible assumption | with_reducible apply State.layoutDone_keeps | with_reducible apply Keeps.each | with_reducible apply Keeps.ite)
    | split
    | dsimp only

theorem State.layoutRequest_keeps {w₀ : Bool} {s₀ s : State} (hk : Keeps w₀ s₀ s) (c : Fin 16) (b : List Byte) :
    Keeps w₀ s₀ (State.layoutRequest s c b) := by
  unfold State.layoutRequest
  repeat' first
    | with_reducible assumption
    | with_reducible apply State.createDesc_keeps
    | with_reducible apply State.registerAlloc_keeps
    | with_reducible apply State.releaseDesc_keeps
    | with_reducible apply State.releaseAlloc_keeps
    | with_reducible apply State.layoutDone_keeps
    | with_reducible apply Keeps.each
    | with_reducible apply Keeps.ite
    | intro _
    | (with_reducible apply Keeps.cons; first | with_reducible assumption | with_reducible apply State.createDesc_keeps | with_reducible apply State.registerAlloc_keeps | with_reducible apply State.releaseDesc_keeps | with_reducible apply State.releaseAlloc_keeps | with_reducible apply State.layoutDone_keeps | with_reducible apply Keeps.each | with_reducible apply Keeps.ite)
    | split
    | dsimp only

theorem State.layoutRead_keeps {w₀ : Bool} {s₀ s : State} (hk : Keeps w₀ s₀ s) (c : Fin 16) :
    Keeps w₀ s₀ (State.layoutRead s c) := by
  unfold State.layoutRead
  repeat' first
    | with_reducible assumption
    | with_reducible apply State.answer_keeps
    | with_reducible apply State.setLayoutWindow_keeps
    | with_reducible apply State.stall_keeps
    | with_reducible apply Keeps.each
    | with_reducible apply Keeps.ite
    | intro _
    | (with_reducible apply Keeps.cons; first | with_reducible assumption | with_reducible apply State.answer_keeps | with_reducible apply State.setLayoutWindow_keeps | with_reducible apply State.stall_keeps | with_reducible apply Keeps.each | with_reducible apply Keeps.ite)
    | split
    | dsimp only

theorem State.damageDesc_keeps {w₀ : Bool} {s₀ s : State} (hk : Keeps w₀ s₀ s) (h : Nat) :
    Keeps w₀ s₀ (State.damageDesc s h) := by
  unfold State.damageDesc
  repeat' first
    | with_reducible assumption
    | with_reducible apply Keeps.each
    | with_reducible apply Keeps.ite
    | intro _
    | (with_reducible apply Keeps.cons; first | with_reducible assumption | with_reducible apply Keeps.each | with_reducible apply Keeps.ite)
    | split
    | dsimp only

theorem State.moveRefused_keeps {w₀ : Bool} {s₀ s : State} (hk : Keeps w₀ s₀ s) (code : BitVec 8) (unit : Nat) :
    Keeps w₀ s₀ (State.moveRefused s code unit) := by
  unfold State.moveRefused
  repeat' first
    | with_reducible assumption
    | with_reducible apply State.bump_keeps
    | with_reducible apply State.raise_keeps
    | with_reducible apply Keeps.each
    | with_reducible apply Keeps.ite
    | intro _
    | (with_reducible apply Keeps.cons; first | with_reducible assumption | with_reducible apply State.bump_keeps | with_reducible apply State.raise_keeps | with_reducible apply Keeps.each | with_reducible apply Keeps.ite)
    | split
    | dsimp only

theorem State.moveDone_keeps {w₀ : Bool} {s₀ s : State} (hk : Keeps w₀ s₀ s) (o : MoveOut) (aligned : Bool) :
    Keeps w₀ s₀ (State.moveDone s o aligned) := by
  unfold State.moveDone
  repeat' first
    | with_reducible assumption
    | with_reducible apply Keeps.write
    | with_reducible apply State.bump_keeps
    | with_reducible apply State.raise_keeps
    | with_reducible apply Keeps.each
    | with_reducible apply Keeps.ite
    | intro _
    | (with_reducible apply Keeps.cons; first | with_reducible assumption | with_reducible apply Keeps.write | with_reducible apply State.bump_keeps | with_reducible apply State.raise_keeps | with_reducible apply Keeps.each | with_reducible apply Keeps.ite)
    | split
    | dsimp only

theorem State.routerQuantise_keeps {w₀ : Bool} {s₀ s : State} (hk : Keeps w₀ s₀ s) (aux : Nat) :
    Keeps w₀ s₀ (State.routerQuantise s aux) := by
  unfold State.routerQuantise
  repeat' first
    | with_reducible assumption
    | with_reducible apply State.ok_keeps
    | with_reducible apply State.raise_keeps
    | with_reducible apply State.moveRefused_keeps
    | with_reducible apply State.bump_keeps
    | with_reducible apply State.moveDone_keeps
    | with_reducible apply Keeps.each
    | with_reducible apply Keeps.ite
    | intro _
    | (with_reducible apply Keeps.cons; first | with_reducible assumption | with_reducible apply State.ok_keeps | with_reducible apply State.raise_keeps | with_reducible apply State.moveRefused_keeps | with_reducible apply State.bump_keeps | with_reducible apply State.moveDone_keeps | with_reducible apply Keeps.each | with_reducible apply Keeps.ite)
    | split
    | dsimp only

theorem State.bufferFinds_all {w₀ : Bool} {s₀ s : State} (hk : Keeps w₀ s₀ s) (m : MoveRec) (o : MoveOut) (finds : List ReadFind) :
    Keeps.Pair w₀ s₀ (State.bufferFinds s m o finds) := by
  unfold State.bufferFinds
  repeat' first
    | with_reducible assumption
    | with_reducible apply State.foundWords_keeps
    | with_reducible apply State.useFree_keeps
    | with_reducible apply Keeps.each
    | with_reducible apply Keeps.ite
    | with_reducible apply Keeps.Pair.ite
    | intro _
    | (with_reducible apply Keeps.cons; first | with_reducible assumption | with_reducible apply State.foundWords_keeps | with_reducible apply State.useFree_keeps | with_reducible apply Keeps.each | with_reducible apply Keeps.ite)
    | split
    | dsimp only
    | with_reducible apply Keeps.Pair.pair

theorem State.runMove_keeps {w₀ : Bool} {s₀ s : State} (hk : Keeps w₀ s₀ s) (addr cls : Nat) (finds : List ReadFind) :
    Keeps w₀ s₀ (State.runMove s addr cls finds) := by
  unfold State.runMove
  repeat' first
    | with_reducible assumption
    | with_reducible apply State.raise_keeps
    | with_reducible apply State.routerQuantise_keeps
    | with_reducible apply State.moveRefused_keeps
    | with_reducible apply State.useFree_keeps
    | with_reducible refine Keeps.Pair.out (State.bufferFinds_all ?_ _ _ _) ‹_›
    | with_reducible apply State.bufferFinds_all
    | with_reducible refine Keeps.Pair.fst (State.bufferFinds_all ?_ _ _ _)
    | with_reducible apply State.moveDone_keeps
    | with_reducible apply Keeps.each
    | with_reducible apply Keeps.ite
    | intro _
    | (with_reducible apply Keeps.cons; first | with_reducible assumption | with_reducible apply State.raise_keeps | with_reducible apply State.routerQuantise_keeps | with_reducible apply State.moveRefused_keeps | with_reducible apply State.useFree_keeps | with_reducible refine Keeps.Pair.out (State.bufferFinds_all ?_ _ _ _) ‹_› | with_reducible apply State.bufferFinds_all | with_reducible refine Keeps.Pair.fst (State.bufferFinds_all ?_ _ _ _) | with_reducible apply State.moveDone_keeps | with_reducible apply Keeps.each | with_reducible apply Keeps.ite)
    | split
    | dsimp only

end Sys2Proof.Machine
end

