-- ==== Sys2Proof/Laws/KeepsJobs.lean ====
section
/-! SUPPORT. What the operations of Machine/Jobs.lean keep (`Keeps`). -/

set_option Elab.async false

namespace Sys2Proof.Machine

theorem State.countResults_keeps {w₀ : Bool} {s₀ s : State} (hk : Keeps w₀ s₀ s) (id : Nat) (f : Fmt) (l : List (FV × Nat)) :
    Keeps w₀ s₀ (State.countResults s id f l) := by
  unfold State.countResults
  repeat' first
    | with_reducible assumption
    | with_reducible apply State.bump_keeps
    | with_reducible apply Keeps.each
    | with_reducible apply Keeps.ite
    | intro _
    | (with_reducible apply Keeps.cons; first | with_reducible assumption | with_reducible apply State.bump_keeps | with_reducible apply Keeps.each | with_reducible apply Keeps.ite)
    | split
    | dsimp only

theorem State.runFunc_keeps {w₀ : Bool} {s₀ s : State} (hk : Keeps w₀ s₀ s) (addr : Nat) (finds : List ReadFind) :
    Keeps w₀ s₀ (State.runFunc s addr finds) := by
  unfold State.runFunc
  repeat' first
    | with_reducible assumption
    | with_reducible apply State.raise_keeps
    | with_reducible apply State.moveRefused_keeps
    | with_reducible apply State.foundWords_keeps
    | with_reducible apply State.useFree_keeps
    | with_reducible apply Keeps.write
    | with_reducible apply State.bump_keeps
    | with_reducible apply State.countResults_keeps
    | with_reducible apply Keeps.each
    | with_reducible apply Keeps.ite
    | intro _
    | (with_reducible apply Keeps.cons; first | with_reducible assumption | with_reducible apply State.raise_keeps | with_reducible apply State.moveRefused_keeps | with_reducible apply State.foundWords_keeps | with_reducible apply State.useFree_keeps | with_reducible apply Keeps.write | with_reducible apply State.bump_keeps | with_reducible apply State.countResults_keeps | with_reducible apply Keeps.each | with_reducible apply Keeps.ite)
    | split
    | dsimp only

end Sys2Proof.Machine
end

