-- ==== Sys2Proof/Laws/KeepsScoring.lean ====
section
/-! SUPPORT. What the operations of Machine/Scoring.lean keep (`Keeps`). -/

set_option Elab.async false

namespace Sys2Proof.Machine

theorem State.chunkNotice_keeps {w₀ : Bool} {s₀ s : State} (hk : Keeps w₀ s₀ s) (code : BitVec 8) (ctr n unit c : Nat) :
    Keeps w₀ s₀ (State.chunkNotice s code ctr n unit c) := by
  unfold State.chunkNotice
  repeat' first
    | with_reducible assumption
    | with_reducible apply State.bump_keeps
    | with_reducible apply State.raise_keeps
    | with_reducible apply Keeps.each
    | with_reducible apply Keeps.ite
    | intro _
    | (with_reducible apply Keeps.cons; first | with_reducible assumption | with_reducible apply State.bump_keeps | with_reducible apply State.raise_keeps | with_reducible apply Keeps.each | with_reducible apply Keeps.ite)
    | split
    | dsimp only

theorem State.normChunk_keeps {w₀ : Bool} {s₀ s : State} (hk : Keeps w₀ s₀ s) (c : Nat) :
    Keeps w₀ s₀ (State.normChunk s c) := by
  unfold State.normChunk
  repeat' first
    | with_reducible assumption
    | with_reducible apply State.ok_keeps
    | with_reducible apply State.raise_keeps
    | with_reducible apply State.countResults_keeps
    | with_reducible apply State.chunkNotice_keeps
    | with_reducible apply Keeps.each
    | with_reducible apply Keeps.ite
    | intro _
    | (with_reducible apply Keeps.cons; first | with_reducible assumption | with_reducible apply State.ok_keeps | with_reducible apply State.raise_keeps | with_reducible apply State.countResults_keeps | with_reducible apply State.chunkNotice_keeps | with_reducible apply Keeps.each | with_reducible apply Keeps.ite)
    | split
    | dsimp only

theorem State.loadInt4_keeps {w₀ : Bool} {s₀ s : State} (hk : Keeps w₀ s₀ s) (count : BitVec 64) :
    Keeps w₀ s₀ (State.loadInt4 s count) := by
  unfold State.loadInt4
  repeat' first
    | with_reducible assumption
    | with_reducible apply State.pass_keeps
    | with_reducible apply State.ok_keeps
    | with_reducible apply Keeps.each
    | with_reducible apply Keeps.ite
    | intro _
    | (with_reducible apply Keeps.cons; first | with_reducible assumption | with_reducible apply State.pass_keeps | with_reducible apply State.ok_keeps | with_reducible apply Keeps.each | with_reducible apply Keeps.ite)
    | split
    | dsimp only

theorem State.columnFault_keeps {w₀ : Bool} {s₀ s : State} (hk : Keeps w₀ s₀ s) (c : Nat) (x : ColumnError) :
    Keeps w₀ s₀ (State.columnFault s c x) := by
  unfold State.columnFault
  repeat' first
    | with_reducible assumption
    | with_reducible apply State.raise_keeps
    | with_reducible apply Keeps.each
    | with_reducible apply Keeps.ite
    | intro _
    | (with_reducible apply Keeps.cons; first | with_reducible assumption | with_reducible apply State.raise_keeps | with_reducible apply Keeps.each | with_reducible apply Keeps.ite)
    | split
    | dsimp only

theorem State.readOperands_keeps {w₀ : Bool} {s₀ s : State} (hk : Keeps w₀ s₀ s) (unit c : Nat) (hit : PairRec → Bool) (finds : List ReadFind) :
    Keeps w₀ s₀ (State.readOperands s unit c hit finds) := by
  unfold State.readOperands
  repeat' first
    | with_reducible assumption
    | with_reducible apply State.foundWords_keeps
    | with_reducible apply State.useFree_keeps
    | with_reducible apply Keeps.each
    | with_reducible apply Keeps.ite
    | intro _
    | (with_reducible apply Keeps.cons; first | with_reducible assumption | with_reducible apply State.foundWords_keeps | with_reducible apply State.useFree_keeps | with_reducible apply Keeps.each | with_reducible apply Keeps.ite)
    | split
    | dsimp only

theorem State.scoreChunk_keeps {w₀ : Bool} {s₀ s : State} (hk : Keeps w₀ s₀ s) (c : Nat) (errs : List ColumnError) (finds : List ReadFind) :
    Keeps w₀ s₀ (State.scoreChunk s c errs finds) := by
  unfold State.scoreChunk
  repeat' first
    | with_reducible assumption
    | with_reducible apply State.columnFault_keeps
    | with_reducible apply State.bump_keeps
    | with_reducible apply State.readOperands_keeps
    | with_reducible apply Keeps.each
    | with_reducible apply Keeps.ite
    | intro _
    | (with_reducible apply Keeps.cons; first | with_reducible assumption | with_reducible apply State.columnFault_keeps | with_reducible apply State.bump_keeps | with_reducible apply State.readOperands_keeps | with_reducible apply Keeps.each | with_reducible apply Keeps.ite)
    | split
    | dsimp only

theorem State.readPairs_keeps {w₀ : Bool} {s₀ s : State} (hk : Keeps w₀ s₀ s) (c : Nat) (finds : List ReadFind) (unit : Nat) :
    Keeps w₀ s₀ (State.readPairs s c finds unit) := by
  unfold State.readPairs
  repeat' first
    | with_reducible assumption
    | with_reducible apply State.foundWords_keeps
    | with_reducible apply State.useFree_keeps
    | with_reducible apply Keeps.each
    | with_reducible apply Keeps.ite
    | intro _
    | (with_reducible apply Keeps.cons; first | with_reducible assumption | with_reducible apply State.foundWords_keeps | with_reducible apply State.useFree_keeps | with_reducible apply Keeps.each | with_reducible apply Keeps.ite)
    | split
    | dsimp only

theorem State.rescoreChunk_keeps {w₀ : Bool} {s₀ s : State} (hk : Keeps w₀ s₀ s) (c : Nat) (finds : List ReadFind) :
    Keeps w₀ s₀ (State.rescoreChunk s c finds) := by
  unfold State.rescoreChunk
  repeat' first
    | with_reducible assumption
    | with_reducible apply State.readPairs_keeps
    | with_reducible apply State.bump_keeps
    | with_reducible apply State.readOperands_keeps
    | with_reducible apply Keeps.each
    | with_reducible apply Keeps.ite
    | intro _
    | (with_reducible apply Keeps.cons; first | with_reducible assumption | with_reducible apply State.readPairs_keeps | with_reducible apply State.bump_keeps | with_reducible apply State.readOperands_keeps | with_reducible apply Keeps.each | with_reducible apply Keeps.ite)
    | split
    | dsimp only

end Sys2Proof.Machine
end

