-- ==== Sys2Proof/Laws/KeepsSelection.lean ====
section
/-! SUPPORT. What the operations of Machine/Selection.lean keep (`Keeps`). -/

set_option Elab.async false

namespace Sys2Proof.Machine

theorem State.selectChunk_keeps {w₀ : Bool} {s₀ s : State} (hk : Keeps w₀ s₀ s) (c : Nat) :
    Keeps w₀ s₀ (State.selectChunk s c) := by
  unfold State.selectChunk
  repeat' first
    | with_reducible assumption
    | with_reducible apply State.ok_keeps
    | with_reducible apply State.raise_keeps
    | with_reducible apply Keeps.write
    | with_reducible apply State.bump_keeps
    | with_reducible apply State.countResults_keeps
    | with_reducible apply State.chunkNotice_keeps
    | with_reducible apply Keeps.each
    | with_reducible apply Keeps.ite
    | intro _
    | (with_reducible apply Keeps.cons; first | with_reducible assumption | with_reducible apply State.ok_keeps | with_reducible apply State.raise_keeps | with_reducible apply Keeps.write | with_reducible apply State.bump_keeps | with_reducible apply State.countResults_keeps | with_reducible apply State.chunkNotice_keeps | with_reducible apply Keeps.each | with_reducible apply Keeps.ite)
    | split
    | dsimp only

end Sys2Proof.Machine
end

