-- ==== Sys2Proof/Laws/KeepsTables.lean ====
section
/-! SUPPORT. What the operations of Machine/Tables.lean keep (`Keeps`). -/

set_option Elab.async false

namespace Sys2Proof.Machine

theorem State.scoreGranted_keeps {w₀ : Bool} {s₀ s : State} (hk : Keeps w₀ s₀ s) (c handle : Nat) :
    Keeps w₀ s₀ (State.scoreGranted s c handle) := by
  unfold State.scoreGranted
  repeat' first
    | with_reducible assumption
    | with_reducible apply Keeps.each
    | with_reducible apply Keeps.ite
    | intro _
    | (with_reducible apply Keeps.cons; first | with_reducible assumption | with_reducible apply Keeps.each | with_reducible apply Keeps.ite)
    | split
    | dsimp only

theorem State.takeScoring_keeps {w₀ : Bool} {s₀ s : State} (hk : Keeps w₀ s₀ s) (c : Nat) :
    Keeps w₀ s₀ (State.takeScoring s c) := by
  unfold State.takeScoring
  repeat' first
    | with_reducible assumption
    | with_reducible refine Keeps.Pair.out (State.requestBuffer_all ?_ _ _ _ _ _ _ _) ‹_›
    | with_reducible apply State.requestBuffer_all
    | with_reducible refine Keeps.Pair.fst (State.requestBuffer_all ?_ _ _ _ _ _ _ _)
    | with_reducible apply State.scoreGranted_keeps
    | with_reducible apply Keeps.each
    | with_reducible apply Keeps.ite
    | intro _
    | (with_reducible apply Keeps.cons; first | with_reducible assumption | with_reducible refine Keeps.Pair.out (State.requestBuffer_all ?_ _ _ _ _ _ _ _) ‹_› | with_reducible apply State.requestBuffer_all | with_reducible refine Keeps.Pair.fst (State.requestBuffer_all ?_ _ _ _ _ _ _ _) | with_reducible apply State.scoreGranted_keeps | with_reducible apply Keeps.each | with_reducible apply Keeps.ite)
    | split
    | dsimp only

theorem State.freeScoring_keeps {w₀ : Bool} {s₀ s : State} (hk : Keeps w₀ s₀ s) (c : Nat) :
    Keeps w₀ s₀ (State.freeScoring s c) := by
  unfold State.freeScoring
  repeat' first
    | with_reducible assumption
    | with_reducible apply State.dropOwn_keeps
    | with_reducible apply Keeps.each
    | with_reducible apply Keeps.ite
    | intro _
    | (with_reducible apply Keeps.cons; first | with_reducible assumption | with_reducible apply State.dropOwn_keeps | with_reducible apply Keeps.each | with_reducible apply Keeps.ite)
    | split
    | dsimp only

theorem State.releaseInbound_keeps {w₀ : Bool} {s₀ s : State} (hk : Keeps w₀ s₀ s) (h : Option Nat) :
    Keeps w₀ s₀ (State.releaseInbound s h) := by
  unfold State.releaseInbound
  repeat' first
    | with_reducible assumption
    | with_reducible apply State.dropOwn_keeps
    | with_reducible apply Keeps.each
    | with_reducible apply Keeps.ite
    | intro _
    | (with_reducible apply Keeps.cons; first | with_reducible assumption | with_reducible apply State.dropOwn_keeps | with_reducible apply Keeps.each | with_reducible apply Keeps.ite)
    | split
    | dsimp only

theorem State.openRx_keeps {w₀ : Bool} {s₀ s : State} (hk : Keeps w₀ s₀ s) (port : Fin 16) (handle : Option Nat) :
    Keeps w₀ s₀ (State.openRx s port handle) := by
  unfold State.openRx
  repeat' first
    | with_reducible assumption
    | with_reducible apply Keeps.each
    | with_reducible apply Keeps.ite
    | intro _
    | (with_reducible apply Keeps.cons; first | with_reducible assumption | with_reducible apply Keeps.each | with_reducible apply Keeps.ite)
    | split
    | dsimp only

theorem State.closeRx_keeps {w₀ : Bool} {s₀ s : State} (hk : Keeps w₀ s₀ s) :
    Keeps w₀ s₀ (State.closeRx s) := by
  unfold State.closeRx
  repeat' first
    | with_reducible assumption
    | with_reducible apply State.releaseInbound_keeps
    | with_reducible apply Keeps.each
    | with_reducible apply Keeps.ite
    | intro _
    | (with_reducible apply Keeps.cons; first | with_reducible assumption | with_reducible apply State.releaseInbound_keeps | with_reducible apply Keeps.each | with_reducible apply Keeps.ite)
    | split
    | dsimp only

theorem State.stageFrame_keeps {w₀ : Bool} {s₀ s : State} (hk : Keeps w₀ s₀ s) (h : FrameHdr) (p : Payload) :
    Keeps w₀ s₀ (State.stageFrame s h p) := by
  unfold State.stageFrame
  repeat' first
    | with_reducible assumption
    | with_reducible refine Keeps.Pair.out (State.requestBuffer_all ?_ _ _ _ _ _ _ _) ‹_›
    | with_reducible apply State.requestBuffer_all
    | with_reducible refine Keeps.Pair.fst (State.requestBuffer_all ?_ _ _ _ _ _ _ _)
    | with_reducible apply State.openRx_keeps
    | with_reducible apply Keeps.each
    | with_reducible apply Keeps.ite
    | intro _
    | (with_reducible apply Keeps.cons; first | with_reducible assumption | with_reducible refine Keeps.Pair.out (State.requestBuffer_all ?_ _ _ _ _ _ _ _) ‹_› | with_reducible apply State.requestBuffer_all | with_reducible refine Keeps.Pair.fst (State.requestBuffer_all ?_ _ _ _ _ _ _ _) | with_reducible apply State.openRx_keeps | with_reducible apply Keeps.each | with_reducible apply Keeps.ite)
    | split
    | dsimp only

theorem State.updatePause_keeps {w₀ : Bool} {s₀ s : State} (hk : Keeps w₀ s₀ s) :
    Keeps w₀ s₀ (State.updatePause s) := by
  unfold State.updatePause
  repeat' first
    | with_reducible assumption
    | with_reducible apply State.requestPause_keeps
    | with_reducible apply Keeps.each
    | with_reducible apply Keeps.ite
    | intro _
    | (with_reducible apply Keeps.cons; first | with_reducible assumption | with_reducible apply State.requestPause_keeps | with_reducible apply Keeps.each | with_reducible apply Keeps.ite)
    | split
    | dsimp only

theorem State.holdEarly_keeps {w₀ : Bool} {s₀ s : State} (hk : Keeps w₀ s₀ s) (h : FrameHdr) (p : Payload) :
    Keeps w₀ s₀ (State.holdEarly s h p) := by
  unfold State.holdEarly
  repeat' first
    | with_reducible assumption
    | with_reducible apply State.updatePause_keeps
    | with_reducible apply Keeps.each
    | with_reducible apply Keeps.ite
    | intro _
    | (with_reducible apply Keeps.cons; first | with_reducible assumption | with_reducible apply State.updatePause_keeps | with_reducible apply Keeps.each | with_reducible apply Keeps.ite)
    | split
    | dsimp only

theorem State.windowFault_keeps {w₀ : Bool} {s₀ s : State} (hk : Keeps w₀ s₀ s) (m : MemberId) (unit : Nat) :
    Keeps w₀ s₀ (State.windowFault s m unit) := by
  unfold State.windowFault
  repeat' first
    | with_reducible assumption
    | with_reducible apply State.raise_keeps
    | with_reducible apply Keeps.each
    | with_reducible apply Keeps.ite
    | intro _
    | (with_reducible apply Keeps.cons; first | with_reducible assumption | with_reducible apply State.raise_keeps | with_reducible apply Keeps.each | with_reducible apply Keeps.ite)
    | split
    | dsimp only

theorem State.bufferFrame_keeps {w₀ : Bool} {s₀ s : State} (hk : Keeps w₀ s₀ s) (h : FrameHdr) (p : Payload) :
    Keeps w₀ s₀ (State.bufferFrame s h p) := by
  unfold State.bufferFrame
  repeat' first
    | with_reducible assumption
    | with_reducible apply State.bump_keeps
    | with_reducible apply State.setMac_keeps
    | with_reducible apply Keeps.each
    | with_reducible apply Keeps.ite
    | intro _
    | (with_reducible apply Keeps.cons; first | with_reducible assumption | with_reducible apply State.bump_keeps | with_reducible apply State.setMac_keeps | with_reducible apply Keeps.each | with_reducible apply Keeps.ite)
    | split
    | dsimp only

theorem State.receiveStaged_keeps {w₀ : Bool} {s₀ s : State} (hk : Keeps w₀ s₀ s) (h : FrameHdr) (p : Payload) (b : Nat) (f : State → State) (hf : ∀ v, Keeps w₀ s₀ v → Keeps w₀ s₀ (f v)) :
    Keeps w₀ s₀ (State.receiveStaged s h p b f) := by
  unfold State.receiveStaged
  repeat' first
    | with_reducible assumption
    | apply hf
    | with_reducible refine Keeps.Pair.out (State.receiveFrame_all ?_ _ _) ‹_›
    | with_reducible apply State.receiveFrame_all
    | with_reducible refine Keeps.Pair.fst (State.receiveFrame_all ?_ _ _)
    | with_reducible apply State.openRx_keeps
    | with_reducible apply State.closeRx_keeps
    | with_reducible apply State.releaseInbound_keeps
    | with_reducible apply Keeps.each
    | with_reducible apply Keeps.ite
    | intro _
    | (with_reducible apply Keeps.cons; first | with_reducible assumption | with_reducible refine Keeps.Pair.out (State.receiveFrame_all ?_ _ _) ‹_› | with_reducible apply State.receiveFrame_all | with_reducible refine Keeps.Pair.fst (State.receiveFrame_all ?_ _ _) | with_reducible apply State.openRx_keeps | with_reducible apply State.closeRx_keeps | with_reducible apply State.releaseInbound_keeps | with_reducible apply Keeps.each | with_reducible apply Keeps.ite)
    | split
    | dsimp only

theorem State.receive_keeps {w₀ : Bool} {s₀ s : State} (hk : Keeps w₀ s₀ s) (h : FrameHdr) (p : Payload) (f : State → State) (hf : ∀ v, Keeps w₀ s₀ v → Keeps w₀ s₀ (f v)) :
    Keeps w₀ s₀ (State.receive s h p f) := by
  unfold State.receive
  repeat' first
    | with_reducible assumption
    | apply hf
    | with_reducible apply State.bufferFrame_keeps
    | with_reducible refine Keeps.Pair.out (State.receiveFrame_all ?_ _ _) ‹_›
    | with_reducible apply State.receiveFrame_all
    | with_reducible refine Keeps.Pair.fst (State.receiveFrame_all ?_ _ _)
    | with_reducible apply State.bump_keeps
    | with_reducible apply State.raise_keeps
    | with_reducible apply State.stageFrame_keeps
    | with_reducible apply State.closeRx_keeps
    | with_reducible refine Keeps.Pair.out (State.requestBuffer_all ?_ _ _ _ _ _ _ _) ‹_›
    | with_reducible apply State.requestBuffer_all
    | with_reducible refine Keeps.Pair.fst (State.requestBuffer_all ?_ _ _ _ _ _ _ _)
    | with_reducible apply Keeps.each
    | with_reducible apply Keeps.ite
    | intro _
    | (with_reducible apply Keeps.cons; first | with_reducible assumption | with_reducible apply State.bufferFrame_keeps | with_reducible refine Keeps.Pair.out (State.receiveFrame_all ?_ _ _) ‹_› | with_reducible apply State.receiveFrame_all | with_reducible refine Keeps.Pair.fst (State.receiveFrame_all ?_ _ _) | with_reducible apply State.bump_keeps | with_reducible apply State.raise_keeps | with_reducible apply State.stageFrame_keeps | with_reducible apply State.closeRx_keeps | with_reducible refine Keeps.Pair.out (State.requestBuffer_all ?_ _ _ _ _ _ _ _) ‹_› | with_reducible apply State.requestBuffer_all | with_reducible refine Keeps.Pair.fst (State.requestBuffer_all ?_ _ _ _ _ _ _ _) | with_reducible apply Keeps.each | with_reducible apply Keeps.ite)
    | split
    | dsimp only

end Sys2Proof.Machine
end

