-- ==== Sys2Proof/Laws/KeepsExchange.lean ====
section
/-! SUPPORT. What the operations of Machine/Exchange.lean keep (`Keeps`). -/

set_option Elab.async false

namespace Sys2Proof.Machine

theorem State.modAtt_keeps {w₀ : Bool} {s₀ s : State} (hk : Keeps w₀ s₀ s) (f : Attempt → Attempt) :
    Keeps w₀ s₀ (State.modAtt s f) := by
  unfold State.modAtt
  repeat' first
    | with_reducible assumption
    | with_reducible apply Keeps.each
    | with_reducible apply Keeps.ite
    | intro _
    | (with_reducible apply Keeps.cons; first | with_reducible assumption | with_reducible apply Keeps.each | with_reducible apply Keeps.ite)
    | split
    | dsimp only

theorem State.runCount_keeps {w₀ : Bool} {s₀ s : State} (hk : Keeps w₀ s₀ s) :
    Keeps w₀ s₀ (State.runCount s) := by
  unfold State.runCount
  repeat' first
    | with_reducible assumption
    | with_reducible apply State.ok_keeps
    | with_reducible apply State.raise_keeps
    | with_reducible apply State.modAtt_keeps
    | with_reducible apply State.sent_keeps
    | with_reducible apply State.send_keeps
    | with_reducible apply Keeps.each
    | with_reducible apply Keeps.ite
    | intro _
    | (with_reducible apply Keeps.cons; first | with_reducible assumption | with_reducible apply State.ok_keeps | with_reducible apply State.raise_keeps | with_reducible apply State.modAtt_keeps | with_reducible apply State.sent_keeps | with_reducible apply State.send_keeps | with_reducible apply Keeps.each | with_reducible apply Keeps.ite)
    | split
    | dsimp only

theorem State.allocate_keeps {w₀ : Bool} {s₀ s : State} (hk : Keeps w₀ s₀ s) :
    Keeps w₀ s₀ (State.allocate s) := by
  unfold State.allocate
  repeat' first
    | with_reducible assumption
    | with_reducible apply State.modAtt_keeps
    | with_reducible apply State.raise_keeps
    | with_reducible apply State.bump_keeps
    | with_reducible apply State.send_keeps
    | with_reducible apply Keeps.each
    | with_reducible apply Keeps.ite
    | intro _
    | (with_reducible apply Keeps.cons; first | with_reducible assumption | with_reducible apply State.modAtt_keeps | with_reducible apply State.raise_keeps | with_reducible apply State.bump_keeps | with_reducible apply State.send_keeps | with_reducible apply Keeps.each | with_reducible apply Keeps.ite)
    | split
    | dsimp only

theorem State.applyGrants_keeps {w₀ : Bool} {s₀ s : State} (hk : Keeps w₀ s₀ s) (q : Sequencer) :
    Keeps w₀ s₀ (State.applyGrants s q) := by
  unfold State.applyGrants
  repeat' first
    | with_reducible assumption
    | with_reducible apply Keeps.write
    | with_reducible apply State.modAtt_keeps
    | with_reducible apply State.bump_keeps
    | with_reducible apply State.raiseOnce_keeps
    | with_reducible apply Keeps.each
    | with_reducible apply Keeps.ite
    | intro _
    | (with_reducible apply Keeps.cons; first | with_reducible assumption | with_reducible apply Keeps.write | with_reducible apply State.modAtt_keeps | with_reducible apply State.bump_keeps | with_reducible apply State.raiseOnce_keeps | with_reducible apply Keeps.each | with_reducible apply Keeps.ite)
    | split
    | dsimp only

end Sys2Proof.Machine
end

