-- ==== Sys2Proof/Laws/KeepsSending.lean ====
section
/-! SUPPORT. What the operations of Machine/Sending.lean keep (`Keeps`). -/

set_option Elab.async false

namespace Sys2Proof.Machine

theorem State.sendCells_keeps {w₀ : Bool} {s₀ s : State} (hk : Keeps w₀ s₀ s) (m : MemberId) (l : List Cell) :
    Keeps w₀ s₀ (State.sendCells s m l) := by
  unfold State.sendCells
  repeat' first
    | with_reducible assumption
    | with_reducible apply State.send_keeps
    | with_reducible apply Keeps.each
    | with_reducible apply Keeps.ite
    | intro _
    | (with_reducible apply Keeps.cons; first | with_reducible assumption | with_reducible apply State.send_keeps | with_reducible apply Keeps.each | with_reducible apply Keeps.ite)
    | split
    | dsimp only

theorem State.sendManifests_keeps {w₀ : Bool} {s₀ s : State} (hk : Keeps w₀ s₀ s) (q : Sequencer) :
    Keeps w₀ s₀ (State.sendManifests s q) := by
  unfold State.sendManifests
  repeat' first
    | with_reducible assumption
    | with_reducible apply State.modAtt_keeps
    | with_reducible apply State.send_keeps
    | with_reducible apply Keeps.each
    | with_reducible apply Keeps.ite
    | intro _
    | (with_reducible apply Keeps.cons; first | with_reducible assumption | with_reducible apply State.modAtt_keeps | with_reducible apply State.send_keeps | with_reducible apply Keeps.each | with_reducible apply Keeps.ite)
    | split
    | dsimp only

theorem State.writeDispatchShapes_keeps {w₀ : Bool} {s₀ s : State} (hk : Keeps w₀ s₀ s) (q : Sequencer) :
    Keeps w₀ s₀ (State.writeDispatchShapes s q) := by
  unfold State.writeDispatchShapes
  repeat' first
    | with_reducible assumption
    | with_reducible apply Keeps.writeLe
    | with_reducible apply Keeps.each
    | with_reducible apply Keeps.ite
    | intro _
    | (with_reducible apply Keeps.cons; first | with_reducible assumption | with_reducible apply Keeps.writeLe | with_reducible apply Keeps.each | with_reducible apply Keeps.ite)
    | split
    | dsimp only

theorem State.issueRow_keeps {w₀ : Bool} {s₀ s : State} (hk : Keeps w₀ s₀ s) (row : Nat) :
    Keeps w₀ s₀ (State.issueRow s row) := by
  unfold State.issueRow
  repeat' first
    | with_reducible assumption
    | with_reducible apply State.hostIssue_keeps
    | with_reducible apply Keeps.each
    | with_reducible apply Keeps.ite
    | intro _
    | (with_reducible apply Keeps.cons; first | with_reducible assumption | with_reducible apply State.hostIssue_keeps | with_reducible apply Keeps.each | with_reducible apply Keeps.ite)
    | split
    | dsimp only

theorem State.placeCell_keeps {w₀ : Bool} {s₀ s : State} (hk : Keeps w₀ s₀ s) (hop : MemberId) (c : DispatchCell) :
    Keeps w₀ s₀ (State.placeCell s hop c) := by
  unfold State.placeCell
  repeat' first
    | with_reducible assumption
    | with_reducible apply Keeps.write
    | with_reducible apply State.issueRow_keeps
    | with_reducible apply State.modAtt_keeps
    | with_reducible apply State.bump_keeps
    | with_reducible apply Keeps.each
    | with_reducible apply Keeps.ite
    | intro _
    | (with_reducible apply Keeps.cons; first | with_reducible assumption | with_reducible apply Keeps.write | with_reducible apply State.issueRow_keeps | with_reducible apply State.modAtt_keeps | with_reducible apply State.bump_keeps | with_reducible apply Keeps.each | with_reducible apply Keeps.ite)
    | split
    | dsimp only

theorem State.settleCell_keeps {w₀ : Bool} {s₀ s : State} (hk : Keeps w₀ s₀ s) (hop : MemberId) (c : DispatchCell) :
    Keeps w₀ s₀ (State.settleCell s hop c) := by
  unfold State.settleCell
  repeat' first
    | with_reducible assumption
    | with_reducible apply State.raise_keeps
    | with_reducible apply State.placeCell_keeps
    | with_reducible apply Keeps.each
    | with_reducible apply Keeps.ite
    | intro _
    | (with_reducible apply Keeps.cons; first | with_reducible assumption | with_reducible apply State.raise_keeps | with_reducible apply State.placeCell_keeps | with_reducible apply Keeps.each | with_reducible apply Keeps.ite)
    | split
    | dsimp only

theorem State.setPop_keeps {w₀ : Bool} {s₀ s : State} (hk : Keeps w₀ s₀ s) (p : Fin 16) (code : Nat) :
    Keeps w₀ s₀ (State.setPop s p code) := by
  unfold State.setPop
  repeat' first
    | with_reducible assumption
    | with_reducible apply Keeps.each
    | with_reducible apply Keeps.ite
    | intro _
    | (with_reducible apply Keeps.cons; first | with_reducible assumption | with_reducible apply Keeps.each | with_reducible apply Keeps.ite)
    | split
    | dsimp only

theorem State.layoutRegion_keeps {w₀ : Bool} {s₀ s : State} (hk : Keeps w₀ s₀ s) :
    Keeps w₀ s₀ (State.layoutRegion s) := by
  unfold State.layoutRegion
  repeat' first
    | with_reducible assumption
    | with_reducible apply State.raise_keeps
    | with_reducible apply State.releaseInbound_keeps
    | with_reducible apply State.modAtt_keeps
    | with_reducible apply State.writeDispatchShapes_keeps
    | with_reducible apply State.setPop_keeps
    | with_reducible apply State.settleCell_keeps
    | with_reducible apply State.updatePause_keeps
    | with_reducible apply Keeps.each
    | with_reducible apply Keeps.ite
    | intro _
    | (with_reducible apply Keeps.cons; first | with_reducible assumption | with_reducible apply State.raise_keeps | with_reducible apply State.releaseInbound_keeps | with_reducible apply State.modAtt_keeps | with_reducible apply State.writeDispatchShapes_keeps | with_reducible apply State.setPop_keeps | with_reducible apply State.settleCell_keeps | with_reducible apply State.updatePause_keeps | with_reducible apply Keeps.each | with_reducible apply Keeps.ite)
    | split
    | dsimp only

theorem State.sortChunk_keeps {w₀ : Bool} {s₀ s : State} (hk : Keeps w₀ s₀ s) (c : Nat) :
    Keeps w₀ s₀ (State.sortChunk s c) := by
  unfold State.sortChunk
  repeat' first
    | with_reducible assumption
    | with_reducible apply State.ok_keeps
    | with_reducible apply State.raise_keeps
    | with_reducible apply State.modAtt_keeps
    | with_reducible apply Keeps.each
    | with_reducible apply Keeps.ite
    | intro _
    | (with_reducible apply Keeps.cons; first | with_reducible assumption | with_reducible apply State.ok_keeps | with_reducible apply State.raise_keeps | with_reducible apply State.modAtt_keeps | with_reducible apply Keeps.each | with_reducible apply Keeps.ite)
    | split
    | dsimp only

theorem State.dispatchChunk_keeps {w₀ : Bool} {s₀ s : State} (hk : Keeps w₀ s₀ s) (c : Nat) :
    Keeps w₀ s₀ (State.dispatchChunk s c) := by
  unfold State.dispatchChunk
  repeat' first
    | with_reducible assumption
    | with_reducible apply State.sendCells_keeps
    | with_reducible apply State.bump_keeps
    | with_reducible apply State.settleCell_keeps
    | with_reducible apply State.modAtt_keeps
    | with_reducible apply Keeps.each
    | with_reducible apply Keeps.ite
    | intro _
    | (with_reducible apply Keeps.cons; first | with_reducible assumption | with_reducible apply State.sendCells_keeps | with_reducible apply State.bump_keeps | with_reducible apply State.settleCell_keeps | with_reducible apply State.modAtt_keeps | with_reducible apply Keeps.each | with_reducible apply Keeps.ite)
    | split
    | dsimp only

theorem State.requestCell_keeps {w₀ : Bool} {s₀ s : State} (hk : Keeps w₀ s₀ s) (from_ : MemberId) (r : CellReq) :
    Keeps w₀ s₀ (State.requestCell s from_ r) := by
  unfold State.requestCell
  repeat' first
    | with_reducible assumption
    | with_reducible apply State.send_keeps
    | with_reducible apply Keeps.each
    | with_reducible apply Keeps.ite
    | intro _
    | (with_reducible apply Keeps.cons; first | with_reducible assumption | with_reducible apply State.send_keeps | with_reducible apply Keeps.each | with_reducible apply Keeps.ite)
    | split
    | dsimp only

theorem State.cellCrcFail_keeps {w₀ : Bool} {s₀ s : State} (hk : Keeps w₀ s₀ s) (hop : MemberId) (c : Cell) (r : CellReq) (ask : MemberId) :
    Keeps w₀ s₀ (State.cellCrcFail s hop c r ask) := by
  unfold State.cellCrcFail
  repeat' first
    | with_reducible assumption
    | with_reducible apply State.bump_keeps
    | with_reducible apply State.raiseOnce_keeps
    | with_reducible apply State.requestCell_keeps
    | with_reducible apply Keeps.each
    | with_reducible apply Keeps.ite
    | intro _
    | (with_reducible apply Keeps.cons; first | with_reducible assumption | with_reducible apply State.bump_keeps | with_reducible apply State.raiseOnce_keeps | with_reducible apply State.requestCell_keeps | with_reducible apply Keeps.each | with_reducible apply Keeps.ite)
    | split
    | dsimp only

theorem State.fanCell_keeps {w₀ : Bool} {s₀ s : State} (hk : Keeps w₀ s₀ s) (c : DispatchCell) (handle : Option Nat) :
    Keeps w₀ s₀ (State.fanCell s c handle) := by
  unfold State.fanCell
  repeat' first
    | with_reducible assumption
    | with_reducible apply State.modAtt_keeps
    | with_reducible apply State.bump_keeps
    | with_reducible apply State.send_keeps
    | with_reducible apply Keeps.each
    | with_reducible apply Keeps.ite
    | intro _
    | (with_reducible apply Keeps.cons; first | with_reducible assumption | with_reducible apply State.modAtt_keeps | with_reducible apply State.bump_keeps | with_reducible apply State.send_keeps | with_reducible apply Keeps.each | with_reducible apply Keeps.ite)
    | split
    | dsimp only

theorem State.forwardCell_keeps {w₀ : Bool} {s₀ s : State} (hk : Keeps w₀ s₀ s) (c : DispatchCell) :
    Keeps w₀ s₀ (State.forwardCell s c) := by
  unfold State.forwardCell
  repeat' first
    | with_reducible assumption
    | with_reducible refine Keeps.Pair.out (State.requestBuffer_all ?_ _ _ _ _ _ _ _) ‹_›
    | with_reducible apply State.requestBuffer_all
    | with_reducible refine Keeps.Pair.fst (State.requestBuffer_all ?_ _ _ _ _ _ _ _)
    | with_reducible apply State.fanCell_keeps
    | with_reducible apply Keeps.each
    | with_reducible apply Keeps.ite
    | intro _
    | (with_reducible apply Keeps.cons; first | with_reducible assumption | with_reducible refine Keeps.Pair.out (State.requestBuffer_all ?_ _ _ _ _ _ _ _) ‹_› | with_reducible apply State.requestBuffer_all | with_reducible refine Keeps.Pair.fst (State.requestBuffer_all ?_ _ _ _ _ _ _ _) | with_reducible apply State.fanCell_keeps | with_reducible apply Keeps.each | with_reducible apply Keeps.ite)
    | split
    | dsimp only

theorem State.noteCopy_keeps {w₀ : Bool} {s₀ s : State} (hk : Keeps w₀ s₀ s) (c : DispatchCell) :
    Keeps w₀ s₀ (State.noteCopy s c) := by
  unfold State.noteCopy
  repeat' first
    | with_reducible assumption
    | with_reducible apply State.modAtt_keeps
    | with_reducible apply Keeps.each
    | with_reducible apply Keeps.ite
    | intro _
    | (with_reducible apply Keeps.cons; first | with_reducible assumption | with_reducible apply State.modAtt_keeps | with_reducible apply Keeps.each | with_reducible apply Keeps.ite)
    | split
    | dsimp only

theorem State.sweepFanout_keeps {w₀ : Bool} {s₀ s : State} (hk : Keeps w₀ s₀ s) :
    Keeps w₀ s₀ (State.sweepFanout s) := by
  unfold State.sweepFanout
  repeat' first
    | with_reducible assumption
    | with_reducible apply State.dropOwn_keeps
    | with_reducible apply State.modAtt_keeps
    | with_reducible apply Keeps.each
    | with_reducible apply Keeps.ite
    | intro _
    | (with_reducible apply Keeps.cons; first | with_reducible assumption | with_reducible apply State.dropOwn_keeps | with_reducible apply State.modAtt_keeps | with_reducible apply Keeps.each | with_reducible apply Keeps.ite)
    | split
    | dsimp only

theorem State.mirrorCell_keeps {w₀ : Bool} {s₀ s : State} (hk : Keeps w₀ s₀ s) (hop : MemberId) (c : DispatchCell) :
    Keeps w₀ s₀ (State.mirrorCell s hop c) := by
  unfold State.mirrorCell
  repeat' first
    | with_reducible assumption
    | with_reducible apply State.noteCopy_keeps
    | with_reducible apply State.modAtt_keeps
    | with_reducible apply State.forwardCell_keeps
    | with_reducible apply Keeps.each
    | with_reducible apply Keeps.ite
    | intro _
    | (with_reducible apply Keeps.cons; first | with_reducible assumption | with_reducible apply State.noteCopy_keeps | with_reducible apply State.modAtt_keeps | with_reducible apply State.forwardCell_keeps | with_reducible apply Keeps.each | with_reducible apply Keeps.ite)
    | split
    | dsimp only

theorem State.takeDispatch_keeps {w₀ : Bool} {s₀ s : State} (hk : Keeps w₀ s₀ s) (hop : MemberId) (c : DispatchCell) :
    Keeps w₀ s₀ (State.takeDispatch s hop c) := by
  unfold State.takeDispatch
  repeat' first
    | with_reducible assumption
    | with_reducible apply State.mirrorCell_keeps
    | with_reducible apply State.cellCrcFail_keeps
    | with_reducible apply State.modAtt_keeps
    | with_reducible apply State.settleCell_keeps
    | with_reducible apply State.raise_keeps
    | with_reducible apply State.updatePause_keeps
    | with_reducible apply Keeps.each
    | with_reducible apply Keeps.ite
    | intro _
    | (with_reducible apply Keeps.cons; first | with_reducible assumption | with_reducible apply State.mirrorCell_keeps | with_reducible apply State.cellCrcFail_keeps | with_reducible apply State.modAtt_keeps | with_reducible apply State.settleCell_keeps | with_reducible apply State.raise_keeps | with_reducible apply State.updatePause_keeps | with_reducible apply Keeps.each | with_reducible apply Keeps.ite)
    | split
    | dsimp only

theorem State.takeManifest_keeps {w₀ : Bool} {s₀ s : State} (hk : Keeps w₀ s₀ s) (c : ManifestCell) :
    Keeps w₀ s₀ (State.takeManifest s c) := by
  unfold State.takeManifest
  repeat' first
    | with_reducible assumption
    | with_reducible apply State.modAtt_keeps
    | with_reducible apply State.layoutRegion_keeps
    | with_reducible apply Keeps.each
    | with_reducible apply Keeps.ite
    | intro _
    | (with_reducible apply Keeps.cons; first | with_reducible assumption | with_reducible apply State.modAtt_keeps | with_reducible apply State.layoutRegion_keeps | with_reducible apply Keeps.each | with_reducible apply Keeps.ite)
    | split
    | dsimp only

theorem State.resendDispatch_keeps {w₀ : Bool} {s₀ s : State} (hk : Keeps w₀ s₀ s) (r : CellReq) :
    Keeps w₀ s₀ (State.resendDispatch s r) := by
  unfold State.resendDispatch
  repeat' first
    | with_reducible assumption
    | with_reducible apply State.sendCells_keeps
    | with_reducible apply Keeps.each
    | with_reducible apply Keeps.ite
    | intro _
    | (with_reducible apply Keeps.cons; first | with_reducible assumption | with_reducible apply State.sendCells_keeps | with_reducible apply Keeps.each | with_reducible apply Keeps.ite)
    | split
    | dsimp only

theorem State.tileWritten_keeps {w₀ : Bool} {s₀ s : State} (hk : Keeps w₀ s₀ s) (firstRow : Nat) :
    Keeps w₀ s₀ (State.tileWritten s firstRow) := by
  unfold State.tileWritten
  repeat' first
    | with_reducible assumption
    | with_reducible apply State.modAtt_keeps
    | with_reducible apply Keeps.each
    | with_reducible apply Keeps.ite
    | intro _
    | (with_reducible apply Keeps.cons; first | with_reducible assumption | with_reducible apply State.modAtt_keeps | with_reducible apply Keeps.each | with_reducible apply Keeps.ite)
    | split
    | dsimp only

theorem State.enterTile_keeps {w₀ : Bool} {s₀ s : State} (hk : Keeps w₀ s₀ s) (staged : Nat → Bool) :
    Keeps w₀ s₀ (State.enterTile s staged) := by
  unfold State.enterTile
  repeat' first
    | with_reducible assumption
    | with_reducible apply State.placeItem_keeps
    | with_reducible apply State.bump_keeps
    | with_reducible apply State.modAtt_keeps
    | with_reducible apply Keeps.each
    | with_reducible apply Keeps.ite
    | intro _
    | (with_reducible apply Keeps.cons; first | with_reducible assumption | with_reducible apply State.placeItem_keeps | with_reducible apply State.bump_keeps | with_reducible apply State.modAtt_keeps | with_reducible apply Keeps.each | with_reducible apply Keeps.ite)
    | split
    | dsimp only

theorem State.popTile_keeps {w₀ : Bool} {s₀ s : State} (hk : Keeps w₀ s₀ s) (p : Fin 16) :
    Keeps w₀ s₀ (State.popTile s p) := by
  unfold State.popTile
  repeat' first
    | with_reducible assumption
    | with_reducible apply State.bump_keeps
    | with_reducible apply State.answer_keeps
    | with_reducible apply State.setQueue_keeps
    | with_reducible apply State.setPop_keeps
    | with_reducible apply Keeps.each
    | with_reducible apply Keeps.ite
    | intro _
    | (with_reducible apply Keeps.cons; first | with_reducible assumption | with_reducible apply State.bump_keeps | with_reducible apply State.answer_keeps | with_reducible apply State.setQueue_keeps | with_reducible apply State.setPop_keeps | with_reducible apply Keeps.each | with_reducible apply Keeps.ite)
    | split
    | dsimp only

theorem State.exchangeExpired_keeps {w₀ : Bool} {s₀ s : State} (hk : Keeps w₀ s₀ s) (at_ : Nat) (unit : Nat) :
    Keeps w₀ s₀ (State.exchangeExpired s at_ unit) := by
  unfold State.exchangeExpired
  repeat' first
    | with_reducible assumption
    | with_reducible apply State.until_keeps
    | with_reducible apply State.raise_keeps
    | with_reducible apply Keeps.each
    | with_reducible apply Keeps.ite
    | intro _
    | (with_reducible apply Keeps.cons; first | with_reducible assumption | with_reducible apply State.until_keeps | with_reducible apply State.raise_keeps | with_reducible apply Keeps.each | with_reducible apply Keeps.ite)
    | split
    | dsimp only

theorem State.exchangeTimer_keeps {w₀ : Bool} {s₀ s : State} (hk : Keeps w₀ s₀ s) :
    Keeps w₀ s₀ (State.exchangeTimer s) := by
  unfold State.exchangeTimer
  repeat' first
    | with_reducible assumption
    | with_reducible apply State.exchangeExpired_keeps
    | with_reducible apply Keeps.each
    | with_reducible apply Keeps.ite
    | intro _
    | (with_reducible apply Keeps.cons; first | with_reducible assumption | with_reducible apply State.exchangeExpired_keeps | with_reducible apply Keeps.each | with_reducible apply Keeps.ite)
    | split
    | dsimp only

theorem State.manifestTimer_keeps {w₀ : Bool} {s₀ s : State} (hk : Keeps w₀ s₀ s) :
    Keeps w₀ s₀ (State.manifestTimer s) := by
  unfold State.manifestTimer
  repeat' first
    | with_reducible assumption
    | with_reducible apply State.exchangeExpired_keeps
    | with_reducible apply Keeps.each
    | with_reducible apply Keeps.ite
    | intro _
    | (with_reducible apply Keeps.cons; first | with_reducible assumption | with_reducible apply State.exchangeExpired_keeps | with_reducible apply Keeps.each | with_reducible apply Keeps.ite)
    | split
    | dsimp only

theorem State.rowTimer_keeps {w₀ : Bool} {s₀ s : State} (hk : Keeps w₀ s₀ s) :
    Keeps w₀ s₀ (State.rowTimer s) := by
  unfold State.rowTimer
  repeat' first
    | with_reducible assumption
    | with_reducible apply State.exchangeExpired_keeps
    | with_reducible apply Keeps.each
    | with_reducible apply Keeps.ite
    | intro _
    | (with_reducible apply Keeps.cons; first | with_reducible assumption | with_reducible apply State.exchangeExpired_keeps | with_reducible apply Keeps.each | with_reducible apply Keeps.ite)
    | split
    | dsimp only

end Sys2Proof.Machine
end

