-- ==== Sys2Proof/Laws/KeepsCombining.lean ====
section
/-! SUPPORT. What the operations of Machine/Combining.lean keep (`Keeps`). -/

set_option Elab.async false

namespace Sys2Proof.Machine

theorem State.modComb_keeps {w₀ : Bool} {s₀ s : State} (hk : Keeps w₀ s₀ s) (f : CombineState → CombineState) :
    Keeps w₀ s₀ (State.modComb s f) := by
  unfold State.modComb
  repeat' first
    | with_reducible assumption
    | with_reducible apply State.modAtt_keeps
    | with_reducible apply Keeps.each
    | with_reducible apply Keeps.ite
    | intro _
    | (with_reducible apply Keeps.cons; first | with_reducible assumption | with_reducible apply State.modAtt_keeps | with_reducible apply Keeps.each | with_reducible apply Keeps.ite)
    | split
    | dsimp only

theorem State.loseAccum_keeps {w₀ : Bool} {s₀ s : State} (hk : Keeps w₀ s₀ s) :
    Keeps w₀ s₀ (State.loseAccum s) := by
  unfold State.loseAccum
  repeat' first
    | with_reducible assumption
    | with_reducible apply State.modComb_keeps
    | with_reducible apply State.useFree_keeps
    | with_reducible apply Keeps.each
    | with_reducible apply Keeps.ite
    | intro _
    | (with_reducible apply Keeps.cons; first | with_reducible assumption | with_reducible apply State.modComb_keeps | with_reducible apply State.useFree_keeps | with_reducible apply Keeps.each | with_reducible apply Keeps.ite)
    | split
    | dsimp only

theorem State.readAccums_keeps {w₀ : Bool} {s₀ s : State} (hk : Keeps w₀ s₀ s) (finds : List ReadFind) :
    Keeps w₀ s₀ (State.readAccums s finds) := by
  unfold State.readAccums
  repeat' first
    | with_reducible assumption
    | with_reducible apply State.foundWords_keeps
    | with_reducible apply State.loseAccum_keeps
    | with_reducible apply Keeps.each
    | with_reducible apply Keeps.ite
    | intro _
    | (with_reducible apply Keeps.cons; first | with_reducible assumption | with_reducible apply State.foundWords_keeps | with_reducible apply State.loseAccum_keeps | with_reducible apply Keeps.each | with_reducible apply Keeps.ite)
    | split
    | dsimp only

theorem State.tokenDone_keeps {w₀ : Bool} {s₀ s : State} (hk : Keeps w₀ s₀ s) (t : Nat) :
    Keeps w₀ s₀ (State.tokenDone s t) := by
  unfold State.tokenDone
  repeat' first
    | with_reducible assumption
    | with_reducible apply State.modComb_keeps
    | with_reducible apply Keeps.each
    | with_reducible apply Keeps.ite
    | intro _
    | (with_reducible apply Keeps.cons; first | with_reducible assumption | with_reducible apply State.modComb_keeps | with_reducible apply Keeps.each | with_reducible apply Keeps.ite)
    | split
    | dsimp only

theorem State.guardFail_keeps {w₀ : Bool} {s₀ s : State} (hk : Keeps w₀ s₀ s) (t : Nat) :
    Keeps w₀ s₀ (State.guardFail s t) := by
  unfold State.guardFail
  repeat' first
    | with_reducible assumption
    | with_reducible apply State.modComb_keeps
    | with_reducible apply State.bump_keeps
    | with_reducible apply State.raise_keeps
    | with_reducible apply State.tokenDone_keeps
    | with_reducible apply Keeps.each
    | with_reducible apply Keeps.ite
    | intro _
    | (with_reducible apply Keeps.cons; first | with_reducible assumption | with_reducible apply State.modComb_keeps | with_reducible apply State.bump_keeps | with_reducible apply State.raise_keeps | with_reducible apply State.tokenDone_keeps | with_reducible apply Keeps.each | with_reducible apply Keeps.ite)
    | split
    | dsimp only

theorem State.addTerm_keeps {w₀ : Bool} {s₀ s : State} (hk : Keeps w₀ s₀ s) (t : Nat) (vs : List FV) (f : Accum → Accum) :
    Keeps w₀ s₀ (State.addTerm s t vs f) := by
  unfold State.addTerm
  repeat' first
    | with_reducible assumption
    | with_reducible apply State.guardFail_keeps
    | with_reducible apply State.modComb_keeps
    | with_reducible apply Keeps.each
    | with_reducible apply Keeps.ite
    | intro _
    | (with_reducible apply Keeps.cons; first | with_reducible assumption | with_reducible apply State.guardFail_keeps | with_reducible apply State.modComb_keeps | with_reducible apply Keeps.each | with_reducible apply Keeps.ite)
    | split
    | dsimp only

theorem State.finishToken_keeps {w₀ : Bool} {s₀ s : State} (hk : Keeps w₀ s₀ s) (t : Nat) :
    Keeps w₀ s₀ (State.finishToken s t) := by
  unfold State.finishToken
  repeat' first
    | with_reducible assumption
    | with_reducible apply State.modComb_keeps
    | with_reducible apply State.raise_keeps
    | with_reducible apply State.tokenDone_keeps
    | with_reducible apply Keeps.write
    | with_reducible apply Keeps.each
    | with_reducible apply Keeps.ite
    | intro _
    | (with_reducible apply Keeps.cons; first | with_reducible assumption | with_reducible apply State.modComb_keeps | with_reducible apply State.raise_keeps | with_reducible apply State.tokenDone_keeps | with_reducible apply Keeps.write | with_reducible apply Keeps.each | with_reducible apply Keeps.ite)
    | split
    | dsimp only

theorem State.addShared_keeps {w₀ : Bool} {s₀ s : State} (hk : Keeps w₀ s₀ s) (t : Nat) :
    Keeps w₀ s₀ (State.addShared s t) := by
  unfold State.addShared
  repeat' first
    | with_reducible assumption
    | with_reducible apply State.countResults_keeps
    | with_reducible apply State.addTerm_keeps
    | with_reducible apply State.finishToken_keeps
    | with_reducible apply Keeps.each
    | with_reducible apply Keeps.ite
    | intro _
    | (with_reducible apply Keeps.cons; first | with_reducible assumption | with_reducible apply State.countResults_keeps | with_reducible apply State.addTerm_keeps | with_reducible apply State.finishToken_keeps | with_reducible apply Keeps.each | with_reducible apply Keeps.ite)
    | split
    | dsimp only

theorem State.openToken_keeps {w₀ : Bool} {s₀ s : State} (hk : Keeps w₀ s₀ s) (t : Nat) :
    Keeps w₀ s₀ (State.openToken s t) := by
  unfold State.openToken
  repeat' first
    | with_reducible assumption
    | with_reducible apply Keeps.write
    | with_reducible apply State.bump_keeps
    | with_reducible apply State.tokenDone_keeps
    | with_reducible apply State.modComb_keeps
    | with_reducible apply State.addTerm_keeps
    | with_reducible apply State.addShared_keeps
    | with_reducible apply State.finishToken_keeps
    | with_reducible apply Keeps.each
    | with_reducible apply Keeps.ite
    | intro _
    | (with_reducible apply Keeps.cons; first | with_reducible assumption | with_reducible apply Keeps.write | with_reducible apply State.bump_keeps | with_reducible apply State.tokenDone_keeps | with_reducible apply State.modComb_keeps | with_reducible apply State.addTerm_keeps | with_reducible apply State.addShared_keeps | with_reducible apply State.finishToken_keeps | with_reducible apply Keeps.each | with_reducible apply Keeps.ite)
    | split
    | dsimp only

theorem State.fileReturn_all {w₀ : Bool} {s₀ s : State} (hk : Keeps w₀ s₀ s) (c : ReturnCell) :
    Keeps.Pair w₀ s₀ (State.fileReturn s c) := by
  unfold State.fileReturn
  repeat' first
    | with_reducible assumption
    | with_reducible apply State.modComb_keeps
    | with_reducible apply Keeps.each
    | with_reducible apply Keeps.ite
    | with_reducible apply Keeps.Pair.ite
    | intro _
    | (with_reducible apply Keeps.cons; first | with_reducible assumption | with_reducible apply State.modComb_keeps | with_reducible apply Keeps.each | with_reducible apply Keeps.ite)
    | split
    | dsimp only
    | with_reducible apply Keeps.Pair.pair

theorem State.addReturn_keeps {w₀ : Bool} {s₀ s : State} (hk : Keeps w₀ s₀ s) (c : ReturnCell) :
    Keeps w₀ s₀ (State.addReturn s c) := by
  unfold State.addReturn
  repeat' first
    | with_reducible assumption
    | with_reducible apply State.raise_keeps
    | with_reducible refine Keeps.Pair.out (State.fileReturn_all ?_ _) ‹_›
    | with_reducible apply State.fileReturn_all
    | with_reducible refine Keeps.Pair.fst (State.fileReturn_all ?_ _)
    | with_reducible apply State.addTerm_keeps
    | with_reducible apply State.bump_keeps
    | with_reducible apply State.finishToken_keeps
    | with_reducible apply Keeps.each
    | with_reducible apply Keeps.ite
    | intro _
    | (with_reducible apply Keeps.cons; first | with_reducible assumption | with_reducible apply State.raise_keeps | with_reducible refine Keeps.Pair.out (State.fileReturn_all ?_ _) ‹_› | with_reducible apply State.fileReturn_all | with_reducible refine Keeps.Pair.fst (State.fileReturn_all ?_ _) | with_reducible apply State.addTerm_keeps | with_reducible apply State.bump_keeps | with_reducible apply State.finishToken_keeps | with_reducible apply Keeps.each | with_reducible apply Keeps.ite)
    | split
    | dsimp only

theorem State.addPartial_keeps {w₀ : Bool} {s₀ s : State} (hk : Keeps w₀ s₀ s) (c : PartialCell) :
    Keeps w₀ s₀ (State.addPartial s c) := by
  unfold State.addPartial
  repeat' first
    | with_reducible assumption
    | with_reducible apply State.raise_keeps
    | with_reducible apply State.modComb_keeps
    | with_reducible apply State.bump_keeps
    | with_reducible apply State.finishToken_keeps
    | with_reducible apply Keeps.each
    | with_reducible apply Keeps.ite
    | intro _
    | (with_reducible apply Keeps.cons; first | with_reducible assumption | with_reducible apply State.raise_keeps | with_reducible apply State.modComb_keeps | with_reducible apply State.bump_keeps | with_reducible apply State.finishToken_keeps | with_reducible apply Keeps.each | with_reducible apply Keeps.ite)
    | split
    | dsimp only

theorem State.takeWaiting_keeps {w₀ : Bool} {s₀ s : State} (hk : Keeps w₀ s₀ s) (t : Nat) :
    Keeps w₀ s₀ (State.takeWaiting s t) := by
  unfold State.takeWaiting
  repeat' first
    | with_reducible assumption
    | with_reducible apply State.modComb_keeps
    | with_reducible apply State.addReturn_keeps
    | with_reducible apply State.releaseInbound_keeps
    | with_reducible apply State.addPartial_keeps
    | with_reducible apply Keeps.each
    | with_reducible apply Keeps.ite
    | intro _
    | (with_reducible apply Keeps.cons; first | with_reducible assumption | with_reducible apply State.modComb_keeps | with_reducible apply State.addReturn_keeps | with_reducible apply State.releaseInbound_keeps | with_reducible apply State.addPartial_keeps | with_reducible apply Keeps.each | with_reducible apply Keeps.ite)
    | split
    | dsimp only

theorem State.sendWindowNotes_keeps {w₀ : Bool} {s₀ s : State} (hk : Keeps w₀ s₀ s) :
    Keeps w₀ s₀ (State.sendWindowNotes s) := by
  unfold State.sendWindowNotes
  repeat' first
    | with_reducible assumption
    | with_reducible apply State.send_keeps
    | with_reducible apply Keeps.each
    | with_reducible apply Keeps.ite
    | intro _
    | (with_reducible apply Keeps.cons; first | with_reducible assumption | with_reducible apply State.send_keeps | with_reducible apply Keeps.each | with_reducible apply Keeps.ite)
    | split
    | dsimp only

theorem State.runWindow_keeps {w₀ : Bool} {s₀ : State} :
    ∀ (n : Nat) {s : State} (_ : Keeps w₀ s₀ s), Keeps w₀ s₀ (State.runWindow n s)
  | 0, _, h => by
    unfold State.runWindow
    repeat' first
      | with_reducible assumption
      | with_reducible apply State.runWindow_keeps
      | with_reducible apply State.modComb_keeps
      | with_reducible apply State.sendWindowNotes_keeps
      | with_reducible apply State.openToken_keeps
      | with_reducible apply State.takeWaiting_keeps
      | with_reducible apply Keeps.each
      | with_reducible apply Keeps.ite
      | intro _
      | (with_reducible apply Keeps.cons; first | with_reducible assumption | with_reducible apply State.modComb_keeps | with_reducible apply State.sendWindowNotes_keeps | with_reducible apply State.openToken_keeps | with_reducible apply State.takeWaiting_keeps | with_reducible apply Keeps.each | with_reducible apply Keeps.ite)
      | split
      | dsimp only
  | n + 1, _, h => by
    unfold State.runWindow
    repeat' first
      | with_reducible assumption
      | with_reducible apply State.runWindow_keeps
      | with_reducible apply State.modComb_keeps
      | with_reducible apply State.sendWindowNotes_keeps
      | with_reducible apply State.openToken_keeps
      | with_reducible apply State.takeWaiting_keeps
      | with_reducible apply Keeps.each
      | with_reducible apply Keeps.ite
      | intro _
      | (with_reducible apply Keeps.cons; first | with_reducible assumption | with_reducible apply State.modComb_keeps | with_reducible apply State.sendWindowNotes_keeps | with_reducible apply State.openToken_keeps | with_reducible apply State.takeWaiting_keeps | with_reducible apply Keeps.each | with_reducible apply Keeps.ite)
      | split
      | dsimp only

theorem State.rejectWaiting_keeps {w₀ : Bool} {s₀ s : State} (hk : Keeps w₀ s₀ s) :
    Keeps w₀ s₀ (State.rejectWaiting s) := by
  unfold State.rejectWaiting
  repeat' first
    | with_reducible assumption
    | with_reducible apply State.takeWaiting_keeps
    | with_reducible apply Keeps.each
    | with_reducible apply Keeps.ite
    | intro _
    | (with_reducible apply Keeps.cons; first | with_reducible assumption | with_reducible apply State.takeWaiting_keeps | with_reducible apply Keeps.each | with_reducible apply Keeps.ite)
    | split
    | dsimp only

theorem State.combineProgress_keeps {w₀ : Bool} {s₀ s : State} (hk : Keeps w₀ s₀ s) :
    Keeps w₀ s₀ (State.combineProgress s) := by
  unfold State.combineProgress
  repeat' first
    | with_reducible assumption
    | with_reducible apply State.runWindow_keeps
    | with_reducible apply Keeps.each
    | with_reducible apply Keeps.ite
    | intro _
    | (with_reducible apply Keeps.cons; first | with_reducible assumption | with_reducible apply State.runWindow_keeps | with_reducible apply Keeps.each | with_reducible apply Keeps.ite)
    | split
    | dsimp only

theorem State.sendPartial_keeps {w₀ : Bool} {s₀ s : State} (hk : Keeps w₀ s₀ s) (owner : MemberId) (t : BitVec 14) :
    Keeps w₀ s₀ (State.sendPartial s owner t) := by
  unfold State.sendPartial
  repeat' first
    | with_reducible assumption
    | with_reducible apply State.sent_keeps
    | with_reducible apply State.modComb_keeps
    | with_reducible apply State.bump_keeps
    | with_reducible apply State.sendCells_keeps
    | with_reducible apply Keeps.each
    | with_reducible apply Keeps.ite
    | intro _
    | (with_reducible apply Keeps.cons; first | with_reducible assumption | with_reducible apply State.sent_keeps | with_reducible apply State.modComb_keeps | with_reducible apply State.bump_keeps | with_reducible apply State.sendCells_keeps | with_reducible apply Keeps.each | with_reducible apply Keeps.ite)
    | split
    | dsimp only

theorem State.openPartial_keeps {w₀ : Bool} {s₀ s : State} (hk : Keeps w₀ s₀ s) (owner : MemberId) (e : GateEntry) :
    Keeps w₀ s₀ (State.openPartial s owner e) := by
  unfold State.openPartial
  repeat' first
    | with_reducible assumption
    | with_reducible apply State.modComb_keeps
    | with_reducible refine Keeps.Pair.out (State.requestBuffer_all ?_ _ _ _ _ _ _ _) ‹_›
    | with_reducible apply State.requestBuffer_all
    | with_reducible refine Keeps.Pair.fst (State.requestBuffer_all ?_ _ _ _ _ _ _ _)
    | with_reducible apply State.bump_keeps
    | with_reducible apply Keeps.each
    | with_reducible apply Keeps.ite
    | intro _
    | (with_reducible apply Keeps.cons; first | with_reducible assumption | with_reducible apply State.modComb_keeps | with_reducible refine Keeps.Pair.out (State.requestBuffer_all ?_ _ _ _ _ _ _ _) ‹_› | with_reducible apply State.requestBuffer_all | with_reducible refine Keeps.Pair.fst (State.requestBuffer_all ?_ _ _ _ _ _ _ _) | with_reducible apply State.bump_keeps | with_reducible apply Keeps.each | with_reducible apply Keeps.ite)
    | split
    | dsimp only

theorem State.forwardReturn_keeps {w₀ : Bool} {s₀ s : State} (hk : Keeps w₀ s₀ s) (c : ReturnCell) :
    Keeps w₀ s₀ (State.forwardReturn s c) := by
  unfold State.forwardReturn
  repeat' first
    | with_reducible assumption
    | with_reducible apply State.bump_keeps
    | with_reducible apply State.send_keeps
    | with_reducible apply Keeps.each
    | with_reducible apply Keeps.ite
    | intro _
    | (with_reducible apply Keeps.cons; first | with_reducible assumption | with_reducible apply State.bump_keeps | with_reducible apply State.send_keeps | with_reducible apply Keeps.each | with_reducible apply Keeps.ite)
    | split
    | dsimp only

theorem State.requestReturn_keeps {w₀ : Bool} {s₀ s : State} (hk : Keeps w₀ s₀ s) (hop : MemberId) (c : ReturnCell) :
    Keeps w₀ s₀ (State.requestReturn s hop c) := by
  unfold State.requestReturn
  repeat' first
    | with_reducible assumption
    | with_reducible apply State.cellCrcFail_keeps
    | with_reducible apply Keeps.each
    | with_reducible apply Keeps.ite
    | intro _
    | (with_reducible apply Keeps.cons; first | with_reducible assumption | with_reducible apply State.cellCrcFail_keeps | with_reducible apply Keeps.each | with_reducible apply Keeps.ite)
    | split
    | dsimp only

theorem State.addMirror_keeps {w₀ : Bool} {s₀ s : State} (hk : Keeps w₀ s₀ s) (p : Partial) (e : GateEntry) (targets : List TargetEntry) (c : ReturnCell) :
    Keeps w₀ s₀ (State.addMirror s p e targets c) := by
  unfold State.addMirror
  repeat' first
    | with_reducible assumption
    | with_reducible refine Keeps.Pair.out (State.fileReturn_all ?_ _) ‹_›
    | with_reducible apply State.fileReturn_all
    | with_reducible refine Keeps.Pair.fst (State.fileReturn_all ?_ _)
    | with_reducible apply State.modComb_keeps
    | with_reducible apply State.sendPartial_keeps
    | with_reducible apply State.bump_keeps
    | with_reducible apply State.forwardReturn_keeps
    | with_reducible apply Keeps.each
    | with_reducible apply Keeps.ite
    | intro _
    | (with_reducible apply Keeps.cons; first | with_reducible assumption | with_reducible refine Keeps.Pair.out (State.fileReturn_all ?_ _) ‹_› | with_reducible apply State.fileReturn_all | with_reducible refine Keeps.Pair.fst (State.fileReturn_all ?_ _) | with_reducible apply State.modComb_keeps | with_reducible apply State.sendPartial_keeps | with_reducible apply State.bump_keeps | with_reducible apply State.forwardReturn_keeps | with_reducible apply Keeps.each | with_reducible apply Keeps.ite)
    | split
    | dsimp only

theorem State.mirrorReturn_keeps {w₀ : Bool} {s₀ s : State} (hk : Keeps w₀ s₀ s) (hop : MemberId) (c : ReturnCell) :
    Keeps w₀ s₀ (State.mirrorReturn s hop c) := by
  unfold State.mirrorReturn
  repeat' first
    | with_reducible assumption
    | with_reducible apply State.forwardReturn_keeps
    | with_reducible apply State.openPartial_keeps
    | with_reducible apply State.requestReturn_keeps
    | with_reducible apply State.modComb_keeps
    | with_reducible apply State.addMirror_keeps
    | with_reducible apply Keeps.each
    | with_reducible apply Keeps.ite
    | intro _
    | (with_reducible apply Keeps.cons; first | with_reducible assumption | with_reducible apply State.forwardReturn_keeps | with_reducible apply State.openPartial_keeps | with_reducible apply State.requestReturn_keeps | with_reducible apply State.modComb_keeps | with_reducible apply State.addMirror_keeps | with_reducible apply Keeps.each | with_reducible apply Keeps.ite)
    | split
    | dsimp only

theorem State.waitCell_keeps {w₀ : Bool} {s₀ s : State} (hk : Keeps w₀ s₀ s) (hop : MemberId) (c : Cell) :
    Keeps w₀ s₀ (State.waitCell s hop c) := by
  unfold State.waitCell
  repeat' first
    | with_reducible assumption
    | with_reducible apply State.modComb_keeps
    | with_reducible apply State.updatePause_keeps
    | with_reducible apply Keeps.each
    | with_reducible apply Keeps.ite
    | intro _
    | (with_reducible apply Keeps.cons; first | with_reducible assumption | with_reducible apply State.modComb_keeps | with_reducible apply State.updatePause_keeps | with_reducible apply Keeps.each | with_reducible apply Keeps.ite)
    | split
    | dsimp only

theorem State.takeReturn_keeps {w₀ : Bool} {s₀ s : State} (hk : Keeps w₀ s₀ s) (hop : MemberId) (c : ReturnCell) :
    Keeps w₀ s₀ (State.takeReturn s hop c) := by
  unfold State.takeReturn
  repeat' first
    | with_reducible assumption
    | with_reducible apply State.modComb_keeps
    | with_reducible apply State.waitCell_keeps
    | with_reducible apply State.mirrorReturn_keeps
    | with_reducible apply State.requestReturn_keeps
    | with_reducible apply State.addReturn_keeps
    | with_reducible apply State.combineProgress_keeps
    | with_reducible apply Keeps.each
    | with_reducible apply Keeps.ite
    | intro _
    | (with_reducible apply Keeps.cons; first | with_reducible assumption | with_reducible apply State.modComb_keeps | with_reducible apply State.waitCell_keeps | with_reducible apply State.mirrorReturn_keeps | with_reducible apply State.requestReturn_keeps | with_reducible apply State.addReturn_keeps | with_reducible apply State.combineProgress_keeps | with_reducible apply Keeps.each | with_reducible apply Keeps.ite)
    | split
    | dsimp only

theorem State.takePartial_keeps {w₀ : Bool} {s₀ s : State} (hk : Keeps w₀ s₀ s) (hop : MemberId) (c : PartialCell) :
    Keeps w₀ s₀ (State.takePartial s hop c) := by
  unfold State.takePartial
  repeat' first
    | with_reducible assumption
    | with_reducible apply State.cellCrcFail_keeps
    | with_reducible apply State.modComb_keeps
    | with_reducible apply State.addPartial_keeps
    | with_reducible apply State.combineProgress_keeps
    | with_reducible apply State.waitCell_keeps
    | with_reducible apply Keeps.each
    | with_reducible apply Keeps.ite
    | intro _
    | (with_reducible apply Keeps.cons; first | with_reducible assumption | with_reducible apply State.cellCrcFail_keeps | with_reducible apply State.modComb_keeps | with_reducible apply State.addPartial_keeps | with_reducible apply State.combineProgress_keeps | with_reducible apply State.waitCell_keeps | with_reducible apply Keeps.each | with_reducible apply Keeps.ite)
    | split
    | dsimp only

theorem State.sendGateNotes_keeps {w₀ : Bool} {s₀ s : State} (hk : Keeps w₀ s₀ s) (q : Sequencer) :
    Keeps w₀ s₀ (State.sendGateNotes s q) := by
  unfold State.sendGateNotes
  repeat' first
    | with_reducible assumption
    | with_reducible apply State.send_keeps
    | with_reducible apply Keeps.each
    | with_reducible apply Keeps.ite
    | intro _
    | (with_reducible apply Keeps.cons; first | with_reducible assumption | with_reducible apply State.send_keeps | with_reducible apply Keeps.each | with_reducible apply Keeps.ite)
    | split
    | dsimp only

theorem State.takeGateNote_keeps {w₀ : Bool} {s₀ s : State} (hk : Keeps w₀ s₀ s) (n : GateNote) :
    Keeps w₀ s₀ (State.takeGateNote s n) := by
  unfold State.takeGateNote
  repeat' first
    | with_reducible assumption
    | with_reducible apply State.modComb_keeps
    | with_reducible apply State.mirrorReturn_keeps
    | with_reducible apply State.releaseInbound_keeps
    | with_reducible apply Keeps.each
    | with_reducible apply Keeps.ite
    | intro _
    | (with_reducible apply Keeps.cons; first | with_reducible assumption | with_reducible apply State.modComb_keeps | with_reducible apply State.mirrorReturn_keeps | with_reducible apply State.releaseInbound_keeps | with_reducible apply Keeps.each | with_reducible apply Keeps.ite)
    | split
    | dsimp only

theorem State.sendRow_keeps {w₀ : Bool} {s₀ s : State} (hk : Keeps w₀ s₀ s) (q : Sequencer) (n row : Nat) :
    Keeps w₀ s₀ (State.sendRow s q n row) := by
  unfold State.sendRow
  repeat' first
    | with_reducible assumption
    | with_reducible apply State.takeReturn_keeps
    | with_reducible apply State.bump_keeps
    | with_reducible apply State.sendCells_keeps
    | with_reducible apply Keeps.each
    | with_reducible apply Keeps.ite
    | intro _
    | (with_reducible apply Keeps.cons; first | with_reducible assumption | with_reducible apply State.takeReturn_keeps | with_reducible apply State.bump_keeps | with_reducible apply State.sendCells_keeps | with_reducible apply Keeps.each | with_reducible apply Keeps.ite)
    | split
    | dsimp only

theorem State.returnRow_keeps {w₀ : Bool} {s₀ s : State} (hk : Keeps w₀ s₀ s) (q : Sequencer) (n : Nat) (t : Tile) (row : Nat) :
    Keeps w₀ s₀ (State.returnRow s q n t row) := by
  unfold State.returnRow
  repeat' first
    | with_reducible assumption
    | with_reducible apply State.sendRow_keeps
    | with_reducible apply State.bump_keeps
    | with_reducible apply State.modComb_keeps
    | with_reducible apply Keeps.each
    | with_reducible apply Keeps.ite
    | intro _
    | (with_reducible apply Keeps.cons; first | with_reducible assumption | with_reducible apply State.sendRow_keeps | with_reducible apply State.bump_keeps | with_reducible apply State.modComb_keeps | with_reducible apply Keeps.each | with_reducible apply Keeps.ite)
    | split
    | dsimp only

theorem State.returnTile_keeps {w₀ : Bool} {s₀ s : State} (hk : Keeps w₀ s₀ s) (n : Nat) :
    Keeps w₀ s₀ (State.returnTile s n) := by
  unfold State.returnTile
  repeat' first
    | with_reducible assumption
    | with_reducible apply State.modAtt_keeps
    | with_reducible apply State.returnRow_keeps
    | with_reducible apply Keeps.each
    | with_reducible apply Keeps.ite
    | intro _
    | (with_reducible apply Keeps.cons; first | with_reducible assumption | with_reducible apply State.modAtt_keeps | with_reducible apply State.returnRow_keeps | with_reducible apply Keeps.each | with_reducible apply Keeps.ite)
    | split
    | dsimp only

theorem State.releaseRows_keeps {w₀ : Bool} {s₀ s : State} (hk : Keeps w₀ s₀ s) :
    Keeps w₀ s₀ (State.releaseRows s) := by
  unfold State.releaseRows
  repeat' first
    | with_reducible assumption
    | with_reducible apply State.modComb_keeps
    | with_reducible apply State.sendRow_keeps
    | with_reducible apply Keeps.each
    | with_reducible apply Keeps.ite
    | intro _
    | (with_reducible apply Keeps.cons; first | with_reducible assumption | with_reducible apply State.modComb_keeps | with_reducible apply State.sendRow_keeps | with_reducible apply Keeps.each | with_reducible apply Keeps.ite)
    | split
    | dsimp only

theorem State.takeWindowNote_keeps {w₀ : Bool} {s₀ s : State} (hk : Keeps w₀ s₀ s) (n : WindowNote) :
    Keeps w₀ s₀ (State.takeWindowNote s n) := by
  unfold State.takeWindowNote
  repeat' first
    | with_reducible assumption
    | with_reducible apply State.modComb_keeps
    | with_reducible apply State.sent_keeps
    | with_reducible apply State.dropOwn_keeps
    | with_reducible apply State.releaseRows_keeps
    | with_reducible apply Keeps.each
    | with_reducible apply Keeps.ite
    | intro _
    | (with_reducible apply Keeps.cons; first | with_reducible assumption | with_reducible apply State.modComb_keeps | with_reducible apply State.sent_keeps | with_reducible apply State.dropOwn_keeps | with_reducible apply State.releaseRows_keeps | with_reducible apply Keeps.each | with_reducible apply Keeps.ite)
    | split
    | dsimp only

theorem State.startReturn_keeps {w₀ : Bool} {s₀ s : State} (hk : Keeps w₀ s₀ s) :
    Keeps w₀ s₀ (State.startReturn s) := by
  unfold State.startReturn
  repeat' first
    | with_reducible assumption
    | with_reducible apply State.ok_keeps
    | with_reducible apply State.raise_keeps
    | with_reducible apply State.modComb_keeps
    | with_reducible apply State.returnTile_keeps
    | with_reducible apply Keeps.each
    | with_reducible apply Keeps.ite
    | intro _
    | (with_reducible apply Keeps.cons; first | with_reducible assumption | with_reducible apply State.ok_keeps | with_reducible apply State.raise_keeps | with_reducible apply State.modComb_keeps | with_reducible apply State.returnTile_keeps | with_reducible apply Keeps.each | with_reducible apply Keeps.ite)
    | split
    | dsimp only

theorem State.startCombine_keeps {w₀ : Bool} {s₀ s : State} (hk : Keeps w₀ s₀ s) :
    Keeps w₀ s₀ (State.startCombine s) := by
  unfold State.startCombine
  repeat' first
    | with_reducible assumption
    | with_reducible apply State.ok_keeps
    | with_reducible apply State.raise_keeps
    | with_reducible apply State.modComb_keeps
    | with_reducible apply State.combineProgress_keeps
    | with_reducible apply Keeps.each
    | with_reducible apply Keeps.ite
    | intro _
    | (with_reducible apply Keeps.cons; first | with_reducible assumption | with_reducible apply State.ok_keeps | with_reducible apply State.raise_keeps | with_reducible apply State.modComb_keeps | with_reducible apply State.combineProgress_keeps | with_reducible apply Keeps.each | with_reducible apply Keeps.ite)
    | split
    | dsimp only

theorem State.tileDone_keeps {w₀ : Bool} {s₀ s : State} (hk : Keeps w₀ s₀ s) (n : Nat) :
    Keeps w₀ s₀ (State.tileDone s n) := by
  unfold State.tileDone
  repeat' first
    | with_reducible assumption
    | with_reducible apply State.modAtt_keeps
    | with_reducible apply State.modComb_keeps
    | with_reducible apply State.returnTile_keeps
    | with_reducible apply Keeps.each
    | with_reducible apply Keeps.ite
    | intro _
    | (with_reducible apply Keeps.cons; first | with_reducible assumption | with_reducible apply State.modAtt_keeps | with_reducible apply State.modComb_keeps | with_reducible apply State.returnTile_keeps | with_reducible apply Keeps.each | with_reducible apply Keeps.ite)
    | split
    | dsimp only

theorem State.sharedReady_keeps {w₀ : Bool} {s₀ s : State} (hk : Keeps w₀ s₀ s) :
    Keeps w₀ s₀ (State.sharedReady s) := by
  unfold State.sharedReady
  repeat' first
    | with_reducible assumption
    | with_reducible apply State.modComb_keeps
    | with_reducible apply State.addShared_keeps
    | with_reducible apply State.combineProgress_keeps
    | with_reducible apply Keeps.each
    | with_reducible apply Keeps.ite
    | intro _
    | (with_reducible apply Keeps.cons; first | with_reducible assumption | with_reducible apply State.modComb_keeps | with_reducible apply State.addShared_keeps | with_reducible apply State.combineProgress_keeps | with_reducible apply Keeps.each | with_reducible apply Keeps.ite)
    | split
    | dsimp only

theorem State.resendReturn_keeps {w₀ : Bool} {s₀ s : State} (hk : Keeps w₀ s₀ s) (r : CellReq) :
    Keeps w₀ s₀ (State.resendReturn s r) := by
  unfold State.resendReturn
  repeat' first
    | with_reducible assumption
    | with_reducible apply State.sendCells_keeps
    | with_reducible apply Keeps.each
    | with_reducible apply Keeps.ite
    | intro _
    | (with_reducible apply Keeps.cons; first | with_reducible assumption | with_reducible apply State.sendCells_keeps | with_reducible apply Keeps.each | with_reducible apply Keeps.ite)
    | split
    | dsimp only

theorem State.resendPartial_keeps {w₀ : Bool} {s₀ s : State} (hk : Keeps w₀ s₀ s) (r : CellReq) :
    Keeps w₀ s₀ (State.resendPartial s r) := by
  unfold State.resendPartial
  repeat' first
    | with_reducible assumption
    | with_reducible apply State.sent_keeps
    | with_reducible apply State.sendCells_keeps
    | with_reducible apply Keeps.each
    | with_reducible apply Keeps.ite
    | intro _
    | (with_reducible apply Keeps.cons; first | with_reducible assumption | with_reducible apply State.sent_keeps | with_reducible apply State.sendCells_keeps | with_reducible apply Keeps.each | with_reducible apply Keeps.ite)
    | split
    | dsimp only

theorem State.takeRequest_keeps {w₀ : Bool} {s₀ s : State} (hk : Keeps w₀ s₀ s) (r : CellReq) :
    Keeps w₀ s₀ (State.takeRequest s r) := by
  unfold State.takeRequest
  repeat' first
    | with_reducible assumption
    | with_reducible apply State.resendDispatch_keeps
    | with_reducible apply State.resendReturn_keeps
    | with_reducible apply State.resendPartial_keeps
    | with_reducible apply Keeps.each
    | with_reducible apply Keeps.ite
    | intro _
    | (with_reducible apply Keeps.cons; first | with_reducible assumption | with_reducible apply State.resendDispatch_keeps | with_reducible apply State.resendReturn_keeps | with_reducible apply State.resendPartial_keeps | with_reducible apply Keeps.each | with_reducible apply Keeps.ite)
    | split
    | dsimp only

theorem State.tileTimer_keeps {w₀ : Bool} {s₀ s : State} (hk : Keeps w₀ s₀ s) :
    Keeps w₀ s₀ (State.tileTimer s) := by
  unfold State.tileTimer
  repeat' first
    | with_reducible assumption
    | with_reducible apply State.exchangeExpired_keeps
    | with_reducible apply Keeps.each
    | with_reducible apply Keeps.ite
    | intro _
    | (with_reducible apply Keeps.cons; first | with_reducible assumption | with_reducible apply State.exchangeExpired_keeps | with_reducible apply Keeps.each | with_reducible apply Keeps.ite)
    | split
    | dsimp only

theorem State.sharedTimer_keeps {w₀ : Bool} {s₀ s : State} (hk : Keeps w₀ s₀ s) :
    Keeps w₀ s₀ (State.sharedTimer s) := by
  unfold State.sharedTimer
  repeat' first
    | with_reducible assumption
    | with_reducible apply State.exchangeExpired_keeps
    | with_reducible apply Keeps.each
    | with_reducible apply Keeps.ite
    | intro _
    | (with_reducible apply Keeps.cons; first | with_reducible assumption | with_reducible apply State.exchangeExpired_keeps | with_reducible apply Keeps.each | with_reducible apply Keeps.ite)
    | split
    | dsimp only

theorem State.grantProgress_keeps {w₀ : Bool} {s₀ s : State} (hk : Keeps w₀ s₀ s) :
    Keeps w₀ s₀ (State.grantProgress s) := by
  unfold State.grantProgress
  repeat' first
    | with_reducible assumption
    | with_reducible apply State.allocate_keeps
    | with_reducible apply State.raise_keeps
    | with_reducible apply State.applyGrants_keeps
    | with_reducible apply State.modAtt_keeps
    | with_reducible apply State.sendManifests_keeps
    | with_reducible apply State.sendGateNotes_keeps
    | with_reducible apply State.layoutRegion_keeps
    | with_reducible apply State.rejectWaiting_keeps
    | with_reducible apply State.combineProgress_keeps
    | with_reducible apply Keeps.each
    | with_reducible apply Keeps.ite
    | intro _
    | (with_reducible apply Keeps.cons; first | with_reducible assumption | with_reducible apply State.allocate_keeps | with_reducible apply State.raise_keeps | with_reducible apply State.applyGrants_keeps | with_reducible apply State.modAtt_keeps | with_reducible apply State.sendManifests_keeps | with_reducible apply State.sendGateNotes_keeps | with_reducible apply State.layoutRegion_keeps | with_reducible apply State.rejectWaiting_keeps | with_reducible apply State.combineProgress_keeps | with_reducible apply Keeps.each | with_reducible apply Keeps.ite)
    | split
    | dsimp only

theorem State.startGrant_keeps {w₀ : Bool} {s₀ s : State} (hk : Keeps w₀ s₀ s) :
    Keeps w₀ s₀ (State.startGrant s) := by
  unfold State.startGrant
  repeat' first
    | with_reducible assumption
    | with_reducible apply State.ok_keeps
    | with_reducible apply State.raise_keeps
    | with_reducible apply State.modAtt_keeps
    | with_reducible apply State.grantProgress_keeps
    | with_reducible apply Keeps.each
    | with_reducible apply Keeps.ite
    | intro _
    | (with_reducible apply Keeps.cons; first | with_reducible assumption | with_reducible apply State.ok_keeps | with_reducible apply State.raise_keeps | with_reducible apply State.modAtt_keeps | with_reducible apply State.grantProgress_keeps | with_reducible apply Keeps.each | with_reducible apply Keeps.ite)
    | split
    | dsimp only

end Sys2Proof.Machine
end

