-- ==== Sys2Proof/Laws/KeepsShapes.lean ====
section
/-! SUPPORT. What the operations of Machine/Shapes.lean keep (`Keeps`). -/

set_option Elab.async false

namespace Sys2Proof.Machine

theorem State.staleShape_keeps {w₀ : Bool} {s₀ s : State} (hk : Keeps w₀ s₀ s) (window : Bool) (unit : Nat) :
    Keeps w₀ s₀ (State.staleShape s window unit) := by
  unfold State.staleShape
  repeat' first
    | with_reducible assumption
    | with_reducible apply State.raise_keeps
    | with_reducible apply Keeps.each
    | with_reducible apply Keeps.ite
    | intro _
    | (with_reducible apply Keeps.cons; first | with_reducible assumption | with_reducible apply State.raise_keeps | with_reducible apply Keeps.each | with_reducible apply Keeps.ite)
    | split
    | dsimp only

theorem State.writeShape_keeps {w₀ : Bool} {s₀ s : State} (hk : Keeps w₀ s₀ s) (q : Sequencer) (i value tag : Nat) :
    Keeps w₀ s₀ (State.writeShape s q i value tag) := by
  unfold State.writeShape
  repeat' first
    | with_reducible assumption
    | with_reducible apply Keeps.writeLe
    | with_reducible apply Keeps.each
    | with_reducible apply Keeps.ite
    | intro _
    | (with_reducible apply Keeps.cons; first | with_reducible assumption | with_reducible apply Keeps.writeLe | with_reducible apply Keeps.each | with_reducible apply Keeps.ite)
    | split
    | dsimp only

theorem State.writePassWords_keeps {w₀ : Bool} {s₀ s : State} (hk : Keeps w₀ s₀ s) (q : Sequencer) (epoch : Nat) :
    Keeps w₀ s₀ (State.writePassWords s q epoch) := by
  unfold State.writePassWords
  repeat' first
    | with_reducible assumption
    | with_reducible apply State.writeShape_keeps
    | with_reducible apply Keeps.each
    | with_reducible apply Keeps.ite
    | intro _
    | (with_reducible apply Keeps.cons; first | with_reducible assumption | with_reducible apply State.writeShape_keeps | with_reducible apply Keeps.each | with_reducible apply Keeps.ite)
    | split
    | dsimp only

theorem State.announceTokens_keeps {w₀ : Bool} {s₀ s : State} (hk : Keeps w₀ s₀ s) (q : Sequencer) :
    Keeps w₀ s₀ (State.announceTokens s q) := by
  unfold State.announceTokens
  repeat' first
    | with_reducible assumption
    | with_reducible apply State.raise_keeps
    | with_reducible apply State.modAtt_keeps
    | with_reducible apply State.writeShape_keeps
    | with_reducible apply Keeps.each
    | with_reducible apply Keeps.ite
    | intro _
    | (with_reducible apply Keeps.cons; first | with_reducible assumption | with_reducible apply State.raise_keeps | with_reducible apply State.modAtt_keeps | with_reducible apply State.writeShape_keeps | with_reducible apply Keeps.each | with_reducible apply Keeps.ite)
    | split
    | dsimp only

end Sys2Proof.Machine
end

