-- ==== Sys2Proof/Laws/KeepsCollective.lean ====
section
/-! SUPPORT. What the operations of Machine/Collective.lean keep (`Keeps`). -/

set_option Elab.async false

namespace Sys2Proof.Machine

theorem State.modColl_keeps {w₀ : Bool} {s₀ s : State} (hk : Keeps w₀ s₀ s) (op : Nat) (f : Coll → Coll) :
    Keeps w₀ s₀ (State.modColl s op f) := by
  unfold State.modColl
  repeat' first
    | with_reducible assumption
    | with_reducible apply State.modAtt_keeps
    | with_reducible apply Keeps.each
    | with_reducible apply Keeps.ite
    | intro _
    | (with_reducible apply Keeps.cons; first | with_reducible assumption | with_reducible apply State.modAtt_keeps | with_reducible apply Keeps.each | with_reducible apply Keeps.ite)
    | split
    | dsimp only

theorem State.sendPiece_keeps {w₀ : Bool} {s₀ s : State} (hk : Keeps w₀ s₀ s) (op : Nat) (c : Coll) (chunk stage step k : Nat) (crc : Option (BitVec 32)) :
    Keeps w₀ s₀ (State.sendPiece s op c chunk stage step k crc) := by
  unfold State.sendPiece
  repeat' first
    | with_reducible assumption
    | with_reducible apply State.bump_keeps
    | with_reducible apply State.send_keeps
    | with_reducible apply Keeps.each
    | with_reducible apply Keeps.ite
    | intro _
    | (with_reducible apply Keeps.cons; first | with_reducible assumption | with_reducible apply State.bump_keeps | with_reducible apply State.send_keeps | with_reducible apply Keeps.each | with_reducible apply Keeps.ite)
    | split
    | dsimp only

theorem State.putPiece_keeps {w₀ : Bool} {s₀ s : State} (hk : Keeps w₀ s₀ s) (c : Coll) (chunk : Nat) (x : CollChunk) (g : Nat × Nat) :
    Keeps w₀ s₀ (State.putPiece s c chunk x g) := by
  unfold State.putPiece
  repeat' first
    | with_reducible assumption
    | with_reducible apply Keeps.write
    | with_reducible apply Keeps.each
    | with_reducible apply Keeps.ite
    | intro _
    | (with_reducible apply Keeps.cons; first | with_reducible assumption | with_reducible apply Keeps.write | with_reducible apply Keeps.each | with_reducible apply Keeps.ite)
    | split
    | dsimp only

theorem State.modChunk_keeps {w₀ : Bool} {s₀ s : State} (hk : Keeps w₀ s₀ s) (op chunk : Nat) (f : CollChunk → CollChunk) :
    Keeps w₀ s₀ (State.modChunk s op chunk f) := by
  unfold State.modChunk
  repeat' first
    | with_reducible assumption
    | with_reducible apply State.modColl_keeps
    | with_reducible apply Keeps.each
    | with_reducible apply Keeps.ite
    | intro _
    | (with_reducible apply Keeps.cons; first | with_reducible assumption | with_reducible apply State.modColl_keeps | with_reducible apply Keeps.each | with_reducible apply Keeps.ite)
    | split
    | dsimp only

theorem State.writeProgress_keeps {w₀ : Bool} {s₀ s : State} (hk : Keeps w₀ s₀ s) (q : Sequencer) (c : Coll) (tag : Nat) :
    Keeps w₀ s₀ (State.writeProgress s q c tag) := by
  unfold State.writeProgress
  repeat' first
    | with_reducible assumption
    | with_reducible apply Keeps.writeLe
    | with_reducible apply Keeps.each
    | with_reducible apply Keeps.ite
    | intro _
    | (with_reducible apply Keeps.cons; first | with_reducible assumption | with_reducible apply Keeps.writeLe | with_reducible apply Keeps.each | with_reducible apply Keeps.ite)
    | split
    | dsimp only

theorem State.raiseProgress_keeps {w₀ : Bool} {s₀ : State} :
    ∀ (n : Nat) {s : State} (_ : Keeps w₀ s₀ s) (b : Nat), Keeps w₀ s₀ (State.raiseProgress n s b)
  | 0, _, h, b => by
    unfold State.raiseProgress
    repeat' first
      | with_reducible assumption
      | with_reducible apply State.raiseProgress_keeps
      | with_reducible apply State.modColl_keeps
      | with_reducible apply State.writeProgress_keeps
      | with_reducible apply State.fire_keeps
      | with_reducible apply Keeps.each
      | with_reducible apply Keeps.ite
      | intro _
      | (with_reducible apply Keeps.cons; first | with_reducible assumption | with_reducible apply State.modColl_keeps | with_reducible apply State.writeProgress_keeps | with_reducible apply State.fire_keeps | with_reducible apply Keeps.each | with_reducible apply Keeps.ite)
      | split
      | dsimp only
  | n + 1, _, h, b => by
    unfold State.raiseProgress
    repeat' first
      | with_reducible assumption
      | with_reducible apply State.raiseProgress_keeps
      | with_reducible apply State.modColl_keeps
      | with_reducible apply State.writeProgress_keeps
      | with_reducible apply State.fire_keeps
      | with_reducible apply Keeps.each
      | with_reducible apply Keeps.ite
      | intro _
      | (with_reducible apply Keeps.cons; first | with_reducible assumption | with_reducible apply State.modColl_keeps | with_reducible apply State.writeProgress_keeps | with_reducible apply State.fire_keeps | with_reducible apply Keeps.each | with_reducible apply Keeps.ite)
      | split
      | dsimp only

theorem State.landChunk_keeps {w₀ : Bool} {s₀ s : State} (hk : Keeps w₀ s₀ s) (op chunk : Nat) :
    Keeps w₀ s₀ (State.landChunk s op chunk) := by
  unfold State.landChunk
  repeat' first
    | with_reducible assumption
    | with_reducible apply State.modColl_keeps
    | with_reducible apply State.hostIssue_keeps
    | with_reducible apply Keeps.each
    | with_reducible apply Keeps.ite
    | intro _
    | (with_reducible apply Keeps.cons; first | with_reducible assumption | with_reducible apply State.modColl_keeps | with_reducible apply State.hostIssue_keeps | with_reducible apply Keeps.each | with_reducible apply Keeps.ite)
    | split
    | dsimp only

theorem State.closeChunk_keeps {w₀ : Bool} {s₀ s : State} (hk : Keeps w₀ s₀ s) (op chunk : Nat) :
    Keeps w₀ s₀ (State.closeChunk s op chunk) := by
  unfold State.closeChunk
  repeat' first
    | with_reducible assumption
    | with_reducible apply State.modColl_keeps
    | with_reducible apply State.raiseProgress_keeps
    | with_reducible apply State.bump_keeps
    | with_reducible apply Keeps.each
    | with_reducible apply Keeps.ite
    | intro _
    | (with_reducible apply Keeps.cons; first | with_reducible assumption | with_reducible apply State.modColl_keeps | with_reducible apply State.raiseProgress_keeps | with_reducible apply State.bump_keeps | with_reducible apply Keeps.each | with_reducible apply Keeps.ite)
    | split
    | dsimp only

theorem State.chunkWritten_keeps {w₀ : Bool} {s₀ s : State} (hk : Keeps w₀ s₀ s) (op chunk : Nat) :
    Keeps w₀ s₀ (State.chunkWritten s op chunk) := by
  unfold State.chunkWritten
  repeat' first
    | with_reducible assumption
    | with_reducible apply State.closeChunk_keeps
    | with_reducible apply Keeps.each
    | with_reducible apply Keeps.ite
    | intro _
    | (with_reducible apply Keeps.cons; first | with_reducible assumption | with_reducible apply State.closeChunk_keeps | with_reducible apply Keeps.each | with_reducible apply Keeps.ite)
    | split
    | dsimp only

theorem State.pieceDone_keeps {w₀ : Bool} {s₀ s : State} (hk : Keeps w₀ s₀ s) (op chunk k total : Nat) :
    Keeps w₀ s₀ (State.pieceDone s op chunk k total) := by
  unfold State.pieceDone
  repeat' first
    | with_reducible assumption
    | with_reducible apply State.modChunk_keeps
    | with_reducible apply State.landChunk_keeps
    | with_reducible apply Keeps.each
    | with_reducible apply Keeps.ite
    | intro _
    | (with_reducible apply Keeps.cons; first | with_reducible assumption | with_reducible apply State.modChunk_keeps | with_reducible apply State.landChunk_keeps | with_reducible apply Keeps.each | with_reducible apply Keeps.ite)
    | split
    | dsimp only

theorem State.pieceFail_keeps {w₀ : Bool} {s₀ s : State} (hk : Keeps w₀ s₀ s) (op chunk : Nat) :
    Keeps w₀ s₀ (State.pieceFail s op chunk) := by
  unfold State.pieceFail
  repeat' first
    | with_reducible assumption
    | with_reducible apply State.bump_keeps
    | with_reducible apply State.modOpen_keeps
    | with_reducible apply State.modColl_keeps
    | with_reducible apply Keeps.each
    | with_reducible apply Keeps.ite
    | intro _
    | (with_reducible apply Keeps.cons; first | with_reducible assumption | with_reducible apply State.bump_keeps | with_reducible apply State.modOpen_keeps | with_reducible apply State.modColl_keeps | with_reducible apply Keeps.each | with_reducible apply Keeps.ite)
    | split
    | dsimp only

theorem State.rackGather_keeps {w₀ : Bool} {s₀ s : State} (hk : Keeps w₀ s₀ s) (op chunk : Nat) :
    Keeps w₀ s₀ (State.rackGather s op chunk) := by
  unfold State.rackGather
  repeat' first
    | with_reducible assumption
    | with_reducible apply State.sendPiece_keeps
    | with_reducible apply State.pieceDone_keeps
    | with_reducible apply Keeps.each
    | with_reducible apply Keeps.ite
    | intro _
    | (with_reducible apply Keeps.cons; first | with_reducible assumption | with_reducible apply State.sendPiece_keeps | with_reducible apply State.pieceDone_keeps | with_reducible apply Keeps.each | with_reducible apply Keeps.ite)
    | split
    | dsimp only

theorem State.subDone_keeps {w₀ : Bool} {s₀ s : State} (hk : Keeps w₀ s₀ s) (op chunk m : Nat) :
    Keeps w₀ s₀ (State.subDone s op chunk m) := by
  unfold State.subDone
  repeat' first
    | with_reducible assumption
    | with_reducible apply State.modChunk_keeps
    | with_reducible apply State.rackGather_keeps
    | with_reducible apply Keeps.each
    | with_reducible apply Keeps.ite
    | intro _
    | (with_reducible apply Keeps.cons; first | with_reducible assumption | with_reducible apply State.modChunk_keeps | with_reducible apply State.rackGather_keeps | with_reducible apply Keeps.each | with_reducible apply Keeps.ite)
    | split
    | dsimp only

theorem State.startCross_keeps {w₀ : Bool} {s₀ s : State} (hk : Keeps w₀ s₀ s) (op chunk : Nat) :
    Keeps w₀ s₀ (State.startCross s op chunk) := by
  unfold State.startCross
  repeat' first
    | with_reducible assumption
    | with_reducible apply State.modChunk_keeps
    | with_reducible apply State.sendPiece_keeps
    | with_reducible apply Keeps.each
    | with_reducible apply Keeps.ite
    | intro _
    | (with_reducible apply Keeps.cons; first | with_reducible assumption | with_reducible apply State.modChunk_keeps | with_reducible apply State.sendPiece_keeps | with_reducible apply Keeps.each | with_reducible apply Keeps.ite)
    | split
    | dsimp only

theorem State.sumDone_keeps {w₀ : Bool} {s₀ s : State} (hk : Keeps w₀ s₀ s) (op chunk stage k : Nat) :
    Keeps w₀ s₀ (State.sumDone s op chunk stage k) := by
  unfold State.sumDone
  repeat' first
    | with_reducible assumption
    | with_reducible apply State.putPiece_keeps
    | with_reducible apply State.sendPiece_keeps
    | with_reducible apply State.pieceDone_keeps
    | with_reducible apply State.startCross_keeps
    | with_reducible apply State.subDone_keeps
    | with_reducible apply Keeps.each
    | with_reducible apply Keeps.ite
    | intro _
    | (with_reducible apply Keeps.cons; first | with_reducible assumption | with_reducible apply State.putPiece_keeps | with_reducible apply State.sendPiece_keeps | with_reducible apply State.pieceDone_keeps | with_reducible apply State.startCross_keeps | with_reducible apply State.subDone_keeps | with_reducible apply Keeps.each | with_reducible apply Keeps.ite)
    | split
    | dsimp only

theorem State.firstChunk_keeps {w₀ : Bool} {s₀ s : State} (hk : Keeps w₀ s₀ s) (op : Nat) :
    Keeps w₀ s₀ (State.firstChunk s op) := by
  unfold State.firstChunk
  repeat' first
    | with_reducible assumption
    | with_reducible apply State.modColl_keeps
    | with_reducible apply Keeps.each
    | with_reducible apply Keeps.ite
    | intro _
    | (with_reducible apply Keeps.cons; first | with_reducible assumption | with_reducible apply State.modColl_keeps | with_reducible apply Keeps.each | with_reducible apply Keeps.ite)
    | split
    | dsimp only

theorem State.enterChunk_keeps {w₀ : Bool} {s₀ s : State} (hk : Keeps w₀ s₀ s) (op chunk : Nat) :
    Keeps w₀ s₀ (State.enterChunk s op chunk) := by
  unfold State.enterChunk
  repeat' first
    | with_reducible assumption
    | with_reducible apply State.firstChunk_keeps
    | with_reducible apply State.modColl_keeps
    | with_reducible apply State.raise_keeps
    | with_reducible apply State.startCross_keeps
    | with_reducible apply State.sendPiece_keeps
    | with_reducible apply State.sumDone_keeps
    | with_reducible apply Keeps.each
    | with_reducible apply Keeps.ite
    | intro _
    | (with_reducible apply Keeps.cons; first | with_reducible assumption | with_reducible apply State.firstChunk_keeps | with_reducible apply State.modColl_keeps | with_reducible apply State.raise_keeps | with_reducible apply State.startCross_keeps | with_reducible apply State.sendPiece_keeps | with_reducible apply State.sumDone_keeps | with_reducible apply Keeps.each | with_reducible apply Keeps.ite)
    | split
    | dsimp only

theorem State.takePiece_keeps {w₀ : Bool} {s₀ s : State} (hk : Keeps w₀ s₀ s) (op : Nat) (p : CollPiece) :
    Keeps w₀ s₀ (State.takePiece s op p) := by
  unfold State.takePiece
  repeat' first
    | with_reducible assumption
    | with_reducible apply State.pieceFail_keeps
    | with_reducible apply State.modChunk_keeps
    | with_reducible apply State.sumDone_keeps
    | with_reducible apply State.sendPiece_keeps
    | with_reducible apply State.putPiece_keeps
    | with_reducible apply State.subDone_keeps
    | with_reducible apply State.pieceDone_keeps
    | with_reducible apply Keeps.each
    | with_reducible apply Keeps.ite
    | intro _
    | (with_reducible apply Keeps.cons; first | with_reducible assumption | with_reducible apply State.pieceFail_keeps | with_reducible apply State.modChunk_keeps | with_reducible apply State.sumDone_keeps | with_reducible apply State.sendPiece_keeps | with_reducible apply State.putPiece_keeps | with_reducible apply State.subDone_keeps | with_reducible apply State.pieceDone_keeps | with_reducible apply Keeps.each | with_reducible apply Keeps.ite)
    | split
    | dsimp only

theorem State.advanceColl_keeps {w₀ : Bool} {s₀ : State} :
    ∀ (n : Nat) {s : State} (_ : Keeps w₀ s₀ s) (b : Nat), Keeps w₀ s₀ (State.advanceColl n s b)
  | 0, _, h, b => by
    unfold State.advanceColl
    repeat' first
      | with_reducible assumption
      | with_reducible apply State.advanceColl_keeps
      | with_reducible apply State.enterChunk_keeps
      | with_reducible apply State.modColl_keeps
      | with_reducible apply State.takePiece_keeps
      | with_reducible apply Keeps.each
      | with_reducible apply Keeps.ite
      | intro _
      | (with_reducible apply Keeps.cons; first | with_reducible assumption | with_reducible apply State.enterChunk_keeps | with_reducible apply State.modColl_keeps | with_reducible apply State.takePiece_keeps | with_reducible apply Keeps.each | with_reducible apply Keeps.ite)
      | split
      | dsimp only
  | n + 1, _, h, b => by
    unfold State.advanceColl
    repeat' first
      | with_reducible assumption
      | with_reducible apply State.advanceColl_keeps
      | with_reducible apply State.enterChunk_keeps
      | with_reducible apply State.modColl_keeps
      | with_reducible apply State.takePiece_keeps
      | with_reducible apply Keeps.each
      | with_reducible apply Keeps.ite
      | intro _
      | (with_reducible apply Keeps.cons; first | with_reducible assumption | with_reducible apply State.enterChunk_keeps | with_reducible apply State.modColl_keeps | with_reducible apply State.takePiece_keeps | with_reducible apply Keeps.each | with_reducible apply Keeps.ite)
      | split
      | dsimp only

theorem State.runColl_keeps {w₀ : Bool} {s₀ s : State} (hk : Keeps w₀ s₀ s) (op : Nat) :
    Keeps w₀ s₀ (State.runColl s op) := by
  unfold State.runColl
  repeat' first
    | with_reducible assumption
    | with_reducible apply State.advanceColl_keeps
    | with_reducible apply Keeps.each
    | with_reducible apply Keeps.ite
    | intro _
    | (with_reducible apply Keeps.cons; first | with_reducible assumption | with_reducible apply State.advanceColl_keeps | with_reducible apply Keeps.each | with_reducible apply Keeps.ite)
    | split
    | dsimp only

theorem State.noteCollFrame_keeps {w₀ : Bool} {s₀ s : State} (hk : Keeps w₀ s₀ s) (f : CollFrame) (at_ : Nat) :
    Keeps w₀ s₀ (State.noteCollFrame s f at_) := by
  unfold State.noteCollFrame
  repeat' first
    | with_reducible assumption
    | with_reducible apply State.raise_keeps
    | with_reducible apply State.modColl_keeps
    | with_reducible apply Keeps.each
    | with_reducible apply Keeps.ite
    | intro _
    | (with_reducible apply Keeps.cons; first | with_reducible assumption | with_reducible apply State.raise_keeps | with_reducible apply State.modColl_keeps | with_reducible apply Keeps.each | with_reducible apply Keeps.ite)
    | split
    | dsimp only

theorem State.holdColl_keeps {w₀ : Bool} {s₀ s : State} (hk : Keeps w₀ s₀ s) (f : CollFrame) :
    Keeps w₀ s₀ (State.holdColl s f) := by
  unfold State.holdColl
  repeat' first
    | with_reducible assumption
    | with_reducible apply State.modColl_keeps
    | with_reducible apply State.modAtt_keeps
    | with_reducible apply Keeps.each
    | with_reducible apply Keeps.ite
    | intro _
    | (with_reducible apply Keeps.cons; first | with_reducible assumption | with_reducible apply State.modColl_keeps | with_reducible apply State.modAtt_keeps | with_reducible apply Keeps.each | with_reducible apply Keeps.ite)
    | split
    | dsimp only

theorem State.collFrame_keeps {w₀ : Bool} {s₀ s : State} (hk : Keeps w₀ s₀ s) (f : CollFrame) :
    Keeps w₀ s₀ (State.collFrame s f) := by
  unfold State.collFrame
  repeat' first
    | with_reducible assumption
    | with_reducible apply State.noteCollFrame_keeps
    | with_reducible apply State.runColl_keeps
    | with_reducible apply State.holdColl_keeps
    | with_reducible apply Keeps.each
    | with_reducible apply Keeps.ite
    | intro _
    | (with_reducible apply Keeps.cons; first | with_reducible assumption | with_reducible apply State.noteCollFrame_keeps | with_reducible apply State.runColl_keeps | with_reducible apply State.holdColl_keeps | with_reducible apply Keeps.each | with_reducible apply Keeps.ite)
    | split
    | dsimp only

theorem State.releaseFrames_keeps {w₀ : Bool} {s₀ s : State} (hk : Keeps w₀ s₀ s) (op : Nat) :
    Keeps w₀ s₀ (State.releaseFrames s op) := by
  unfold State.releaseFrames
  repeat' first
    | with_reducible assumption
    | with_reducible apply State.modAtt_keeps
    | with_reducible apply State.noteCollFrame_keeps
    | with_reducible apply State.releaseInbound_keeps
    | with_reducible apply State.runColl_keeps
    | with_reducible apply Keeps.each
    | with_reducible apply Keeps.ite
    | intro _
    | (with_reducible apply Keeps.cons; first | with_reducible assumption | with_reducible apply State.modAtt_keeps | with_reducible apply State.noteCollFrame_keeps | with_reducible apply State.releaseInbound_keeps | with_reducible apply State.runColl_keeps | with_reducible apply Keeps.each | with_reducible apply Keeps.ite)
    | split
    | dsimp only

theorem State.loseChunk_keeps {w₀ : Bool} {s₀ s : State} (hk : Keeps w₀ s₀ s) (op : Nat) (f : ReadFind) :
    Keeps w₀ s₀ (State.loseChunk s op f) := by
  unfold State.loseChunk
  repeat' first
    | with_reducible assumption
    | with_reducible apply State.useFree_keeps
    | with_reducible apply State.modChunk_keeps
    | with_reducible apply State.modColl_keeps
    | with_reducible apply Keeps.each
    | with_reducible apply Keeps.ite
    | intro _
    | (with_reducible apply Keeps.cons; first | with_reducible assumption | with_reducible apply State.useFree_keeps | with_reducible apply State.modChunk_keeps | with_reducible apply State.modColl_keeps | with_reducible apply Keeps.each | with_reducible apply Keeps.ite)
    | split
    | dsimp only

theorem State.readBuffer_keeps {w₀ : Bool} {s₀ s : State} (hk : Keeps w₀ s₀ s) (op : Nat) (finds : List ReadFind) :
    Keeps w₀ s₀ (State.readBuffer s op finds) := by
  unfold State.readBuffer
  repeat' first
    | with_reducible assumption
    | with_reducible apply State.foundWords_keeps
    | with_reducible apply State.loseChunk_keeps
    | with_reducible apply Keeps.each
    | with_reducible apply Keeps.ite
    | intro _
    | (with_reducible apply Keeps.cons; first | with_reducible assumption | with_reducible apply State.foundWords_keeps | with_reducible apply State.loseChunk_keeps | with_reducible apply Keeps.each | with_reducible apply Keeps.ite)
    | split
    | dsimp only

theorem State.noteSum_keeps {w₀ : Bool} {s₀ s : State} (hk : Keeps w₀ s₀ s) (r : ReduceBody) (f : TreeSum → TreeSum) :
    Keeps w₀ s₀ (State.noteSum s r f) := by
  unfold State.noteSum
  repeat' first
    | with_reducible assumption
    | with_reducible apply Keeps.each
    | with_reducible apply Keeps.ite
    | intro _
    | (with_reducible apply Keeps.cons; first | with_reducible assumption | with_reducible apply Keeps.each | with_reducible apply Keeps.ite)
    | split
    | dsimp only

theorem State.setTotal_keeps {w₀ : Bool} {s₀ s : State} (hk : Keeps w₀ s₀ s) (op n : Nat) :
    Keeps w₀ s₀ (State.setTotal s op n) := by
  unfold State.setTotal
  repeat' first
    | with_reducible assumption
    | with_reducible apply State.raise_keeps
    | with_reducible apply State.modColl_keeps
    | with_reducible apply State.bump_keeps
    | with_reducible apply Keeps.each
    | with_reducible apply Keeps.ite
    | intro _
    | (with_reducible apply Keeps.cons; first | with_reducible assumption | with_reducible apply State.raise_keeps | with_reducible apply State.modColl_keeps | with_reducible apply State.bump_keeps | with_reducible apply Keeps.each | with_reducible apply Keeps.ite)
    | split
    | dsimp only

theorem State.treeResult_keeps {w₀ : Bool} {s₀ s : State} (hk : Keeps w₀ s₀ s) (op : Nat) (words : List (BitVec 64)) :
    Keeps w₀ s₀ (State.treeResult s op words) := by
  unfold State.treeResult
  repeat' first
    | with_reducible assumption
    | with_reducible apply Keeps.write
    | with_reducible apply State.modColl_keeps
    | with_reducible apply State.landChunk_keeps
    | with_reducible apply Keeps.each
    | with_reducible apply Keeps.ite
    | intro _
    | (with_reducible apply Keeps.cons; first | with_reducible assumption | with_reducible apply Keeps.write | with_reducible apply State.modColl_keeps | with_reducible apply State.landChunk_keeps | with_reducible apply Keeps.each | with_reducible apply Keeps.ite)
    | split
    | dsimp only

theorem State.pushSum_all {w₀ : Bool} {s₀ s : State} (hk : Keeps w₀ s₀ s) (r : ReduceBody) :
    Keeps.Pair w₀ s₀ (State.pushSum s r) := by
  unfold State.pushSum
  repeat' first
    | with_reducible assumption
    | with_reducible apply State.sent_keeps
    | with_reducible apply State.noteSum_keeps
    | with_reducible apply State.sendDown_keeps
    | with_reducible apply State.sendUp_keeps
    | with_reducible apply Keeps.each
    | with_reducible apply Keeps.ite
    | with_reducible apply Keeps.Pair.ite
    | intro _
    | (with_reducible apply Keeps.cons; first | with_reducible assumption | with_reducible apply State.sent_keeps | with_reducible apply State.noteSum_keeps | with_reducible apply State.sendDown_keeps | with_reducible apply State.sendUp_keeps | with_reducible apply Keeps.each | with_reducible apply Keeps.ite)
    | split
    | dsimp only
    | with_reducible apply Keeps.Pair.pair

theorem State.launch_keeps {w₀ : Bool} {s₀ s : State} (hk : Keeps w₀ s₀ s) (op : Nat) :
    Keeps w₀ s₀ (State.launch s op) := by
  unfold State.launch
  repeat' first
    | with_reducible assumption
    | with_reducible apply State.releaseFrames_keeps
    | with_reducible apply State.firstChunk_keeps
    | with_reducible apply State.modColl_keeps
    | with_reducible apply State.raise_keeps
    | with_reducible apply State.noteSum_keeps
    | with_reducible refine Keeps.Pair.out (State.pushSum_all ?_ _) ‹_›
    | with_reducible apply State.pushSum_all
    | with_reducible refine Keeps.Pair.fst (State.pushSum_all ?_ _)
    | with_reducible apply State.treeResult_keeps
    | with_reducible apply Keeps.each
    | with_reducible apply Keeps.ite
    | intro _
    | (with_reducible apply Keeps.cons; first | with_reducible assumption | with_reducible apply State.releaseFrames_keeps | with_reducible apply State.firstChunk_keeps | with_reducible apply State.modColl_keeps | with_reducible apply State.raise_keeps | with_reducible apply State.noteSum_keeps | with_reducible refine Keeps.Pair.out (State.pushSum_all ?_ _) ‹_› | with_reducible apply State.pushSum_all | with_reducible refine Keeps.Pair.fst (State.pushSum_all ?_ _) | with_reducible apply State.treeResult_keeps | with_reducible apply Keeps.each | with_reducible apply Keeps.ite)
    | split
    | dsimp only

theorem State.sumResult_keeps {w₀ : Bool} {s₀ s : State} (hk : Keeps w₀ s₀ s) (r : ReduceBody) :
    Keeps w₀ s₀ (State.sumResult s r) := by
  unfold State.sumResult
  repeat' first
    | with_reducible assumption
    | with_reducible apply State.setTotal_keeps
    | with_reducible apply State.launch_keeps
    | with_reducible apply State.treeResult_keeps
    | with_reducible apply Keeps.each
    | with_reducible apply Keeps.ite
    | intro _
    | (with_reducible apply Keeps.cons; first | with_reducible assumption | with_reducible apply State.setTotal_keeps | with_reducible apply State.launch_keeps | with_reducible apply State.treeResult_keeps | with_reducible apply Keeps.each | with_reducible apply Keeps.ite)
    | split
    | dsimp only

theorem State.takeReduce_keeps {w₀ : Bool} {s₀ s : State} (hk : Keeps w₀ s₀ s) (down : Bool) (from_ : MemberId) (r : ReduceBody) :
    Keeps w₀ s₀ (State.takeReduce s down from_ r) := by
  unfold State.takeReduce
  repeat' first
    | with_reducible assumption
    | with_reducible apply State.windowFault_keeps
    | with_reducible apply State.sendDown_keeps
    | with_reducible apply State.sumResult_keeps
    | with_reducible apply State.noteSum_keeps
    | with_reducible refine Keeps.Pair.out (State.pushSum_all ?_ _) ‹_›
    | with_reducible apply State.pushSum_all
    | with_reducible refine Keeps.Pair.fst (State.pushSum_all ?_ _)
    | with_reducible apply Keeps.each
    | with_reducible apply Keeps.ite
    | intro _
    | (with_reducible apply Keeps.cons; first | with_reducible assumption | with_reducible apply State.windowFault_keeps | with_reducible apply State.sendDown_keeps | with_reducible apply State.sumResult_keeps | with_reducible apply State.noteSum_keeps | with_reducible refine Keeps.Pair.out (State.pushSum_all ?_ _) ‹_› | with_reducible apply State.pushSum_all | with_reducible refine Keeps.Pair.fst (State.pushSum_all ?_ _) | with_reducible apply Keeps.each | with_reducible apply Keeps.ite)
    | split
    | dsimp only

theorem State.idleSums_keeps {w₀ : Bool} {s₀ s : State} (hk : Keeps w₀ s₀ s) :
    Keeps w₀ s₀ (State.idleSums s) := by
  unfold State.idleSums
  repeat' first
    | with_reducible assumption
    | with_reducible apply State.noteSum_keeps
    | with_reducible refine Keeps.Pair.out (State.pushSum_all ?_ _) ‹_›
    | with_reducible apply State.pushSum_all
    | with_reducible refine Keeps.Pair.fst (State.pushSum_all ?_ _)
    | with_reducible apply State.sumResult_keeps
    | with_reducible apply Keeps.each
    | with_reducible apply Keeps.ite
    | intro _
    | (with_reducible apply Keeps.cons; first | with_reducible assumption | with_reducible apply State.noteSum_keeps | with_reducible refine Keeps.Pair.out (State.pushSum_all ?_ _) ‹_› | with_reducible apply State.pushSum_all | with_reducible refine Keeps.Pair.fst (State.pushSum_all ?_ _) | with_reducible apply State.sumResult_keeps | with_reducible apply Keeps.each | with_reducible apply Keeps.ite)
    | split
    | dsimp only

theorem State.haveCount_keeps {w₀ : Bool} {s₀ s : State} (hk : Keeps w₀ s₀ s) (op n : Nat) :
    Keeps w₀ s₀ (State.haveCount s op n) := by
  unfold State.haveCount
  repeat' first
    | with_reducible assumption
    | with_reducible apply State.modColl_keeps
    | with_reducible apply State.noteSum_keeps
    | with_reducible refine Keeps.Pair.out (State.pushSum_all ?_ _) ‹_›
    | with_reducible apply State.pushSum_all
    | with_reducible refine Keeps.Pair.fst (State.pushSum_all ?_ _)
    | with_reducible apply State.sumResult_keeps
    | with_reducible apply State.launch_keeps
    | with_reducible apply Keeps.each
    | with_reducible apply Keeps.ite
    | intro _
    | (with_reducible apply Keeps.cons; first | with_reducible assumption | with_reducible apply State.modColl_keeps | with_reducible apply State.noteSum_keeps | with_reducible refine Keeps.Pair.out (State.pushSum_all ?_ _) ‹_› | with_reducible apply State.pushSum_all | with_reducible refine Keeps.Pair.fst (State.pushSum_all ?_ _) | with_reducible apply State.sumResult_keeps | with_reducible apply State.launch_keeps | with_reducible apply Keeps.each | with_reducible apply Keeps.ite)
    | split
    | dsimp only

theorem State.countOwn_keeps {w₀ : Bool} {s₀ s : State} (hk : Keeps w₀ s₀ s) (op : Nat) :
    Keeps w₀ s₀ (State.countOwn s op) := by
  unfold State.countOwn
  repeat' first
    | with_reducible assumption
    | with_reducible apply State.modColl_keeps
    | with_reducible apply State.staleShape_keeps
    | with_reducible apply State.haveCount_keeps
    | with_reducible apply Keeps.each
    | with_reducible apply Keeps.ite
    | intro _
    | (with_reducible apply Keeps.cons; first | with_reducible assumption | with_reducible apply State.modColl_keeps | with_reducible apply State.staleShape_keeps | with_reducible apply State.haveCount_keeps | with_reducible apply Keeps.each | with_reducible apply Keeps.ite)
    | split
    | dsimp only

theorem State.startColl_keeps {w₀ : Bool} {s₀ s : State} (hk : Keeps w₀ s₀ s) (op g : Nat) (r : CollRec) (ok combined stats : Bool) :
    Keeps w₀ s₀ (State.startColl s op g r ok combined stats) := by
  unfold State.startColl
  repeat' first
    | with_reducible assumption
    | with_reducible apply State.raise_keeps
    | with_reducible apply State.modAtt_keeps
    | with_reducible apply State.writeProgress_keeps
    | with_reducible apply State.countOwn_keeps
    | with_reducible apply Keeps.each
    | with_reducible apply Keeps.ite
    | intro _
    | (with_reducible apply Keeps.cons; first | with_reducible assumption | with_reducible apply State.raise_keeps | with_reducible apply State.modAtt_keeps | with_reducible apply State.writeProgress_keeps | with_reducible apply State.countOwn_keeps | with_reducible apply Keeps.each | with_reducible apply Keeps.ite)
    | split
    | dsimp only

theorem State.collProgress_keeps {w₀ : Bool} {s₀ s : State} (hk : Keeps w₀ s₀ s) :
    Keeps w₀ s₀ (State.collProgress s) := by
  unfold State.collProgress
  repeat' first
    | with_reducible assumption
    | with_reducible apply State.countOwn_keeps
    | with_reducible apply State.launch_keeps
    | with_reducible apply Keeps.each
    | with_reducible apply Keeps.ite
    | intro _
    | (with_reducible apply Keeps.cons; first | with_reducible assumption | with_reducible apply State.countOwn_keeps | with_reducible apply State.launch_keeps | with_reducible apply Keeps.each | with_reducible apply Keeps.ite)
    | split
    | dsimp only

theorem State.abandonProgress_keeps {w₀ : Bool} {s₀ s : State} (hk : Keeps w₀ s₀ s) (q : Sequencer) :
    Keeps w₀ s₀ (State.abandonProgress s q) := by
  unfold State.abandonProgress
  repeat' first
    | with_reducible assumption
    | with_reducible apply State.writeProgress_keeps
    | with_reducible apply Keeps.each
    | with_reducible apply Keeps.ite
    | intro _
    | (with_reducible apply Keeps.cons; first | with_reducible assumption | with_reducible apply State.writeProgress_keeps | with_reducible apply Keeps.each | with_reducible apply Keeps.ite)
    | split
    | dsimp only

theorem State.collTimer_keeps {w₀ : Bool} {s₀ s : State} (hk : Keeps w₀ s₀ s) (op : Nat) :
    Keeps w₀ s₀ (State.collTimer s op) := by
  unfold State.collTimer
  repeat' first
    | with_reducible assumption
    | with_reducible apply State.exchangeExpired_keeps
    | with_reducible apply Keeps.each
    | with_reducible apply Keeps.ite
    | intro _
    | (with_reducible apply Keeps.cons; first | with_reducible assumption | with_reducible apply State.exchangeExpired_keeps | with_reducible apply Keeps.each | with_reducible apply Keeps.ite)
    | split
    | dsimp only

end Sys2Proof.Machine
end

