-- ==== Sys2Proof/Laws/KeepsPlacing.lean ====
section
/-! SUPPORT. What the operations of Machine/Placing.lean keep (`Keeps`). -/

set_option Elab.async false

namespace Sys2Proof.Machine

theorem State.setPlacement_keeps {w₀ : Bool} {s₀ s : State} (hk : Keeps w₀ s₀ s) (p : Fin 16) (v : Placement) :
    Keeps w₀ s₀ (State.setPlacement s p v) := by
  unfold State.setPlacement
  repeat' first
    | with_reducible assumption
    | with_reducible apply Keeps.each
    | with_reducible apply Keeps.ite
    | intro _
    | (with_reducible apply Keeps.cons; first | with_reducible assumption | with_reducible apply Keeps.each | with_reducible apply Keeps.ite)
    | split
    | dsimp only

theorem State.modPlacement_keeps {w₀ : Bool} {s₀ s : State} (hk : Keeps w₀ s₀ s) (p : Fin 16) (f : Placement → Placement) :
    Keeps w₀ s₀ (State.modPlacement s p f) := by
  unfold State.modPlacement
  repeat' first
    | with_reducible assumption
    | with_reducible apply State.setPlacement_keeps
    | with_reducible apply Keeps.each
    | with_reducible apply Keeps.ite
    | intro _
    | (with_reducible apply Keeps.cons; first | with_reducible assumption | with_reducible apply State.setPlacement_keeps | with_reducible apply Keeps.each | with_reducible apply Keeps.ite)
    | split
    | dsimp only

theorem State.restartEpoch_keeps {w₀ : Bool} {s₀ s : State} (hk : Keeps w₀ s₀ s) (p : Fin 16) :
    Keeps w₀ s₀ (State.restartEpoch s p) := by
  unfold State.restartEpoch
  repeat' first
    | with_reducible assumption
    | with_reducible apply State.modPlacement_keeps
    | with_reducible apply Keeps.each
    | with_reducible apply Keeps.ite
    | intro _
    | (with_reducible apply Keeps.cons; first | with_reducible assumption | with_reducible apply State.modPlacement_keeps | with_reducible apply Keeps.each | with_reducible apply Keeps.ite)
    | split
    | dsimp only

theorem State.loadPlan_keeps {w₀ : Bool} {s₀ s : State} (hk : Keeps w₀ s₀ s) (p : Fin 16) :
    Keeps w₀ s₀ (State.loadPlan s p) := by
  unfold State.loadPlan
  repeat' first
    | with_reducible assumption
    | with_reducible apply State.setPlacement_keeps
    | with_reducible apply State.restartEpoch_keeps
    | with_reducible apply Keeps.each
    | with_reducible apply Keeps.ite
    | intro _
    | (with_reducible apply Keeps.cons; first | with_reducible assumption | with_reducible apply State.setPlacement_keeps | with_reducible apply State.restartEpoch_keeps | with_reducible apply Keeps.each | with_reducible apply Keeps.ite)
    | split
    | dsimp only

theorem State.applyPlacement_keeps {w₀ : Bool} {s₀ s : State} (hk : Keeps w₀ s₀ s) (p : Nat) :
    Keeps w₀ s₀ (State.applyPlacement s p) := by
  unfold State.applyPlacement
  repeat' first
    | with_reducible assumption
    | with_reducible apply State.applyWords_keeps
    | with_reducible apply Keeps.each
    | with_reducible apply Keeps.ite
    | intro _
    | (with_reducible apply Keeps.cons; first | with_reducible assumption | with_reducible apply State.applyWords_keeps | with_reducible apply Keeps.each | with_reducible apply Keeps.ite)
    | split
    | dsimp only

theorem State.stepDone_keeps {w₀ : Bool} {s₀ s : State} (hk : Keeps w₀ s₀ s) (p : Fin 16) :
    Keeps w₀ s₀ (State.stepDone s p) := by
  unfold State.stepDone
  repeat' first
    | with_reducible assumption
    | with_reducible apply State.modPlacement_keeps
    | with_reducible apply State.restartEpoch_keeps
    | with_reducible apply Keeps.each
    | with_reducible apply Keeps.ite
    | intro _
    | (with_reducible apply Keeps.cons; first | with_reducible assumption | with_reducible apply State.modPlacement_keeps | with_reducible apply State.restartEpoch_keeps | with_reducible apply Keeps.each | with_reducible apply Keeps.ite)
    | split
    | dsimp only

theorem State.statsEnds_keeps {w₀ : Bool} {s₀ s : State} (hk : Keeps w₀ s₀ s) (p : Fin 16) :
    Keeps w₀ s₀ (State.statsEnds s p) := by
  unfold State.statsEnds
  repeat' first
    | with_reducible assumption
    | with_reducible apply State.modPlacement_keeps
    | with_reducible apply Keeps.each
    | with_reducible apply Keeps.ite
    | intro _
    | (with_reducible apply Keeps.cons; first | with_reducible assumption | with_reducible apply State.modPlacement_keeps | with_reducible apply Keeps.each | with_reducible apply Keeps.ite)
    | split
    | dsimp only

theorem State.addLe_keeps {w₀ : Bool} {s₀ s : State} (hk : Keeps w₀ s₀ s) (a n : Nat) :
    Keeps w₀ s₀ (State.addLe s a n) := by
  unfold State.addLe
  repeat' first
    | with_reducible assumption
    | with_reducible apply Keeps.writeLe
    | with_reducible apply Keeps.each
    | with_reducible apply Keeps.ite
    | intro _
    | (with_reducible apply Keeps.cons; first | with_reducible assumption | with_reducible apply Keeps.writeLe | with_reducible apply Keeps.each | with_reducible apply Keeps.ite)
    | split
    | dsimp only

theorem State.addStatistics_keeps {w₀ : Bool} {s₀ s : State} (hk : Keeps w₀ s₀ s) (q : Sequencer) :
    Keeps w₀ s₀ (State.addStatistics s q) := by
  unfold State.addStatistics
  repeat' first
    | with_reducible assumption
    | with_reducible apply State.addLe_keeps
    | with_reducible apply Keeps.each
    | with_reducible apply Keeps.ite
    | intro _
    | (with_reducible apply Keeps.cons; first | with_reducible assumption | with_reducible apply State.addLe_keeps | with_reducible apply Keeps.each | with_reducible apply Keeps.ite)
    | split
    | dsimp only

theorem State.startStats_keeps {w₀ : Bool} {s₀ s : State} (hk : Keeps w₀ s₀ s) (op g : Nat) :
    Keeps w₀ s₀ (State.startStats s op g) := by
  unfold State.startStats
  repeat' first
    | with_reducible assumption
    | with_reducible apply State.modPlacement_keeps
    | with_reducible apply State.raise_keeps
    | with_reducible apply Keeps.writeLe
    | with_reducible apply State.startColl_keeps
    | with_reducible apply Keeps.each
    | with_reducible apply Keeps.ite
    | intro _
    | (with_reducible apply Keeps.cons; first | with_reducible assumption | with_reducible apply State.modPlacement_keeps | with_reducible apply State.raise_keeps | with_reducible apply Keeps.writeLe | with_reducible apply State.startColl_keeps | with_reducible apply Keeps.each | with_reducible apply Keeps.ite)
    | split
    | dsimp only

theorem State.writeTable_keeps {w₀ : Bool} {s₀ s : State} (hk : Keeps w₀ s₀ s) (p : Fin 16) (w : WholePlan) (k : Nat) (l : LayerPlan) :
    Keeps w₀ s₀ (State.writeTable s p w k l) := by
  unfold State.writeTable
  repeat' first
    | with_reducible assumption
    | with_reducible apply Keeps.write
    | with_reducible apply Keeps.each
    | with_reducible apply Keeps.ite
    | intro _
    | (with_reducible apply Keeps.cons; first | with_reducible assumption | with_reducible apply Keeps.write | with_reducible apply Keeps.each | with_reducible apply Keeps.ite)
    | split
    | dsimp only

theorem State.putMove_keeps {w₀ : Bool} {s₀ s : State} (hk : Keeps w₀ s₀ s) (p : Fin 16) (m : WMove) :
    Keeps w₀ s₀ (State.putMove s p m) := by
  unfold State.putMove
  repeat' first
    | with_reducible assumption
    | with_reducible apply State.modPlacement_keeps
    | with_reducible apply Keeps.each
    | with_reducible apply Keeps.ite
    | intro _
    | (with_reducible apply Keeps.cons; first | with_reducible assumption | with_reducible apply State.modPlacement_keeps | with_reducible apply Keeps.each | with_reducible apply Keeps.ite)
    | split
    | dsimp only

theorem State.landWindow_keeps {w₀ : Bool} {s₀ s : State} (hk : Keeps w₀ s₀ s) (p : Fin 16) (m : WMove) :
    Keeps w₀ s₀ (State.landWindow s p m) := by
  unfold State.landWindow
  repeat' first
    | with_reducible assumption
    | with_reducible apply State.putMove_keeps
    | with_reducible apply State.hostIssue_keeps
    | with_reducible apply Keeps.each
    | with_reducible apply Keeps.ite
    | intro _
    | (with_reducible apply Keeps.cons; first | with_reducible assumption | with_reducible apply State.putMove_keeps | with_reducible apply State.hostIssue_keeps | with_reducible apply Keeps.each | with_reducible apply Keeps.ite)
    | split
    | dsimp only

theorem State.copyWindow_keeps {w₀ : Bool} {s₀ s : State} (hk : Keeps w₀ s₀ s) (p : Fin 16) (m : WMove) (src : Nat) :
    Keeps w₀ s₀ (State.copyWindow s p m src) := by
  unfold State.copyWindow
  repeat' first
    | with_reducible assumption
    | with_reducible apply Keeps.write
    | with_reducible apply State.landWindow_keeps
    | with_reducible apply Keeps.each
    | with_reducible apply Keeps.ite
    | intro _
    | (with_reducible apply Keeps.cons; first | with_reducible assumption | with_reducible apply Keeps.write | with_reducible apply State.landWindow_keeps | with_reducible apply Keeps.each | with_reducible apply Keeps.ite)
    | split
    | dsimp only

theorem State.requestWindow_keeps {w₀ : Bool} {s₀ s : State} (hk : Keeps w₀ s₀ s) (p : Fin 16) (m : WMove) :
    Keeps w₀ s₀ (State.requestWindow s p m) := by
  unfold State.requestWindow
  repeat' first
    | with_reducible assumption
    | with_reducible apply State.copyWindow_keeps
    | with_reducible apply State.putMove_keeps
    | with_reducible apply State.send_keeps
    | with_reducible apply Keeps.each
    | with_reducible apply Keeps.ite
    | intro _
    | (with_reducible apply Keeps.cons; first | with_reducible assumption | with_reducible apply State.copyWindow_keeps | with_reducible apply State.putMove_keeps | with_reducible apply State.send_keeps | with_reducible apply Keeps.each | with_reducible apply Keeps.ite)
    | split
    | dsimp only

theorem State.windowAgain_keeps {w₀ : Bool} {s₀ s : State} (hk : Keeps w₀ s₀ s) (p : Fin 16) (m : WMove) :
    Keeps w₀ s₀ (State.windowAgain s p m) := by
  unfold State.windowAgain
  repeat' first
    | with_reducible assumption
    | with_reducible apply State.putMove_keeps
    | with_reducible apply State.requestWindow_keeps
    | with_reducible apply Keeps.each
    | with_reducible apply Keeps.ite
    | intro _
    | (with_reducible apply Keeps.cons; first | with_reducible assumption | with_reducible apply State.putMove_keeps | with_reducible apply State.requestWindow_keeps | with_reducible apply Keeps.each | with_reducible apply Keeps.ite)
    | split
    | dsimp only

theorem State.startMove_keeps {w₀ : Bool} {s₀ s : State} (hk : Keeps w₀ s₀ s) (p : Fin 16) (m : WMove) :
    Keeps w₀ s₀ (State.startMove s p m) := by
  unfold State.startMove
  repeat' first
    | with_reducible assumption
    | with_reducible apply State.putMove_keeps
    | with_reducible apply State.requestWindow_keeps
    | with_reducible apply Keeps.each
    | with_reducible apply Keeps.ite
    | intro _
    | (with_reducible apply Keeps.cons; first | with_reducible assumption | with_reducible apply State.putMove_keeps | with_reducible apply State.requestWindow_keeps | with_reducible apply Keeps.each | with_reducible apply Keeps.ite)
    | split
    | dsimp only

theorem State.startMoves_keeps {w₀ : Bool} {s₀ : State} :
    ∀ (n : Nat) {s : State} (_ : Keeps w₀ s₀ s) (b : Fin 16), Keeps w₀ s₀ (State.startMoves n s b)
  | 0, _, h, b => by
    unfold State.startMoves
    repeat' first
      | with_reducible assumption
      | with_reducible apply State.startMoves_keeps
      | with_reducible apply State.startMove_keeps
      | with_reducible apply Keeps.each
      | with_reducible apply Keeps.ite
      | intro _
      | (with_reducible apply Keeps.cons; first | with_reducible assumption | with_reducible apply State.startMove_keeps | with_reducible apply Keeps.each | with_reducible apply Keeps.ite)
      | split
      | dsimp only
  | n + 1, _, h, b => by
    unfold State.startMoves
    repeat' first
      | with_reducible assumption
      | with_reducible apply State.startMoves_keeps
      | with_reducible apply State.startMove_keeps
      | with_reducible apply Keeps.each
      | with_reducible apply Keeps.ite
      | intro _
      | (with_reducible apply Keeps.cons; first | with_reducible assumption | with_reducible apply State.startMove_keeps | with_reducible apply Keeps.each | with_reducible apply Keeps.ite)
      | split
      | dsimp only

theorem State.moreMoves_keeps {w₀ : Bool} {s₀ s : State} (hk : Keeps w₀ s₀ s) (p : Fin 16) :
    Keeps w₀ s₀ (State.moreMoves s p) := by
  unfold State.moreMoves
  repeat' first
    | with_reducible assumption
    | with_reducible apply State.startMoves_keeps
    | with_reducible apply Keeps.each
    | with_reducible apply Keeps.ite
    | intro _
    | (with_reducible apply Keeps.cons; first | with_reducible assumption | with_reducible apply State.startMoves_keeps | with_reducible apply Keeps.each | with_reducible apply Keeps.ite)
    | split
    | dsimp only

theorem State.windowDone_keeps {w₀ : Bool} {s₀ s : State} (hk : Keeps w₀ s₀ s) (p : Fin 16) (m : WMove) :
    Keeps w₀ s₀ (State.windowDone s p m) := by
  unfold State.windowDone
  repeat' first
    | with_reducible assumption
    | with_reducible apply State.bump_keeps
    | with_reducible apply State.putMove_keeps
    | with_reducible apply State.moreMoves_keeps
    | with_reducible apply State.requestWindow_keeps
    | with_reducible apply Keeps.each
    | with_reducible apply Keeps.ite
    | intro _
    | (with_reducible apply Keeps.cons; first | with_reducible assumption | with_reducible apply State.bump_keeps | with_reducible apply State.putMove_keeps | with_reducible apply State.moreMoves_keeps | with_reducible apply State.requestWindow_keeps | with_reducible apply Keeps.each | with_reducible apply Keeps.ite)
    | split
    | dsimp only

theorem State.quarryFallback_keeps {w₀ : Bool} {s₀ s : State} (hk : Keeps w₀ s₀ s) (p : Fin 16) (m : WMove) :
    Keeps w₀ s₀ (State.quarryFallback s p m) := by
  unfold State.quarryFallback
  repeat' first
    | with_reducible assumption
    | with_reducible apply State.putMove_keeps
    | with_reducible apply Keeps.each
    | with_reducible apply Keeps.ite
    | intro _
    | (with_reducible apply Keeps.cons; first | with_reducible assumption | with_reducible apply State.putMove_keeps | with_reducible apply Keeps.each | with_reducible apply Keeps.ite)
    | split
    | dsimp only

theorem State.takeBulk_keeps {w₀ : Bool} {s₀ s : State} (hk : Keeps w₀ s₀ s) (from_ : MemberId) (b : BulkFrame) :
    Keeps w₀ s₀ (State.takeBulk s from_ b) := by
  unfold State.takeBulk
  repeat' first
    | with_reducible assumption
    | with_reducible apply State.windowFault_keeps
    | with_reducible apply Keeps.write
    | with_reducible apply State.putMove_keeps
    | with_reducible apply State.landWindow_keeps
    | with_reducible apply State.raise_keeps
    | with_reducible apply State.windowAgain_keeps
    | with_reducible apply Keeps.each
    | with_reducible apply Keeps.ite
    | intro _
    | (with_reducible apply Keeps.cons; first | with_reducible assumption | with_reducible apply State.windowFault_keeps | with_reducible apply Keeps.write | with_reducible apply State.putMove_keeps | with_reducible apply State.landWindow_keeps | with_reducible apply State.raise_keeps | with_reducible apply State.windowAgain_keeps | with_reducible apply Keeps.each | with_reducible apply Keeps.ite)
    | split
    | dsimp only

theorem State.answerBulk_keeps {w₀ : Bool} {s₀ s : State} (hk : Keeps w₀ s₀ s) (b : BulkFrame) :
    Keeps w₀ s₀ (State.answerBulk s b) := by
  unfold State.answerBulk
  repeat' first
    | with_reducible assumption
    | with_reducible apply State.windowFault_keeps
    | with_reducible apply State.send_keeps
    | with_reducible apply Keeps.each
    | with_reducible apply Keeps.ite
    | intro _
    | (with_reducible apply Keeps.cons; first | with_reducible assumption | with_reducible apply State.windowFault_keeps | with_reducible apply State.send_keeps | with_reducible apply Keeps.each | with_reducible apply Keeps.ite)
    | split
    | dsimp only

theorem State.bulkLimit_keeps {w₀ : Bool} {s₀ s : State} (hk : Keeps w₀ s₀ s) (p : Payload) :
    Keeps w₀ s₀ (State.bulkLimit s p) := by
  unfold State.bulkLimit
  repeat' first
    | with_reducible assumption
    | with_reducible apply State.quarryFallback_keeps
    | with_reducible apply Keeps.each
    | with_reducible apply Keeps.ite
    | intro _
    | (with_reducible apply Keeps.cons; first | with_reducible assumption | with_reducible apply State.quarryFallback_keeps | with_reducible apply Keeps.each | with_reducible apply Keeps.ite)
    | split
    | dsimp only

theorem State.takeLimits_keeps {w₀ : Bool} {s₀ s : State} (hk : Keeps w₀ s₀ s) :
    Keeps w₀ s₀ (State.takeLimits s) := by
  unfold State.takeLimits
  repeat' first
    | with_reducible assumption
    | with_reducible apply State.bulkLimit_keeps
    | with_reducible apply Keeps.each
    | with_reducible apply Keeps.ite
    | intro _
    | (with_reducible apply Keeps.cons; first | with_reducible assumption | with_reducible apply State.bulkLimit_keeps | with_reducible apply Keeps.each | with_reducible apply Keeps.ite)
    | split
    | dsimp only

theorem State.bulkOverdue_keeps {w₀ : Bool} {s₀ s : State} (hk : Keeps w₀ s₀ s) :
    Keeps w₀ s₀ (State.bulkOverdue s) := by
  unfold State.bulkOverdue
  repeat' first
    | with_reducible assumption
    | with_reducible apply State.quarryFallback_keeps
    | with_reducible apply Keeps.each
    | with_reducible apply Keeps.ite
    | intro _
    | (with_reducible apply Keeps.cons; first | with_reducible assumption | with_reducible apply State.quarryFallback_keeps | with_reducible apply Keeps.each | with_reducible apply Keeps.ite)
    | split
    | dsimp only

theorem State.quarryWindow_keeps {w₀ : Bool} {s₀ s : State} (hk : Keeps w₀ s₀ s) (p : Fin 16) (m : WMove) :
    Keeps w₀ s₀ (State.quarryWindow s p m) := by
  unfold State.quarryWindow
  repeat' first
    | with_reducible assumption
    | with_reducible apply State.copyWindow_keeps
    | with_reducible apply Keeps.each
    | with_reducible apply Keeps.ite
    | intro _
    | (with_reducible apply Keeps.cons; first | with_reducible assumption | with_reducible apply State.copyWindow_keeps | with_reducible apply Keeps.each | with_reducible apply Keeps.ite)
    | split
    | dsimp only

theorem State.uncount_keeps {w₀ : Bool} {s₀ s : State} (hk : Keeps w₀ s₀ s) (c n : Nat) :
    Keeps w₀ s₀ (State.uncount s c n) := by
  unfold State.uncount
  repeat' first
    | with_reducible assumption
    | with_reducible apply Keeps.each
    | with_reducible apply Keeps.ite
    | intro _
    | (with_reducible apply Keeps.cons; first | with_reducible assumption | with_reducible apply Keeps.each | with_reducible apply Keeps.ite)
    | split
    | dsimp only

theorem State.moveRead_keeps {w₀ : Bool} {s₀ s : State} (hk : Keeps w₀ s₀ s) (p : Fin 16) (l e : Nat) (staging : Bool) (st : HostStatus) :
    Keeps w₀ s₀ (State.moveRead s p l e staging st) := by
  unfold State.moveRead
  repeat' first
    | with_reducible assumption
    | with_reducible apply State.ok_keeps
    | with_reducible apply State.quarryWindow_keeps
    | with_reducible apply State.windowAgain_keeps
    | with_reducible apply State.quarryFallback_keeps
    | with_reducible apply Keeps.each
    | with_reducible apply Keeps.ite
    | intro _
    | (with_reducible apply Keeps.cons; first | with_reducible assumption | with_reducible apply State.ok_keeps | with_reducible apply State.quarryWindow_keeps | with_reducible apply State.windowAgain_keeps | with_reducible apply State.quarryFallback_keeps | with_reducible apply Keeps.each | with_reducible apply Keeps.ite)
    | split
    | dsimp only

theorem State.moveWrite_keeps {w₀ : Bool} {s₀ s : State} (hk : Keeps w₀ s₀ s) (p : Fin 16) (l e : Nat) (staging : Bool) (st : HostStatus) :
    Keeps w₀ s₀ (State.moveWrite s p l e staging st) := by
  unfold State.moveWrite
  repeat' first
    | with_reducible assumption
    | with_reducible apply State.ok_keeps
    | with_reducible apply State.windowDone_keeps
    | with_reducible apply State.windowAgain_keeps
    | with_reducible apply State.quarryFallback_keeps
    | with_reducible apply Keeps.each
    | with_reducible apply Keeps.ite
    | intro _
    | (with_reducible apply Keeps.cons; first | with_reducible assumption | with_reducible apply State.ok_keeps | with_reducible apply State.windowDone_keeps | with_reducible apply State.windowAgain_keeps | with_reducible apply State.quarryFallback_keeps | with_reducible apply Keeps.each | with_reducible apply Keeps.ite)
    | split
    | dsimp only

theorem State.startFetch_keeps {w₀ : Bool} {s₀ s : State} (hk : Keeps w₀ s₀ s) (prog : Fin 16) (tail : Option Sequencer) (addr : Nat) :
    Keeps w₀ s₀ (State.startFetch s prog tail addr) := by
  unfold State.startFetch
  repeat' first
    | with_reducible assumption
    | with_reducible apply State.raise_keeps
    | with_reducible apply State.modPlacement_keeps
    | with_reducible apply State.startMove_keeps
    | with_reducible apply Keeps.each
    | with_reducible apply Keeps.ite
    | intro _
    | (with_reducible apply Keeps.cons; first | with_reducible assumption | with_reducible apply State.raise_keeps | with_reducible apply State.modPlacement_keeps | with_reducible apply State.startMove_keeps | with_reducible apply Keeps.each | with_reducible apply Keeps.ite)
    | split
    | dsimp only

theorem State.coldProgress_keeps {w₀ : Bool} {s₀ s : State} (hk : Keeps w₀ s₀ s) :
    Keeps w₀ s₀ (State.coldProgress s) := by
  unfold State.coldProgress
  repeat' first
    | with_reducible assumption
    | with_reducible apply Keeps.write
    | with_reducible apply State.bump_keeps
    | with_reducible apply Keeps.writeLe
    | with_reducible apply State.modAtt_keeps
    | with_reducible apply State.modComb_keeps
    | with_reducible apply Keeps.each
    | with_reducible apply Keeps.ite
    | intro _
    | (with_reducible apply Keeps.cons; first | with_reducible assumption | with_reducible apply Keeps.write | with_reducible apply State.bump_keeps | with_reducible apply Keeps.writeLe | with_reducible apply State.modAtt_keeps | with_reducible apply State.modComb_keeps | with_reducible apply Keeps.each | with_reducible apply Keeps.ite)
    | split
    | dsimp only

theorem State.decidePlan_keeps {w₀ : Bool} {s₀ s : State} (hk : Keeps w₀ s₀ s) (p : Fin 16) (ring : List MemberId) (castles : Bool) (base : Nat) :
    Keeps w₀ s₀ (State.decidePlan s p ring castles base) := by
  unfold State.decidePlan
  repeat' first
    | with_reducible assumption
    | with_reducible apply State.modPlacement_keeps
    | with_reducible apply State.bump_keeps
    | with_reducible apply State.raise_keeps
    | with_reducible apply State.writeTable_keeps
    | with_reducible apply Keeps.each
    | with_reducible apply Keeps.ite
    | intro _
    | (with_reducible apply Keeps.cons; first | with_reducible assumption | with_reducible apply State.modPlacement_keeps | with_reducible apply State.bump_keeps | with_reducible apply State.raise_keeps | with_reducible apply State.writeTable_keeps | with_reducible apply Keeps.each | with_reducible apply Keeps.ite)
    | split
    | dsimp only

theorem State.finishStats_keeps {w₀ : Bool} {s₀ s : State} (hk : Keeps w₀ s₀ s) (g : Nat) :
    Keeps w₀ s₀ (State.finishStats s g) := by
  unfold State.finishStats
  repeat' first
    | with_reducible assumption
    | with_reducible apply State.raise_keeps
    | with_reducible apply State.decidePlan_keeps
    | with_reducible apply State.modPlacement_keeps
    | with_reducible apply Keeps.each
    | with_reducible apply Keeps.ite
    | intro _
    | (with_reducible apply Keeps.cons; first | with_reducible assumption | with_reducible apply State.raise_keeps | with_reducible apply State.decidePlan_keeps | with_reducible apply State.modPlacement_keeps | with_reducible apply Keeps.each | with_reducible apply Keeps.ite)
    | split
    | dsimp only

theorem State.writeHeaders_keeps {w₀ : Bool} {s₀ s : State} (hk : Keeps w₀ s₀ s) (p : Fin 16) :
    Keeps w₀ s₀ (State.writeHeaders s p) := by
  unfold State.writeHeaders
  repeat' first
    | with_reducible assumption
    | with_reducible apply Keeps.writeLe
    | with_reducible apply Keeps.each
    | with_reducible apply Keeps.ite
    | intro _
    | (with_reducible apply Keeps.cons; first | with_reducible assumption | with_reducible apply Keeps.writeLe | with_reducible apply Keeps.each | with_reducible apply Keeps.ite)
    | split
    | dsimp only

theorem State.clearStatistics_keeps {w₀ : Bool} {s₀ s : State} (hk : Keeps w₀ s₀ s) (p : Fin 16) :
    Keeps w₀ s₀ (State.clearStatistics s p) := by
  unfold State.clearStatistics
  repeat' first
    | with_reducible assumption
    | with_reducible apply Keeps.write
    | with_reducible apply Keeps.each
    | with_reducible apply Keeps.ite
    | intro _
    | (with_reducible apply Keeps.cons; first | with_reducible assumption | with_reducible apply Keeps.write | with_reducible apply Keeps.each | with_reducible apply Keeps.ite)
    | split
    | dsimp only

theorem State.sealStatistics_keeps {w₀ : Bool} {s₀ s : State} (hk : Keeps w₀ s₀ s) (p : Fin 16) :
    Keeps w₀ s₀ (State.sealStatistics s p) := by
  unfold State.sealStatistics
  repeat' first
    | with_reducible assumption
    | with_reducible apply State.applyPlacement_keeps
    | with_reducible apply State.clearStatistics_keeps
    | with_reducible apply State.bump_keeps
    | with_reducible apply State.setPlacement_keeps
    | with_reducible apply State.restartEpoch_keeps
    | with_reducible apply State.writeHeaders_keeps
    | with_reducible apply Keeps.writeLe
    | with_reducible apply State.moreMoves_keeps
    | with_reducible apply Keeps.each
    | with_reducible apply Keeps.ite
    | intro _
    | (with_reducible apply Keeps.cons; first | with_reducible assumption | with_reducible apply State.applyPlacement_keeps | with_reducible apply State.clearStatistics_keeps | with_reducible apply State.bump_keeps | with_reducible apply State.setPlacement_keeps | with_reducible apply State.restartEpoch_keeps | with_reducible apply State.writeHeaders_keeps | with_reducible apply Keeps.writeLe | with_reducible apply State.moreMoves_keeps | with_reducible apply Keeps.each | with_reducible apply Keeps.ite)
    | split
    | dsimp only

theorem State.placementLoss_keeps {w₀ : Bool} {s₀ s : State} (hk : Keeps w₀ s₀ s) (p : Fin 16) :
    Keeps w₀ s₀ (State.placementLoss s p) := by
  unfold State.placementLoss
  repeat' first
    | with_reducible assumption
    | with_reducible apply State.modPlacement_keeps
    | with_reducible apply Keeps.writeLe
    | with_reducible apply Keeps.each
    | with_reducible apply Keeps.ite
    | intro _
    | (with_reducible apply Keeps.cons; first | with_reducible assumption | with_reducible apply State.modPlacement_keeps | with_reducible apply Keeps.writeLe | with_reducible apply Keeps.each | with_reducible apply Keeps.ite)
    | split
    | dsimp only

theorem State.stagingLoss_keeps {w₀ : Bool} {s₀ s : State} (hk : Keeps w₀ s₀ s) (p : Fin 16) :
    Keeps w₀ s₀ (State.stagingLoss s p) := by
  unfold State.stagingLoss
  repeat' first
    | with_reducible assumption
    | with_reducible apply State.quarryFallback_keeps
    | with_reducible apply Keeps.each
    | with_reducible apply Keeps.ite
    | intro _
    | (with_reducible apply Keeps.cons; first | with_reducible assumption | with_reducible apply State.quarryFallback_keeps | with_reducible apply Keeps.each | with_reducible apply Keeps.ite)
    | split
    | dsimp only

end Sys2Proof.Machine
end

