-- ==== Sys2Proof/Laws/KeepsPrograms.lean ====
section
/-! SUPPORT. What the operations of Machine/Programs.lean keep (`Keeps`). -/

set_option Elab.async false

namespace Sys2Proof.Machine

theorem State.moveProg_keeps {w₀ : Bool} {s₀ s : State} (hk : Keeps w₀ s₀ s) (p : Fin 16) (x : Place) :
    Keeps w₀ s₀ (State.moveProg s p x) := by
  unfold State.moveProg
  repeat' first
    | with_reducible assumption
    | with_reducible apply State.setProg_keeps
    | with_reducible apply State.modPlacement_keeps
    | with_reducible apply Keeps.each
    | with_reducible apply Keeps.ite
    | intro _
    | (with_reducible apply Keeps.cons; first | with_reducible assumption | with_reducible apply State.setProg_keeps | with_reducible apply State.modPlacement_keeps | with_reducible apply Keeps.each | with_reducible apply Keeps.ite)
    | split
    | dsimp only

theorem State.settlePlace_keeps {w₀ : Bool} {s₀ s : State} (hk : Keeps w₀ s₀ s) (p : Fin 16) :
    Keeps w₀ s₀ (State.settlePlace s p) := by
  unfold State.settlePlace
  repeat' first
    | with_reducible assumption
    | with_reducible apply State.moveProg_keeps
    | with_reducible apply Keeps.each
    | with_reducible apply Keeps.ite
    | intro _
    | (with_reducible apply Keeps.cons; first | with_reducible assumption | with_reducible apply State.moveProg_keeps | with_reducible apply Keeps.each | with_reducible apply Keeps.ite)
    | split
    | dsimp only

theorem State.refuseLoad_keeps {w₀ : Bool} {s₀ s : State} (hk : Keeps w₀ s₀ s) (p : Fin 16) (f : LoadFail) :
    Keeps w₀ s₀ (State.refuseLoad s p f) := by
  unfold State.refuseLoad
  repeat' first
    | with_reducible assumption
    | with_reducible apply State.setProg_keeps
    | with_reducible apply State.raise_keeps
    | with_reducible apply State.fire_keeps
    | with_reducible apply Keeps.each
    | with_reducible apply Keeps.ite
    | intro _
    | (with_reducible apply Keeps.cons; first | with_reducible assumption | with_reducible apply State.setProg_keeps | with_reducible apply State.raise_keeps | with_reducible apply State.fire_keeps | with_reducible apply Keeps.each | with_reducible apply Keeps.ite)
    | split
    | dsimp only

theorem State.loadProgram_keeps {w₀ : Bool} {s₀ s : State} (hk : Keeps w₀ s₀ s) (p : Fin 16) (failed : Option LoadRead) :
    Keeps w₀ s₀ (State.loadProgram s p failed) := by
  unfold State.loadProgram
  repeat' first
    | with_reducible assumption
    | with_reducible apply State.running_keeps
    | with_reducible apply State.refuseLoad_keeps
    | with_reducible apply State.setProg_keeps
    | with_reducible apply State.applyPlacement_keeps
    | with_reducible apply State.modPlacement_keeps
    | with_reducible apply State.loadPlan_keeps
    | with_reducible apply State.fire_keeps
    | with_reducible apply Keeps.each
    | with_reducible apply Keeps.ite
    | intro _
    | (with_reducible apply Keeps.cons; first | with_reducible assumption | with_reducible apply State.running_keeps | with_reducible apply State.refuseLoad_keeps | with_reducible apply State.setProg_keeps | with_reducible apply State.applyPlacement_keeps | with_reducible apply State.modPlacement_keeps | with_reducible apply State.loadPlan_keeps | with_reducible apply State.fire_keeps | with_reducible apply Keeps.each | with_reducible apply Keeps.ite)
    | split
    | dsimp only

theorem State.startProgram_keeps {w₀ : Bool} {s₀ s : State} (hk : Keeps w₀ s₀ s) (p : Fin 16) :
    Keeps w₀ s₀ (State.startProgram s p) := by
  unfold State.startProgram
  repeat' first
    | with_reducible assumption
    | with_reducible apply State.setProg_keeps
    | with_reducible apply State.running_keeps
    | with_reducible apply State.settlePlace_keeps
    | with_reducible apply Keeps.each
    | with_reducible apply Keeps.ite
    | intro _
    | (with_reducible apply Keeps.cons; first | with_reducible assumption | with_reducible apply State.setProg_keeps | with_reducible apply State.running_keeps | with_reducible apply State.settlePlace_keeps | with_reducible apply Keeps.each | with_reducible apply Keeps.ite)
    | split
    | dsimp only

theorem State.stopProgram_keeps {w₀ : Bool} {s₀ s : State} (hk : Keeps w₀ s₀ s) (p : Fin 16) :
    Keeps w₀ s₀ (State.stopProgram s p) := by
  unfold State.stopProgram
  repeat' first
    | with_reducible assumption
    | with_reducible apply State.running_keeps
    | with_reducible apply State.setProg_keeps
    | with_reducible apply Keeps.each
    | with_reducible apply Keeps.ite
    | intro _
    | (with_reducible apply Keeps.cons; first | with_reducible assumption | with_reducible apply State.running_keeps | with_reducible apply State.setProg_keeps | with_reducible apply Keeps.each | with_reducible apply Keeps.ite)
    | split
    | dsimp only

theorem State.programCommand_keeps {w₀ : Bool} {s₀ s : State} (hk : Keeps w₀ s₀ s) (p : Fin 16) (v : Nat) :
    Keeps w₀ s₀ (State.programCommand s p v) := by
  unfold State.programCommand
  repeat' first
    | with_reducible assumption
    | with_reducible apply State.loadProgram_keeps
    | with_reducible apply State.startProgram_keeps
    | with_reducible apply State.stopProgram_keeps
    | with_reducible apply Keeps.each
    | with_reducible apply Keeps.ite
    | intro _
    | (with_reducible apply Keeps.cons; first | with_reducible assumption | with_reducible apply State.loadProgram_keeps | with_reducible apply State.startProgram_keeps | with_reducible apply State.stopProgram_keeps | with_reducible apply Keeps.each | with_reducible apply Keeps.ite)
    | split
    | dsimp only

theorem State.ringChunk_keeps {w₀ : Bool} {s₀ s : State} (hk : Keeps w₀ s₀ s) (p : Fin 16) (v : BitVec 32) :
    Keeps w₀ s₀ (State.ringChunk s p v) := by
  unfold State.ringChunk
  repeat' first
    | with_reducible assumption
    | with_reducible apply State.setProg_keeps
    | with_reducible apply State.announceTokens_keeps
    | with_reducible apply Keeps.each
    | with_reducible apply Keeps.ite
    | intro _
    | (with_reducible apply Keeps.cons; first | with_reducible assumption | with_reducible apply State.setProg_keeps | with_reducible apply State.announceTokens_keeps | with_reducible apply Keeps.each | with_reducible apply Keeps.ite)
    | split
    | dsimp only

end Sys2Proof.Machine
end

