-- ==== Sys2Proof/Laws/KeepsBarrier.lean ====
section
/-! SUPPORT. What the operations of Machine/Barrier.lean keep (`Keeps`). -/

set_option Elab.async false

namespace Sys2Proof.Machine

theorem State.modBar_keeps {w₀ : Bool} {s₀ s : State} (hk : Keeps w₀ s₀ s) (f : Barrier → Barrier) :
    Keeps w₀ s₀ (State.modBar s f) := by
  unfold State.modBar
  repeat' first
    | with_reducible assumption
    | with_reducible apply Keeps.each
    | with_reducible apply Keeps.ite
    | intro _
    | (with_reducible apply Keeps.cons; first | with_reducible assumption | with_reducible apply Keeps.each | with_reducible apply Keeps.ite)
    | split
    | dsimp only

theorem State.modTree_keeps {w₀ : Bool} {s₀ s : State} (hk : Keeps w₀ s₀ s) (f : Tree → Tree) :
    Keeps w₀ s₀ (State.modTree s f) := by
  unfold State.modTree
  repeat' first
    | with_reducible assumption
    | with_reducible apply Keeps.each
    | with_reducible apply Keeps.ite
    | intro _
    | (with_reducible apply Keeps.cons; first | with_reducible assumption | with_reducible apply Keeps.each | with_reducible apply Keeps.ite)
    | split
    | dsimp only

theorem State.acceptAdmit_keeps {w₀ : Bool} {s₀ s : State} (hk : Keeps w₀ s₀ s) (m : MemberId) (ver : BitVec 16) :
    Keeps w₀ s₀ (State.acceptAdmit s m ver) := by
  unfold State.acceptAdmit
  repeat' first
    | with_reducible assumption
    | with_reducible apply State.modTree_keeps
    | with_reducible apply State.modBar_keeps
    | with_reducible apply Keeps.each
    | with_reducible apply Keeps.ite
    | intro _
    | (with_reducible apply Keeps.cons; first | with_reducible assumption | with_reducible apply State.modTree_keeps | with_reducible apply State.modBar_keeps | with_reducible apply Keeps.each | with_reducible apply Keeps.ite)
    | split
    | dsimp only

theorem State.sendAdmits_keeps {w₀ : Bool} {s₀ s : State} (hk : Keeps w₀ s₀ s) :
    Keeps w₀ s₀ (State.sendAdmits s) := by
  unfold State.sendAdmits
  repeat' first
    | with_reducible assumption
    | with_reducible apply State.sendDown_keeps
    | with_reducible apply State.acceptAdmit_keeps
    | with_reducible apply Keeps.each
    | with_reducible apply Keeps.ite
    | intro _
    | (with_reducible apply Keeps.cons; first | with_reducible assumption | with_reducible apply State.sendDown_keeps | with_reducible apply State.acceptAdmit_keeps | with_reducible apply Keeps.each | with_reducible apply Keeps.ite)
    | split
    | dsimp only

theorem State.startVersions_keeps {w₀ : Bool} {s₀ s : State} (hk : Keeps w₀ s₀ s) (k : BarrierKind) :
    Keeps w₀ s₀ (State.startVersions s k) := by
  unfold State.startVersions
  repeat' first
    | with_reducible assumption
    | with_reducible apply State.modTree_keeps
    | with_reducible apply Keeps.each
    | with_reducible apply Keeps.ite
    | intro _
    | (with_reducible apply Keeps.cons; first | with_reducible assumption | with_reducible apply State.modTree_keeps | with_reducible apply Keeps.each | with_reducible apply Keeps.ite)
    | split
    | dsimp only

theorem State.rootRelease_keeps {w₀ : Bool} {s₀ s : State} (hk : Keeps w₀ s₀ s) (c : ArriveBody) :
    Keeps w₀ s₀ (State.rootRelease s c) := by
  unfold State.rootRelease
  repeat' first
    | with_reducible assumption
    | with_reducible apply State.sendAdmits_keeps
    | with_reducible apply State.sendDown_keeps
    | with_reducible apply State.startVersions_keeps
    | with_reducible apply State.modBar_keeps
    | with_reducible apply Keeps.each
    | with_reducible apply Keeps.ite
    | intro _
    | (with_reducible apply Keeps.cons; first | with_reducible assumption | with_reducible apply State.sendAdmits_keeps | with_reducible apply State.sendDown_keeps | with_reducible apply State.startVersions_keeps | with_reducible apply State.modBar_keeps | with_reducible apply Keeps.each | with_reducible apply Keeps.ite)
    | split
    | dsimp only

theorem State.gather_keeps {w₀ : Bool} {s₀ s : State} (hk : Keeps w₀ s₀ s) :
    Keeps w₀ s₀ (State.gather s) := by
  unfold State.gather
  repeat' first
    | with_reducible assumption
    | with_reducible apply State.rootRelease_keeps
    | with_reducible apply State.sendUp_keeps
    | with_reducible apply State.modBar_keeps
    | with_reducible apply Keeps.each
    | with_reducible apply Keeps.ite
    | intro _
    | (with_reducible apply Keeps.cons; first | with_reducible assumption | with_reducible apply State.rootRelease_keeps | with_reducible apply State.sendUp_keeps | with_reducible apply State.modBar_keeps | with_reducible apply Keeps.each | with_reducible apply Keeps.ite)
    | split
    | dsimp only

theorem State.arriveOwn_keeps {w₀ : Bool} {s₀ s : State} (hk : Keeps w₀ s₀ s) (kind : BarrierKind) (vote : Vote) :
    Keeps w₀ s₀ (State.arriveOwn s kind vote) := by
  unfold State.arriveOwn
  repeat' first
    | with_reducible assumption
    | with_reducible apply State.modBar_keeps
    | with_reducible apply State.gather_keeps
    | with_reducible apply Keeps.each
    | with_reducible apply Keeps.ite
    | intro _
    | (with_reducible apply Keeps.cons; first | with_reducible assumption | with_reducible apply State.modBar_keeps | with_reducible apply State.gather_keeps | with_reducible apply Keeps.each | with_reducible apply Keeps.ite)
    | split
    | dsimp only

theorem State.arriveNeutral_keeps {w₀ : Bool} {s₀ s : State} (hk : Keeps w₀ s₀ s) :
    Keeps w₀ s₀ (State.arriveNeutral s) := by
  unfold State.arriveNeutral
  repeat' first
    | with_reducible assumption
    | with_reducible apply State.modBar_keeps
    | with_reducible apply State.gather_keeps
    | with_reducible apply Keeps.each
    | with_reducible apply Keeps.ite
    | intro _
    | (with_reducible apply Keeps.cons; first | with_reducible assumption | with_reducible apply State.modBar_keeps | with_reducible apply State.gather_keeps | with_reducible apply Keeps.each | with_reducible apply Keeps.ite)
    | split
    | dsimp only

theorem State.becomeLate_keeps {w₀ : Bool} {s₀ s : State} (hk : Keeps w₀ s₀ s) :
    Keeps w₀ s₀ (State.becomeLate s) := by
  unfold State.becomeLate
  repeat' first
    | with_reducible assumption
    | with_reducible apply State.modBar_keeps
    | with_reducible apply State.modTree_keeps
    | with_reducible apply Keeps.each
    | with_reducible apply Keeps.ite
    | intro _
    | (with_reducible apply Keeps.cons; first | with_reducible assumption | with_reducible apply State.modBar_keeps | with_reducible apply State.modTree_keeps | with_reducible apply Keeps.each | with_reducible apply Keeps.ite)
    | split
    | dsimp only

theorem State.joinBarrier_keeps {w₀ : Bool} {s₀ s : State} (hk : Keeps w₀ s₀ s) :
    Keeps w₀ s₀ (State.joinBarrier s) := by
  unfold State.joinBarrier
  repeat' first
    | with_reducible assumption
    | with_reducible apply State.becomeLate_keeps
    | with_reducible apply State.arriveNeutral_keeps
    | with_reducible apply State.arriveOwn_keeps
    | with_reducible apply Keeps.each
    | with_reducible apply Keeps.ite
    | intro _
    | (with_reducible apply Keeps.cons; first | with_reducible assumption | with_reducible apply State.becomeLate_keeps | with_reducible apply State.arriveNeutral_keeps | with_reducible apply State.arriveOwn_keeps | with_reducible apply Keeps.each | with_reducible apply Keeps.ite)
    | split
    | dsimp only

theorem State.holdArrive_keeps {w₀ : Bool} {s₀ s : State} (hk : Keeps w₀ s₀ s) (l : Nat) (m : MemberId) (a : ArriveBody) :
    Keeps w₀ s₀ (State.holdArrive s l m a) := by
  unfold State.holdArrive
  repeat' first
    | with_reducible assumption
    | with_reducible apply State.modBar_keeps
    | with_reducible apply State.modTree_keeps
    | with_reducible apply State.gather_keeps
    | with_reducible apply Keeps.each
    | with_reducible apply Keeps.ite
    | intro _
    | (with_reducible apply Keeps.cons; first | with_reducible assumption | with_reducible apply State.modBar_keeps | with_reducible apply State.modTree_keeps | with_reducible apply State.gather_keeps | with_reducible apply Keeps.each | with_reducible apply Keeps.ite)
    | split
    | dsimp only

theorem State.takeArrive_keeps {w₀ : Bool} {s₀ s : State} (hk : Keeps w₀ s₀ s) (l : Nat) (h : MortarHdr) (a : ArriveBody) :
    Keeps w₀ s₀ (State.takeArrive s l h a) := by
  unfold State.takeArrive
  repeat' first
    | with_reducible assumption
    | with_reducible apply State.windowFault_keeps
    | with_reducible apply State.modBar_keeps
    | with_reducible apply State.sendUp_keeps
    | with_reducible apply State.holdArrive_keeps
    | with_reducible apply Keeps.each
    | with_reducible apply Keeps.ite
    | intro _
    | (with_reducible apply Keeps.cons; first | with_reducible assumption | with_reducible apply State.windowFault_keeps | with_reducible apply State.modBar_keeps | with_reducible apply State.sendUp_keeps | with_reducible apply State.holdArrive_keeps | with_reducible apply Keeps.each | with_reducible apply Keeps.ite)
    | split
    | dsimp only

theorem State.joinExpiry_keeps {w₀ : Bool} {s₀ s : State} (hk : Keeps w₀ s₀ s) :
    Keeps w₀ s₀ (State.joinExpiry s) := by
  unfold State.joinExpiry
  repeat' first
    | with_reducible assumption
    | with_reducible apply State.until_keeps
    | with_reducible apply State.modBar_keeps
    | with_reducible apply State.rootRelease_keeps
    | with_reducible apply State.sendUp_keeps
    | with_reducible apply Keeps.each
    | with_reducible apply Keeps.ite
    | intro _
    | (with_reducible apply Keeps.cons; first | with_reducible assumption | with_reducible apply State.until_keeps | with_reducible apply State.modBar_keeps | with_reducible apply State.rootRelease_keeps | with_reducible apply State.sendUp_keeps | with_reducible apply Keeps.each | with_reducible apply Keeps.ite)
    | split
    | dsimp only

theorem State.holdRelease_keeps {w₀ : Bool} {s₀ s : State} (hk : Keeps w₀ s₀ s) (r : ReleaseBody) :
    Keeps w₀ s₀ (State.holdRelease s r) := by
  unfold State.holdRelease
  repeat' first
    | with_reducible assumption
    | with_reducible apply State.startVersions_keeps
    | with_reducible apply State.modBar_keeps
    | with_reducible apply State.becomeLate_keeps
    | with_reducible apply State.joinBarrier_keeps
    | with_reducible apply Keeps.each
    | with_reducible apply Keeps.ite
    | intro _
    | (with_reducible apply Keeps.cons; first | with_reducible assumption | with_reducible apply State.startVersions_keeps | with_reducible apply State.modBar_keeps | with_reducible apply State.becomeLate_keeps | with_reducible apply State.joinBarrier_keeps | with_reducible apply Keeps.each | with_reducible apply Keeps.ite)
    | split
    | dsimp only

theorem State.takeRelease_keeps {w₀ : Bool} {s₀ s : State} (hk : Keeps w₀ s₀ s) (h : MortarHdr) (r : ReleaseBody) :
    Keeps w₀ s₀ (State.takeRelease s h r) := by
  unfold State.takeRelease
  repeat' first
    | with_reducible assumption
    | with_reducible apply State.windowFault_keeps
    | with_reducible apply State.sendDown_keeps
    | with_reducible apply State.holdRelease_keeps
    | with_reducible apply Keeps.each
    | with_reducible apply Keeps.ite
    | intro _
    | (with_reducible apply Keeps.cons; first | with_reducible assumption | with_reducible apply State.windowFault_keeps | with_reducible apply State.sendDown_keeps | with_reducible apply State.holdRelease_keeps | with_reducible apply Keeps.each | with_reducible apply Keeps.ite)
    | split
    | dsimp only

end Sys2Proof.Machine
end

