-- ==== Sys2Proof/Laws/KeepsReconfig.lean ====
section
/-! SUPPORT. What the operations of Machine/Reconfig.lean keep (`Keeps`). -/

set_option Elab.async false

namespace Sys2Proof.Machine

theorem State.applyMasked_keeps {w₀ : Bool} {s₀ s : State} (hk : Keeps w₀ s₀ s) (m : Nat → BitVec 64) :
    Keeps w₀ s₀ (State.applyMasked s m) := by
  unfold State.applyMasked
  repeat' first
    | with_reducible assumption
    | with_reducible apply Keeps.each
    | with_reducible apply Keeps.ite
    | intro _
    | (with_reducible apply Keeps.cons; first | with_reducible assumption | with_reducible apply Keeps.each | with_reducible apply Keeps.ite)
    | split
    | dsimp only

theorem State.applyGroups_keeps {w₀ : Bool} {s₀ s : State} (hk : Keeps w₀ s₀ s) :
    Keeps w₀ s₀ (State.applyGroups s) := by
  unfold State.applyGroups
  repeat' first
    | with_reducible assumption
    | with_reducible apply Keeps.each
    | with_reducible apply Keeps.ite
    | intro _
    | (with_reducible apply Keeps.cons; first | with_reducible assumption | with_reducible apply Keeps.each | with_reducible apply Keeps.ite)
    | split
    | dsimp only

theorem State.applyFunctions_keeps {w₀ : Bool} {s₀ s : State} (hk : Keeps w₀ s₀ s) :
    Keeps w₀ s₀ (State.applyFunctions s) := by
  unfold State.applyFunctions
  repeat' first
    | with_reducible assumption
    | with_reducible apply State.raise_keeps
    | with_reducible apply Keeps.each
    | with_reducible apply Keeps.ite
    | intro _
    | (with_reducible apply Keeps.cons; first | with_reducible assumption | with_reducible apply State.raise_keeps | with_reducible apply Keeps.each | with_reducible apply Keeps.ite)
    | split
    | dsimp only

theorem State.applyQueues_keeps {w₀ : Bool} {s₀ s : State} (hk : Keeps w₀ s₀ s) :
    Keeps w₀ s₀ (State.applyQueues s) := by
  unfold State.applyQueues
  repeat' first
    | with_reducible assumption
    | with_reducible apply State.applyMasked_keeps
    | with_reducible apply State.flushQueue_keeps
    | with_reducible apply Keeps.each
    | with_reducible apply Keeps.ite
    | intro _
    | (with_reducible apply Keeps.cons; first | with_reducible assumption | with_reducible apply State.applyMasked_keeps | with_reducible apply State.flushQueue_keeps | with_reducible apply Keeps.each | with_reducible apply Keeps.ite)
    | split
    | dsimp only

theorem State.reconfigure_keeps {w₀ : Bool} {s₀ s : State} (hk : Keeps w₀ s₀ s) :
    Keeps w₀ s₀ (State.reconfigure s) := by
  unfold State.reconfigure
  repeat' first
    | with_reducible assumption
    | with_reducible apply State.applyMasked_keeps
    | with_reducible apply State.applyGroups_keeps
    | with_reducible apply State.applyQueues_keeps
    | with_reducible apply State.applyFunctions_keeps
    | with_reducible apply Keeps.each
    | with_reducible apply Keeps.ite
    | intro _
    | (with_reducible apply Keeps.cons; first | with_reducible assumption | with_reducible apply State.applyMasked_keeps | with_reducible apply State.applyGroups_keeps | with_reducible apply State.applyQueues_keeps | with_reducible apply State.applyFunctions_keeps | with_reducible apply Keeps.each | with_reducible apply Keeps.ite)
    | split
    | dsimp only

theorem State.armReconf_keeps {w₀ : Bool} {s₀ s : State} (hk : Keeps w₀ s₀ s) :
    Keeps w₀ s₀ (State.armReconf s) := by
  unfold State.armReconf
  repeat' first
    | with_reducible assumption
    | with_reducible apply State.fire_keeps
    | with_reducible apply Keeps.each
    | with_reducible apply Keeps.ite
    | intro _
    | (with_reducible apply Keeps.cons; first | with_reducible assumption | with_reducible apply State.fire_keeps | with_reducible apply Keeps.each | with_reducible apply Keeps.ite)
    | split
    | dsimp only

theorem State.setStore_keeps {w₀ : Bool} {s₀ s : State} (hk : Keeps w₀ s₀ s) (i : Nat) (v : StoreMap) :
    Keeps w₀ s₀ (State.setStore s i v) := by
  unfold State.setStore
  repeat' first
    | with_reducible assumption
    | with_reducible apply Keeps.each
    | with_reducible apply Keeps.ite
    | intro _
    | (with_reducible apply Keeps.cons; first | with_reducible assumption | with_reducible apply Keeps.each | with_reducible apply Keeps.ite)
    | split
    | dsimp only

theorem State.repairRow_keeps {w₀ : Bool} {s₀ s : State} (hk : Keeps w₀ s₀ s) (i line : Nat) :
    Keeps w₀ s₀ (State.repairRow s i line) := by
  unfold State.repairRow
  repeat' first
    | with_reducible assumption
    | with_reducible apply State.raise_keeps
    | with_reducible apply State.setStore_keeps
    | with_reducible apply Keeps.each
    | with_reducible apply Keeps.ite
    | intro _
    | (with_reducible apply Keeps.cons; first | with_reducible assumption | with_reducible apply State.raise_keeps | with_reducible apply State.setStore_keeps | with_reducible apply Keeps.each | with_reducible apply Keeps.ite)
    | split
    | dsimp only

theorem State.fencePipes_keeps {w₀ : Bool} {s₀ s : State} (hk : Keeps w₀ s₀ s) :
    Keeps w₀ s₀ (State.fencePipes s) := by
  unfold State.fencePipes
  repeat' first
    | with_reducible assumption
    | with_reducible apply State.raise_keeps
    | with_reducible apply Keeps.each
    | with_reducible apply Keeps.ite
    | intro _
    | (with_reducible apply Keeps.cons; first | with_reducible assumption | with_reducible apply State.raise_keeps | with_reducible apply Keeps.each | with_reducible apply Keeps.ite)
    | split
    | dsimp only

theorem State.rotateColumn_keeps {w₀ : Bool} {s₀ s : State} (hk : Keeps w₀ s₀ s) :
    Keeps w₀ s₀ (State.rotateColumn s) := by
  unfold State.rotateColumn
  repeat' first
    | with_reducible assumption
    | with_reducible apply State.testColumn_keeps
    | with_reducible apply State.raise_keeps
    | with_reducible apply Keeps.each
    | with_reducible apply Keeps.ite
    | intro _
    | (with_reducible apply Keeps.cons; first | with_reducible assumption | with_reducible apply State.testColumn_keeps | with_reducible apply State.raise_keeps | with_reducible apply Keeps.each | with_reducible apply Keeps.ite)
    | split
    | dsimp only

theorem State.atBoundary_keeps {w₀ : Bool} {s₀ s : State} (hk : Keeps w₀ s₀ s) :
    Keeps w₀ s₀ (State.atBoundary s) := by
  unfold State.atBoundary
  repeat' first
    | with_reducible assumption
    | with_reducible apply State.applyMasked_keeps
    | with_reducible apply State.fencePipes_keeps
    | with_reducible apply State.rotateColumn_keeps
    | with_reducible apply State.repairRow_keeps
    | with_reducible apply Keeps.each
    | with_reducible apply Keeps.ite
    | intro _
    | (with_reducible apply Keeps.cons; first | with_reducible assumption | with_reducible apply State.applyMasked_keeps | with_reducible apply State.fencePipes_keeps | with_reducible apply State.rotateColumn_keeps | with_reducible apply State.repairRow_keeps | with_reducible apply Keeps.each | with_reducible apply Keeps.ite)
    | split
    | dsimp only

end Sys2Proof.Machine
end

