-- ==== Sys2Proof/Laws/KeepsItems.lean ====
section
/-! SUPPORT. What the operations of Machine/Items.lean keep (`Keeps`). -/

set_option Elab.async false

namespace Sys2Proof.Machine

theorem State.withItem_keeps {w₀ : Bool} {s₀ s : State} (hk : Keeps w₀ s₀ s) (h : FrameHdr) (p : Payload) (unit : Nat) (gen : BitVec 16) (layer : BitVec 8) (attempt : BitVec 2) (f : State → State) (hf : ∀ v, Keeps w₀ s₀ v → Keeps w₀ s₀ (f v)) :
    Keeps w₀ s₀ (State.withItem s h p unit gen layer attempt f) := by
  unfold State.withItem
  repeat' first
    | with_reducible assumption
    | apply hf
    | with_reducible apply State.hold_keeps
    | with_reducible apply State.holdEarly_keeps
    | with_reducible apply State.windowFault_keeps
    | with_reducible apply Keeps.each
    | with_reducible apply Keeps.ite
    | intro _
    | (with_reducible apply Keeps.cons; first | with_reducible assumption | with_reducible apply State.hold_keeps | with_reducible apply State.holdEarly_keeps | with_reducible apply State.windowFault_keeps | with_reducible apply Keeps.each | with_reducible apply Keeps.ite)
    | split
    | dsimp only

theorem State.takeCount_keeps {w₀ : Bool} {s₀ s : State} (hk : Keeps w₀ s₀ s) (m : ExchMsg) :
    Keeps w₀ s₀ (State.takeCount s m) := by
  unfold State.takeCount
  repeat' first
    | with_reducible assumption
    | with_reducible apply State.modAtt_keeps
    | with_reducible apply State.grantProgress_keeps
    | with_reducible apply Keeps.each
    | with_reducible apply Keeps.ite
    | intro _
    | (with_reducible apply Keeps.cons; first | with_reducible assumption | with_reducible apply State.modAtt_keeps | with_reducible apply State.grantProgress_keeps | with_reducible apply Keeps.each | with_reducible apply Keeps.ite)
    | split
    | dsimp only

theorem State.takeGrant_keeps {w₀ : Bool} {s₀ s : State} (hk : Keeps w₀ s₀ s) (m : ExchMsg) :
    Keeps w₀ s₀ (State.takeGrant s m) := by
  unfold State.takeGrant
  repeat' first
    | with_reducible assumption
    | with_reducible apply State.modAtt_keeps
    | with_reducible apply State.grantProgress_keeps
    | with_reducible apply Keeps.each
    | with_reducible apply Keeps.ite
    | intro _
    | (with_reducible apply Keeps.cons; first | with_reducible assumption | with_reducible apply State.modAtt_keeps | with_reducible apply State.grantProgress_keeps | with_reducible apply Keeps.each | with_reducible apply Keeps.ite)
    | split
    | dsimp only

theorem State.takeCell_keeps {w₀ : Bool} {s₀ s : State} (hk : Keeps w₀ s₀ s) (hop : MemberId) (c : Cell) :
    Keeps w₀ s₀ (State.takeCell s hop c) := by
  unfold State.takeCell
  repeat' first
    | with_reducible assumption
    | with_reducible apply State.takeDispatch_keeps
    | with_reducible apply State.takeReturn_keeps
    | with_reducible apply State.takePartial_keeps
    | with_reducible apply State.takeManifest_keeps
    | with_reducible apply Keeps.each
    | with_reducible apply Keeps.ite
    | intro _
    | (with_reducible apply Keeps.cons; first | with_reducible assumption | with_reducible apply State.takeDispatch_keeps | with_reducible apply State.takeReturn_keeps | with_reducible apply State.takePartial_keeps | with_reducible apply State.takeManifest_keeps | with_reducible apply Keeps.each | with_reducible apply Keeps.ite)
    | split
    | dsimp only

theorem State.takeItem_keeps {w₀ : Bool} {s₀ s : State} (hk : Keeps w₀ s₀ s) (h : FrameHdr) (p : Payload) :
    Keeps w₀ s₀ (State.takeItem s h p) := by
  unfold State.takeItem
  repeat' first
    | with_reducible assumption
    | with_reducible apply State.withItem_keeps
    | with_reducible apply State.takeCell_keeps
    | with_reducible apply State.takeCount_keeps
    | with_reducible apply State.takeGrant_keeps
    | with_reducible apply State.takeGateNote_keeps
    | with_reducible apply State.takeWindowNote_keeps
    | with_reducible apply State.takeRequest_keeps
    | with_reducible apply State.collFrame_keeps
    | with_reducible apply Keeps.each
    | with_reducible apply Keeps.ite
    | intro _
    | (with_reducible apply Keeps.cons; first | with_reducible assumption | with_reducible apply State.withItem_keeps | with_reducible apply State.takeCell_keeps | with_reducible apply State.takeCount_keeps | with_reducible apply State.takeGrant_keeps | with_reducible apply State.takeGateNote_keeps | with_reducible apply State.takeWindowNote_keeps | with_reducible apply State.takeRequest_keeps | with_reducible apply State.collFrame_keeps | with_reducible apply Keeps.each | with_reducible apply Keeps.ite)
    | split
    | dsimp only

theorem State.replayItem_keeps {w₀ : Bool} {s₀ s : State} (hk : Keeps w₀ s₀ s) (e : EarlyItem) :
    Keeps w₀ s₀ (State.replayItem s e) := by
  unfold State.replayItem
  repeat' first
    | with_reducible assumption
    | with_reducible apply State.openRx_keeps
    | with_reducible apply State.takeItem_keeps
    | with_reducible apply State.closeRx_keeps
    | with_reducible apply Keeps.each
    | with_reducible apply Keeps.ite
    | intro _
    | (with_reducible apply Keeps.cons; first | with_reducible assumption | with_reducible apply State.openRx_keeps | with_reducible apply State.takeItem_keeps | with_reducible apply State.closeRx_keeps | with_reducible apply Keeps.each | with_reducible apply Keeps.ite)
    | split
    | dsimp only

theorem State.replayEarly_keeps {w₀ : Bool} {s₀ s : State} (hk : Keeps w₀ s₀ s) :
    Keeps w₀ s₀ (State.replayEarly s) := by
  unfold State.replayEarly
  repeat' first
    | with_reducible assumption
    | with_reducible apply State.replayItem_keeps
    | with_reducible apply Keeps.each
    | with_reducible apply Keeps.ite
    | intro _
    | (with_reducible apply Keeps.cons; first | with_reducible assumption | with_reducible apply State.replayItem_keeps | with_reducible apply Keeps.each | with_reducible apply Keeps.ite)
    | split
    | dsimp only

end Sys2Proof.Machine
end

