-- ==== Sys2Proof/Laws/KeepsKeystone.lean ====
section
/-! SUPPORT. What the operations of Machine/Keystone.lean keep (`Keeps`). -/

set_option Elab.async false

namespace Sys2Proof.Machine

theorem State.putSession_keeps {w₀ : Bool} {s₀ s : State} (hk : Keeps w₀ s₀ s) (x : Nat × Nat × List Byte) :
    Keeps w₀ s₀ (State.putSession s x) := by
  unfold State.putSession
  repeat' first
    | with_reducible assumption
    | with_reducible apply Keeps.each
    | with_reducible apply Keeps.ite
    | intro _
    | (with_reducible apply Keeps.cons; first | with_reducible assumption | with_reducible apply Keeps.each | with_reducible apply Keeps.ite)
    | split
    | dsimp only

theorem State.applySessions_keeps {w₀ : Bool} {s₀ s : State} (hk : Keeps w₀ s₀ s) :
    Keeps w₀ s₀ (State.applySessions s) := by
  unfold State.applySessions
  repeat' first
    | with_reducible assumption
    | with_reducible apply State.lateAnswer_keeps
    | with_reducible apply State.putSession_keeps
    | with_reducible apply Keeps.each
    | with_reducible apply Keeps.ite
    | intro _
    | (with_reducible apply Keeps.cons; first | with_reducible assumption | with_reducible apply State.lateAnswer_keeps | with_reducible apply State.putSession_keeps | with_reducible apply Keeps.each | with_reducible apply Keeps.ite)
    | split
    | dsimp only

theorem State.loseSession_keeps {w₀ : Bool} {s₀ s : State} (hk : Keeps w₀ s₀ s) (i : Nat) :
    Keeps w₀ s₀ (State.loseSession s i) := by
  unfold State.loseSession
  repeat' first
    | with_reducible assumption
    | with_reducible apply State.putSession_keeps
    | with_reducible apply Keeps.each
    | with_reducible apply Keeps.ite
    | intro _
    | (with_reducible apply Keeps.cons; first | with_reducible assumption | with_reducible apply State.putSession_keeps | with_reducible apply Keeps.each | with_reducible apply Keeps.ite)
    | split
    | dsimp only

theorem State.readSessions_keeps {w₀ : Bool} {s₀ s : State} (hk : Keeps w₀ s₀ s) (unit : Nat) (finds : List ReadFind) (chunk : Option Nat) :
    Keeps w₀ s₀ (State.readSessions s unit finds chunk) := by
  unfold State.readSessions
  repeat' first
    | with_reducible assumption
    | with_reducible apply State.foundWords_keeps
    | with_reducible apply State.loseSession_keeps
    | with_reducible apply Keeps.each
    | with_reducible apply Keeps.ite
    | intro _
    | (with_reducible apply Keeps.cons; first | with_reducible assumption | with_reducible apply State.foundWords_keeps | with_reducible apply State.loseSession_keeps | with_reducible apply Keeps.each | with_reducible apply Keeps.ite)
    | split
    | dsimp only

theorem State.abandonPass_keeps {w₀ : Bool} {s₀ s : State} (hk : Keeps w₀ s₀ s) (q : Sequencer) :
    Keeps w₀ s₀ (State.abandonPass s q) := by
  unfold State.abandonPass
  repeat' first
    | with_reducible assumption
    | with_reducible apply State.abandonProgress_keeps
    | with_reducible apply State.ok_keeps
    | with_reducible apply State.flushQueue_keeps
    | with_reducible apply State.setEgress_keeps
    | with_reducible apply State.freePass_keeps
    | with_reducible apply State.setPop_keeps
    | with_reducible apply State.updatePause_keeps
    | with_reducible apply Keeps.each
    | with_reducible apply Keeps.ite
    | intro _
    | (with_reducible apply Keeps.cons; first | with_reducible assumption | with_reducible apply State.abandonProgress_keeps | with_reducible apply State.ok_keeps | with_reducible apply State.flushQueue_keeps | with_reducible apply State.setEgress_keeps | with_reducible apply State.freePass_keeps | with_reducible apply State.setPop_keeps | with_reducible apply State.updatePause_keeps | with_reducible apply Keeps.each | with_reducible apply Keeps.ite)
    | split
    | dsimp only

theorem State.noteAbort_keeps {w₀ : Bool} {s₀ s : State} (hk : Keeps w₀ s₀ s) (r : AbortRec) (q : Sequencer) :
    Keeps w₀ s₀ (State.noteAbort s r q) := by
  unfold State.noteAbort
  repeat' first
    | with_reducible assumption
    | with_reducible apply State.modBar_keeps
    | with_reducible apply State.bump_keeps
    | with_reducible apply State.note_keeps
    | with_reducible apply Keeps.each
    | with_reducible apply Keeps.ite
    | intro _
    | (with_reducible apply Keeps.cons; first | with_reducible assumption | with_reducible apply State.modBar_keeps | with_reducible apply State.bump_keeps | with_reducible apply State.note_keeps | with_reducible apply Keeps.each | with_reducible apply Keeps.ite)
    | split
    | dsimp only

theorem State.doAbort_keeps {w₀ : Bool} {s₀ s : State} (hk : Keeps w₀ s₀ s) (r : AbortRec) :
    Keeps w₀ s₀ (State.doAbort s r) := by
  unfold State.doAbort
  repeat' first
    | with_reducible assumption
    | with_reducible apply State.noteAbort_keeps
    | with_reducible apply State.abandonPass_keeps
    | with_reducible apply State.modOpen_keeps
    | with_reducible apply State.arriveOwn_keeps
    | with_reducible apply State.setPop_keeps
    | with_reducible apply Keeps.each
    | with_reducible apply Keeps.ite
    | intro _
    | (with_reducible apply Keeps.cons; first | with_reducible assumption | with_reducible apply State.noteAbort_keeps | with_reducible apply State.abandonPass_keeps | with_reducible apply State.modOpen_keeps | with_reducible apply State.arriveOwn_keeps | with_reducible apply State.setPop_keeps | with_reducible apply Keeps.each | with_reducible apply Keeps.ite)
    | split
    | dsimp only

theorem State.rootAbort_keeps {w₀ : Bool} {s₀ s : State} (hk : Keeps w₀ s₀ s) (r : AbortRec) :
    Keeps w₀ s₀ (State.rootAbort s r) := by
  unfold State.rootAbort
  repeat' first
    | with_reducible assumption
    | with_reducible apply State.modBar_keeps
    | with_reducible apply State.sendDown_keeps
    | with_reducible apply State.doAbort_keeps
    | with_reducible apply Keeps.each
    | with_reducible apply Keeps.ite
    | intro _
    | (with_reducible apply Keeps.cons; first | with_reducible assumption | with_reducible apply State.modBar_keeps | with_reducible apply State.sendDown_keeps | with_reducible apply State.doAbort_keeps | with_reducible apply Keeps.each | with_reducible apply Keeps.ite)
    | split
    | dsimp only

theorem State.startAbort_keeps {w₀ : Bool} {s₀ s : State} (hk : Keeps w₀ s₀ s) (code : BitVec 8) :
    Keeps w₀ s₀ (State.startAbort s code) := by
  unfold State.startAbort
  repeat' first
    | with_reducible assumption
    | with_reducible apply State.modOpen_keeps
    | with_reducible apply State.bump_keeps
    | with_reducible apply State.rootAbort_keeps
    | with_reducible apply State.sendUp_keeps
    | with_reducible apply Keeps.each
    | with_reducible apply Keeps.ite
    | intro _
    | (with_reducible apply Keeps.cons; first | with_reducible assumption | with_reducible apply State.modOpen_keeps | with_reducible apply State.bump_keeps | with_reducible apply State.rootAbort_keeps | with_reducible apply State.sendUp_keeps | with_reducible apply Keeps.each | with_reducible apply Keeps.ite)
    | split
    | dsimp only

theorem State.settle_keeps {w₀ : Bool} {s₀ s : State} (hk : Keeps w₀ s₀ s) :
    Keeps w₀ s₀ (State.settle s) := by
  unfold State.settle
  repeat' first
    | with_reducible assumption
    | with_reducible apply State.startAbort_keeps
    | with_reducible apply Keeps.each
    | with_reducible apply Keeps.ite
    | intro _
    | (with_reducible apply Keeps.cons; first | with_reducible assumption | with_reducible apply State.startAbort_keeps | with_reducible apply Keeps.each | with_reducible apply Keeps.ite)
    | split
    | dsimp only

theorem State.takeAbort_keeps {w₀ : Bool} {s₀ s : State} (hk : Keeps w₀ s₀ s) (l : Nat) (h : MortarHdr) (a : AbortBody) :
    Keeps w₀ s₀ (State.takeAbort s l h a) := by
  unfold State.takeAbort
  repeat' first
    | with_reducible assumption
    | with_reducible apply State.windowFault_keeps
    | with_reducible apply State.sendDown_keeps
    | with_reducible apply State.doAbort_keeps
    | with_reducible apply State.rootAbort_keeps
    | with_reducible apply State.sendUp_keeps
    | with_reducible apply Keeps.each
    | with_reducible apply Keeps.ite
    | intro _
    | (with_reducible apply Keeps.cons; first | with_reducible assumption | with_reducible apply State.windowFault_keeps | with_reducible apply State.sendDown_keeps | with_reducible apply State.doAbort_keeps | with_reducible apply State.rootAbort_keeps | with_reducible apply State.sendUp_keeps | with_reducible apply Keeps.each | with_reducible apply Keeps.ite)
    | split
    | dsimp only

theorem State.agree_keeps {w₀ : Bool} {s₀ s : State} (hk : Keeps w₀ s₀ s) (r : ReleaseBody) :
    Keeps w₀ s₀ (State.agree s r) := by
  unfold State.agree
  repeat' first
    | with_reducible assumption
    | with_reducible apply State.modBar_keeps
    | with_reducible apply State.setProg_keeps
    | with_reducible apply Keeps.each
    | with_reducible apply Keeps.ite
    | intro _
    | (with_reducible apply Keeps.cons; first | with_reducible assumption | with_reducible apply State.modBar_keeps | with_reducible apply State.setProg_keeps | with_reducible apply Keeps.each | with_reducible apply Keeps.ite)
    | split
    | dsimp only

theorem State.chooseProgram_all {w₀ : Bool} {s₀ s : State} (hk : Keeps w₀ s₀ s) (skip : Option (Fin 16)) :
    Keeps.Pair w₀ s₀ (State.chooseProgram s skip) := by
  unfold State.chooseProgram
  repeat' first
    | with_reducible assumption
    | with_reducible apply State.setProg_keeps
    | with_reducible apply Keeps.each
    | with_reducible apply Keeps.ite
    | with_reducible apply Keeps.Pair.ite
    | intro _
    | (with_reducible apply Keeps.cons; first | with_reducible assumption | with_reducible apply State.setProg_keeps | with_reducible apply Keeps.each | with_reducible apply Keeps.ite)
    | split
    | dsimp only
    | with_reducible apply Keeps.Pair.pair

theorem State.chargeSlot_keeps {w₀ : Bool} {s₀ s : State} (hk : Keeps w₀ s₀ s) (p : Fin 16) (n : Nat) :
    Keeps w₀ s₀ (State.chargeSlot s p n) := by
  unfold State.chargeSlot
  repeat' first
    | with_reducible assumption
    | with_reducible apply State.setProg_keeps
    | with_reducible apply Keeps.each
    | with_reducible apply Keeps.ite
    | intro _
    | (with_reducible apply Keeps.cons; first | with_reducible assumption | with_reducible apply State.setProg_keeps | with_reducible apply Keeps.each | with_reducible apply Keeps.ite)
    | split
    | dsimp only

theorem State.armTimer_keeps {w₀ : Bool} {s₀ s : State} (hk : Keeps w₀ s₀ s) (wake : Nat) :
    Keeps w₀ s₀ (State.armTimer s wake) := by
  unfold State.armTimer
  repeat' first
    | with_reducible assumption
    | with_reducible apply Keeps.each
    | with_reducible apply Keeps.ite
    | intro _
    | (with_reducible apply Keeps.cons; first | with_reducible assumption | with_reducible apply Keeps.each | with_reducible apply Keeps.ite)
    | split
    | dsimp only

theorem State.enterDeep_keeps {w₀ : Bool} {s₀ s : State} (hk : Keeps w₀ s₀ s) :
    Keeps w₀ s₀ (State.enterDeep s) := by
  unfold State.enterDeep
  repeat' first
    | with_reducible assumption
    | with_reducible apply State.countStay_keeps
    | with_reducible apply State.applySessions_keeps
    | with_reducible apply State.useFree_keeps
    | with_reducible apply Keeps.write
    | with_reducible apply Keeps.writeLe
    | with_reducible apply State.armTimer_keeps
    | with_reducible apply State.bump_keeps
    | with_reducible apply Keeps.each
    | with_reducible apply Keeps.ite
    | intro _
    | (with_reducible apply Keeps.cons; first | with_reducible assumption | with_reducible apply State.countStay_keeps | with_reducible apply State.applySessions_keeps | with_reducible apply State.useFree_keeps | with_reducible apply Keeps.write | with_reducible apply Keeps.writeLe | with_reducible apply State.armTimer_keeps | with_reducible apply State.bump_keeps | with_reducible apply Keeps.each | with_reducible apply Keeps.ite)
    | split
    | dsimp only

theorem State.enterSleep_keeps {w₀ : Bool} {s₀ s : State} (hk : Keeps w₀ s₀ s) (idle : Bool) :
    Keeps w₀ s₀ (State.enterSleep s idle) := by
  unfold State.enterSleep
  repeat' first
    | with_reducible assumption
    | with_reducible apply State.enterDeep_keeps
    | with_reducible apply State.countStay_keeps
    | with_reducible apply State.armTimer_keeps
    | with_reducible apply State.bump_keeps
    | with_reducible apply Keeps.each
    | with_reducible apply Keeps.ite
    | intro _
    | (with_reducible apply Keeps.cons; first | with_reducible assumption | with_reducible apply State.enterDeep_keeps | with_reducible apply State.countStay_keeps | with_reducible apply State.armTimer_keeps | with_reducible apply State.bump_keeps | with_reducible apply Keeps.each | with_reducible apply Keeps.ite)
    | split
    | dsimp only

theorem State.sendState_keeps {w₀ : Bool} {s₀ s : State} (hk : Keeps w₀ s₀ s) (m : MemberId) :
    Keeps w₀ s₀ (State.sendState s m) := by
  unfold State.sendState
  repeat' first
    | with_reducible assumption
    | with_reducible apply State.sendLane_keeps
    | with_reducible apply Keeps.each
    | with_reducible apply Keeps.ite
    | intro _
    | (with_reducible apply Keeps.cons; first | with_reducible assumption | with_reducible apply State.sendLane_keeps | with_reducible apply Keeps.each | with_reducible apply Keeps.ite)
    | split
    | dsimp only

theorem State.idleBoundary_keeps {w₀ : Bool} {s₀ s : State} (hk : Keeps w₀ s₀ s) (r : ReleaseBody) (fresh : List MemberId) :
    Keeps w₀ s₀ (State.idleBoundary s r fresh) := by
  unfold State.idleBoundary
  repeat' first
    | with_reducible assumption
    | with_reducible apply State.modBar_keeps
    | with_reducible apply State.newInterval_keeps
    | with_reducible apply State.reconfigure_keeps
    | with_reducible apply State.sendState_keeps
    | with_reducible apply State.arriveOwn_keeps
    | with_reducible apply State.enterSleep_keeps
    | with_reducible apply Keeps.each
    | with_reducible apply Keeps.ite
    | intro _
    | (with_reducible apply Keeps.cons; first | with_reducible assumption | with_reducible apply State.modBar_keeps | with_reducible apply State.newInterval_keeps | with_reducible apply State.reconfigure_keeps | with_reducible apply State.sendState_keeps | with_reducible apply State.arriveOwn_keeps | with_reducible apply State.enterSleep_keeps | with_reducible apply Keeps.each | with_reducible apply Keeps.ite)
    | split
    | dsimp only

theorem State.stopPrograms_keeps {w₀ : Bool} {s₀ s : State} (hk : Keeps w₀ s₀ s) (chosen : Option (Fin 16)) :
    Keeps w₀ s₀ (State.stopPrograms s chosen) := by
  unfold State.stopPrograms
  repeat' first
    | with_reducible assumption
    | with_reducible apply State.setProg_keeps
    | with_reducible apply Keeps.each
    | with_reducible apply Keeps.ite
    | intro _
    | (with_reducible apply Keeps.cons; first | with_reducible assumption | with_reducible apply State.setProg_keeps | with_reducible apply Keeps.each | with_reducible apply Keeps.ite)
    | split
    | dsimp only

theorem State.boundary_keeps {w₀ : Bool} {s₀ s : State} (hk : Keeps w₀ s₀ s) (r : ReleaseBody) (base : Nat) (skip : Option (Fin 16)) (fresh : List MemberId) :
    Keeps w₀ s₀ (State.boundary s r base skip fresh) := by
  unfold State.boundary
  repeat' first
    | with_reducible assumption
    | with_reducible apply State.atBoundary_keeps
    | with_reducible apply State.stopPrograms_keeps
    | with_reducible apply State.idleBoundary_keeps
    | with_reducible refine Keeps.Pair.out (State.chooseProgram_all ?_ _) ‹_›
    | with_reducible apply State.chooseProgram_all
    | with_reducible refine Keeps.Pair.fst (State.chooseProgram_all ?_ _)
    | with_reducible apply State.bump_keeps
    | with_reducible apply Keeps.each
    | with_reducible apply Keeps.ite
    | intro _
    | (with_reducible apply Keeps.cons; first | with_reducible assumption | with_reducible apply State.atBoundary_keeps | with_reducible apply State.stopPrograms_keeps | with_reducible apply State.idleBoundary_keeps | with_reducible refine Keeps.Pair.out (State.chooseProgram_all ?_ _) ‹_› | with_reducible apply State.chooseProgram_all | with_reducible refine Keeps.Pair.fst (State.chooseProgram_all ?_ _) | with_reducible apply State.bump_keeps | with_reducible apply Keeps.each | with_reducible apply Keeps.ite)
    | split
    | dsimp only

theorem State.writeLate_keeps {w₀ : Bool} {s₀ s : State} (hk : Keeps w₀ s₀ s) (q : Sequencer) (overran : Bool) :
    Keeps w₀ s₀ (State.writeLate s q overran) := by
  unfold State.writeLate
  repeat' first
    | with_reducible assumption
    | with_reducible apply Keeps.each
    | with_reducible apply Keeps.ite
    | intro _
    | (with_reducible apply Keeps.cons; first | with_reducible assumption | with_reducible apply Keeps.each | with_reducible apply Keeps.ite)
    | split
    | dsimp only

theorem State.raiseLate_keeps {w₀ : Bool} {s₀ s : State} (hk : Keeps w₀ s₀ s) (q : Sequencer) :
    Keeps w₀ s₀ (State.raiseLate s q) := by
  unfold State.raiseLate
  repeat' first
    | with_reducible assumption
    | with_reducible apply State.note_keeps
    | with_reducible apply Keeps.each
    | with_reducible apply Keeps.ite
    | intro _
    | (with_reducible apply Keeps.cons; first | with_reducible assumption | with_reducible apply State.note_keeps | with_reducible apply Keeps.each | with_reducible apply Keeps.ite)
    | split
    | dsimp only

theorem State.nextPlace_keeps {w₀ : Bool} {s₀ s : State} (hk : Keeps w₀ s₀ s) (p : Fin 16) :
    Keeps w₀ s₀ (State.nextPlace s p) := by
  unfold State.nextPlace
  repeat' first
    | with_reducible assumption
    | with_reducible apply State.setProg_keeps
    | with_reducible apply State.stepDone_keeps
    | with_reducible apply Keeps.each
    | with_reducible apply Keeps.ite
    | intro _
    | (with_reducible apply Keeps.cons; first | with_reducible assumption | with_reducible apply State.setProg_keeps | with_reducible apply State.stepDone_keeps | with_reducible apply Keeps.each | with_reducible apply Keeps.ite)
    | split
    | dsimp only

theorem State.noteLate_keeps {w₀ : Bool} {s₀ s : State} (hk : Keeps w₀ s₀ s) (q : Sequencer) :
    Keeps w₀ s₀ (State.noteLate s q) := by
  unfold State.noteLate
  repeat' first
    | with_reducible assumption
    | with_reducible apply State.raiseLate_keeps
    | with_reducible apply State.writeLate_keeps
    | with_reducible apply Keeps.each
    | with_reducible apply Keeps.ite
    | intro _
    | (with_reducible apply Keeps.cons; first | with_reducible assumption | with_reducible apply State.raiseLate_keeps | with_reducible apply State.writeLate_keeps | with_reducible apply Keeps.each | with_reducible apply Keeps.ite)
    | split
    | dsimp only

theorem State.sealPassed_keeps {w₀ : Bool} {s₀ s : State} (hk : Keeps w₀ s₀ s) (q : Sequencer) (num : Nat) :
    Keeps w₀ s₀ (State.sealPassed s q num) := by
  unfold State.sealPassed
  repeat' first
    | with_reducible assumption
    | with_reducible apply State.noteLate_keeps
    | with_reducible apply State.bump_keeps
    | with_reducible apply State.setProg_keeps
    | with_reducible apply State.addStatistics_keeps
    | with_reducible apply State.fire_keeps
    | with_reducible apply State.statsEnds_keeps
    | with_reducible apply State.nextPlace_keeps
    | with_reducible apply State.sealStatistics_keeps
    | with_reducible apply State.settlePlace_keeps
    | with_reducible apply State.modSeq_keeps
    | with_reducible apply State.freePass_keeps
    | with_reducible apply State.applySessions_keeps
    | with_reducible apply State.running_keeps
    | with_reducible apply Keeps.each
    | with_reducible apply Keeps.ite
    | intro _
    | (with_reducible apply Keeps.cons; first | with_reducible assumption | with_reducible apply State.noteLate_keeps | with_reducible apply State.bump_keeps | with_reducible apply State.setProg_keeps | with_reducible apply State.addStatistics_keeps | with_reducible apply State.fire_keeps | with_reducible apply State.statsEnds_keeps | with_reducible apply State.nextPlace_keeps | with_reducible apply State.sealStatistics_keeps | with_reducible apply State.settlePlace_keeps | with_reducible apply State.modSeq_keeps | with_reducible apply State.freePass_keeps | with_reducible apply State.applySessions_keeps | with_reducible apply State.running_keeps | with_reducible apply Keeps.each | with_reducible apply Keeps.ite)
    | split
    | dsimp only

theorem State.attemptFailed_keeps {w₀ : Bool} {s₀ s : State} (hk : Keeps w₀ s₀ s) (r : ReleaseBody) (e : Ending) :
    Keeps w₀ s₀ (State.attemptFailed s r e) := by
  unfold State.attemptFailed
  repeat' first
    | with_reducible assumption
    | with_reducible apply State.pass_keeps
    | with_reducible apply State.noteAbort_keeps
    | with_reducible apply State.bump_keeps
    | with_reducible apply State.note_keeps
    | with_reducible apply State.abandonPass_keeps
    | with_reducible apply State.modOpen_keeps
    | with_reducible apply Keeps.each
    | with_reducible apply Keeps.ite
    | intro _
    | (with_reducible apply Keeps.cons; first | with_reducible assumption | with_reducible apply State.pass_keeps | with_reducible apply State.noteAbort_keeps | with_reducible apply State.bump_keeps | with_reducible apply State.note_keeps | with_reducible apply State.abandonPass_keeps | with_reducible apply State.modOpen_keeps | with_reducible apply Keeps.each | with_reducible apply Keeps.ite)
    | split
    | dsimp only

theorem State.replayLimit_keeps {w₀ : Bool} {s₀ s : State} (hk : Keeps w₀ s₀ s) (e : Ending) :
    Keeps w₀ s₀ (State.replayLimit s e) := by
  unfold State.replayLimit
  repeat' first
    | with_reducible assumption
    | with_reducible apply State.pass_keeps
    | with_reducible apply State.noteLate_keeps
    | with_reducible apply State.bump_keeps
    | with_reducible apply State.note_keeps
    | with_reducible apply State.setProg_keeps
    | with_reducible apply State.fire_keeps
    | with_reducible apply State.modBar_keeps
    | with_reducible apply State.applySessions_keeps
    | with_reducible apply Keeps.each
    | with_reducible apply Keeps.ite
    | intro _
    | (with_reducible apply Keeps.cons; first | with_reducible assumption | with_reducible apply State.pass_keeps | with_reducible apply State.noteLate_keeps | with_reducible apply State.bump_keeps | with_reducible apply State.note_keeps | with_reducible apply State.setProg_keeps | with_reducible apply State.fire_keeps | with_reducible apply State.modBar_keeps | with_reducible apply State.applySessions_keeps | with_reducible apply Keeps.each | with_reducible apply Keeps.ite)
    | split
    | dsimp only

theorem State.noteOverrun_keeps {w₀ : Bool} {s₀ s : State} (hk : Keeps w₀ s₀ s) (q : Sequencer) :
    Keeps w₀ s₀ (State.noteOverrun s q) := by
  unfold State.noteOverrun
  repeat' first
    | with_reducible assumption
    | with_reducible apply State.bump_keeps
    | with_reducible apply State.raiseLate_keeps
    | with_reducible apply State.writeLate_keeps
    | with_reducible apply Keeps.each
    | with_reducible apply Keeps.ite
    | intro _
    | (with_reducible apply Keeps.cons; first | with_reducible assumption | with_reducible apply State.bump_keeps | with_reducible apply State.raiseLate_keeps | with_reducible apply State.writeLate_keeps | with_reducible apply Keeps.each | with_reducible apply Keeps.ite)
    | split
    | dsimp only

theorem State.failOn_keeps {w₀ : Bool} {s₀ s : State} (hk : Keeps w₀ s₀ s) (r : ReleaseBody) (e : Ending) (base : Nat) (fresh : List MemberId) :
    Keeps w₀ s₀ (State.failOn s r e base fresh) := by
  unfold State.failOn
  repeat' first
    | with_reducible assumption
    | with_reducible apply State.attemptFailed_keeps
    | with_reducible apply State.pass_keeps
    | with_reducible apply State.replayLimit_keeps
    | with_reducible apply State.boundary_keeps
    | with_reducible apply State.purgeReplay_keeps
    | with_reducible apply State.idleBoundary_keeps
    | with_reducible apply Keeps.each
    | with_reducible apply Keeps.ite
    | intro _
    | (with_reducible apply Keeps.cons; first | with_reducible assumption | with_reducible apply State.attemptFailed_keeps | with_reducible apply State.pass_keeps | with_reducible apply State.replayLimit_keeps | with_reducible apply State.boundary_keeps | with_reducible apply State.purgeReplay_keeps | with_reducible apply State.idleBoundary_keeps | with_reducible apply Keeps.each | with_reducible apply Keeps.ite)
    | split
    | dsimp only

theorem State.endAttempt_keeps {w₀ : Bool} {s₀ s : State} (hk : Keeps w₀ s₀ s) (r : ReleaseBody) (e : Ending) (fresh : List MemberId) (loss : State → State) (hf : ∀ v, Keeps w₀ s₀ v → Keeps w₀ s₀ (loss v)) :
    Keeps w₀ s₀ (State.endAttempt s r e fresh loss) := by
  unfold State.endAttempt
  repeat' first
    | with_reducible assumption
    | apply hf
    | with_reducible apply State.pass_keeps
    | with_reducible apply State.modBar_keeps
    | with_reducible apply State.chargeSlot_keeps
    | with_reducible apply State.agree_keeps
    | with_reducible apply State.noteOverrun_keeps
    | with_reducible apply State.ok_keeps
    | with_reducible apply State.sealPassed_keeps
    | with_reducible apply State.boundary_keeps
    | with_reducible apply State.failOn_keeps
    | with_reducible apply Keeps.each
    | with_reducible apply Keeps.ite
    | intro _
    | (with_reducible apply Keeps.cons; first | with_reducible assumption | with_reducible apply State.pass_keeps | with_reducible apply State.modBar_keeps | with_reducible apply State.chargeSlot_keeps | with_reducible apply State.agree_keeps | with_reducible apply State.noteOverrun_keeps | with_reducible apply State.ok_keeps | with_reducible apply State.sealPassed_keeps | with_reducible apply State.boundary_keeps | with_reducible apply State.failOn_keeps | with_reducible apply Keeps.each | with_reducible apply Keeps.ite)
    | split
    | dsimp only

theorem State.countRelease_keeps {w₀ : Bool} {s₀ s : State} (hk : Keeps w₀ s₀ s) (late : Nat) :
    Keeps w₀ s₀ (State.countRelease s late) := by
  unfold State.countRelease
  repeat' first
    | with_reducible assumption
    | with_reducible apply State.bump_keeps
    | with_reducible apply State.raise_keeps
    | with_reducible apply Keeps.each
    | with_reducible apply Keeps.ite
    | intro _
    | (with_reducible apply Keeps.cons; first | with_reducible assumption | with_reducible apply State.bump_keeps | with_reducible apply State.raise_keeps | with_reducible apply Keeps.each | with_reducible apply Keeps.ite)
    | split
    | dsimp only

theorem State.passBarrier_keeps {w₀ : Bool} {s₀ s : State} (hk : Keeps w₀ s₀ s) (r : ReleaseBody) (late : Nat) :
    Keeps w₀ s₀ (State.passBarrier s r late) := by
  unfold State.passBarrier
  repeat' first
    | with_reducible assumption
    | with_reducible apply State.modBar_keeps
    | with_reducible apply Keeps.each
    | with_reducible apply Keeps.ite
    | intro _
    | (with_reducible apply Keeps.cons; first | with_reducible assumption | with_reducible apply State.modBar_keeps | with_reducible apply Keeps.each | with_reducible apply Keeps.ite)
    | split
    | dsimp only

theorem State.settleFirst_keeps {w₀ : Bool} {s₀ s : State} (hk : Keeps w₀ s₀ s) (r : ReleaseBody) (came : List MemberId) :
    Keeps w₀ s₀ (State.settleFirst s r came) := by
  unfold State.settleFirst
  repeat' first
    | with_reducible assumption
    | with_reducible apply State.modTree_keeps
    | with_reducible apply Keeps.each
    | with_reducible apply Keeps.ite
    | intro _
    | (with_reducible apply Keeps.cons; first | with_reducible assumption | with_reducible apply State.modTree_keeps | with_reducible apply Keeps.each | with_reducible apply Keeps.ite)
    | split
    | dsimp only

theorem State.settleNext_keeps {w₀ : Bool} {s₀ s : State} (hk : Keeps w₀ s₀ s) (r : ReleaseBody) :
    Keeps w₀ s₀ (State.settleNext s r) := by
  unfold State.settleNext
  repeat' first
    | with_reducible assumption
    | with_reducible apply State.modTree_keeps
    | with_reducible apply Keeps.each
    | with_reducible apply Keeps.ite
    | intro _
    | (with_reducible apply Keeps.cons; first | with_reducible assumption | with_reducible apply State.modTree_keeps | with_reducible apply Keeps.each | with_reducible apply Keeps.ite)
    | split
    | dsimp only

theorem State.settleLanes_keeps {w₀ : Bool} {s₀ s : State} (hk : Keeps w₀ s₀ s) :
    Keeps w₀ s₀ (State.settleLanes s) := by
  unfold State.settleLanes
  repeat' first
    | with_reducible assumption
    | with_reducible apply State.swapParents_keeps
    | with_reducible apply State.modTree_keeps
    | with_reducible apply State.useFree_keeps
    | with_reducible apply Keeps.each
    | with_reducible apply Keeps.ite
    | intro _
    | (with_reducible apply Keeps.cons; first | with_reducible assumption | with_reducible apply State.swapParents_keeps | with_reducible apply State.modTree_keeps | with_reducible apply State.useFree_keeps | with_reducible apply Keeps.each | with_reducible apply Keeps.ite)
    | split
    | dsimp only

theorem State.settleMembership_keeps {w₀ : Bool} {s₀ s : State} (hk : Keeps w₀ s₀ s) (r : ReleaseBody) (came : List MemberId) :
    Keeps w₀ s₀ (State.settleMembership s r came) := by
  unfold State.settleMembership
  repeat' first
    | with_reducible assumption
    | with_reducible apply State.settleFirst_keeps
    | with_reducible apply State.settleNext_keeps
    | with_reducible apply State.settleLanes_keeps
    | with_reducible apply Keeps.each
    | with_reducible apply Keeps.ite
    | intro _
    | (with_reducible apply Keeps.cons; first | with_reducible assumption | with_reducible apply State.settleFirst_keeps | with_reducible apply State.settleNext_keeps | with_reducible apply State.settleLanes_keeps | with_reducible apply Keeps.each | with_reducible apply Keeps.ite)
    | split
    | dsimp only

theorem State.dropCopies_keeps {w₀ : Bool} {s₀ s : State} (hk : Keeps w₀ s₀ s) (m : MemberId) :
    Keeps w₀ s₀ (State.dropCopies s m) := by
  unfold State.dropCopies
  repeat' first
    | with_reducible assumption
    | with_reducible apply State.setPlacement_keeps
    | with_reducible apply Keeps.each
    | with_reducible apply Keeps.ite
    | intro _
    | (with_reducible apply Keeps.cons; first | with_reducible assumption | with_reducible apply State.setPlacement_keeps | with_reducible apply Keeps.each | with_reducible apply Keeps.ite)
    | split
    | dsimp only

theorem State.restartPairs_keeps {w₀ : Bool} {s₀ s : State} (hk : Keeps w₀ s₀ s) (m : MemberId) :
    Keeps w₀ s₀ (State.restartPairs s m) := by
  unfold State.restartPairs
  repeat' first
    | with_reducible assumption
    | with_reducible apply State.dropCopies_keeps
    | with_reducible apply State.dropPeer_keeps
    | with_reducible apply Keeps.each
    | with_reducible apply Keeps.ite
    | intro _
    | (with_reducible apply Keeps.cons; first | with_reducible assumption | with_reducible apply State.dropCopies_keeps | with_reducible apply State.dropPeer_keeps | with_reducible apply Keeps.each | with_reducible apply Keeps.ite)
    | split
    | dsimp only

theorem State.noteReconf_keeps {w₀ : Bool} {s₀ s : State} (hk : Keeps w₀ s₀ s) (r : ReleaseBody) :
    Keeps w₀ s₀ (State.noteReconf s r) := by
  unfold State.noteReconf
  repeat' first
    | with_reducible assumption
    | with_reducible apply State.fire_keeps
    | with_reducible apply Keeps.each
    | with_reducible apply Keeps.ite
    | intro _
    | (with_reducible apply Keeps.cons; first | with_reducible assumption | with_reducible apply State.fire_keeps | with_reducible apply Keeps.each | with_reducible apply Keeps.ite)
    | split
    | dsimp only

theorem State.noteRelease_all {w₀ : Bool} {s₀ s : State} (hk : Keeps w₀ s₀ s) (r : ReleaseBody) :
    Keeps.Pair w₀ s₀ (State.noteRelease s r) := by
  unfold State.noteRelease
  repeat' first
    | with_reducible assumption
    | with_reducible apply State.countRelease_keeps
    | with_reducible apply State.passBarrier_keeps
    | with_reducible apply State.settleMembership_keeps
    | with_reducible apply State.restartPairs_keeps
    | with_reducible apply State.noteReconf_keeps
    | with_reducible apply Keeps.each
    | with_reducible apply Keeps.ite
    | with_reducible apply Keeps.Pair.ite
    | intro _
    | (with_reducible apply Keeps.cons; first | with_reducible assumption | with_reducible apply State.countRelease_keeps | with_reducible apply State.passBarrier_keeps | with_reducible apply State.settleMembership_keeps | with_reducible apply State.restartPairs_keeps | with_reducible apply State.noteReconf_keeps | with_reducible apply Keeps.each | with_reducible apply Keeps.ite)
    | split
    | dsimp only
    | with_reducible apply Keeps.Pair.pair

theorem State.settleLoss_keeps {w₀ : Bool} {s₀ s : State} (hk : Keeps w₀ s₀ s) (before : List MemberId) :
    Keeps w₀ s₀ (State.settleLoss s before) := by
  unfold State.settleLoss
  repeat' first
    | with_reducible assumption
    | with_reducible apply State.placementLoss_keeps
    | with_reducible apply State.stagingLoss_keeps
    | with_reducible apply Keeps.each
    | with_reducible apply Keeps.ite
    | intro _
    | (with_reducible apply Keeps.cons; first | with_reducible assumption | with_reducible apply State.placementLoss_keeps | with_reducible apply State.stagingLoss_keeps | with_reducible apply Keeps.each | with_reducible apply Keeps.ite)
    | split
    | dsimp only

theorem State.becomeReady_keeps {w₀ : Bool} {s₀ s : State} (hk : Keeps w₀ s₀ s) (ph : BootPhase) :
    Keeps w₀ s₀ (State.becomeReady s ph) := by
  unfold State.becomeReady
  repeat' first
    | with_reducible assumption
    | with_reducible apply State.fire_keeps
    | with_reducible apply Keeps.each
    | with_reducible apply Keeps.ite
    | intro _
    | (with_reducible apply Keeps.cons; first | with_reducible assumption | with_reducible apply State.fire_keeps | with_reducible apply Keeps.each | with_reducible apply Keeps.ite)
    | split
    | dsimp only

theorem State.releaseAdmitted_keeps {w₀ : Bool} {s₀ s : State} (hk : Keeps w₀ s₀ s) (r : ReleaseBody) (before fresh : List MemberId) :
    Keeps w₀ s₀ (State.releaseAdmitted s r before fresh) := by
  unfold State.releaseAdmitted
  repeat' first
    | with_reducible assumption
    | with_reducible apply State.endAttempt_keeps
    | with_reducible apply State.settleLoss_keeps
    | with_reducible apply State.agree_keeps
    | with_reducible apply State.bump_keeps
    | with_reducible apply State.idleBoundary_keeps
    | with_reducible apply State.boundary_keeps
    | with_reducible apply Keeps.each
    | with_reducible apply Keeps.ite
    | intro _
    | (with_reducible apply Keeps.cons; first | with_reducible assumption | with_reducible apply State.endAttempt_keeps | with_reducible apply State.settleLoss_keeps | with_reducible apply State.agree_keeps | with_reducible apply State.bump_keeps | with_reducible apply State.idleBoundary_keeps | with_reducible apply State.boundary_keeps | with_reducible apply Keeps.each | with_reducible apply Keeps.ite)
    | split
    | dsimp only

theorem State.releaseJoined_keeps {w₀ : Bool} {s₀ s : State} (hk : Keeps w₀ s₀ s) (r : ReleaseBody) (fresh : List MemberId) :
    Keeps w₀ s₀ (State.releaseJoined s r fresh) := by
  unfold State.releaseJoined
  repeat' first
    | with_reducible assumption
    | with_reducible apply State.agree_keeps
    | with_reducible apply State.modBar_keeps
    | with_reducible apply State.becomeReady_keeps
    | with_reducible apply State.bump_keeps
    | with_reducible apply State.boundary_keeps
    | with_reducible apply State.arriveNeutral_keeps
    | with_reducible apply Keeps.each
    | with_reducible apply Keeps.ite
    | intro _
    | (with_reducible apply Keeps.cons; first | with_reducible assumption | with_reducible apply State.agree_keeps | with_reducible apply State.modBar_keeps | with_reducible apply State.becomeReady_keeps | with_reducible apply State.bump_keeps | with_reducible apply State.boundary_keeps | with_reducible apply State.arriveNeutral_keeps | with_reducible apply Keeps.each | with_reducible apply Keeps.ite)
    | split
    | dsimp only

theorem State.releaseJoin_keeps {w₀ : Bool} {s₀ s : State} (hk : Keeps w₀ s₀ s) (r : ReleaseBody) :
    Keeps w₀ s₀ (State.releaseJoin s r) := by
  unfold State.releaseJoin
  repeat' first
    | with_reducible assumption
    | with_reducible apply State.agree_keeps
    | with_reducible apply State.modTree_keeps
    | with_reducible apply State.becomeReady_keeps
    | with_reducible apply State.arriveNeutral_keeps
    | with_reducible apply State.settleLoss_keeps
    | with_reducible apply State.boundary_keeps
    | with_reducible apply Keeps.each
    | with_reducible apply Keeps.ite
    | intro _
    | (with_reducible apply Keeps.cons; first | with_reducible assumption | with_reducible apply State.agree_keeps | with_reducible apply State.modTree_keeps | with_reducible apply State.becomeReady_keeps | with_reducible apply State.arriveNeutral_keeps | with_reducible apply State.settleLoss_keeps | with_reducible apply State.boundary_keeps | with_reducible apply Keeps.each | with_reducible apply Keeps.ite)
    | split
    | dsimp only

theorem State.releaseDeep_keeps {w₀ : Bool} {s₀ s : State} (hk : Keeps w₀ s₀ s) (r : ReleaseBody) (before : List MemberId) :
    Keeps w₀ s₀ (State.releaseDeep s r before) := by
  unfold State.releaseDeep
  repeat' first
    | with_reducible assumption
    | with_reducible apply State.settleLoss_keeps
    | with_reducible apply State.agree_keeps
    | with_reducible apply State.modBar_keeps
    | with_reducible apply State.arriveOwn_keeps
    | with_reducible apply Keeps.each
    | with_reducible apply Keeps.ite
    | intro _
    | (with_reducible apply Keeps.cons; first | with_reducible assumption | with_reducible apply State.settleLoss_keeps | with_reducible apply State.agree_keeps | with_reducible apply State.modBar_keeps | with_reducible apply State.arriveOwn_keeps | with_reducible apply Keeps.each | with_reducible apply Keeps.ite)
    | split
    | dsimp only

theorem State.actOnRelease_keeps {w₀ : Bool} {s₀ s : State} (hk : Keeps w₀ s₀ s) (r : ReleaseBody) (before fresh : List MemberId) :
    Keeps w₀ s₀ (State.actOnRelease s r before fresh) := by
  unfold State.actOnRelease
  repeat' first
    | with_reducible assumption
    | with_reducible apply State.releaseDeep_keeps
    | with_reducible apply State.releaseAdmitted_keeps
    | with_reducible apply State.releaseJoined_keeps
    | with_reducible apply State.releaseJoin_keeps
    | with_reducible apply Keeps.each
    | with_reducible apply Keeps.ite
    | intro _
    | (with_reducible apply Keeps.cons; first | with_reducible assumption | with_reducible apply State.releaseDeep_keeps | with_reducible apply State.releaseAdmitted_keeps | with_reducible apply State.releaseJoined_keeps | with_reducible apply State.releaseJoin_keeps | with_reducible apply Keeps.each | with_reducible apply Keeps.ite)
    | split
    | dsimp only

theorem State.keystone_keeps {w₀ : Bool} {s₀ s : State} (hk : Keeps w₀ s₀ s) :
    Keeps w₀ s₀ (State.keystone s) := by
  unfold State.keystone
  repeat' first
    | with_reducible assumption
    | with_reducible apply State.until_keeps
    | with_reducible refine Keeps.Pair.out (State.noteRelease_all ?_ _) ‹_›
    | with_reducible apply State.noteRelease_all
    | with_reducible refine Keeps.Pair.fst (State.noteRelease_all ?_ _)
    | with_reducible apply State.actOnRelease_keeps
    | with_reducible apply Keeps.each
    | with_reducible apply Keeps.ite
    | intro _
    | (with_reducible apply Keeps.cons; first | with_reducible assumption | with_reducible apply State.until_keeps | with_reducible refine Keeps.Pair.out (State.noteRelease_all ?_ _) ‹_› | with_reducible apply State.noteRelease_all | with_reducible refine Keeps.Pair.fst (State.noteRelease_all ?_ _) | with_reducible apply State.actOnRelease_keeps | with_reducible apply Keeps.each | with_reducible apply Keeps.ite)
    | split
    | dsimp only

theorem State.dropSums_keeps {w₀ : Bool} {s₀ s : State} (hk : Keeps w₀ s₀ s) (q : Sequencer) :
    Keeps w₀ s₀ (State.dropSums s q) := by
  unfold State.dropSums
  repeat' first
    | with_reducible assumption
    | with_reducible apply Keeps.each
    | with_reducible apply Keeps.ite
    | intro _
    | (with_reducible apply Keeps.cons; first | with_reducible assumption | with_reducible apply Keeps.each | with_reducible apply Keeps.ite)
    | split
    | dsimp only

theorem State.openPass_keeps {w₀ : Bool} {s₀ s : State} (hk : Keeps w₀ s₀ s) (q : Sequencer) (count : BitVec 64) :
    Keeps w₀ s₀ (State.openPass s q count) := by
  unfold State.openPass
  repeat' first
    | with_reducible assumption
    | with_reducible apply State.writePassWords_keeps
    | with_reducible apply State.raise_keeps
    | with_reducible apply State.loadInt4_keeps
    | with_reducible apply State.announceTokens_keeps
    | with_reducible apply Keeps.each
    | with_reducible apply Keeps.ite
    | intro _
    | (with_reducible apply Keeps.cons; first | with_reducible assumption | with_reducible apply State.writePassWords_keeps | with_reducible apply State.raise_keeps | with_reducible apply State.loadInt4_keeps | with_reducible apply State.announceTokens_keeps | with_reducible apply Keeps.each | with_reducible apply Keeps.ite)
    | split
    | dsimp only

theorem State.openSlot_keeps {w₀ : Bool} {s₀ s : State} (hk : Keeps w₀ s₀ s) :
    Keeps w₀ s₀ (State.openSlot s) := by
  unfold State.openSlot
  repeat' first
    | with_reducible assumption
    | with_reducible apply State.until_keeps
    | with_reducible apply State.moveProg_keeps
    | with_reducible apply State.modPlacement_keeps
    | with_reducible apply State.bump_keeps
    | with_reducible apply State.fire_keeps
    | with_reducible apply State.newInterval_keeps
    | with_reducible apply State.dropSums_keeps
    | with_reducible apply State.setPop_keeps
    | with_reducible apply State.openPass_keeps
    | with_reducible apply State.replayEarly_keeps
    | with_reducible apply Keeps.each
    | with_reducible apply Keeps.ite
    | intro _
    | (with_reducible apply Keeps.cons; first | with_reducible assumption | with_reducible apply State.until_keeps | with_reducible apply State.moveProg_keeps | with_reducible apply State.modPlacement_keeps | with_reducible apply State.bump_keeps | with_reducible apply State.fire_keeps | with_reducible apply State.newInterval_keeps | with_reducible apply State.dropSums_keeps | with_reducible apply State.setPop_keeps | with_reducible apply State.openPass_keeps | with_reducible apply State.replayEarly_keeps | with_reducible apply Keeps.each | with_reducible apply Keeps.ite)
    | split
    | dsimp only

end Sys2Proof.Machine
end

