-- ==== Sys2Proof/Laws/KeepsIssue.lean ====
section
/-! SUPPORT. What the operations of Machine/Issue.lean keep (`Keeps`). -/

set_option Elab.async false

namespace Sys2Proof.Machine

theorem State.onSeq_keeps {w₀ : Bool} {s₀ s : State} (hk : Keeps w₀ s₀ s) (q : Nat) (f : Sequencer → State) (hf : ∀ x, Keeps w₀ s₀ (f x)) :
    Keeps w₀ s₀ (State.onSeq s q f) := by
  unfold State.onSeq
  repeat' first
    | with_reducible assumption
    | apply hf
    | with_reducible apply Keeps.each
    | with_reducible apply Keeps.ite
    | intro _
    | (with_reducible apply Keeps.cons; first | with_reducible assumption | with_reducible apply Keeps.each | with_reducible apply Keeps.ite)
    | split
    | dsimp only

theorem State.goto_keeps {w₀ : Bool} {s₀ s : State} (hk : Keeps w₀ s₀ s) (q n : Nat) :
    Keeps w₀ s₀ (State.goto s q n) := by
  unfold State.goto
  repeat' first
    | with_reducible assumption
    | with_reducible apply State.modSeq_keeps
    | with_reducible apply Keeps.each
    | with_reducible apply Keeps.ite
    | intro _
    | (with_reducible apply Keeps.cons; first | with_reducible assumption | with_reducible apply State.modSeq_keeps | with_reducible apply Keeps.each | with_reducible apply Keeps.ite)
    | split
    | dsimp only

theorem State.seqRaise_keeps {w₀ : Bool} {s₀ s : State} (hk : Keeps w₀ s₀ s) (x : Sequencer) (code : BitVec 8) :
    Keeps w₀ s₀ (State.seqRaise s x code) := by
  unfold State.seqRaise
  repeat' first
    | with_reducible assumption
    | with_reducible apply State.raise_keeps
    | with_reducible apply Keeps.each
    | with_reducible apply Keeps.ite
    | intro _
    | (with_reducible apply Keeps.cons; first | with_reducible assumption | with_reducible apply State.raise_keeps | with_reducible apply Keeps.each | with_reducible apply Keeps.ite)
    | split
    | dsimp only

theorem State.seqNop_keeps {w₀ : Bool} {s₀ s : State} (hk : Keeps w₀ s₀ s) (q : Nat) :
    Keeps w₀ s₀ (State.seqNop s q) := by
  unfold State.seqNop
  repeat' first
    | with_reducible assumption
    | with_reducible apply State.onSeq_keeps
    | with_reducible apply State.goto_keeps
    | with_reducible apply Keeps.each
    | with_reducible apply Keeps.ite
    | intro _
    | (with_reducible apply Keeps.cons; first | with_reducible assumption | with_reducible apply State.onSeq_keeps | with_reducible apply State.goto_keeps | with_reducible apply Keeps.each | with_reducible apply Keeps.ite)
    | split
    | dsimp only

theorem State.seqSlot_keeps {w₀ : Bool} {s₀ s : State} (hk : Keeps w₀ s₀ s) (q offset step : Nat) :
    Keeps w₀ s₀ (State.seqSlot s q offset step) := by
  unfold State.seqSlot
  repeat' first
    | with_reducible assumption
    | with_reducible apply State.onSeq_keeps
    | with_reducible apply State.modSeq_keeps
    | with_reducible apply Keeps.each
    | with_reducible apply Keeps.ite
    | intro _
    | (with_reducible apply Keeps.cons; first | with_reducible assumption | with_reducible apply State.onSeq_keeps | with_reducible apply State.modSeq_keeps | with_reducible apply Keeps.each | with_reducible apply Keeps.ite)
    | split
    | dsimp only

theorem State.seqWaitAll_keeps {w₀ : Bool} {s₀ s : State} (hk : Keeps w₀ s₀ s) (q : Nat) :
    Keeps w₀ s₀ (State.seqWaitAll s q) := by
  unfold State.seqWaitAll
  repeat' first
    | with_reducible assumption
    | with_reducible apply State.onSeq_keeps
    | with_reducible apply State.goto_keeps
    | with_reducible apply Keeps.each
    | with_reducible apply Keeps.ite
    | intro _
    | (with_reducible apply Keeps.cons; first | with_reducible assumption | with_reducible apply State.onSeq_keeps | with_reducible apply State.goto_keeps | with_reducible apply Keeps.each | with_reducible apply Keeps.ite)
    | split
    | dsimp only

theorem State.seqWaitTime_keeps {w₀ : Bool} {s₀ s : State} (hk : Keeps w₀ s₀ s) (q offset : Nat) :
    Keeps w₀ s₀ (State.seqWaitTime s q offset) := by
  unfold State.seqWaitTime
  repeat' first
    | with_reducible assumption
    | with_reducible apply State.onSeq_keeps
    | with_reducible apply State.until_keeps
    | with_reducible apply State.goto_keeps
    | with_reducible apply Keeps.each
    | with_reducible apply Keeps.ite
    | intro _
    | (with_reducible apply Keeps.cons; first | with_reducible assumption | with_reducible apply State.onSeq_keeps | with_reducible apply State.until_keeps | with_reducible apply State.goto_keeps | with_reducible apply Keeps.each | with_reducible apply Keeps.ite)
    | split
    | dsimp only

theorem State.seqWaitChunk_keeps {w₀ : Bool} {s₀ s : State} (hk : Keeps w₀ s₀ s) (q ch : Nat) :
    Keeps w₀ s₀ (State.seqWaitChunk s q ch) := by
  unfold State.seqWaitChunk
  repeat' first
    | with_reducible assumption
    | with_reducible apply State.onSeq_keeps
    | with_reducible apply State.seqRaise_keeps
    | with_reducible apply State.goto_keeps
    | with_reducible apply State.modSeq_keeps
    | with_reducible apply Keeps.each
    | with_reducible apply Keeps.ite
    | intro _
    | (with_reducible apply Keeps.cons; first | with_reducible assumption | with_reducible apply State.onSeq_keeps | with_reducible apply State.seqRaise_keeps | with_reducible apply State.goto_keeps | with_reducible apply State.modSeq_keeps | with_reducible apply Keeps.each | with_reducible apply Keeps.ite)
    | split
    | dsimp only

theorem State.seqLoop_keeps {w₀ : Bool} {s₀ s : State} (hk : Keeps w₀ s₀ s) (q sh bound body : Nat) :
    Keeps w₀ s₀ (State.seqLoop s q sh bound body) := by
  unfold State.seqLoop
  repeat' first
    | with_reducible assumption
    | with_reducible apply State.onSeq_keeps
    | with_reducible apply State.staleShape_keeps
    | with_reducible apply State.goto_keeps
    | with_reducible apply State.raise_keeps
    | with_reducible apply State.modSeq_keeps
    | with_reducible apply Keeps.each
    | with_reducible apply Keeps.ite
    | intro _
    | (with_reducible apply Keeps.cons; first | with_reducible assumption | with_reducible apply State.onSeq_keeps | with_reducible apply State.staleShape_keeps | with_reducible apply State.goto_keeps | with_reducible apply State.raise_keeps | with_reducible apply State.modSeq_keeps | with_reducible apply Keeps.each | with_reducible apply Keeps.ite)
    | split
    | dsimp only

theorem State.seqEndloop_keeps {w₀ : Bool} {s₀ s : State} (hk : Keeps w₀ s₀ s) (q : Nat) :
    Keeps w₀ s₀ (State.seqEndloop s q) := by
  unfold State.seqEndloop
  repeat' first
    | with_reducible assumption
    | with_reducible apply State.onSeq_keeps
    | with_reducible apply State.modSeq_keeps
    | with_reducible apply Keeps.each
    | with_reducible apply Keeps.ite
    | intro _
    | (with_reducible apply Keeps.cons; first | with_reducible assumption | with_reducible apply State.onSeq_keeps | with_reducible apply State.modSeq_keeps | with_reducible apply Keeps.each | with_reducible apply Keeps.ite)
    | split
    | dsimp only

theorem State.seqShape_keeps {w₀ : Bool} {s₀ s : State} (hk : Keeps w₀ s₀ s) (q dst src : Nat) (f : Nat → Nat → Nat × Nat) :
    Keeps w₀ s₀ (State.seqShape s q dst src f) := by
  unfold State.seqShape
  repeat' first
    | with_reducible assumption
    | with_reducible apply State.onSeq_keeps
    | with_reducible apply State.staleShape_keeps
    | with_reducible apply State.writeShape_keeps
    | with_reducible apply State.modAtt_keeps
    | with_reducible apply State.goto_keeps
    | with_reducible apply Keeps.each
    | with_reducible apply Keeps.ite
    | intro _
    | (with_reducible apply Keeps.cons; first | with_reducible assumption | with_reducible apply State.onSeq_keeps | with_reducible apply State.staleShape_keeps | with_reducible apply State.writeShape_keeps | with_reducible apply State.modAtt_keeps | with_reducible apply State.goto_keeps | with_reducible apply Keeps.each | with_reducible apply Keeps.ite)
    | split
    | dsimp only

theorem State.seqSignal_keeps {w₀ : Bool} {s₀ s : State} (hk : Keeps w₀ s₀ s) (q source : Nat) :
    Keeps w₀ s₀ (State.seqSignal s q source) := by
  unfold State.seqSignal
  repeat' first
    | with_reducible assumption
    | with_reducible apply State.onSeq_keeps
    | with_reducible apply State.fire_keeps
    | with_reducible apply State.goto_keeps
    | with_reducible apply Keeps.each
    | with_reducible apply Keeps.ite
    | intro _
    | (with_reducible apply Keeps.cons; first | with_reducible assumption | with_reducible apply State.onSeq_keeps | with_reducible apply State.fire_keeps | with_reducible apply State.goto_keeps | with_reducible apply Keeps.each | with_reducible apply Keeps.ite)
    | split
    | dsimp only

theorem State.noteStart_keeps {w₀ : Bool} {s₀ s : State} (hk : Keeps w₀ s₀ s) (x : Sequencer) (pc planned : Nat) :
    Keeps w₀ s₀ (State.noteStart s x pc planned) := by
  unfold State.noteStart
  repeat' first
    | with_reducible assumption
    | with_reducible apply Keeps.each
    | with_reducible apply Keeps.ite
    | intro _
    | (with_reducible apply Keeps.cons; first | with_reducible assumption | with_reducible apply Keeps.each | with_reducible apply Keeps.ite)
    | split
    | dsimp only

theorem State.startAt_keeps {w₀ : Bool} {s₀ s : State} (hk : Keeps w₀ s₀ s) (x : Sequencer) (pc : Nat) (x₁ : Option Nat) :
    Keeps w₀ s₀ (State.startAt s x pc x₁) := by
  unfold State.startAt
  repeat' first
    | with_reducible assumption
    | with_reducible apply State.until_keeps
    | with_reducible apply State.noteStart_keeps
    | with_reducible apply Keeps.each
    | with_reducible apply Keeps.ite
    | intro _
    | (with_reducible apply Keeps.cons; first | with_reducible assumption | with_reducible apply State.until_keeps | with_reducible apply State.noteStart_keeps | with_reducible apply Keeps.each | with_reducible apply Keeps.ite)
    | split
    | dsimp only

theorem State.seqSeal_keeps {w₀ : Bool} {s₀ s : State} (hk : Keeps w₀ s₀ s) (q source : Nat) (fires : Bool) :
    Keeps w₀ s₀ (State.seqSeal s q source fires) := by
  unfold State.seqSeal
  repeat' first
    | with_reducible assumption
    | with_reducible apply State.onSeq_keeps
    | with_reducible apply State.startAt_keeps
    | with_reducible apply State.modSeq_keeps
    | with_reducible apply State.arriveOwn_keeps
    | with_reducible apply State.bump_keeps
    | with_reducible apply Keeps.each
    | with_reducible apply Keeps.ite
    | intro _
    | (with_reducible apply Keeps.cons; first | with_reducible assumption | with_reducible apply State.onSeq_keeps | with_reducible apply State.startAt_keeps | with_reducible apply State.modSeq_keeps | with_reducible apply State.arriveOwn_keeps | with_reducible apply State.bump_keeps | with_reducible apply Keeps.each | with_reducible apply Keeps.ite)
    | split
    | dsimp only

theorem State.seqHalt_keeps {w₀ : Bool} {s₀ s : State} (hk : Keeps w₀ s₀ s) (q : Nat) (ends : Bool) :
    Keeps w₀ s₀ (State.seqHalt s q ends) := by
  unfold State.seqHalt
  repeat' first
    | with_reducible assumption
    | with_reducible apply State.onSeq_keeps
    | with_reducible apply State.running_keeps
    | with_reducible apply State.modSeq_keeps
    | with_reducible apply State.setProg_keeps
    | with_reducible apply Keeps.each
    | with_reducible apply Keeps.ite
    | intro _
    | (with_reducible apply Keeps.cons; first | with_reducible assumption | with_reducible apply State.onSeq_keeps | with_reducible apply State.running_keeps | with_reducible apply State.modSeq_keeps | with_reducible apply State.setProg_keeps | with_reducible apply Keeps.each | with_reducible apply Keeps.ite)
    | split
    | dsimp only

theorem State.issueEngine_keeps {w₀ : Bool} {s₀ s : State} (hk : Keeps w₀ s₀ s) (q : Nat) (x : Sequencer) (w : Nat) (e : Engine) :
    Keeps w₀ s₀ (State.issueEngine s q x w e) := by
  unfold State.issueEngine
  repeat' first
    | with_reducible assumption
    | with_reducible apply State.seqRaise_keeps
    | with_reducible apply State.goto_keeps
    | with_reducible apply State.modSeq_keeps
    | with_reducible apply Keeps.each
    | with_reducible apply Keeps.ite
    | intro _
    | (with_reducible apply Keeps.cons; first | with_reducible assumption | with_reducible apply State.seqRaise_keeps | with_reducible apply State.goto_keeps | with_reducible apply State.modSeq_keeps | with_reducible apply Keeps.each | with_reducible apply Keeps.ite)
    | split
    | dsimp only

theorem State.issue_keeps {w₀ : Bool} {s₀ s : State} (hk : Keeps w₀ s₀ s) (q : Nat) :
    Keeps w₀ s₀ (State.issue s q) := by
  unfold State.issue
  repeat' first
    | with_reducible assumption
    | with_reducible apply State.onSeq_keeps
    | with_reducible apply State.modSeq_keeps
    | with_reducible apply State.seqNop_keeps
    | with_reducible apply State.seqSlot_keeps
    | with_reducible apply State.seqWaitAll_keeps
    | with_reducible apply State.seqWaitTime_keeps
    | with_reducible apply State.seqWaitChunk_keeps
    | with_reducible apply State.seqSeal_keeps
    | with_reducible apply State.seqLoop_keeps
    | with_reducible apply State.seqEndloop_keeps
    | with_reducible apply State.seqShape_keeps
    | with_reducible apply State.seqSignal_keeps
    | with_reducible apply State.seqHalt_keeps
    | with_reducible apply State.issueEngine_keeps
    | with_reducible apply Keeps.each
    | with_reducible apply Keeps.ite
    | intro _
    | (with_reducible apply Keeps.cons; first | with_reducible assumption | with_reducible apply State.onSeq_keeps | with_reducible apply State.modSeq_keeps | with_reducible apply State.seqNop_keeps | with_reducible apply State.seqSlot_keeps | with_reducible apply State.seqWaitAll_keeps | with_reducible apply State.seqWaitTime_keeps | with_reducible apply State.seqWaitChunk_keeps | with_reducible apply State.seqSeal_keeps | with_reducible apply State.seqLoop_keeps | with_reducible apply State.seqEndloop_keeps | with_reducible apply State.seqShape_keeps | with_reducible apply State.seqSignal_keeps | with_reducible apply State.seqHalt_keeps | with_reducible apply State.issueEngine_keeps | with_reducible apply Keeps.each | with_reducible apply Keeps.ite)
    | split
    | dsimp only

theorem State.modInstr_keeps {w₀ : Bool} {s₀ s : State} (hk : Keeps w₀ s₀ s) (q k : Nat) (f : Issued → Issued) :
    Keeps w₀ s₀ (State.modInstr s q k f) := by
  unfold State.modInstr
  repeat' first
    | with_reducible assumption
    | with_reducible apply State.modSeq_keeps
    | with_reducible apply Keeps.each
    | with_reducible apply Keeps.ite
    | intro _
    | (with_reducible apply Keeps.cons; first | with_reducible assumption | with_reducible apply State.modSeq_keeps | with_reducible apply Keeps.each | with_reducible apply Keeps.ite)
    | split
    | dsimp only

theorem State.chargeEngine_keeps {w₀ : Bool} {s₀ s : State} (hk : Keeps w₀ s₀ s) (p : Fin 16) (e : Engine) :
    Keeps w₀ s₀ (State.chargeEngine s p e) := by
  unfold State.chargeEngine
  repeat' first
    | with_reducible assumption
    | with_reducible apply State.setProg_keeps
    | with_reducible apply State.useFree_keeps
    | with_reducible apply Keeps.each
    | with_reducible apply Keeps.ite
    | intro _
    | (with_reducible apply Keeps.cons; first | with_reducible assumption | with_reducible apply State.setProg_keeps | with_reducible apply State.useFree_keeps | with_reducible apply Keeps.each | with_reducible apply Keeps.ite)
    | split
    | dsimp only

theorem State.completeInstr_keeps {w₀ : Bool} {s₀ s : State} (hk : Keeps w₀ s₀ s) (q k : Nat) (i : Issued) :
    Keeps w₀ s₀ (State.completeInstr s q k i) := by
  unfold State.completeInstr
  repeat' first
    | with_reducible assumption
    | with_reducible apply State.modInstr_keeps
    | with_reducible apply State.modSeq_keeps
    | with_reducible apply Keeps.each
    | with_reducible apply Keeps.ite
    | intro _
    | (with_reducible apply Keeps.cons; first | with_reducible assumption | with_reducible apply State.modInstr_keeps | with_reducible apply State.modSeq_keeps | with_reducible apply Keeps.each | with_reducible apply Keeps.ite)
    | split
    | dsimp only

theorem State.startReduce_keeps {w₀ : Bool} {s₀ s : State} (hk : Keeps w₀ s₀ s) (op g addr : Nat) (combined : Bool) :
    Keeps w₀ s₀ (State.startReduce s op g addr combined) := by
  unfold State.startReduce
  repeat' first
    | with_reducible assumption
    | with_reducible apply State.startColl_keeps
    | with_reducible apply Keeps.each
    | with_reducible apply Keeps.ite
    | intro _
    | (with_reducible apply Keeps.cons; first | with_reducible assumption | with_reducible apply State.startColl_keeps | with_reducible apply Keeps.each | with_reducible apply Keeps.ite)
    | split
    | dsimp only

theorem State.readSelect_keeps {w₀ : Bool} {s₀ s : State} (hk : Keeps w₀ s₀ s) (c : Nat) (finds : List ReadFind) :
    Keeps w₀ s₀ (State.readSelect s c finds) := by
  unfold State.readSelect
  repeat' first
    | with_reducible assumption
    | with_reducible apply State.readSessions_keeps
    | with_reducible apply State.readPairs_keeps
    | with_reducible apply Keeps.each
    | with_reducible apply Keeps.ite
    | intro _
    | (with_reducible apply Keeps.cons; first | with_reducible assumption | with_reducible apply State.readSessions_keeps | with_reducible apply State.readPairs_keeps | with_reducible apply Keeps.each | with_reducible apply Keeps.ite)
    | split
    | dsimp only

theorem State.perform_keeps {w₀ : Bool} {s₀ s : State} (hk : Keeps w₀ s₀ s) (x : Sequencer) (k : Nat) (i : Issued) (f : EngineFaults) :
    Keeps w₀ s₀ (State.perform s x k i f) := by
  unfold State.perform
  repeat' first
    | with_reducible assumption
    | with_reducible apply State.normChunk_keeps
    | with_reducible apply State.takeScoring_keeps
    | with_reducible apply State.scoreChunk_keeps
    | with_reducible apply State.rescoreChunk_keeps
    | with_reducible apply State.readSelect_keeps
    | with_reducible apply State.selectChunk_keeps
    | with_reducible apply State.freeScoring_keeps
    | with_reducible apply State.runCount_keeps
    | with_reducible apply State.startGrant_keeps
    | with_reducible apply State.sortChunk_keeps
    | with_reducible apply State.dispatchChunk_keeps
    | with_reducible apply State.modAtt_keeps
    | with_reducible apply State.startReturn_keeps
    | with_reducible apply State.readAccums_keeps
    | with_reducible apply State.startCombine_keeps
    | with_reducible apply State.startReduce_keeps
    | with_reducible apply State.readBuffer_keeps
    | with_reducible apply State.startStats_keeps
    | with_reducible apply State.runMove_keeps
    | with_reducible apply State.runFunc_keeps
    | with_reducible apply State.startFetch_keeps
    | with_reducible apply Keeps.each
    | with_reducible apply Keeps.ite
    | intro _
    | (with_reducible apply Keeps.cons; first | with_reducible assumption | with_reducible apply State.normChunk_keeps | with_reducible apply State.takeScoring_keeps | with_reducible apply State.scoreChunk_keeps | with_reducible apply State.rescoreChunk_keeps | with_reducible apply State.readSelect_keeps | with_reducible apply State.selectChunk_keeps | with_reducible apply State.freeScoring_keeps | with_reducible apply State.runCount_keeps | with_reducible apply State.startGrant_keeps | with_reducible apply State.sortChunk_keeps | with_reducible apply State.dispatchChunk_keeps | with_reducible apply State.modAtt_keeps | with_reducible apply State.startReturn_keeps | with_reducible apply State.readAccums_keeps | with_reducible apply State.startCombine_keeps | with_reducible apply State.startReduce_keeps | with_reducible apply State.readBuffer_keeps | with_reducible apply State.startStats_keeps | with_reducible apply State.runMove_keeps | with_reducible apply State.runFunc_keeps | with_reducible apply State.startFetch_keeps | with_reducible apply Keeps.each | with_reducible apply Keeps.ite)
    | split
    | dsimp only

theorem State.runEngine_keeps {w₀ : Bool} {s₀ s : State} (hk : Keeps w₀ s₀ s) (e : Engine) (want : Nat → Bool) (f : EngineFaults) :
    Keeps w₀ s₀ (State.runEngine s e want f) := by
  unfold State.runEngine
  repeat' first
    | with_reducible assumption
    | with_reducible apply State.startAt_keeps
    | with_reducible apply State.chargeEngine_keeps
    | with_reducible apply State.modInstr_keeps
    | with_reducible apply State.perform_keeps
    | with_reducible apply State.completeInstr_keeps
    | with_reducible apply Keeps.each
    | with_reducible apply Keeps.ite
    | intro _
    | (with_reducible apply Keeps.cons; first | with_reducible assumption | with_reducible apply State.startAt_keeps | with_reducible apply State.chargeEngine_keeps | with_reducible apply State.modInstr_keeps | with_reducible apply State.perform_keeps | with_reducible apply State.completeInstr_keeps | with_reducible apply Keeps.each | with_reducible apply Keeps.ite)
    | split
    | dsimp only

theorem State.runOp_keeps {w₀ : Bool} {s₀ s : State} (hk : Keeps w₀ s₀ s) (op : Nat) (f : EngineFaults) :
    Keeps w₀ s₀ (State.runOp s op f) := by
  unfold State.runOp
  repeat' first
    | with_reducible assumption
    | with_reducible apply State.runEngine_keeps
    | with_reducible apply Keeps.each
    | with_reducible apply Keeps.ite
    | intro _
    | (with_reducible apply Keeps.cons; first | with_reducible assumption | with_reducible apply State.runEngine_keeps | with_reducible apply Keeps.each | with_reducible apply Keeps.ite)
    | split
    | dsimp only

theorem State.runRecord_keeps {w₀ : Bool} {s₀ s : State} (hk : Keeps w₀ s₀ s) (op sub : Nat) (f : EngineFaults) :
    Keeps w₀ s₀ (State.runRecord s op sub f) := by
  unfold State.runRecord
  repeat' first
    | with_reducible assumption
    | with_reducible apply State.runEngine_keeps
    | with_reducible apply Keeps.each
    | with_reducible apply Keeps.ite
    | intro _
    | (with_reducible apply Keeps.cons; first | with_reducible assumption | with_reducible apply State.runEngine_keeps | with_reducible apply Keeps.each | with_reducible apply Keeps.ite)
    | split
    | dsimp only

theorem State.completeSeq_keeps {w₀ : Bool} {s₀ s : State} (hk : Keeps w₀ s₀ s) (q : Nat) :
    Keeps w₀ s₀ (State.completeSeq s q) := by
  unfold State.completeSeq
  repeat' first
    | with_reducible assumption
    | with_reducible apply State.completeInstr_keeps
    | with_reducible apply State.finishStats_keeps
    | with_reducible apply Keeps.each
    | with_reducible apply Keeps.ite
    | intro _
    | (with_reducible apply Keeps.cons; first | with_reducible assumption | with_reducible apply State.completeInstr_keeps | with_reducible apply State.finishStats_keeps | with_reducible apply Keeps.each | with_reducible apply Keeps.ite)
    | split
    | dsimp only

theorem State.lateChecks_keeps {w₀ : Bool} {s₀ s : State} (hk : Keeps w₀ s₀ s) :
    Keeps w₀ s₀ (State.lateChecks s) := by
  unfold State.lateChecks
  repeat' first
    | with_reducible assumption
    | with_reducible apply State.raise_keeps
    | with_reducible apply Keeps.each
    | with_reducible apply Keeps.ite
    | intro _
    | (with_reducible apply Keeps.cons; first | with_reducible assumption | with_reducible apply State.raise_keeps | with_reducible apply Keeps.each | with_reducible apply Keeps.ite)
    | split
    | dsimp only

theorem State.freeSeqs_keeps {w₀ : Bool} {s₀ s : State} (hk : Keeps w₀ s₀ s) :
    Keeps w₀ s₀ (State.freeSeqs s) := by
  unfold State.freeSeqs
  repeat' first
    | with_reducible assumption
    | with_reducible apply Keeps.each
    | with_reducible apply Keeps.ite
    | intro _
    | (with_reducible apply Keeps.cons; first | with_reducible assumption | with_reducible apply Keeps.each | with_reducible apply Keeps.ite)
    | split
    | dsimp only

theorem State.gateEngines_keeps {w₀ : Bool} {s₀ s : State} (hk : Keeps w₀ s₀ s) :
    Keeps w₀ s₀ (State.gateEngines s) := by
  unfold State.gateEngines
  repeat' first
    | with_reducible assumption
    | with_reducible apply Keeps.each
    | with_reducible apply Keeps.ite
    | intro _
    | (with_reducible apply Keeps.cons; first | with_reducible assumption | with_reducible apply Keeps.each | with_reducible apply Keeps.ite)
    | split
    | dsimp only

theorem State.releaseOwn_keeps {w₀ : Bool} {s₀ : State} :
    ∀ (n : Nat) {s : State} (_ : Keeps w₀ s₀ s), Keeps w₀ s₀ (State.releaseOwn n s)
  | 0, _, h => by
    unfold State.releaseOwn
    repeat' first
      | with_reducible assumption
      | with_reducible apply State.releaseOwn_keeps
      | with_reducible apply State.releaseRows_keeps
      | with_reducible apply Keeps.each
      | with_reducible apply Keeps.ite
      | intro _
      | (with_reducible apply Keeps.cons; first | with_reducible assumption | with_reducible apply State.releaseRows_keeps | with_reducible apply Keeps.each | with_reducible apply Keeps.ite)
      | split
      | dsimp only
  | n + 1, _, h => by
    unfold State.releaseOwn
    repeat' first
      | with_reducible assumption
      | with_reducible apply State.releaseOwn_keeps
      | with_reducible apply State.releaseRows_keeps
      | with_reducible apply Keeps.each
      | with_reducible apply Keeps.ite
      | intro _
      | (with_reducible apply Keeps.cons; first | with_reducible assumption | with_reducible apply State.releaseRows_keeps | with_reducible apply Keeps.each | with_reducible apply Keeps.ite)
      | split
      | dsimp only

theorem State.completions_keeps {w₀ : Bool} {s₀ s : State} (hk : Keeps w₀ s₀ s) :
    Keeps w₀ s₀ (State.completions s) := by
  unfold State.completions
  repeat' first
    | with_reducible assumption
    | with_reducible apply State.releaseOwn_keeps
    | with_reducible apply State.sweepFanout_keeps
    | with_reducible apply State.collProgress_keeps
    | with_reducible apply State.idleSums_keeps
    | with_reducible apply State.completeSeq_keeps
    | with_reducible apply State.lateChecks_keeps
    | with_reducible apply State.freeSeqs_keeps
    | with_reducible apply State.gateEngines_keeps
    | with_reducible apply Keeps.each
    | with_reducible apply Keeps.ite
    | intro _
    | (with_reducible apply Keeps.cons; first | with_reducible assumption | with_reducible apply State.releaseOwn_keeps | with_reducible apply State.sweepFanout_keeps | with_reducible apply State.collProgress_keeps | with_reducible apply State.idleSums_keeps | with_reducible apply State.completeSeq_keeps | with_reducible apply State.lateChecks_keeps | with_reducible apply State.freeSeqs_keeps | with_reducible apply State.gateEngines_keeps | with_reducible apply Keeps.each | with_reducible apply Keeps.ite)
    | split
    | dsimp only

theorem State.upkeep_keeps {w₀ : Bool} {s₀ s : State} (hk : Keeps w₀ s₀ s) :
    Keeps w₀ s₀ (State.upkeep s) := by
  unfold State.upkeep
  repeat' first
    | with_reducible assumption
    | with_reducible apply State.takeLimits_keeps
    | with_reducible apply State.bulkOverdue_keeps
    | with_reducible apply State.pumpStaged_keeps
    | with_reducible apply Keeps.each
    | with_reducible apply Keeps.ite
    | intro _
    | (with_reducible apply Keeps.cons; first | with_reducible assumption | with_reducible apply State.takeLimits_keeps | with_reducible apply State.bulkOverdue_keeps | with_reducible apply State.pumpStaged_keeps | with_reducible apply Keeps.each | with_reducible apply Keeps.ite)
    | split
    | dsimp only

theorem State.close_keeps {w₀ : Bool} {s₀ s : State} (hk : Keeps w₀ s₀ s) :
    Keeps w₀ s₀ (State.close s) := by
  unfold State.close
  repeat' first
    | with_reducible assumption
    | with_reducible apply State.upkeep_keeps
    | with_reducible apply State.completions_keeps
    | with_reducible apply State.settle_keeps
    | with_reducible apply State.updatePause_keeps
    | with_reducible apply Keeps.each
    | with_reducible apply Keeps.ite
    | intro _
    | (with_reducible apply Keeps.cons; first | with_reducible assumption | with_reducible apply State.upkeep_keeps | with_reducible apply State.completions_keeps | with_reducible apply State.settle_keeps | with_reducible apply State.updatePause_keeps | with_reducible apply Keeps.each | with_reducible apply Keeps.ite)
    | split
    | dsimp only

end Sys2Proof.Machine
end

