-- ==== Sys2Proof/Laws/KeepsLoss.lean ====
section
/-! SUPPORT. What the operations of Machine/Loss.lean keep (`Keeps`). -/

set_option Elab.async false

namespace Sys2Proof.Machine

theorem State.acceptLost_keeps {w₀ : Bool} {s₀ s : State} (hk : Keeps w₀ s₀ s) (m : MemberId) (ver : BitVec 16) :
    Keeps w₀ s₀ (State.acceptLost s m ver) := by
  unfold State.acceptLost
  repeat' first
    | with_reducible assumption
    | with_reducible apply State.modTree_keeps
    | with_reducible apply State.modBar_keeps
    | with_reducible apply State.note_keeps
    | with_reducible apply State.fire_keeps
    | with_reducible apply State.dropPeer_keeps
    | with_reducible apply State.doAbort_keeps
    | with_reducible apply State.gather_keeps
    | with_reducible apply Keeps.each
    | with_reducible apply Keeps.ite
    | intro _
    | (with_reducible apply Keeps.cons; first | with_reducible assumption | with_reducible apply State.modTree_keeps | with_reducible apply State.modBar_keeps | with_reducible apply State.note_keeps | with_reducible apply State.fire_keeps | with_reducible apply State.dropPeer_keeps | with_reducible apply State.doAbort_keeps | with_reducible apply State.gather_keeps | with_reducible apply Keeps.each | with_reducible apply Keeps.ite)
    | split
    | dsimp only

theorem State.takeLost_keeps {w₀ : Bool} {s₀ s : State} (hk : Keeps w₀ s₀ s) (h : MortarHdr) (m : MemberId) (ver : BitVec 16) :
    Keeps w₀ s₀ (State.takeLost s h m ver) := by
  unfold State.takeLost
  repeat' first
    | with_reducible assumption
    | with_reducible apply State.sendDown_keeps
    | with_reducible apply State.acceptLost_keeps
    | with_reducible apply Keeps.each
    | with_reducible apply Keeps.ite
    | intro _
    | (with_reducible apply Keeps.cons; first | with_reducible assumption | with_reducible apply State.sendDown_keeps | with_reducible apply State.acceptLost_keeps | with_reducible apply Keeps.each | with_reducible apply Keeps.ite)
    | split
    | dsimp only

theorem State.sendLost_keeps {w₀ : Bool} {s₀ s : State} (hk : Keeps w₀ s₀ s) (m : MemberId) :
    Keeps w₀ s₀ (State.sendLost s m) := by
  unfold State.sendLost
  repeat' first
    | with_reducible assumption
    | with_reducible apply State.sendDown_keeps
    | with_reducible apply State.acceptLost_keeps
    | with_reducible apply Keeps.each
    | with_reducible apply Keeps.ite
    | intro _
    | (with_reducible apply Keeps.cons; first | with_reducible assumption | with_reducible apply State.sendDown_keeps | with_reducible apply State.acceptLost_keeps | with_reducible apply Keeps.each | with_reducible apply Keeps.ite)
    | split
    | dsimp only

theorem State.judgeSuspects_keeps {w₀ : Bool} {s₀ : State} :
    ∀ (n : Nat) {s : State} (_ : Keeps w₀ s₀ s), Keeps w₀ s₀ (State.judgeSuspects n s)
  | 0, _, h => by
    unfold State.judgeSuspects
    repeat' first
      | with_reducible assumption
      | with_reducible apply State.judgeSuspects_keeps
      | with_reducible apply State.sendLost_keeps
      | with_reducible apply Keeps.each
      | with_reducible apply Keeps.ite
      | intro _
      | (with_reducible apply Keeps.cons; first | with_reducible assumption | with_reducible apply State.sendLost_keeps | with_reducible apply Keeps.each | with_reducible apply Keeps.ite)
      | split
      | dsimp only
  | n + 1, _, h => by
    unfold State.judgeSuspects
    repeat' first
      | with_reducible assumption
      | with_reducible apply State.judgeSuspects_keeps
      | with_reducible apply State.sendLost_keeps
      | with_reducible apply Keeps.each
      | with_reducible apply Keeps.ite
      | intro _
      | (with_reducible apply Keeps.cons; first | with_reducible assumption | with_reducible apply State.sendLost_keeps | with_reducible apply Keeps.each | with_reducible apply Keeps.ite)
      | split
      | dsimp only

theorem State.declareLost_keeps {w₀ : Bool} {s₀ s : State} (hk : Keeps w₀ s₀ s) (m : MemberId) :
    Keeps w₀ s₀ (State.declareLost s m) := by
  unfold State.declareLost
  repeat' first
    | with_reducible assumption
    | with_reducible apply State.sendLost_keeps
    | with_reducible apply State.judgeSuspects_keeps
    | with_reducible apply Keeps.each
    | with_reducible apply Keeps.ite
    | intro _
    | (with_reducible apply Keeps.cons; first | with_reducible assumption | with_reducible apply State.sendLost_keeps | with_reducible apply State.judgeSuspects_keeps | with_reducible apply Keeps.each | with_reducible apply Keeps.ite)
    | split
    | dsimp only

theorem State.rootSuspect_keeps {w₀ : Bool} {s₀ s : State} (hk : Keeps w₀ s₀ s) (origin m : MemberId) (role : BitVec 8) :
    Keeps w₀ s₀ (State.rootSuspect s origin m role) := by
  unfold State.rootSuspect
  repeat' first
    | with_reducible assumption
    | with_reducible apply State.modTree_keeps
    | with_reducible apply State.judgeSuspects_keeps
    | with_reducible apply Keeps.each
    | with_reducible apply Keeps.ite
    | intro _
    | (with_reducible apply Keeps.cons; first | with_reducible assumption | with_reducible apply State.modTree_keeps | with_reducible apply State.judgeSuspects_keeps | with_reducible apply Keeps.each | with_reducible apply Keeps.ite)
    | split
    | dsimp only

theorem State.report_keeps {w₀ : Bool} {s₀ s : State} (hk : Keeps w₀ s₀ s) (origin m : MemberId) (role : BitVec 8) :
    Keeps w₀ s₀ (State.report s origin m role) := by
  unfold State.report
  repeat' first
    | with_reducible assumption
    | with_reducible apply State.rootSuspect_keeps
    | with_reducible apply State.sendUp_keeps
    | with_reducible apply Keeps.each
    | with_reducible apply Keeps.ite
    | intro _
    | (with_reducible apply Keeps.cons; first | with_reducible assumption | with_reducible apply State.rootSuspect_keeps | with_reducible apply State.sendUp_keeps | with_reducible apply Keeps.each | with_reducible apply Keeps.ite)
    | split
    | dsimp only

theorem State.rehomeAbort_keeps {w₀ : Bool} {s₀ s : State} (hk : Keeps w₀ s₀ s) :
    Keeps w₀ s₀ (State.rehomeAbort s) := by
  unfold State.rehomeAbort
  repeat' first
    | with_reducible assumption
    | with_reducible apply State.bump_keeps
    | with_reducible apply State.rootAbort_keeps
    | with_reducible apply Keeps.each
    | with_reducible apply Keeps.ite
    | intro _
    | (with_reducible apply Keeps.cons; first | with_reducible assumption | with_reducible apply State.bump_keeps | with_reducible apply State.rootAbort_keeps | with_reducible apply Keeps.each | with_reducible apply Keeps.ite)
    | split
    | dsimp only

theorem State.takeOver_keeps {w₀ : Bool} {s₀ s : State} (hk : Keeps w₀ s₀ s) :
    Keeps w₀ s₀ (State.takeOver s) := by
  unfold State.takeOver
  repeat' first
    | with_reducible assumption
    | with_reducible apply State.modTree_keeps
    | with_reducible apply State.modBar_keeps
    | with_reducible apply State.rehomeAbort_keeps
    | with_reducible apply State.declareLost_keeps
    | with_reducible apply State.gather_keeps
    | with_reducible apply Keeps.each
    | with_reducible apply Keeps.ite
    | intro _
    | (with_reducible apply Keeps.cons; first | with_reducible assumption | with_reducible apply State.modTree_keeps | with_reducible apply State.modBar_keeps | with_reducible apply State.rehomeAbort_keeps | with_reducible apply State.declareLost_keeps | with_reducible apply State.gather_keeps | with_reducible apply Keeps.each | with_reducible apply Keeps.ite)
    | split
    | dsimp only

theorem State.takeRehome_keeps {w₀ : Bool} {s₀ s : State} (hk : Keeps w₀ s₀ s) (l : Nat) (h : MortarHdr) (mask : BitVec 4) (ver : BitVec 16) :
    Keeps w₀ s₀ (State.takeRehome s l h mask ver) := by
  unfold State.takeRehome
  repeat' first
    | with_reducible assumption
    | with_reducible apply State.windowFault_keeps
    | with_reducible apply State.modTree_keeps
    | with_reducible apply State.sendLane_keeps
    | with_reducible apply State.rehomeAbort_keeps
    | with_reducible apply State.gather_keeps
    | with_reducible apply State.takeOver_keeps
    | with_reducible apply State.sendUp_keeps
    | with_reducible apply State.rehome_keeps
    | with_reducible apply Keeps.each
    | with_reducible apply Keeps.ite
    | intro _
    | (with_reducible apply Keeps.cons; first | with_reducible assumption | with_reducible apply State.windowFault_keeps | with_reducible apply State.modTree_keeps | with_reducible apply State.sendLane_keeps | with_reducible apply State.rehomeAbort_keeps | with_reducible apply State.gather_keeps | with_reducible apply State.takeOver_keeps | with_reducible apply State.sendUp_keeps | with_reducible apply State.rehome_keeps | with_reducible apply Keeps.each | with_reducible apply Keeps.ite)
    | split
    | dsimp only

theorem State.dropSilent_keeps {w₀ : Bool} {s₀ s : State} (hk : Keeps w₀ s₀ s) :
    Keeps w₀ s₀ (State.dropSilent s) := by
  unfold State.dropSilent
  repeat' first
    | with_reducible assumption
    | with_reducible apply State.modTree_keeps
    | with_reducible apply State.gather_keeps
    | with_reducible apply Keeps.each
    | with_reducible apply Keeps.ite
    | intro _
    | (with_reducible apply Keeps.cons; first | with_reducible assumption | with_reducible apply State.modTree_keeps | with_reducible apply State.gather_keeps | with_reducible apply Keeps.each | with_reducible apply Keeps.ite)
    | split
    | dsimp only

theorem State.kidSilent_keeps {w₀ : Bool} {s₀ s : State} (hk : Keeps w₀ s₀ s) (m : MemberId) :
    Keeps w₀ s₀ (State.kidSilent s m) := by
  unfold State.kidSilent
  repeat' first
    | with_reducible assumption
    | with_reducible apply State.useFree_keeps
    | with_reducible apply State.modTree_keeps
    | with_reducible apply State.gather_keeps
    | with_reducible apply Keeps.each
    | with_reducible apply Keeps.ite
    | intro _
    | (with_reducible apply Keeps.cons; first | with_reducible assumption | with_reducible apply State.useFree_keeps | with_reducible apply State.modTree_keeps | with_reducible apply State.gather_keeps | with_reducible apply Keeps.each | with_reducible apply Keeps.ite)
    | split
    | dsimp only

theorem State.loseSelf_keeps {w₀ : Bool} {s₀ s : State} (hk : Keeps w₀ s₀ s) :
    Keeps w₀ s₀ (State.loseSelf s) := by
  unfold State.loseSelf
  repeat' first
    | with_reducible assumption
    | with_reducible apply State.note_keeps
    | with_reducible apply State.abandonPass_keeps
    | with_reducible apply State.modBar_keeps
    | with_reducible apply State.becomeLate_keeps
    | with_reducible apply State.applySessions_keeps
    | with_reducible apply Keeps.each
    | with_reducible apply Keeps.ite
    | intro _
    | (with_reducible apply Keeps.cons; first | with_reducible assumption | with_reducible apply State.note_keeps | with_reducible apply State.abandonPass_keeps | with_reducible apply State.modBar_keeps | with_reducible apply State.becomeLate_keeps | with_reducible apply State.applySessions_keeps | with_reducible apply Keeps.each | with_reducible apply Keeps.ite)
    | split
    | dsimp only

theorem State.rehome_keeps {w₀ : Bool} {s₀ s : State} (hk : Keeps w₀ s₀ s) :
    Keeps w₀ s₀ (State.rehome s) := by
  unfold State.rehome
  repeat' first
    | with_reducible assumption
    | with_reducible apply State.modTree_keeps
    | with_reducible apply State.swapParents_keeps
    | with_reducible apply State.bump_keeps
    | with_reducible apply State.sendUp_keeps
    | with_reducible apply State.report_keeps
    | with_reducible apply State.raise_keeps
    | with_reducible apply Keeps.each
    | with_reducible apply Keeps.ite
    | intro _
    | (with_reducible apply Keeps.cons; first | with_reducible assumption | with_reducible apply State.modTree_keeps | with_reducible apply State.swapParents_keeps | with_reducible apply State.bump_keeps | with_reducible apply State.sendUp_keeps | with_reducible apply State.report_keeps | with_reducible apply State.raise_keeps | with_reducible apply Keeps.each | with_reducible apply Keeps.ite)
    | split
    | dsimp only

theorem State.upSilence_keeps {w₀ : Bool} {s₀ s : State} (hk : Keeps w₀ s₀ s) (l : Nat) :
    Keeps w₀ s₀ (State.upSilence s l) := by
  unfold State.upSilence
  repeat' first
    | with_reducible assumption
    | with_reducible apply State.rehome_keeps
    | with_reducible apply State.loseSelf_keeps
    | with_reducible apply State.modTree_keeps
    | with_reducible apply State.swapParents_keeps
    | with_reducible apply State.report_keeps
    | with_reducible apply Keeps.each
    | with_reducible apply Keeps.ite
    | intro _
    | (with_reducible apply Keeps.cons; first | with_reducible assumption | with_reducible apply State.rehome_keeps | with_reducible apply State.loseSelf_keeps | with_reducible apply State.modTree_keeps | with_reducible apply State.swapParents_keeps | with_reducible apply State.report_keeps | with_reducible apply Keeps.each | with_reducible apply Keeps.ite)
    | split
    | dsimp only

theorem State.actOnSilence_keeps {w₀ : Bool} {s₀ s : State} (hk : Keeps w₀ s₀ s) (l : Nat) :
    Keeps w₀ s₀ (State.actOnSilence s l) := by
  unfold State.actOnSilence
  repeat' first
    | with_reducible assumption
    | with_reducible apply State.upSilence_keeps
    | with_reducible apply State.modBar_keeps
    | with_reducible apply State.report_keeps
    | with_reducible apply State.kidSilent_keeps
    | with_reducible apply Keeps.each
    | with_reducible apply Keeps.ite
    | intro _
    | (with_reducible apply Keeps.cons; first | with_reducible assumption | with_reducible apply State.upSilence_keeps | with_reducible apply State.modBar_keeps | with_reducible apply State.report_keeps | with_reducible apply State.kidSilent_keeps | with_reducible apply Keeps.each | with_reducible apply Keeps.ite)
    | split
    | dsimp only

theorem State.laneSilent_keeps {w₀ : Bool} {s₀ s : State} (hk : Keeps w₀ s₀ s) (l : Nat) :
    Keeps w₀ s₀ (State.laneSilent s l) := by
  unfold State.laneSilent
  repeat' first
    | with_reducible assumption
    | with_reducible apply State.setLane_keeps
    | with_reducible apply State.bump_keeps
    | with_reducible apply State.actOnSilence_keeps
    | with_reducible apply Keeps.each
    | with_reducible apply Keeps.ite
    | intro _
    | (with_reducible apply Keeps.cons; first | with_reducible assumption | with_reducible apply State.setLane_keeps | with_reducible apply State.bump_keeps | with_reducible apply State.actOnSilence_keeps | with_reducible apply Keeps.each | with_reducible apply Keeps.ite)
    | split
    | dsimp only

theorem State.laneUntrained_keeps {w₀ : Bool} {s₀ s : State} (hk : Keeps w₀ s₀ s) (l : Nat) :
    Keeps w₀ s₀ (State.laneUntrained s l) := by
  unfold State.laneUntrained
  repeat' first
    | with_reducible assumption
    | with_reducible apply State.until_keeps
    | with_reducible apply State.setLane_keeps
    | with_reducible apply State.bump_keeps
    | with_reducible apply State.actOnSilence_keeps
    | with_reducible apply State.report_keeps
    | with_reducible apply Keeps.each
    | with_reducible apply Keeps.ite
    | intro _
    | (with_reducible apply Keeps.cons; first | with_reducible assumption | with_reducible apply State.until_keeps | with_reducible apply State.setLane_keeps | with_reducible apply State.bump_keeps | with_reducible apply State.actOnSilence_keeps | with_reducible apply State.report_keeps | with_reducible apply Keeps.each | with_reducible apply Keeps.ite)
    | split
    | dsimp only

theorem State.takeAdmit_keeps {w₀ : Bool} {s₀ s : State} (hk : Keeps w₀ s₀ s) (h : MortarHdr) (m : MemberId) (ver : BitVec 16) :
    Keeps w₀ s₀ (State.takeAdmit s h m ver) := by
  unfold State.takeAdmit
  repeat' first
    | with_reducible assumption
    | with_reducible apply State.sendDown_keeps
    | with_reducible apply State.acceptAdmit_keeps
    | with_reducible apply Keeps.each
    | with_reducible apply Keeps.ite
    | intro _
    | (with_reducible apply Keeps.cons; first | with_reducible assumption | with_reducible apply State.sendDown_keeps | with_reducible apply State.acceptAdmit_keeps | with_reducible apply Keeps.each | with_reducible apply Keeps.ite)
    | split
    | dsimp only

theorem State.setWords_keeps {w₀ : Bool} {s₀ s : State} (hk : Keeps w₀ s₀ s) (p : Fin 16) (w : ProgStateWords) :
    Keeps w₀ s₀ (State.setWords s p w) := by
  unfold State.setWords
  repeat' first
    | with_reducible assumption
    | with_reducible apply State.setProg_keeps
    | with_reducible apply State.modPlacement_keeps
    | with_reducible apply Keeps.each
    | with_reducible apply Keeps.ite
    | intro _
    | (with_reducible apply Keeps.cons; first | with_reducible assumption | with_reducible apply State.setProg_keeps | with_reducible apply State.modPlacement_keeps | with_reducible apply Keeps.each | with_reducible apply Keeps.ite)
    | split
    | dsimp only

theorem State.takeState_keeps {w₀ : Bool} {s₀ s : State} (hk : Keeps w₀ s₀ s) (b : StateBody) :
    Keeps w₀ s₀ (State.takeState s b) := by
  unfold State.takeState
  repeat' first
    | with_reducible assumption
    | with_reducible apply State.modTree_keeps
    | with_reducible apply State.modBar_keeps
    | with_reducible apply State.setProg_keeps
    | with_reducible apply State.setWords_keeps
    | with_reducible apply State.arriveOwn_keeps
    | with_reducible apply Keeps.each
    | with_reducible apply Keeps.ite
    | intro _
    | (with_reducible apply Keeps.cons; first | with_reducible assumption | with_reducible apply State.modTree_keeps | with_reducible apply State.modBar_keeps | with_reducible apply State.setProg_keeps | with_reducible apply State.setWords_keeps | with_reducible apply State.arriveOwn_keeps | with_reducible apply Keeps.each | with_reducible apply Keeps.ite)
    | split
    | dsimp only

end Sys2Proof.Machine
end

