-- ==== Sys2Proof/Laws/KeepsRegisters.lean ====
section
/-! SUPPORT. What the operations of Machine/Registers.lean keep (`Keeps`). -/

set_option Elab.async false

namespace Sys2Proof.Machine

theorem State.writePart_keeps {s₀ s : State} (hk : Keeps false s₀ s) (o v enable : Nat) (p : Nat × Nat) :
    Keeps false s₀ (State.writePart s o v enable p) := by
  unfold State.writePart
  repeat' first
    | with_reducible assumption
    | with_reducible apply State.configureSource_keeps
    | with_reducible apply State.configureQueue_keeps
    | with_reducible apply Keeps.setWord
    | with_reducible apply State.arbitrate_keeps
    | with_reducible apply Keeps.each
    | with_reducible apply Keeps.ite
    | intro _
    | (with_reducible apply Keeps.cons; first | with_reducible assumption | with_reducible apply State.configureSource_keeps | with_reducible apply State.configureQueue_keeps | with_reducible apply Keeps.setWord | with_reducible apply State.arbitrate_keeps | with_reducible apply Keeps.each | with_reducible apply Keeps.ite)
    | split
    | dsimp only

theorem State.requestDeep_keeps {w₀ : Bool} {s₀ s : State} (hk : Keeps w₀ s₀ s) :
    Keeps w₀ s₀ (State.requestDeep s) := by
  unfold State.requestDeep
  repeat' first
    | with_reducible assumption
    | with_reducible apply Keeps.each
    | with_reducible apply Keeps.ite
    | intro _
    | (with_reducible apply Keeps.cons; first | with_reducible assumption | with_reducible apply Keeps.each | with_reducible apply Keeps.ite)
    | split
    | dsimp only

theorem State.requestAdmit_keeps {w₀ : Bool} {s₀ s : State} (hk : Keeps w₀ s₀ s) :
    Keeps w₀ s₀ (State.requestAdmit s) := by
  unfold State.requestAdmit
  repeat' first
    | with_reducible assumption
    | with_reducible apply State.modBar_keeps
    | with_reducible apply Keeps.each
    | with_reducible apply Keeps.ite
    | intro _
    | (with_reducible apply Keeps.cons; first | with_reducible assumption | with_reducible apply State.modBar_keeps | with_reducible apply Keeps.each | with_reducible apply Keeps.ite)
    | split
    | dsimp only

theorem State.writeActions_keeps {w₀ : Bool} {s₀ s : State} (hk : Keeps w₀ s₀ s) (o v en : Nat) :
    Keeps w₀ s₀ (State.writeActions s o v en) := by
  unfold State.writeActions
  repeat' first
    | with_reducible assumption
    | with_reducible apply State.requestDeep_keeps
    | with_reducible apply State.requestAdmit_keeps
    | with_reducible apply State.endInterrupt_keeps
    | with_reducible apply State.setTarget_keeps
    | with_reducible apply State.clearPending_keeps
    | with_reducible apply State.setPending_keeps
    | with_reducible apply State.flushQueue_keeps
    | with_reducible apply State.programCommand_keeps
    | with_reducible apply State.setProg_keeps
    | with_reducible apply State.armReconf_keeps
    | with_reducible apply Keeps.each
    | with_reducible apply Keeps.ite
    | intro _
    | (with_reducible apply Keeps.cons; first | with_reducible assumption | with_reducible apply State.requestDeep_keeps | with_reducible apply State.requestAdmit_keeps | with_reducible apply State.endInterrupt_keeps | with_reducible apply State.setTarget_keeps | with_reducible apply State.clearPending_keeps | with_reducible apply State.setPending_keeps | with_reducible apply State.flushQueue_keeps | with_reducible apply State.programCommand_keeps | with_reducible apply State.setProg_keeps | with_reducible apply State.armReconf_keeps | with_reducible apply Keeps.each | with_reducible apply Keeps.ite)
    | split
    | dsimp only

theorem State.writeWord_keeps {s₀ s : State} (hk : Keeps false s₀ s) (o v en : Nat) :
    Keeps false s₀ (State.writeWord s o v en) := by
  unfold State.writeWord
  repeat' first
    | with_reducible assumption
    | with_reducible apply State.writePart_keeps
    | with_reducible apply State.writeActions_keeps
    | with_reducible apply Keeps.each
    | with_reducible apply Keeps.ite
    | intro _
    | (with_reducible apply Keeps.cons; first | with_reducible assumption | with_reducible apply State.writePart_keeps | with_reducible apply State.writeActions_keeps | with_reducible apply Keeps.each | with_reducible apply Keeps.ite)
    | split
    | dsimp only

theorem State.writeReg_keeps {s₀ s : State} (hk : Keeps false s₀ s) (off size v : Nat) :
    Keeps false s₀ (State.writeReg s off size v) := by
  unfold State.writeReg
  repeat' first
    | with_reducible assumption
    | with_reducible apply State.writeWord_keeps
    | with_reducible apply Keeps.each
    | with_reducible apply Keeps.ite
    | intro _
    | (with_reducible apply Keeps.cons; first | with_reducible assumption | with_reducible apply State.writeWord_keeps | with_reducible apply Keeps.each | with_reducible apply Keeps.ite)
    | split
    | dsimp only

theorem State.writeSession_keeps {w₀ : Bool} {s₀ s : State} (hk : Keeps w₀ s₀ s) (off size v : Nat) :
    Keeps w₀ s₀ (State.writeSession s off size v) := by
  unfold State.writeSession
  repeat' first
    | with_reducible assumption
    | with_reducible apply State.ok_keeps
    | with_reducible apply State.stall_keeps
    | with_reducible apply State.putSession_keeps
    | with_reducible apply Keeps.each
    | with_reducible apply Keeps.ite
    | intro _
    | (with_reducible apply Keeps.cons; first | with_reducible assumption | with_reducible apply State.ok_keeps | with_reducible apply State.stall_keeps | with_reducible apply State.putSession_keeps | with_reducible apply Keeps.each | with_reducible apply Keeps.ite)
    | split
    | dsimp only

theorem State.readSession_keeps {w₀ : Bool} {s₀ s : State} (hk : Keeps w₀ s₀ s) (off size : Nat) :
    Keeps w₀ s₀ (State.readSession s off size) := by
  unfold State.readSession
  repeat' first
    | with_reducible assumption
    | with_reducible apply State.ok_keeps
    | with_reducible apply State.stall_keeps
    | with_reducible apply State.answer_keeps
    | with_reducible apply Keeps.each
    | with_reducible apply Keeps.ite
    | intro _
    | (with_reducible apply Keeps.cons; first | with_reducible assumption | with_reducible apply State.ok_keeps | with_reducible apply State.stall_keeps | with_reducible apply State.answer_keeps | with_reducible apply Keeps.each | with_reducible apply Keeps.ite)
    | split
    | dsimp only

theorem State.onAttempt_keeps {w₀ : Bool} {s₀ s : State} (hk : Keeps w₀ s₀ s) (p : Fin 16) (gen attempt : Nat) (f : State → State) (hf : ∀ v, Keeps w₀ s₀ v → Keeps w₀ s₀ (f v)) :
    Keeps w₀ s₀ (State.onAttempt s p gen attempt f) := by
  unfold State.onAttempt
  repeat' first
    | with_reducible assumption
    | apply hf
    | with_reducible apply Keeps.each
    | with_reducible apply Keeps.ite
    | intro _
    | (with_reducible apply Keeps.cons; first | with_reducible assumption | with_reducible apply Keeps.each | with_reducible apply Keeps.ite)
    | split
    | dsimp only

theorem State.ringTile_keeps {w₀ : Bool} {s₀ s : State} (hk : Keeps w₀ s₀ s) (p : Fin 16) (v : Nat) :
    Keeps w₀ s₀ (State.ringTile s p v) := by
  unfold State.ringTile
  repeat' first
    | with_reducible assumption
    | with_reducible apply State.onAttempt_keeps
    | with_reducible apply State.tileDone_keeps
    | with_reducible apply Keeps.each
    | with_reducible apply Keeps.ite
    | intro _
    | (with_reducible apply Keeps.cons; first | with_reducible assumption | with_reducible apply State.onAttempt_keeps | with_reducible apply State.tileDone_keeps | with_reducible apply Keeps.each | with_reducible apply Keeps.ite)
    | split
    | dsimp only

theorem State.ringShared_keeps {w₀ : Bool} {s₀ s : State} (hk : Keeps w₀ s₀ s) (p : Fin 16) (v : Nat) :
    Keeps w₀ s₀ (State.ringShared s p v) := by
  unfold State.ringShared
  repeat' first
    | with_reducible assumption
    | with_reducible apply State.onAttempt_keeps
    | with_reducible apply State.sharedReady_keeps
    | with_reducible apply Keeps.each
    | with_reducible apply Keeps.ite
    | intro _
    | (with_reducible apply Keeps.cons; first | with_reducible assumption | with_reducible apply State.onAttempt_keeps | with_reducible apply State.sharedReady_keeps | with_reducible apply Keeps.each | with_reducible apply Keeps.ite)
    | split
    | dsimp only

theorem State.ringColl_keeps {w₀ : Bool} {s₀ s : State} (hk : Keeps w₀ s₀ s) (p : Fin 16) (v : Nat) :
    Keeps w₀ s₀ (State.ringColl s p v) := by
  unfold State.ringColl
  repeat' first
    | with_reducible assumption
    | with_reducible apply State.onAttempt_keeps
    | with_reducible apply State.modAtt_keeps
    | with_reducible apply Keeps.each
    | with_reducible apply Keeps.ite
    | intro _
    | (with_reducible apply Keeps.cons; first | with_reducible assumption | with_reducible apply State.onAttempt_keeps | with_reducible apply State.modAtt_keeps | with_reducible apply Keeps.each | with_reducible apply Keeps.ite)
    | split
    | dsimp only

theorem State.ringProgram_keeps {w₀ : Bool} {s₀ s : State} (hk : Keeps w₀ s₀ s) (p : Fin 16) (off : Nat) (v : BitVec 32) :
    Keeps w₀ s₀ (State.ringProgram s p off v) := by
  unfold State.ringProgram
  repeat' first
    | with_reducible assumption
    | with_reducible apply State.ringTile_keeps
    | with_reducible apply State.ringShared_keeps
    | with_reducible apply State.ringChunk_keeps
    | with_reducible apply State.ringColl_keeps
    | with_reducible apply Keeps.each
    | with_reducible apply Keeps.ite
    | intro _
    | (with_reducible apply Keeps.cons; first | with_reducible assumption | with_reducible apply State.ringTile_keeps | with_reducible apply State.ringShared_keeps | with_reducible apply State.ringChunk_keeps | with_reducible apply State.ringColl_keeps | with_reducible apply Keeps.each | with_reducible apply Keeps.ite)
    | split
    | dsimp only

theorem State.writePush_keeps {w₀ : Bool} {s₀ s : State} (hk : Keeps w₀ s₀ s) (c : Nat) (w : PushWrite) :
    Keeps w₀ s₀ (State.writePush s c w) := by
  unfold State.writePush
  repeat' first
    | with_reducible assumption
    | with_reducible apply State.pushWrite_keeps
    | with_reducible apply State.ok_keeps
    | with_reducible apply State.stall_keeps
    | with_reducible apply Keeps.each
    | with_reducible apply Keeps.ite
    | intro _
    | (with_reducible apply Keeps.cons; first | with_reducible assumption | with_reducible apply State.pushWrite_keeps | with_reducible apply State.ok_keeps | with_reducible apply State.stall_keeps | with_reducible apply Keeps.each | with_reducible apply Keeps.ite)
    | split
    | dsimp only

theorem State.portWrite_keeps {s₀ s : State} (hk : Keeps false s₀ s) (off size v : Nat) :
    Keeps false s₀ (State.portWrite s off size v) := by
  unfold State.portWrite
  repeat' first
    | with_reducible assumption
    | with_reducible apply State.ok_keeps
    | with_reducible apply State.ringSignal_keeps
    | with_reducible apply State.writeSession_keeps
    | with_reducible apply State.windowWrite_keeps
    | with_reducible apply State.request_keeps
    | with_reducible apply State.writePush_keeps
    | with_reducible apply State.layoutRequest_keeps
    | with_reducible apply State.ringProgram_keeps
    | with_reducible apply State.writeReg_keeps
    | with_reducible apply Keeps.each
    | with_reducible apply Keeps.ite
    | intro _
    | (with_reducible apply Keeps.cons; first | with_reducible assumption | with_reducible apply State.ok_keeps | with_reducible apply State.ringSignal_keeps | with_reducible apply State.writeSession_keeps | with_reducible apply State.windowWrite_keeps | with_reducible apply State.request_keeps | with_reducible apply State.writePush_keeps | with_reducible apply State.layoutRequest_keeps | with_reducible apply State.ringProgram_keeps | with_reducible apply State.writeReg_keeps | with_reducible apply Keeps.each | with_reducible apply Keeps.ite)
    | split
    | dsimp only

end Sys2Proof.Machine
end

