-- ==== Sys2Proof/Laws/KeepsGate.lean ====
section
/-! SUPPORT. What the operations of Machine/Gate.lean keep (`Keeps`). -/

set_option Elab.async false

namespace Sys2Proof.Machine

theorem State.countWake_keeps {w₀ : Bool} {s₀ s : State} (hk : Keeps w₀ s₀ s) :
    Keeps w₀ s₀ (State.countWake s) := by
  unfold State.countWake
  repeat' first
    | with_reducible assumption
    | with_reducible apply State.bump_keeps
    | with_reducible apply Keeps.each
    | with_reducible apply Keeps.ite
    | intro _
    | (with_reducible apply Keeps.cons; first | with_reducible assumption | with_reducible apply State.bump_keeps | with_reducible apply Keeps.each | with_reducible apply Keeps.ite)
    | split
    | dsimp only

theorem State.cancelDeep_keeps {w₀ : Bool} {s₀ s : State} (hk : Keeps w₀ s₀ s) :
    Keeps w₀ s₀ (State.cancelDeep s) := by
  unfold State.cancelDeep
  repeat' first
    | with_reducible assumption
    | with_reducible apply State.bump_keeps
    | with_reducible apply Keeps.each
    | with_reducible apply Keeps.ite
    | intro _
    | (with_reducible apply Keeps.cons; first | with_reducible assumption | with_reducible apply State.bump_keeps | with_reducible apply Keeps.each | with_reducible apply Keeps.ite)
    | split
    | dsimp only

theorem State.latchDoorbell_keeps {w₀ : Bool} {s₀ s : State} (hk : Keeps w₀ s₀ s) :
    Keeps w₀ s₀ (State.latchDoorbell s) := by
  unfold State.latchDoorbell
  repeat' first
    | with_reducible assumption
    | with_reducible apply State.countWake_keeps
    | with_reducible apply State.cancelDeep_keeps
    | with_reducible apply Keeps.each
    | with_reducible apply Keeps.ite
    | intro _
    | (with_reducible apply Keeps.cons; first | with_reducible assumption | with_reducible apply State.countWake_keeps | with_reducible apply State.cancelDeep_keeps | with_reducible apply Keeps.each | with_reducible apply Keeps.ite)
    | split
    | dsimp only

theorem State.latchLanes_keeps {w₀ : Bool} {s₀ s : State} (hk : Keeps w₀ s₀ s) :
    Keeps w₀ s₀ (State.latchLanes s) := by
  unfold State.latchLanes
  repeat' first
    | with_reducible assumption
    | with_reducible apply State.countWake_keeps
    | with_reducible apply Keeps.each
    | with_reducible apply Keeps.ite
    | intro _
    | (with_reducible apply Keeps.cons; first | with_reducible assumption | with_reducible apply State.countWake_keeps | with_reducible apply Keeps.each | with_reducible apply Keeps.ite)
    | split
    | dsimp only

theorem State.latchBatch_keeps {w₀ : Bool} {s₀ s : State} (hk : Keeps w₀ s₀ s) :
    Keeps w₀ s₀ (State.latchBatch s) := by
  unfold State.latchBatch
  repeat' first
    | with_reducible assumption
    | with_reducible apply State.countWake_keeps
    | with_reducible apply State.cancelDeep_keeps
    | with_reducible apply Keeps.each
    | with_reducible apply Keeps.ite
    | intro _
    | (with_reducible apply Keeps.cons; first | with_reducible assumption | with_reducible apply State.countWake_keeps | with_reducible apply State.cancelDeep_keeps | with_reducible apply Keeps.each | with_reducible apply Keeps.ite)
    | split
    | dsimp only

theorem State.holdRequest_keeps {w₀ : Bool} {s₀ s : State} (hk : Keeps w₀ s₀ s) (i : Instr) :
    Keeps w₀ s₀ (State.holdRequest s i) := by
  unfold State.holdRequest
  repeat' first
    | with_reducible assumption
    | with_reducible apply State.latchDoorbell_keeps
    | with_reducible apply State.stall_keeps
    | with_reducible apply Keeps.each
    | with_reducible apply Keeps.ite
    | intro _
    | (with_reducible apply Keeps.cons; first | with_reducible assumption | with_reducible apply State.latchDoorbell_keeps | with_reducible apply State.stall_keeps | with_reducible apply Keeps.each | with_reducible apply Keeps.ite)
    | split
    | dsimp only

theorem State.gatePort_keeps {w₀ : Bool} {s₀ s : State} (hk : Keeps w₀ s₀ s) (i : Instr) (f : State → State) (hf : ∀ v, Keeps w₀ s₀ v → Keeps w₀ s₀ (f v)) :
    Keeps w₀ s₀ (State.gatePort s i f) := by
  unfold State.gatePort
  repeat' first
    | with_reducible assumption
    | apply hf
    | with_reducible apply State.newTag_keeps
    | with_reducible apply State.notReady_keeps
    | with_reducible apply State.cancelDeep_keeps
    | with_reducible apply State.holdRequest_keeps
    | with_reducible apply Keeps.each
    | with_reducible apply Keeps.ite
    | intro _
    | (with_reducible apply Keeps.cons; first | with_reducible assumption | with_reducible apply State.newTag_keeps | with_reducible apply State.notReady_keeps | with_reducible apply State.cancelDeep_keeps | with_reducible apply State.holdRequest_keeps | with_reducible apply Keeps.each | with_reducible apply Keeps.ite)
    | split
    | dsimp only

theorem State.gateBell_keeps {w₀ : Bool} {s₀ s : State} (hk : Keeps w₀ s₀ s) (i : Instr) (b : KeptBell) (f : State → State) (hf : ∀ v, Keeps w₀ s₀ v → Keeps w₀ s₀ (f v)) :
    Keeps w₀ s₀ (State.gateBell s i b f) := by
  unfold State.gateBell
  repeat' first
    | with_reducible assumption
    | apply hf
    | with_reducible apply State.newTag_keeps
    | with_reducible apply State.notReady_keeps
    | with_reducible apply State.cancelDeep_keeps
    | with_reducible apply State.ok_keeps
    | with_reducible apply State.latchDoorbell_keeps
    | with_reducible apply State.holdRequest_keeps
    | with_reducible apply Keeps.each
    | with_reducible apply Keeps.ite
    | intro _
    | (with_reducible apply Keeps.cons; first | with_reducible assumption | with_reducible apply State.newTag_keeps | with_reducible apply State.notReady_keeps | with_reducible apply State.cancelDeep_keeps | with_reducible apply State.ok_keeps | with_reducible apply State.latchDoorbell_keeps | with_reducible apply State.holdRequest_keeps | with_reducible apply Keeps.each | with_reducible apply Keeps.ite)
    | split
    | dsimp only

theorem State.ringKept_keeps {w₀ : Bool} {s₀ s : State} (hk : Keeps w₀ s₀ s) (x₁ : KeptBell) :
    Keeps w₀ s₀ (State.ringKept s x₁) := by
  unfold State.ringKept
  repeat' first
    | with_reducible assumption
    | with_reducible apply State.ringSignal_keeps
    | with_reducible apply State.ringProgram_keeps
    | with_reducible apply State.tileDone_keeps
    | with_reducible apply Keeps.each
    | with_reducible apply Keeps.ite
    | intro _
    | (with_reducible apply Keeps.cons; first | with_reducible assumption | with_reducible apply State.ringSignal_keeps | with_reducible apply State.ringProgram_keeps | with_reducible apply State.tileDone_keeps | with_reducible apply Keeps.each | with_reducible apply Keeps.ite)
    | split
    | dsimp only

end Sys2Proof.Machine
end

