-- ==== Sys2Proof/Laws/KeepsStart.lean ====
section
/-! SUPPORT. What the operations of Machine/Start.lean keep (`Keeps`). -/

set_option Elab.async false

namespace Sys2Proof.Machine

theorem State.hostReset_keeps {w₀ : Bool} {s₀ s : State} (hk : Keeps w₀ s₀ s) :
    Keeps w₀ s₀ (State.hostReset s) := by
  unfold State.hostReset
  repeat' first
    | with_reducible assumption
    | with_reducible apply Keeps.each
    | with_reducible apply Keeps.ite
    | intro _
    | (with_reducible apply Keeps.cons; first | with_reducible assumption | with_reducible apply Keeps.each | with_reducible apply Keeps.ite)
    | split
    | dsimp only

theorem State.vectorReset_keeps {w₀ : Bool} {s₀ s : State} (hk : Keeps w₀ s₀ s) (asserted : Bool) :
    Keeps w₀ s₀ (State.vectorReset s asserted) := by
  unfold State.vectorReset
  repeat' first
    | with_reducible assumption
    | with_reducible apply State.arbitrateAll_keeps
    | with_reducible apply Keeps.each
    | with_reducible apply Keeps.ite
    | intro _
    | (with_reducible apply Keeps.cons; first | with_reducible assumption | with_reducible apply State.arbitrateAll_keeps | with_reducible apply Keeps.each | with_reducible apply Keeps.ite)
    | split
    | dsimp only

theorem State.lockPll_keeps {w₀ : Bool} {s₀ s : State} (hk : Keeps w₀ s₀ s) :
    Keeps w₀ s₀ (State.lockPll s) := by
  unfold State.lockPll
  repeat' first
    | with_reducible assumption
    | with_reducible apply Keeps.each
    | with_reducible apply Keeps.ite
    | intro _
    | (with_reducible apply Keeps.cons; first | with_reducible assumption | with_reducible apply Keeps.each | with_reducible apply Keeps.ite)
    | split
    | dsimp only

theorem State.regSection_all {s₀ s : State} (hk : Keeps false s₀ s) (typ : Nat) (l : List RegWrite) :
    Keeps.Opt false s₀ (State.regSection s typ l) := by
  unfold State.regSection
  have key : ∀ (l : List RegWrite) (o : Option State), Keeps.Opt false s₀ o → Keeps.Opt false s₀ (l.foldl (fun s w => s.bind (fun s =>
      if s.regWriteOk typ w then some (s.writeReg w.off (if w.size = 8 then 3 else 2) w.v) else none)) o) := by
    intro l
    induction l with
    | nil => exact fun _ h => h
    | cons w l ih =>
      intro o h
      refine ih _ ⟨fun t e => ?_⟩
      obtain ⟨v, hv, e⟩ := Option.bind_eq_some_iff.1 e
      split at e
      · cases e; exact State.writeReg_keeps (h.keeps v hv) _ _ _
      · cases e
  exact key l _ (Keeps.Opt.some hk)

theorem State.sectionOk_all {s₀ s : State} (hk : Keeps false s₀ s) (b : List Byte) (l : List ImgSection) (x : ImgSection) :
    Keeps.Opt false s₀ (State.sectionOk s b l x) := by
  unfold State.sectionOk
  dsimp only
  repeat' first
    | with_reducible assumption
    | with_reducible apply Keeps.Opt.ite
    | with_reducible apply Keeps.Opt.none
    | with_reducible apply Keeps.Opt.some
    | with_reducible refine Keeps.Opt.out (State.regSection_all ?_ _ _) ‹_›
    | split

theorem State.sectionsFault_all {s₀ : State} (b : List Byte) (all : List ImgSection) :
    ∀ (l : List (ImgSection × Nat)) {s : State} (_ : Keeps false s₀ s), Keeps.Pair false s₀ (State.sectionsFault s b all l)
  | [], _, hk => hk
  | (x, i) :: t, s, hk => by
    unfold State.sectionsFault
    refine Keeps.Pair.ite (Keeps.Pair.pair hk) ?_
    split
    · exact Keeps.Pair.pair hk
    · next h => exact State.sectionsFault_all b all t (Keeps.Opt.out (State.sectionOk_all hk _ _ _) h)

theorem State.refuseImage_keeps {w₀ : Bool} {s₀ s : State} (hk : Keeps w₀ s₀ s) (f : ImageFault) :
    Keeps w₀ s₀ (State.refuseImage s f) := by
  unfold State.refuseImage
  repeat' first
    | with_reducible assumption
    | with_reducible apply State.raise_keeps
    | with_reducible apply Keeps.each
    | with_reducible apply Keeps.ite
    | intro _
    | (with_reducible apply Keeps.cons; first | with_reducible assumption | with_reducible apply State.raise_keeps | with_reducible apply Keeps.each | with_reducible apply Keeps.ite)
    | split
    | dsimp only

theorem State.applyAll_keeps {w₀ : Bool} {s₀ s : State} (hk : Keeps w₀ s₀ s) :
    Keeps w₀ s₀ (State.applyAll s) := by
  unfold State.applyAll
  repeat' first
    | with_reducible assumption
    | with_reducible apply Keeps.each
    | with_reducible apply Keeps.ite
    | intro _
    | (with_reducible apply Keeps.cons; first | with_reducible assumption | with_reducible apply Keeps.each | with_reducible apply Keeps.ite)
    | split
    | dsimp only

theorem State.applyImage_keeps {w₀ : Bool} {s₀ s : State} (hk : Keeps w₀ s₀ s) (b : List Byte) (l : List ImgSection) :
    Keeps w₀ s₀ (State.applyImage s b l) := by
  unfold State.applyImage
  repeat' first
    | with_reducible assumption
    | with_reducible apply State.applyAll_keeps
    | with_reducible apply State.selfTest_keeps
    | with_reducible apply Keeps.each
    | with_reducible apply Keeps.ite
    | intro _
    | (with_reducible apply Keeps.cons; first | with_reducible assumption | with_reducible apply State.applyAll_keeps | with_reducible apply State.selfTest_keeps | with_reducible apply Keeps.each | with_reducible apply Keeps.ite)
    | split
    | dsimp only

theorem State.imageFirst_keeps {s₀ s : State} (hk : Keeps false s₀ s) (b : List Byte) :
    Keeps false s₀ (State.imageFirst s b) := by
  unfold State.imageFirst
  repeat' first
    | with_reducible assumption
    | with_reducible apply State.refuseImage_keeps
    | with_reducible refine Keeps.Pair.out (State.sectionsFault_all _ _ _ ?_) ‹_›
    | with_reducible apply State.sectionsFault_all
    | with_reducible refine Keeps.Pair.fst (State.sectionsFault_all _ _ _ ?_)
    | with_reducible apply State.applyImage_keeps
    | with_reducible apply Keeps.each
    | with_reducible apply Keeps.ite
    | intro _
    | (with_reducible apply Keeps.cons; first | with_reducible assumption | with_reducible apply State.refuseImage_keeps | with_reducible refine Keeps.Pair.out (State.sectionsFault_all _ _ _ ?_) ‹_› | with_reducible apply State.sectionsFault_all | with_reducible refine Keeps.Pair.fst (State.sectionsFault_all _ _ _ ?_) | with_reducible apply State.applyImage_keeps | with_reducible apply Keeps.each | with_reducible apply Keeps.ite)
    | split
    | dsimp only

theorem State.selfTest_keeps {w₀ : Bool} {s₀ s : State} (hk : Keeps w₀ s₀ s) (r : SelfTest) :
    Keeps w₀ s₀ (State.selfTest s r) := by
  unfold State.selfTest
  repeat' first
    | with_reducible assumption
    | with_reducible apply State.setStore_keeps
    | with_reducible apply State.raise_keeps
    | with_reducible apply Keeps.each
    | with_reducible apply Keeps.ite
    | intro _
    | (with_reducible apply Keeps.cons; first | with_reducible assumption | with_reducible apply State.setStore_keeps | with_reducible apply State.raise_keeps | with_reducible apply Keeps.each | with_reducible apply Keeps.ite)
    | split
    | dsimp only

theorem State.imageSecond_keeps {w₀ : Bool} {s₀ s : State} (hk : Keeps w₀ s₀ s) (b : List Byte) :
    Keeps w₀ s₀ (State.imageSecond s b) := by
  unfold State.imageSecond
  repeat' first
    | with_reducible assumption
    | with_reducible apply State.refuseImage_keeps
    | with_reducible apply State.joinBarrier_keeps
    | with_reducible apply Keeps.each
    | with_reducible apply Keeps.ite
    | intro _
    | (with_reducible apply Keeps.cons; first | with_reducible assumption | with_reducible apply State.refuseImage_keeps | with_reducible apply State.joinBarrier_keeps | with_reducible apply Keeps.each | with_reducible apply Keeps.ite)
    | split
    | dsimp only

theorem State.testColumn_keeps {w₀ : Bool} {s₀ s : State} (hk : Keeps w₀ s₀ s) (passed : Bool) :
    Keeps w₀ s₀ (State.testColumn s passed) := by
  unfold State.testColumn
  repeat' first
    | with_reducible assumption
    | with_reducible apply Keeps.each
    | with_reducible apply Keeps.ite
    | intro _
    | (with_reducible apply Keeps.cons; first | with_reducible assumption | with_reducible apply Keeps.each | with_reducible apply Keeps.ite)
    | split
    | dsimp only

theorem State.testPipe_keeps {w₀ : Bool} {s₀ s : State} (hk : Keeps w₀ s₀ s) (pipe wrong : Nat) :
    Keeps w₀ s₀ (State.testPipe s pipe wrong) := by
  unfold State.testPipe
  repeat' first
    | with_reducible assumption
    | with_reducible apply State.bump_keeps
    | with_reducible apply Keeps.each
    | with_reducible apply Keeps.ite
    | intro _
    | (with_reducible apply Keeps.cons; first | with_reducible assumption | with_reducible apply State.bump_keeps | with_reducible apply Keeps.each | with_reducible apply Keeps.ite)
    | split
    | dsimp only

theorem State.scrub_keeps {w₀ : Bool} {s₀ s : State} (hk : Keeps w₀ s₀ s) (i line : Nat) (find : ScrubFind) :
    Keeps w₀ s₀ (State.scrub s i line find) := by
  unfold State.scrub
  repeat' first
    | with_reducible assumption
    | with_reducible apply State.useFree_keeps
    | with_reducible apply State.setStore_keeps
    | with_reducible apply State.raise_keeps
    | with_reducible apply State.loseSession_keeps
    | with_reducible apply Keeps.each
    | with_reducible apply Keeps.ite
    | intro _
    | (with_reducible apply Keeps.cons; first | with_reducible assumption | with_reducible apply State.useFree_keeps | with_reducible apply State.setStore_keeps | with_reducible apply State.raise_keeps | with_reducible apply State.loseSession_keeps | with_reducible apply Keeps.each | with_reducible apply Keeps.ite)
    | split
    | dsimp only

end Sys2Proof.Machine
end

