-- ==== Sys2Proof/Laws/KeepsMortars.lean ====
section
/-! SUPPORT. What the operations of Machine/Mortars.lean keep (`Keeps`). -/

set_option Elab.async false

namespace Sys2Proof.Machine

theorem State.handleMortar_keeps {w₀ : Bool} {s₀ s : State} (hk : Keeps w₀ s₀ s) (l : Nat) (h : MortarHdr) (b : MortarBody) :
    Keeps w₀ s₀ (State.handleMortar s l h b) := by
  unfold State.handleMortar
  repeat' first
    | with_reducible assumption
    | with_reducible apply State.laneIdent_keeps
    | with_reducible apply State.laneResend_keeps
    | with_reducible apply State.calAnswer_keeps
    | with_reducible apply State.calResult_keeps
    | with_reducible apply State.joinBarrier_keeps
    | with_reducible apply State.takeArrive_keeps
    | with_reducible apply State.takeRelease_keeps
    | with_reducible apply State.takeAbort_keeps
    | with_reducible apply State.dropSilent_keeps
    | with_reducible apply State.takeReduce_keeps
    | with_reducible apply State.report_keeps
    | with_reducible apply State.takeLost_keeps
    | with_reducible apply State.rehome_keeps
    | with_reducible apply State.takeRehome_keeps
    | with_reducible apply State.takeAdmit_keeps
    | with_reducible apply State.takeState_keeps
    | with_reducible apply Keeps.each
    | with_reducible apply Keeps.ite
    | intro _
    | (with_reducible apply Keeps.cons; first | with_reducible assumption | with_reducible apply State.laneIdent_keeps | with_reducible apply State.laneResend_keeps | with_reducible apply State.calAnswer_keeps | with_reducible apply State.calResult_keeps | with_reducible apply State.joinBarrier_keeps | with_reducible apply State.takeArrive_keeps | with_reducible apply State.takeRelease_keeps | with_reducible apply State.takeAbort_keeps | with_reducible apply State.dropSilent_keeps | with_reducible apply State.takeReduce_keeps | with_reducible apply State.report_keeps | with_reducible apply State.takeLost_keeps | with_reducible apply State.rehome_keeps | with_reducible apply State.takeRehome_keeps | with_reducible apply State.takeAdmit_keeps | with_reducible apply State.takeState_keeps | with_reducible apply Keeps.each | with_reducible apply Keeps.ite)
    | split
    | dsimp only

theorem State.admitWakes_keeps {w₀ : Bool} {s₀ s : State} (hk : Keeps w₀ s₀ s) (x₁ : MortarBody) :
    Keeps w₀ s₀ (State.admitWakes s x₁) := by
  unfold State.admitWakes
  repeat' first
    | with_reducible assumption
    | with_reducible apply State.latchLanes_keeps
    | with_reducible apply State.cancelDeep_keeps
    | with_reducible apply Keeps.each
    | with_reducible apply Keeps.ite
    | intro _
    | (with_reducible apply Keeps.cons; first | with_reducible assumption | with_reducible apply State.latchLanes_keeps | with_reducible apply State.cancelDeep_keeps | with_reducible apply Keeps.each | with_reducible apply Keeps.ite)
    | split
    | dsimp only

theorem State.acceptMortar_keeps {w₀ : Bool} {s₀ s : State} (hk : Keeps w₀ s₀ s) (l : Nat) (h : MortarHdr) (b : MortarBody) :
    Keeps w₀ s₀ (State.acceptMortar s l h b) := by
  unfold State.acceptMortar
  repeat' first
    | with_reducible assumption
    | with_reducible apply State.latchLanes_keeps
    | with_reducible apply State.handleMortar_keeps
    | with_reducible apply State.admitWakes_keeps
    | with_reducible apply Keeps.each
    | with_reducible apply Keeps.ite
    | intro _
    | (with_reducible apply Keeps.cons; first | with_reducible assumption | with_reducible apply State.latchLanes_keeps | with_reducible apply State.handleMortar_keeps | with_reducible apply State.admitWakes_keeps | with_reducible apply Keeps.each | with_reducible apply Keeps.ite)
    | split
    | dsimp only

theorem State.mortarIn_keeps {w₀ : Bool} {s₀ s : State} (hk : Keeps w₀ s₀ s) (l : Nat) (h : MortarHdr) (b : MortarBody) :
    Keeps w₀ s₀ (State.mortarIn s l h b) := by
  unfold State.mortarIn
  repeat' first
    | with_reducible assumption
    | with_reducible apply State.acceptMortar_keeps
    | with_reducible apply State.bump_keeps
    | with_reducible refine Keeps.Pair.out (State.laneReceive_all ?_ _ _ _) ‹_›
    | with_reducible apply State.laneReceive_all
    | with_reducible refine Keeps.Pair.fst (State.laneReceive_all ?_ _ _ _)
    | with_reducible apply State.accept_keeps
    | with_reducible apply State.laneSilent_keeps
    | with_reducible apply Keeps.each
    | with_reducible apply Keeps.ite
    | intro _
    | (with_reducible apply Keeps.cons; first | with_reducible assumption | with_reducible apply State.acceptMortar_keeps | with_reducible apply State.bump_keeps | with_reducible refine Keeps.Pair.out (State.laneReceive_all ?_ _ _ _) ‹_› | with_reducible apply State.laneReceive_all | with_reducible refine Keeps.Pair.fst (State.laneReceive_all ?_ _ _ _) | with_reducible apply State.accept_keeps | with_reducible apply State.laneSilent_keeps | with_reducible apply Keeps.each | with_reducible apply Keeps.ite)
    | split
    | dsimp only

end Sys2Proof.Machine
end

