-- ==== Sys2Proof/Laws/KeepsPorts.lean ====
section
/-! SUPPORT. What the operations of Machine/Ports.lean keep (`Keeps`). -/

set_option Elab.async false

namespace Sys2Proof.Machine

theorem State.poolRead_keeps {w₀ : Bool} {s₀ s : State} (hk : Keeps w₀ s₀ s) (c : Fin 16) :
    Keeps w₀ s₀ (State.poolRead s c) := by
  unfold State.poolRead
  repeat' first
    | with_reducible assumption
    | with_reducible apply State.answer_keeps
    | with_reducible apply State.setPoolWindow_keeps
    | with_reducible apply State.stall_keeps
    | with_reducible apply Keeps.each
    | with_reducible apply Keeps.ite
    | intro _
    | (with_reducible apply Keeps.cons; first | with_reducible assumption | with_reducible apply State.answer_keeps | with_reducible apply State.setPoolWindow_keeps | with_reducible apply State.stall_keeps | with_reducible apply Keeps.each | with_reducible apply Keeps.ite)
    | split
    | dsimp only

theorem State.queueHeader_keeps {w₀ : Bool} {s₀ s : State} (hk : Keeps w₀ s₀ s) (q : Nat) (size : BitVec 3) :
    Keeps w₀ s₀ (State.queueHeader s q size) := by
  unfold State.queueHeader
  repeat' first
    | with_reducible assumption
    | with_reducible apply State.headerRead_keeps
    | with_reducible apply State.answer_keeps
    | with_reducible apply Keeps.each
    | with_reducible apply Keeps.ite
    | intro _
    | (with_reducible apply Keeps.cons; first | with_reducible assumption | with_reducible apply State.headerRead_keeps | with_reducible apply State.answer_keeps | with_reducible apply Keeps.each | with_reducible apply Keeps.ite)
    | split
    | dsimp only

theorem State.queueBytes_keeps {w₀ : Bool} {s₀ s : State} (hk : Keeps w₀ s₀ s) (q : Nat) (size : BitVec 3) :
    Keeps w₀ s₀ (State.queueBytes s q size) := by
  unfold State.queueBytes
  repeat' first
    | with_reducible assumption
    | with_reducible apply State.dataRead_keeps
    | with_reducible apply State.answer_keeps
    | with_reducible apply Keeps.each
    | with_reducible apply Keeps.ite
    | intro _
    | (with_reducible apply Keeps.cons; first | with_reducible assumption | with_reducible apply State.dataRead_keeps | with_reducible apply State.answer_keeps | with_reducible apply Keeps.each | with_reducible apply Keeps.ite)
    | split
    | dsimp only

theorem State.sessionPort_keeps {w₀ : Bool} {s₀ s : State} (hk : Keeps w₀ s₀ s) (off : Nat) (size : BitVec 3) :
    Keeps w₀ s₀ (State.sessionPort s off size) := by
  unfold State.sessionPort
  repeat' first
    | with_reducible assumption
    | with_reducible apply State.readSession_keeps
    | with_reducible apply State.answer_keeps
    | with_reducible apply Keeps.each
    | with_reducible apply Keeps.ite
    | intro _
    | (with_reducible apply Keeps.cons; first | with_reducible assumption | with_reducible apply State.readSession_keeps | with_reducible apply State.answer_keeps | with_reducible apply Keeps.each | with_reducible apply Keeps.ite)
    | split
    | dsimp only

theorem State.pop_keeps {w₀ : Bool} {s₀ s : State} (hk : Keeps w₀ s₀ s) (p : Fin 16) (size : BitVec 3) :
    Keeps w₀ s₀ (State.pop s p size) := by
  unfold State.pop
  repeat' first
    | with_reducible assumption
    | with_reducible apply State.popTile_keeps
    | with_reducible apply State.answer_keeps
    | with_reducible apply Keeps.each
    | with_reducible apply Keeps.ite
    | intro _
    | (with_reducible apply Keeps.cons; first | with_reducible assumption | with_reducible apply State.popTile_keeps | with_reducible apply State.answer_keeps | with_reducible apply Keeps.each | with_reducible apply Keeps.ite)
    | split
    | dsimp only

theorem State.queueWrite_keeps {w₀ : Bool} {s₀ s : State} (hk : Keeps w₀ s₀ s) (c : Fin 16) (b : List Byte) :
    Keeps w₀ s₀ (State.queueWrite s c b) := by
  unfold State.queueWrite
  repeat' first
    | with_reducible assumption
    | with_reducible apply State.writePush_keeps
    | with_reducible apply State.ok_keeps
    | with_reducible apply Keeps.each
    | with_reducible apply Keeps.ite
    | intro _
    | (with_reducible apply Keeps.cons; first | with_reducible assumption | with_reducible apply State.writePush_keeps | with_reducible apply State.ok_keeps | with_reducible apply Keeps.each | with_reducible apply Keeps.ite)
    | split
    | dsimp only

theorem State.write4_keeps {s₀ s : State} (hk : Keeps false s₀ s) (off : Nat) (v : BitVec 32) :
    Keeps false s₀ (State.write4 s off v) := by
  unfold State.write4
  repeat' first
    | with_reducible assumption
    | with_reducible apply State.portWrite_keeps
    | with_reducible apply Keeps.each
    | with_reducible apply Keeps.ite
    | intro _
    | (with_reducible apply Keeps.cons; first | with_reducible assumption | with_reducible apply State.portWrite_keeps | with_reducible apply Keeps.each | with_reducible apply Keeps.ite)
    | split
    | dsimp only

theorem State.loadWrite_keeps {s₀ s : State} (hk : Keeps false s₀ s) (p : Fin 16) (v : BitVec 32) (failed : LoadRead) :
    Keeps false s₀ (State.loadWrite s p v failed) := by
  unfold State.loadWrite
  repeat' first
    | with_reducible assumption
    | with_reducible apply State.write4_keeps
    | with_reducible apply State.loadProgram_keeps
    | with_reducible apply Keeps.each
    | with_reducible apply Keeps.ite
    | intro _
    | (with_reducible apply Keeps.cons; first | with_reducible assumption | with_reducible apply State.write4_keeps | with_reducible apply State.loadProgram_keeps | with_reducible apply Keeps.each | with_reducible apply Keeps.ite)
    | split
    | dsimp only

theorem State.readCache_keeps {w₀ : Bool} {s₀ s : State} (hk : Keeps w₀ s₀ s) (n : Nat) (finds : List ReadFind) :
    Keeps w₀ s₀ (State.readCache s n finds) := by
  unfold State.readCache
  repeat' first
    | with_reducible assumption
    | with_reducible apply State.foundWords_keeps
    | with_reducible apply State.useFree_keeps
    | with_reducible apply Keeps.each
    | with_reducible apply Keeps.ite
    | intro _
    | (with_reducible apply Keeps.cons; first | with_reducible assumption | with_reducible apply State.foundWords_keeps | with_reducible apply State.useFree_keeps | with_reducible apply Keeps.each | with_reducible apply Keeps.ite)
    | split
    | dsimp only

theorem State.serve_keeps {s₀ s : State} (hk : Keeps false s₀ s) (i : Instr) :
    Keeps false s₀ (State.serve s i) := by
  unfold State.serve
  repeat' first
    | with_reducible assumption
    | with_reducible apply State.write4_keeps
    | with_reducible apply State.loadWrite_keeps
    | with_reducible apply State.ringProgram_keeps
    | with_reducible apply State.ok_keeps
    | with_reducible apply State.pop_keeps
    | with_reducible apply State.readCache_keeps
    | with_reducible apply State.ringSignal_keeps
    | with_reducible apply State.portWrite_keeps
    | with_reducible apply State.setPending_keeps
    | with_reducible apply State.clearPending_keeps
    | with_reducible apply State.readSessions_keeps
    | with_reducible apply State.sessionPort_keeps
    | with_reducible apply State.layoutRead_keeps
    | with_reducible apply State.poolRead_keeps
    | with_reducible apply State.poolAddress_keeps
    | with_reducible apply State.queueWrite_keeps
    | with_reducible apply State.queueHeader_keeps
    | with_reducible apply State.queueBytes_keeps
    | with_reducible apply Keeps.each
    | with_reducible apply Keeps.ite
    | intro _
    | (with_reducible apply Keeps.cons; first | with_reducible assumption | with_reducible apply State.write4_keeps | with_reducible apply State.loadWrite_keeps | with_reducible apply State.ringProgram_keeps | with_reducible apply State.ok_keeps | with_reducible apply State.pop_keeps | with_reducible apply State.readCache_keeps | with_reducible apply State.ringSignal_keeps | with_reducible apply State.portWrite_keeps | with_reducible apply State.setPending_keeps | with_reducible apply State.clearPending_keeps | with_reducible apply State.readSessions_keeps | with_reducible apply State.sessionPort_keeps | with_reducible apply State.layoutRead_keeps | with_reducible apply State.poolRead_keeps | with_reducible apply State.poolAddress_keeps | with_reducible apply State.queueWrite_keeps | with_reducible apply State.queueHeader_keeps | with_reducible apply State.queueBytes_keeps | with_reducible apply Keeps.each | with_reducible apply Keeps.ite)
    | split
    | dsimp only

theorem State.request_keeps {s₀ s : State} (hk : Keeps false s₀ s) (i : Instr) :
    Keeps false s₀ (State.request s i) := by
  unfold State.request
  repeat' first
    | with_reducible assumption
    | with_reducible apply State.gatePort_keeps
    | with_reducible apply State.serve_keeps
    | with_reducible apply Keeps.each
    | with_reducible apply Keeps.ite
    | intro _
    | (with_reducible apply Keeps.cons; first | with_reducible assumption | with_reducible apply State.gatePort_keeps | with_reducible apply State.serve_keeps | with_reducible apply Keeps.each | with_reducible apply Keeps.ite)
    | split
    | dsimp only

theorem State.bell_keeps {w₀ : Bool} {s₀ s : State} (hk : Keeps w₀ s₀ s) (i : Instr) (b : KeptBell) :
    Keeps w₀ s₀ (State.bell s i b) := by
  unfold State.bell
  repeat' first
    | with_reducible assumption
    | with_reducible apply State.gateBell_keeps
    | with_reducible apply State.ringKept_keeps
    | with_reducible apply Keeps.each
    | with_reducible apply Keeps.ite
    | intro _
    | (with_reducible apply Keeps.cons; first | with_reducible assumption | with_reducible apply State.gateBell_keeps | with_reducible apply State.ringKept_keeps | with_reducible apply Keeps.each | with_reducible apply Keeps.ite)
    | split
    | dsimp only

end Sys2Proof.Machine
end

