-- ==== Sys2Proof/Laws/KeepsWake.lean ====
section
/-! SUPPORT. What the operations of Machine/Wake.lean keep (`Keeps`). -/

set_option Elab.async false

namespace Sys2Proof.Machine

theorem State.takePayload_keeps {w₀ : Bool} {s₀ s : State} (hk : Keeps w₀ s₀ s) (h : FrameHdr) (p : Payload) :
    Keeps w₀ s₀ (State.takePayload s h p) := by
  unfold State.takePayload
  repeat' first
    | with_reducible assumption
    | with_reducible apply State.answerBulk_keeps
    | with_reducible apply State.takeBulk_keeps
    | with_reducible apply State.receiveSync_keeps
    | with_reducible apply State.takeItem_keeps
    | with_reducible apply Keeps.each
    | with_reducible apply Keeps.ite
    | intro _
    | (with_reducible apply Keeps.cons; first | with_reducible assumption | with_reducible apply State.answerBulk_keeps | with_reducible apply State.takeBulk_keeps | with_reducible apply State.receiveSync_keeps | with_reducible apply State.takeItem_keeps | with_reducible apply Keeps.each | with_reducible apply Keeps.ite)
    | split
    | dsimp only

theorem State.emitCut_keeps {w₀ : Bool} {s₀ s : State} (hk : Keeps w₀ s₀ s) (port : Fin 16) (m : MemberId) (c : DispatchCell) :
    Keeps w₀ s₀ (State.emitCut s port m c) := by
  unfold State.emitCut
  repeat' first
    | with_reducible assumption
    | with_reducible apply State.sent_keeps
    | with_reducible apply State.bump_keeps
    | with_reducible apply Keeps.each
    | with_reducible apply Keeps.ite
    | intro _
    | (with_reducible apply Keeps.cons; first | with_reducible assumption | with_reducible apply State.sent_keeps | with_reducible apply State.bump_keeps | with_reducible apply Keeps.each | with_reducible apply Keeps.ite)
    | split
    | dsimp only

theorem State.cutThrough_keeps {w₀ : Bool} {s₀ s : State} (hk : Keeps w₀ s₀ s) (h : FrameHdr) (p : Payload) :
    Keeps w₀ s₀ (State.cutThrough s h p) := by
  unfold State.cutThrough
  repeat' first
    | with_reducible assumption
    | with_reducible apply State.emitCut_keeps
    | with_reducible apply Keeps.each
    | with_reducible apply Keeps.ite
    | intro _
    | (with_reducible apply Keeps.cons; first | with_reducible assumption | with_reducible apply State.emitCut_keeps | with_reducible apply Keeps.each | with_reducible apply Keeps.ite)
    | split
    | dsimp only

theorem State.frameIn_keeps {w₀ : Bool} {s₀ s : State} (hk : Keeps w₀ s₀ s) (h : FrameHdr) (p : Payload) :
    Keeps w₀ s₀ (State.frameIn s h p) := by
  unfold State.frameIn
  repeat' first
    | with_reducible assumption
    | with_reducible apply State.cutThrough_keeps
    | with_reducible apply State.receive_keeps
    | with_reducible apply State.takePayload_keeps
    | with_reducible apply Keeps.each
    | with_reducible apply Keeps.ite
    | intro _
    | (with_reducible apply Keeps.cons; first | with_reducible assumption | with_reducible apply State.cutThrough_keeps | with_reducible apply State.receive_keeps | with_reducible apply State.takePayload_keeps | with_reducible apply Keeps.each | with_reducible apply Keeps.ite)
    | split
    | dsimp only

theorem State.runJob_keeps {w₀ : Bool} {s₀ s : State} (hk : Keeps w₀ s₀ s) (j : PoolJob) (handle : Nat) :
    Keeps w₀ s₀ (State.runJob s j handle) := by
  unfold State.runJob
  repeat' first
    | with_reducible assumption
    | with_reducible apply State.receiveStaged_keeps
    | with_reducible apply State.takePayload_keeps
    | with_reducible apply State.fanCell_keeps
    | with_reducible apply State.egressGranted_keeps
    | with_reducible apply State.scoreGranted_keeps
    | with_reducible apply Keeps.each
    | with_reducible apply Keeps.ite
    | intro _
    | (with_reducible apply Keeps.cons; first | with_reducible assumption | with_reducible apply State.receiveStaged_keeps | with_reducible apply State.takePayload_keeps | with_reducible apply State.fanCell_keeps | with_reducible apply State.egressGranted_keeps | with_reducible apply State.scoreGranted_keeps | with_reducible apply Keeps.each | with_reducible apply Keeps.ite)
    | split
    | dsimp only

theorem State.grantWaiting_keeps {w₀ : Bool} {s₀ s : State} (hk : Keeps w₀ s₀ s) (pool cls : Nat) :
    Keeps w₀ s₀ (State.grantWaiting s pool cls) := by
  unfold State.grantWaiting
  repeat' first
    | with_reducible assumption
    | with_reducible refine Keeps.Pair.out (State.serveWaiting_all ?_ _ _) ‹_›
    | with_reducible apply State.serveWaiting_all
    | with_reducible refine Keeps.Pair.fst (State.serveWaiting_all ?_ _ _)
    | with_reducible apply State.runJob_keeps
    | with_reducible apply State.close_keeps
    | with_reducible apply Keeps.each
    | with_reducible apply Keeps.ite
    | intro _
    | (with_reducible apply Keeps.cons; first | with_reducible assumption | with_reducible refine Keeps.Pair.out (State.serveWaiting_all ?_ _ _) ‹_› | with_reducible apply State.serveWaiting_all | with_reducible refine Keeps.Pair.fst (State.serveWaiting_all ?_ _ _) | with_reducible apply State.runJob_keeps | with_reducible apply State.close_keeps | with_reducible apply Keeps.each | with_reducible apply Keeps.ite)
    | split
    | dsimp only

theorem State.serveLate_keeps {s₀ s : State} (hk : Keeps false s₀ s) (x : Nat × Instr) :
    Keeps false s₀ (State.serveLate s x) := by
  unfold State.serveLate
  repeat' first
    | with_reducible assumption
    | with_reducible apply State.serve_keeps
    | with_reducible apply Keeps.each
    | with_reducible apply Keeps.ite
    | intro _
    | (with_reducible apply Keeps.cons; first | with_reducible assumption | with_reducible apply State.serve_keeps | with_reducible apply Keeps.each | with_reducible apply Keeps.ite)
    | split
    | dsimp only

theorem State.serveKept_keeps {s₀ s : State} (hk : Keeps false s₀ s) (x : Nat × (KeptBell ⊕ Instr)) :
    Keeps false s₀ (State.serveKept s x) := by
  unfold State.serveKept
  repeat' first
    | with_reducible assumption
    | with_reducible apply State.ringKept_keeps
    | with_reducible apply State.serveLate_keeps
    | with_reducible apply Keeps.each
    | with_reducible apply Keeps.ite
    | intro _
    | (with_reducible apply Keeps.cons; first | with_reducible assumption | with_reducible apply State.ringKept_keeps | with_reducible apply State.serveLate_keeps | with_reducible apply Keeps.each | with_reducible apply Keeps.ite)
    | split
    | dsimp only

theorem State.resume_keeps {s₀ s : State} (hk : Keeps false s₀ s) :
    Keeps false s₀ (State.resume s) := by
  unfold State.resume
  repeat' first
    | with_reducible assumption
    | with_reducible apply State.running_keeps
    | with_reducible apply State.setMac_keeps
    | with_reducible apply State.updatePause_keeps
    | with_reducible apply State.arbitrateAll_keeps
    | with_reducible apply State.serveKept_keeps
    | with_reducible apply State.handleMortar_keeps
    | with_reducible apply State.frameIn_keeps
    | with_reducible apply Keeps.each
    | with_reducible apply Keeps.ite
    | intro _
    | (with_reducible apply Keeps.cons; first | with_reducible assumption | with_reducible apply State.running_keeps | with_reducible apply State.setMac_keeps | with_reducible apply State.updatePause_keeps | with_reducible apply State.arbitrateAll_keeps | with_reducible apply State.serveKept_keeps | with_reducible apply State.handleMortar_keeps | with_reducible apply State.frameIn_keeps | with_reducible apply Keeps.each | with_reducible apply Keeps.ite)
    | split
    | dsimp only

theorem State.wakeRelease_keeps {s₀ s : State} (hk : Keeps false s₀ s) :
    Keeps false s₀ (State.wakeRelease s) := by
  unfold State.wakeRelease
  repeat' first
    | with_reducible assumption
    | with_reducible apply State.until_keeps
    | with_reducible apply State.resume_keeps
    | with_reducible apply Keeps.each
    | with_reducible apply Keeps.ite
    | intro _
    | (with_reducible apply Keeps.cons; first | with_reducible assumption | with_reducible apply State.until_keeps | with_reducible apply State.resume_keeps | with_reducible apply Keeps.each | with_reducible apply Keeps.ite)
    | split
    | dsimp only

theorem State.wakeLight_keeps {s₀ s : State} (hk : Keeps false s₀ s) :
    Keeps false s₀ (State.wakeLight s) := by
  unfold State.wakeLight
  repeat' first
    | with_reducible assumption
    | with_reducible apply State.resume_keeps
    | with_reducible apply Keeps.each
    | with_reducible apply Keeps.ite
    | intro _
    | (with_reducible apply Keeps.cons; first | with_reducible assumption | with_reducible apply State.resume_keeps | with_reducible apply Keeps.each | with_reducible apply Keeps.ite)
    | split
    | dsimp only

theorem State.wakeDeep_keeps {s₀ s : State} (hk : Keeps false s₀ s) :
    Keeps false s₀ (State.wakeDeep s) := by
  unfold State.wakeDeep
  repeat' first
    | with_reducible assumption
    | with_reducible apply State.restoreSaved_keeps
    | with_reducible apply State.resume_keeps
    | with_reducible apply Keeps.each
    | with_reducible apply Keeps.ite
    | intro _
    | (with_reducible apply Keeps.cons; first | with_reducible assumption | with_reducible apply State.restoreSaved_keeps | with_reducible apply State.resume_keeps | with_reducible apply Keeps.each | with_reducible apply Keeps.ite)
    | split
    | dsimp only

theorem State.recordStatus_keeps {w₀ : Bool} {s₀ s : State} (hk : Keeps w₀ s₀ s) (st : HostStatus) :
    Keeps w₀ s₀ (State.recordStatus s st) := by
  unfold State.recordStatus
  repeat' first
    | with_reducible assumption
    | with_reducible apply State.ok_keeps
    | with_reducible apply State.raise_keeps
    | with_reducible apply Keeps.each
    | with_reducible apply Keeps.ite
    | intro _
    | (with_reducible apply Keeps.cons; first | with_reducible assumption | with_reducible apply State.ok_keeps | with_reducible apply State.raise_keeps | with_reducible apply Keeps.each | with_reducible apply Keeps.ite)
    | split
    | dsimp only

theorem State.attemptStatus_keeps {w₀ : Bool} {s₀ s : State} (hk : Keeps w₀ s₀ s) (st : HostStatus) :
    Keeps w₀ s₀ (State.attemptStatus s st) := by
  unfold State.attemptStatus
  repeat' first
    | with_reducible assumption
    | with_reducible apply State.ok_keeps
    | with_reducible apply State.raise_keeps
    | with_reducible apply Keeps.each
    | with_reducible apply Keeps.ite
    | intro _
    | (with_reducible apply Keeps.cons; first | with_reducible assumption | with_reducible apply State.ok_keeps | with_reducible apply State.raise_keeps | with_reducible apply Keeps.each | with_reducible apply Keeps.ite)
    | split
    | dsimp only

theorem State.loadStatus_keeps {w₀ : Bool} {s₀ s : State} (hk : Keeps w₀ s₀ s) (p : Fin 16) (index : Nat) (entry : Bool) (st : HostStatus) :
    Keeps w₀ s₀ (State.loadStatus s p index entry st) := by
  unfold State.loadStatus
  repeat' first
    | with_reducible assumption
    | with_reducible apply State.ok_keeps
    | with_reducible apply State.refuseLoad_keeps
    | with_reducible apply Keeps.each
    | with_reducible apply Keeps.ite
    | intro _
    | (with_reducible apply Keeps.cons; first | with_reducible assumption | with_reducible apply State.ok_keeps | with_reducible apply State.refuseLoad_keeps | with_reducible apply Keeps.each | with_reducible apply Keeps.ite)
    | split
    | dsimp only

theorem State.saveStatus_keeps {s₀ s : State} (hk : Keeps false s₀ s) (st : HostStatus) :
    Keeps false s₀ (State.saveStatus s st) := by
  unfold State.saveStatus
  repeat' first
    | with_reducible assumption
    | with_reducible apply State.ok_keeps
    | with_reducible apply State.resume_keeps
    | with_reducible apply State.uncount_keeps
    | with_reducible apply State.recordStatus_keeps
    | with_reducible apply Keeps.each
    | with_reducible apply Keeps.ite
    | intro _
    | (with_reducible apply Keeps.cons; first | with_reducible assumption | with_reducible apply State.ok_keeps | with_reducible apply State.resume_keeps | with_reducible apply State.uncount_keeps | with_reducible apply State.recordStatus_keeps | with_reducible apply Keeps.each | with_reducible apply Keeps.ite)
    | split
    | dsimp only

theorem State.readResponse_keeps {w₀ : Bool} {s₀ s : State} (hk : Keeps w₀ s₀ s) (ctx : HostCtx) (st : HostStatus) :
    Keeps w₀ s₀ (State.readResponse s ctx st) := by
  unfold State.readResponse
  repeat' first
    | with_reducible assumption
    | with_reducible apply State.attemptStatus_keeps
    | with_reducible apply State.recordStatus_keeps
    | with_reducible apply State.moveRead_keeps
    | with_reducible apply State.loadStatus_keeps
    | with_reducible apply Keeps.each
    | with_reducible apply Keeps.ite
    | intro _
    | (with_reducible apply Keeps.cons; first | with_reducible assumption | with_reducible apply State.attemptStatus_keeps | with_reducible apply State.recordStatus_keeps | with_reducible apply State.moveRead_keeps | with_reducible apply State.loadStatus_keeps | with_reducible apply Keeps.each | with_reducible apply Keeps.ite)
    | split
    | dsimp only

theorem State.writeResponse_keeps {s₀ s : State} (hk : Keeps false s₀ s) (ctx : HostCtx) (st : HostStatus) :
    Keeps false s₀ (State.writeResponse s ctx st) := by
  unfold State.writeResponse
  repeat' first
    | with_reducible assumption
    | with_reducible apply State.hostAnswered_keeps
    | with_reducible apply State.attemptStatus_keeps
    | with_reducible apply State.ok_keeps
    | with_reducible apply State.tileWritten_keeps
    | with_reducible apply State.chunkWritten_keeps
    | with_reducible apply State.damageDesc_keeps
    | with_reducible apply State.recordStatus_keeps
    | with_reducible apply State.moveWrite_keeps
    | with_reducible apply State.saveStatus_keeps
    | with_reducible apply Keeps.each
    | with_reducible apply Keeps.ite
    | intro _
    | (with_reducible apply Keeps.cons; first | with_reducible assumption | with_reducible apply State.hostAnswered_keeps | with_reducible apply State.attemptStatus_keeps | with_reducible apply State.ok_keeps | with_reducible apply State.tileWritten_keeps | with_reducible apply State.chunkWritten_keeps | with_reducible apply State.damageDesc_keeps | with_reducible apply State.recordStatus_keeps | with_reducible apply State.moveWrite_keeps | with_reducible apply State.saveStatus_keeps | with_reducible apply Keeps.each | with_reducible apply Keeps.ite)
    | split
    | dsimp only

theorem State.hostPortReset_keeps {s₀ s : State} (hk : Keeps false s₀ s) (lost : List (Bool × HostCtx)) :
    Keeps false s₀ (State.hostPortReset s lost) := by
  unfold State.hostPortReset
  repeat' first
    | with_reducible assumption
    | with_reducible apply State.hostReset_keeps
    | with_reducible apply State.readResponse_keeps
    | with_reducible apply State.writeResponse_keeps
    | with_reducible apply Keeps.each
    | with_reducible apply Keeps.ite
    | intro _
    | (with_reducible apply Keeps.cons; first | with_reducible assumption | with_reducible apply State.hostReset_keeps | with_reducible apply State.readResponse_keeps | with_reducible apply State.writeResponse_keeps | with_reducible apply Keeps.each | with_reducible apply Keeps.ite)
    | split
    | dsimp only

theorem State.portUp_keeps {w₀ : Bool} {s₀ s : State} (hk : Keeps w₀ s₀ s) (p : Fin 16) (rate800 : Bool) :
    Keeps w₀ s₀ (State.portUp s p rate800) := by
  unfold State.portUp
  repeat' first
    | with_reducible assumption
    | with_reducible apply State.setMac_keeps
    | with_reducible apply Keeps.each
    | with_reducible apply Keeps.ite
    | intro _
    | (with_reducible apply Keeps.cons; first | with_reducible assumption | with_reducible apply State.setMac_keeps | with_reducible apply Keeps.each | with_reducible apply Keeps.ite)
    | split
    | dsimp only

theorem State.resetPort_keeps {w₀ : Bool} {s₀ s : State} (hk : Keeps w₀ s₀ s) (p : Fin 16) :
    Keeps w₀ s₀ (State.resetPort s p) := by
  unfold State.resetPort
  repeat' first
    | with_reducible assumption
    | with_reducible apply State.setMac_keeps
    | with_reducible apply Keeps.each
    | with_reducible apply Keeps.ite
    | intro _
    | (with_reducible apply Keeps.cons; first | with_reducible assumption | with_reducible apply State.setMac_keeps | with_reducible apply Keeps.each | with_reducible apply Keeps.ite)
    | split
    | dsimp only

end Sys2Proof.Machine
end

