-- ==== Sys2Proof/Laws/KeepsExec.lean ====
section
/-! SUPPORT. What every command keeps: the walk over all constructors, with one lemma cited for each operation. -/

set_option Elab.async false

namespace Sys2Proof.Machine

/-- The commands that change what the test port holds (R409, R410). -/
def drivesTest : Instr → Bool
  | .bypass => true
  | .idcode => true
  | .ijtagAccess .. => true
  | .trstN _ => true
  | _ => false

/-- A command other than a reset and one of the test port keeps what `Keeps` says. -/
theorem exec_keeps (c : Instr) (s : State) (h : resets c = false) (ht : drivesTest c = false) :
    ∃ t, exec c s = .next t ∧ Keeps false s t := by
  have hk := Keeps.refl false s
  cases c
  case maintenanceTest r => cases r <;> (refine ⟨_, rfl, ?_⟩; first | apply State.testColumn_keeps hk | apply State.testPipe_keeps hk)
  all_goals first | (simp [resets] at h; done) | (simp [drivesTest] at ht; done) | skip
  all_goals refine ⟨_, rfl, ?_⟩
  all_goals repeat' first
    | with_reducible assumption
    | with_reducible apply State.close_keeps
    | with_reducible apply State.accept_keeps
    | with_reducible apply State.ackExpiry_keeps
    | with_reducible apply State.batchExpiry_keeps
    | with_reducible apply State.batchTimer_keeps
    | with_reducible apply State.bell_keeps
    | with_reducible apply State.calibrate_keeps
    | with_reducible apply State.coldProgress_keeps
    | with_reducible apply State.collTimer_keeps
    | with_reducible apply State.enterTile_keeps
    | with_reducible apply State.exchangeTimer_keeps
    | with_reducible apply State.frameIn_keeps
    | with_reducible apply State.grantWaiting_keeps
    | with_reducible apply State.heartbeats_keeps
    | with_reducible apply State.hostPortReset_keeps
    | with_reducible apply State.imageFirst_keeps
    | with_reducible apply State.imageSecond_keeps
    | with_reducible apply State.issue_keeps
    | with_reducible apply State.joinExpiry_keeps
    | with_reducible apply State.keystone_keeps
    | with_reducible apply State.laneSilent_keeps
    | with_reducible apply State.laneUntrained_keeps
    | with_reducible apply State.ledgerStep_keeps
    | with_reducible apply State.lockPll_keeps
    | with_reducible apply State.losePll_keeps
    | with_reducible apply State.loseRefClk_keeps
    | with_reducible apply State.manifestTimer_keeps
    | with_reducible apply State.mortarIn_keeps
    | with_reducible apply State.openSlot_keeps
    | with_reducible apply State.portDown_keeps
    | with_reducible apply State.portHold_keeps
    | with_reducible apply State.portPause_keeps
    | with_reducible apply State.portUp_keeps
    | with_reducible apply State.readAccums_keeps
    | with_reducible apply State.readBuffer_keeps
    | with_reducible apply State.readResponse_keeps
    | with_reducible apply State.request_keeps
    | with_reducible apply State.resetPort_keeps
    | with_reducible apply State.rowTimer_keeps
    | with_reducible apply State.rtoExpire_keeps
    | with_reducible apply State.runOp_keeps
    | with_reducible apply State.runRecord_keeps
    | with_reducible apply State.sagBegins_keeps
    | with_reducible apply State.sagEnds_keeps
    | with_reducible apply State.scrub_keeps
    | with_reducible apply State.selfTest_keeps
    | with_reducible apply State.seqEndloop_keeps
    | with_reducible apply State.seqHalt_keeps
    | with_reducible apply State.seqLoop_keeps
    | with_reducible apply State.seqNop_keeps
    | with_reducible apply State.seqSeal_keeps
    | with_reducible apply State.seqShape_keeps
    | with_reducible apply State.seqSignal_keeps
    | with_reducible apply State.seqSlot_keeps
    | with_reducible apply State.seqWaitAll_keeps
    | with_reducible apply State.seqWaitChunk_keeps
    | with_reducible apply State.seqWaitTime_keeps
    | with_reducible apply State.sharedTimer_keeps
    | with_reducible apply State.spaceFreed_keeps
    | with_reducible apply State.stallExpiry_keeps
    | with_reducible apply State.stalledReturn_keeps
    | with_reducible apply State.stepDown_keeps
    | with_reducible apply State.stepUp_keeps
    | with_reducible apply State.syncExpire_keeps
    | with_reducible apply State.testColumn_keeps
    | with_reducible apply State.testPipe_keeps
    | with_reducible apply State.tileTimer_keeps
    | with_reducible apply State.ungate_keeps
    | with_reducible apply State.until_keeps
    | with_reducible apply State.vectorReset_keeps
    | with_reducible apply State.wakeDeep_keeps
    | with_reducible apply State.wakeLight_keeps
    | with_reducible apply State.wakeRelease_keeps
    | with_reducible apply State.writeResponse_keeps
    | with_reducible apply Keeps.ite
    | split

/-- A block that is not in light sleep has no wake to make before a release takes effect. -/
theorem State.wakeRelease_awake {s : State} (h : s.power.state ≠ .light) : s.wakeRelease = s := by
  unfold State.wakeRelease
  split
  · exact if_neg (by simp [h])
  · rfl

theorem State.writeResponse_gate {s₀ s : State} (hk : Keeps true s₀ s) (ctx : HostCtx) (st : HostStatus) (h : ctx ≠ .save) :
    Keeps true s₀ (s.writeResponse ctx st) := by
  have hk := State.hostAnswered_keeps hk ctx
  cases ctx
  case save => exact absurd rfl h
  all_goals
    unfold State.writeResponse
    dsimp only
    first
    | exact hk
    | exact State.attemptStatus_keeps hk _
    | exact State.recordStatus_keeps hk _
    | exact State.moveWrite_keeps hk _ _ _ _ _
    | exact Keeps.ite (State.tileWritten_keeps hk _) (State.attemptStatus_keeps hk _)
    | exact Keeps.ite (State.chunkWritten_keeps hk _ _) (State.attemptStatus_keeps hk _)
    | exact Keeps.ite hk (State.recordStatus_keeps (State.damageDesc_keeps hk _) _)

theorem State.hostPortReset_gate {s₀ s : State} (hk : Keeps true s₀ s) (lost : List (Bool × HostCtx)) (h : (false, HostCtx.save) ∉ lost) :
    Keeps true s₀ (s.hostPortReset lost) := by
  have go : ∀ (l : List (Bool × HostCtx)) (s : State), (false, HostCtx.save) ∉ l → Keeps true s₀ s →
      Keeps true s₀ (s.each l (fun s x => if x.1 then s.readResponse x.2 .dataErr else s.writeResponse x.2 .dataErr)) := by
    intro l
    induction l with
    | nil => exact fun _ _ h => h
    | cons x l ih =>
      intro s hn hk
      refine ih _ (fun hm => hn (List.mem_cons_of_mem _ hm)) ?_
      dsimp only
      split
      · exact State.readResponse_keeps hk _ _
      · next hx =>
        refine State.writeResponse_gate hk _ _ (fun he => hn ?_)
        obtain ⟨a, b⟩ := x
        simp at hx he
        subst hx he
        exact List.mem_cons_self ..
  unfold State.hostPortReset
  exact Keeps.ite (go _ _ h (State.hostReset_keeps hk)) (State.hostReset_keeps hk)

/-- A command that is no request of the port, no image pass, no wake and no failed save keeps the registers too. -/
theorem exec_keeps_gate (c : Instr) (s : State) (h : resets c = false) (ht : drivesTest c = false) (h1 : isRequest c = false) (h2 : ∀ b, c ≠ .imagePass1 b) (h3 : c ≠ .wakeComplete) (h4 : c ≠ .deepWake)
    (h5 : ∀ st, c ≠ .hostWriteResponse .save st) (h6 : ∀ lost, (false, HostCtx.save) ∈ lost → c ≠ .hpRstN lost)
    (h7 : c = .keystoneRelease → s.power.state ≠ .light) :
    ∃ t, exec c s = .next t ∧ Keeps true s t := by
  have hk := Keeps.refl true s
  cases c
  case imagePass1 b => exact absurd rfl (h2 b)
  case wakeComplete => exact absurd rfl h3
  case deepWake => exact absurd rfl h4
  case keystoneRelease =>
    refine ⟨_, rfl, State.close_keeps (State.keystone_keeps ?_)⟩
    rw [State.wakeRelease_awake (h7 rfl)]
    exact hk
  case hostWriteResponse ctx st =>
    exact ⟨_, rfl, State.close_keeps (Keeps.ite (State.writeResponse_gate hk ctx st (fun e => h5 st (e ▸ rfl))) hk)⟩
  case hpRstN lost =>
    refine ⟨_, rfl, State.close_keeps ?_⟩
    exact State.hostPortReset_gate hk lost (fun hm => h6 lost hm rfl)
  case maintenanceTest r => cases r <;> (refine ⟨_, rfl, ?_⟩; first | apply State.testColumn_keeps hk | apply State.testPipe_keeps hk)
  all_goals first | (simp [resets] at h; done) | (simp [drivesTest] at ht; done) | (simp [isRequest] at h1; done) | skip
  all_goals refine ⟨_, rfl, ?_⟩
  all_goals repeat' first
    | with_reducible assumption
    | with_reducible apply State.close_keeps
    | with_reducible apply State.accept_keeps
    | with_reducible apply State.ackExpiry_keeps
    | with_reducible apply State.batchExpiry_keeps
    | with_reducible apply State.batchTimer_keeps
    | with_reducible apply State.bell_keeps
    | with_reducible apply State.calibrate_keeps
    | with_reducible apply State.coldProgress_keeps
    | with_reducible apply State.collTimer_keeps
    | with_reducible apply State.enterTile_keeps
    | with_reducible apply State.exchangeTimer_keeps
    | with_reducible apply State.frameIn_keeps
    | with_reducible apply State.grantWaiting_keeps
    | with_reducible apply State.heartbeats_keeps
    | with_reducible apply State.hostPortReset_keeps
    | with_reducible apply State.imageFirst_keeps
    | with_reducible apply State.imageSecond_keeps
    | with_reducible apply State.issue_keeps
    | with_reducible apply State.joinExpiry_keeps
    | with_reducible apply State.keystone_keeps
    | with_reducible apply State.laneSilent_keeps
    | with_reducible apply State.laneUntrained_keeps
    | with_reducible apply State.ledgerStep_keeps
    | with_reducible apply State.lockPll_keeps
    | with_reducible apply State.losePll_keeps
    | with_reducible apply State.loseRefClk_keeps
    | with_reducible apply State.manifestTimer_keeps
    | with_reducible apply State.mortarIn_keeps
    | with_reducible apply State.openSlot_keeps
    | with_reducible apply State.portDown_keeps
    | with_reducible apply State.portHold_keeps
    | with_reducible apply State.portPause_keeps
    | with_reducible apply State.portUp_keeps
    | with_reducible apply State.readAccums_keeps
    | with_reducible apply State.readBuffer_keeps
    | with_reducible apply State.readResponse_keeps
    | with_reducible apply State.request_keeps
    | with_reducible apply State.resetPort_keeps
    | with_reducible apply State.rowTimer_keeps
    | with_reducible apply State.rtoExpire_keeps
    | with_reducible apply State.runOp_keeps
    | with_reducible apply State.runRecord_keeps
    | with_reducible apply State.sagBegins_keeps
    | with_reducible apply State.sagEnds_keeps
    | with_reducible apply State.scrub_keeps
    | with_reducible apply State.selfTest_keeps
    | with_reducible apply State.seqEndloop_keeps
    | with_reducible apply State.seqHalt_keeps
    | with_reducible apply State.seqLoop_keeps
    | with_reducible apply State.seqNop_keeps
    | with_reducible apply State.seqSeal_keeps
    | with_reducible apply State.seqShape_keeps
    | with_reducible apply State.seqSignal_keeps
    | with_reducible apply State.seqSlot_keeps
    | with_reducible apply State.seqWaitAll_keeps
    | with_reducible apply State.seqWaitChunk_keeps
    | with_reducible apply State.seqWaitTime_keeps
    | with_reducible apply State.sharedTimer_keeps
    | with_reducible apply State.spaceFreed_keeps
    | with_reducible apply State.stallExpiry_keeps
    | with_reducible apply State.stalledReturn_keeps
    | with_reducible apply State.stepDown_keeps
    | with_reducible apply State.stepUp_keeps
    | with_reducible apply State.syncExpire_keeps
    | with_reducible apply State.testColumn_keeps
    | with_reducible apply State.testPipe_keeps
    | with_reducible apply State.tileTimer_keeps
    | with_reducible apply State.ungate_keeps
    | with_reducible apply State.until_keeps
    | with_reducible apply State.vectorReset_keeps
    | with_reducible apply State.wakeDeep_keeps
    | with_reducible apply State.wakeLight_keeps
    | with_reducible apply State.writeResponse_keeps
    | with_reducible apply Keeps.ite
    | split

end Sys2Proof.Machine
end

