-- ==== Sys2Proof/Laws/KeepsTestPort.lean ====
section
/-! SUPPORT. What the operations of Machine/TestPort.lean keep (`Keeps`). -/

set_option Elab.async false

namespace Sys2Proof.Machine

theorem State.readInstrument_keeps {w₀ : Bool} {s₀ s : State} (hk : Keeps w₀ s₀ s) (x₁ : Instrument) :
    Keeps w₀ s₀ (State.readInstrument s x₁) := by
  unfold State.readInstrument
  repeat' first
    | with_reducible assumption
    | with_reducible apply State.useFree_keeps
    | with_reducible apply Keeps.each
    | with_reducible apply Keeps.ite
    | intro _
    | (with_reducible apply Keeps.cons; first | with_reducible assumption | with_reducible apply State.useFree_keeps | with_reducible apply Keeps.each | with_reducible apply Keeps.ite)
    | split
    | dsimp only

end Sys2Proof.Machine
end

