-- ==== Sys2Proof/Laws/Mortar.lean ====
section
/-! SUPPORT. Mortar messages and time: a good message with the SEQ expected is handled in `afterMessage` (R301, R385); what the passing of time and a send leave. -/

namespace Sys2Proof.Machine

variable {s : State} {α : Type}

theorem State.until_mortar (s : State) (t : Nat) : (s.until t).mortar = { s.mortar with cal := { s.mortar.cal with tb := (s.until t).tb } } := by
  have h := congrArg State.mortar (s.until_frame t); exact h

/-- Time changes the timebase and the time counters. -/
theorem State.until_frame' (s : State) (t : Nat) : s.until t = { s with mortar := (s.until t).mortar, counters := (s.until t).counters } := by
  rw [State.until_mortar]; exact s.until_frame t

theorem State.until_power (s : State) (n : Nat) : (s.until n).power = s.power := by rw [State.until_frame]

theorem State.until_withPower (s : State) (n : Nat) (p : Power) : ({ s.until n with power := p } : State) = { s with power := p, mortar := (s.until n).mortar, counters := (s.until n).counters } := by
  conv => lhs; rw [State.until_frame']

theorem State.until_storage (s : State) (n) : (s.until n).storage = s.storage := by rw [State.until_frame]

theorem State.until_net (s : State) (n) : (s.until n).net = s.net := by rw [State.until_frame]

theorem State.until_regs (s : State) (n) : (s.until n).regs = s.regs := by rw [State.until_frame]

theorem State.until_effect (s : State) (n) : (s.until n).effect = s.effect := by rw [State.until_frame]

theorem State.until_boot (s : State) (n) : (s.until n).boot = s.boot := by rw [State.until_frame]

theorem State.until_lane (s : State) (n l) : (s.until n).lane l = s.lane l := by rw [State.until_frame]; rfl

theorem State.until_tree (s : State) (n) : (s.until n).mortar.tree = s.mortar.tree := by rw [State.until_frame]

theorem State.until_myPos (s : State) (n) : (s.until n).myPos = s.myPos := by rw [State.until_frame]; rfl

theorem State.until_secParent (s : State) (n) : (s.until n).secParent = s.secParent := by rw [State.until_frame]; rfl

theorem State.until_primaryKids (s : State) (n) : (s.until n).primaryKids = s.primaryKids := by rw [State.until_frame]; rfl

theorem State.until_secondaryKids (s : State) (n) : (s.until n).secondaryKids = s.secondaryKids := by rw [State.until_frame]; rfl

theorem State.bump_myPos (s : State) (c n) : (s.bump c n).myPos = s.myPos := rfl

theorem State.setLane_myPos (s : State) (c n) : (s.setLane c n).myPos = s.myPos := rfl

theorem State.bump_secParent (s : State) (c n) : (s.bump c n).secParent = s.secParent := rfl

theorem State.setLane_secParent (s : State) (c n) : (s.setLane c n).secParent = s.secParent := rfl

theorem State.bump_primaryKids (s : State) (c n) : (s.bump c n).primaryKids = s.primaryKids := rfl

theorem State.setLane_primaryKids (s : State) (c n) : (s.setLane c n).primaryKids = s.primaryKids := rfl

theorem State.bump_secondaryKids (s : State) (c n) : (s.bump c n).secondaryKids = s.secondaryKids := rfl

theorem State.setLane_secondaryKids (s : State) (c n) : (s.setLane c n).secondaryKids = s.secondaryKids := rfl

/-- IDENT. -/
def isIdent : MortarBody → Bool
  | .ident .. => true
  | _ => false

/-- Messages that take a lane SEQ (R301). -/
def plainBody : MortarBody → Bool
  | .ident .. => false
  | .nak => false
  | .heartbeat => false
  | _ => true

/-- ADMIT. -/
def isAdm : MortarBody → Bool
  | .admitMsg .. => true
  | _ => false

/-- A message on a lane that runs. -/
theorem State.mortarIn_lane {l h b} (hl : s.lanesRun = true) (hi : isIdent b = false) : s.mortarIn l h b = match s.laneReceive l h b with
      | (s, .accept) => s.acceptMortar l h b
      | (s, .discard) => s
      | (s, .silence) => s.laneSilent l := by
  unfold State.mortarIn; rw [if_neg (by rw [hl]; decide)]; cases b <;> first | (cases hi; done) | rfl

/-- A message other than ADMIT is handled at once by a core that runs. -/
theorem State.acceptMortar_runs {l h b} (hr : s.power.state = .run) (ha : isAdm b = false) : s.acceptMortar l h b = s.handleMortar l h b := by
  unfold State.acceptMortar; rw [hr, if_neg (by simp)]; cases b <;> first | (cases ha; done) | rfl

/-- A message with the SEQ expected is accepted. -/
theorem State.mortarIn_accepted {l : Fin 6} {h b} (hc : s.messageComes l h b) (hp : plainBody b = true) : s.mortarIn l h b = (s.afterMessage l).acceptMortar l h b := by
  obtain ⟨h1, h2, h3, h4, h5⟩ := hc
  rw [State.mortarIn_lane h1 (by cases b <;> first | rfl | cases hp)]
  have : s.laneReceive l h b = (s.afterMessage l, .accept) := by
    unfold State.laneReceive; dsimp only
    rw [if_neg (by rw [h3]; decide), if_neg (by rw [h4]; simp)]
    have hz : (h.seq - (s.lane l).rxNext).toNat = 0 := by rw [h5]; simp
    cases b <;> first | (cases hp; done) | (dsimp only; rw [if_pos hz]; rfl)
  rw [this]

/-- Such a message, other than ADMIT, is handled. -/
theorem State.mortarIn_handled {l : Fin 6} {h b} (hc : s.messageComes l h b) (hp : plainBody b = true) (ha : isAdm b = false) : s.mortarIn l h b = (s.afterMessage l).handleMortar l h b := by
  rw [State.mortarIn_accepted hc hp]; exact State.acceptMortar_runs hc.2.1 ha

theorem State.afterMessage_lane (s : State) (l : Fin 6) : (s.afterMessage l).lane l.val = { s.lane l.val with rxNext := (s.lane l.val).rxNext + 1, lastRx := s.tb } := by
  have := Tab.get_set (fun _ => ({} : Lane)) s.mortar.lanes l.val { s.lane l.val with rxNext := (s.lane l.val).rxNext + 1, lastRx := s.tb } l.val
  rw [if_pos rfl] at this; exact this

theorem State.afterMessage_upLane (s : State) (l : Fin 6) : (s.afterMessage l).upLane = s.upLane := rfl

theorem State.sendLane_tb (s : State) (l o d b) : (s.sendLane l o d b).tb = s.tb := by
  unfold State.sendLane; dsimp only; split
  · rfl
  · split <;> rfl

theorem State.sendDown_tb (s : State) (o b) : (s.sendDown o b).tb = s.tb := by
  unfold State.sendDown
  have : ∀ (l : List Nat) (u : State), (u.each l (fun s l => s.sendLane l o true b)).tb = u.tb := by
    intro l; induction l with
    | nil => intro u; rfl
    | cons a l ih => intro u; rw [State.each_cons, ih, State.sendLane_tb]
  exact this _ _

theorem State.sendLane_partner (s : State) (l o d b k) : ((s.sendLane l o d b).lane k).partner = (s.lane k).partner := by
  unfold State.sendLane; dsimp only; split
  · rfl
  · split
    · rfl
    · have key : ∀ (v : Lane), v.partner = (s.lane l).partner → ((s.setLane l v).lane k).partner = (s.lane k).partner := by
        intro v hv
        have := Tab.get_set (fun _ => ({} : Lane)) s.mortar.lanes l v k
        refine (congrArg Lane.partner this).trans ?_
        split
        · rename_i h; subst h; exact hv
        · rfl
      exact key _ rfl

/-- A send leaves tree and barrier as they are. -/
theorem State.sendLane_tree (s : State) (l o d b) : (s.sendLane l o d b).mortar.tree = s.mortar.tree ∧ (s.sendLane l o d b).mortar.bar = s.mortar.bar ∧ (s.sendLane l o d b).boot = s.boot := by
  unfold State.sendLane; dsimp only; split
  · exact ⟨rfl, rfl, rfl⟩
  · split <;> exact ⟨rfl, rfl, rfl⟩

theorem State.sendDown_facts (s : State) (o b) : (∀ k, ((s.sendDown o b).lane k).partner = (s.lane k).partner) ∧ (s.sendDown o b).mortar.tree = s.mortar.tree ∧ (s.sendDown o b).boot = s.boot := by
  unfold State.sendDown
  have : ∀ (l : List Nat) (u : State), (∀ k, ((u.each l (fun s l => s.sendLane l o true b)).lane k).partner = (u.lane k).partner) ∧ (u.each l (fun s l => s.sendLane l o true b)).mortar.tree = u.mortar.tree ∧ (u.each l (fun s l => s.sendLane l o true b)).boot = u.boot := by
    intro l; induction l with
    | nil => intro u; exact ⟨fun _ => rfl, rfl, rfl⟩
    | cons a l ih => intro u; rw [State.each_cons]; obtain ⟨x, y, z⟩ := ih (u.sendLane a o true b); obtain ⟨p, q, r⟩ := State.sendLane_tree u a o true b
                     exact ⟨fun k => (x k).trans (State.sendLane_partner _ _ _ _ _ _), y.trans p, z.trans r⟩
  exact this _ _

theorem State.countRelease_power (u : State) (n) : (u.countRelease n).power = u.power := by
  unfold State.countRelease; split
  · rw [State.raise_power]; rfl
  · rfl

theorem State.each_same {α β : Type} {f : State → α → State} (g : State → β) (hf : ∀ v x, g (f v x) = g v) :
    ∀ (l : List α) (v : State), g (v.each l f) = g v
  | [], _ => rfl
  | x :: l, v => (State.each_same g hf l (f v x)).trans (hf v x)

theorem State.dropOwn_same (v : State) (h r) : (v.dropOwn h r).mortar = v.mortar ∧ (v.dropOwn h r).power = v.power := by
  unfold State.dropOwn
  split
  · split <;> exact ⟨rfl, rfl⟩
  · exact ⟨rfl, rfl⟩

theorem State.dropPeer_same (v : State) (m) : (v.dropPeer m).mortar = v.mortar ∧ (v.dropPeer m).power = v.power := by
  have h (l : List TxFrame) : (v.dropStaged l).mortar = v.mortar ∧ (v.dropStaged l).power = v.power :=
    ⟨State.each_same State.mortar (fun u x => (State.dropOwn_same u (TxFrame.handle x) 1).1) l v,
     State.each_same State.power (fun u x => (State.dropOwn_same u (TxFrame.handle x) 1).2) l v⟩
  unfold State.dropPeer; exact h _

theorem State.dropCopies_same (v : State) (m) : (v.dropCopies m).mortar = v.mortar ∧ (v.dropCopies m).power = v.power := by
  unfold State.dropCopies
  exact ⟨State.each_same State.mortar (fun u x => by dsimp only; split <;> rfl) _ v, State.each_same State.power (fun u x => by dsimp only; split <;> rfl) _ v⟩

/-- Pairs that start again leave mortar and power as they are. -/
theorem State.restartPairs_same (v : State) (m) : (v.restartPairs m).mortar = v.mortar ∧ (v.restartPairs m).power = v.power := by
  have h := State.dropCopies_same v m
  unfold State.restartPairs; dsimp only
  generalize v.dropCopies m = u at h ⊢
  split
  · exact h
  · exact ⟨(State.dropPeer_same _ m).1.trans h.1, (State.dropPeer_same _ m).2.trans h.2⟩

theorem State.each_restartPairs (l : List MemberId) (v : State) : (v.each l State.restartPairs).mortar = v.mortar ∧ (v.each l State.restartPairs).power = v.power :=
  ⟨State.each_same State.mortar (fun u m => (State.restartPairs_same u m).1) l v, State.each_same State.power (fun u m => (State.restartPairs_same u m).2) l v⟩

theorem State.noteReconf_bar (v : State) (r) : (v.noteReconf r).mortar = v.mortar ∧ (v.noteReconf r).power = v.power := by
  unfold State.noteReconf; dsimp only
  split <;> split <;> first | exact ⟨rfl, rfl⟩ | exact ⟨State.fire_mortar _ _, State.fire_power _ _⟩

theorem State.settleMembership_bar (v : State) (r l) : (v.settleMembership r l).mortar.bar = v.mortar.bar ∧ (v.settleMembership r l).power = v.power := by
  have first : (v.settleFirst r l).mortar.bar = v.mortar.bar ∧ (v.settleFirst r l).power = v.power := ⟨rfl, rfl⟩
  have next : (v.settleNext r).mortar.bar = v.mortar.bar ∧ (v.settleNext r).power = v.power := ⟨rfl, rfl⟩
  have lanes (u : State) : u.settleLanes.mortar.bar = u.mortar.bar ∧ u.settleLanes.power = u.power := by
    unfold State.settleLanes; dsimp only; split <;> exact ⟨rfl, rfl⟩
  unfold State.settleMembership
  split
  · exact ⟨(lanes _).1.trans first.1, (lanes _).2.trans first.2⟩
  · exact ⟨(lanes _).1.trans next.1, (lanes _).2.trans next.2⟩

/-- A release that settles: the next barrier gathers, one number higher. -/
theorem State.noteRelease_bar (u : State) (x : ReleaseBody) : let r := (u.noteRelease x).1
    r.mortar.bar.bn = x.bn + 1 ∧ r.mortar.bar.release = none ∧ r.mortar.bar.own = none ∧ r.power = u.power := by
  unfold State.noteRelease; dsimp only
  rw [(State.noteReconf_bar _ _).1, (State.noteReconf_bar _ _).2, (State.each_restartPairs _ _).1, (State.each_restartPairs _ _).2, (State.settleMembership_bar _ _ _).1, (State.settleMembership_bar _ _ _).2]
  exact ⟨rfl, rfl, rfl, State.countRelease_power _ _⟩

theorem State.becomeReady_lastRel (s : State) (p) : (s.becomeReady p).lastRel = s.lastRel := by
  unfold State.becomeReady State.lastRel; dsimp only; rw [State.fire_mortar]

end Sys2Proof.Machine
end

