-- ==== Sys2Proof/WellFormed.lean ====
section
/-! DEFINITION. Which commands are well formed: their operands can stand in the instruction, request, frame or message that the
row of the table names (R109, R131, R145, R146, R213, R221, R223, R224, R246 to R248, R280, R359, R372, R395). The machine does not
ask for it: it gives every command a meaning. -/

namespace Sys2Proof

/-- An internal signal source (R372). -/
def internalSource (n : Nat) : Bool := decide (0x20 ≤ n) && decide (n < 0x200)

/-- Size of a target request: 4 to 64 B (R395). -/
def portSize (size : BitVec 3) : Bool := decide (2 ≤ size.toNat) && decide (size.toNat ≤ 6)

/-- A target write: a legal size, aligned to it, in a part of the window. -/
def PortWrite.wf (w : PortWrite) (lo hi : Nat) : Bool :=
  portSize w.size && w.off.toNat % 2 ^ w.size.toNat == 0 && decide (lo ≤ w.off.toNat) && decide (w.off.toNat < hi)

/-- A cell: whole groups of data. -/
def Cell.wf : Cell → Bool
  | .dispatch c => decide (c.data.length ≤ 8032) && decide (c.targets.length ≤ 16)
  | .ret c => decide (c.data.length ≤ 8032)
  | .part c => c.words.length % 32 == 0
  | .manifest _ => true

/-- A payload that fits in a frame. -/
def Payload.wf (p : Payload) : Bool :=
  decide (p.bytes.length ≤ 8192) &&
  (match p with
   | .cells cs => !cs.isEmpty && cs.all Cell.wf
   | .gateNote n => n.entries.all (fun e => e.gates.length == 16) && decide (n.entries.length ≤ 113)
   | .cellRequest rs => decide (rs.length ≤ 512)
   | _ => true)

/-- A frame whose cells are all of one kind. -/
def cellsWf (kind : Nat) (cs : List Cell) : Bool := Payload.wf (.cells cs) && cs.all (fun c => c.kind == kind)

/-- A chunk reference names a chunk, or an open loop 0 to 3 (R213). -/
def chunkRefWf (ch : BitVec 9) : Bool := ch.toNat < 256 || ch.toNat % 256 < 4

/-- A shape word that SHAPE may write: not one of the pass's own window (R221). -/
def shapeDstWf (dst : BitVec 21) : Bool := decide (8 ≤ dst.toNat) && decide (dst.toNat < 2 ^ 20)

/-- A context that a host port read can have, and one that a write can have (R394). -/
def HostCtx.reads : HostCtx → Bool
  | .save | .tile _ | .chunk _ _ | .descriptor _ => false
  | _ => true

def HostCtx.writes : HostCtx → Bool
  | .load _ _ _ => false
  | _ => true

/-- A line of a store of R10 by its index of R435; every line number is one of the transpose buffer's, whose size is not given. -/
def storeLineWf (store line : Nat) : Bool :=
  decide (line < [786432, 524288, 262144, 131072, 65536, 32768, 32768].getD store (line + 1))

/-- Words that a read finds wrong lie in the store that each names, or else in the one that the command's rule names (R433, R436). -/
def findsWf (store : Nat) (finds : List ReadFind) : Bool := finds.all (fun f => storeLineWf (f.store.elim store (·.val)) f.line.toNat)

/-- A command that its row can spell. -/
def Instr.wf : Instr → Bool
  | .waitChunk _ ch => chunkRefWf ch
  | .seal _ source fire => !fire || internalSource source.toNat
  | .loop _ _ bound body => bound != 0 && body != 0
  | .shapeCopy _ dst _ => shapeDstWf dst
  | .shapeChunks _ dst _ => shapeDstWf dst
  | .signal _ source => internalSource source.toNat
  | .score _ finds => findsWf 0 finds
  | .rescore finds => findsWf 0 finds
  | .select finds => findsWf 0 finds
  | .combine finds => findsWf 1 finds
  | .combineAr finds => findsWf 1 finds
  | .reduceAr finds => findsWf 4 finds
  | .stats finds => findsWf 4 finds
  | .transpose finds => findsWf 7 finds
  | .map finds => findsWf 6 finds
  | .gateAct finds => findsWf 6 finds
  | .softmax finds => findsWf 6 finds
  | .tilePop _ size finds => portSize size && findsWf 5 finds
  | .signalDoorbell size _ => portSize size
  | .sourceConfigWrite w => w.wf 0x8000 0xA000 && decide (w.size.toNat ≤ 3)
  | .sessionWindowWrite w => w.wf 0x40000 0x80000
  | .sessionWindowRead off size finds => PortWrite.wf ⟨off, size, 0⟩ 0x40000 0x80000 && findsWf 2 finds
  | .queueData _ bytes => [8, 16, 32, 64].contains bytes.length
  | .queueHeaderRead _ size finds => portSize size && findsWf 5 finds
  | .queueDataRead _ size finds => portSize size && findsWf 5 finds
  | .qConfigWrite w => w.wf 0xD008 0xD010 && decide (w.size.toNat ≤ 3)
  | .registerWrite w => w.wf 0 0x40000 && decide (w.size.toNat ≤ 3)
  | .countMessage _ m => Payload.wf (.count m)
  | .grantMessage _ m => Payload.wf (.grant m)
  | .manifest _ cs => cellsWf 4 cs
  | .dispatchCell _ cs => cellsWf 1 cs
  | .cellRequest _ rs => Payload.wf (.cellRequest rs)
  | .returnCell _ cs finds => cellsWf 2 cs && findsWf 1 finds
  | .rackPartial _ cs finds => cellsWf 3 cs && findsWf 1 finds
  | .gateNote _ n => Payload.wf (.gateNote n)
  | .windowNote _ n => Payload.wf (.windowNote n)
  | .collective _ c finds => Payload.wf (.coll c) && findsWf 4 finds
  | .bulkRequest _ b => b.kind == 1 && b.data.isEmpty
  | .bulkData _ b => b.kind == 2 && Payload.wf (.bulk b)
  | .reduce _ _ r => decide (r.words.length ≤ 8)
  | .scrubLine store line _ => storeLineWf store.val line
  | .hostReadResponse ctx beats => ctx.reads && !beats.isEmpty
  | .hostWriteResponse ctx _ => ctx.writes
  | .hpRstN xs => xs.all (fun x => if x.1 then x.2.reads else x.2.writes)
  | _ => true

end Sys2Proof
end

