-- ==== Sys2Proof/Tests/Slice0.lean ====
section
/-! SUPPORT. The model's own tests: what WellFormed refuses, worked examples of the spec, single steps on small states, and for each
statement of Obligations.lean a state and operands that meet its hypotheses (a witness for each clause). -/

set_option Elab.async false

namespace Sys2Proof.Tests

open Sys2Proof.Machine

/-! ### Small states -/

/-- A member in service with nothing else set. -/
def live : State :=
  { boot := { phase := .admitted, ready := true, memberValid := true, loaded := true }, power := { pllLock := true } }

/-- An unpowered block. -/
def dark : State := { boot := { powered := false } }

/-- A member that is held. -/
def heldS : State := { boot := { phase := .held } }

/-- A member asleep, with its wake latch. -/
def sleeping (d : PowerState) (latch : Bool) : State :=
  { live with power := { state := d, latchTimer := latch, timerAt := some 50 } }

theorem live_serves : live.servesNow := ⟨rfl, rfl, rfl, rfl, rfl⟩

/-- The tag that a request takes changes nothing that the statements ask of a state. -/
theorem tagged {s : State} (h : s.servesNow) : s.newTag.servesNow := h

/-- A sequencer of program 0 at a place. -/
def seqAt (pc : Nat) (instrs : List Issued) : Sequencer :=
  { prog := 0, entry := 0, layer := 1, gen := 7, attempt := 0, tOpen := 1000, pc := pc, instrs := instrs }

/-- A member whose sequencer 3 holds x. -/
def passing (x : Sequencer) : State := { live with sched := { seqs := [(3, x)] } }

theorem passing_issuing (x : Sequencer) (h : x.issues = true) : (passing x).issuing 3 x := ⟨rfl, rfl, h⟩

/-- An issued instruction. -/
def issued (w : BitVec 64) (e : Engine) (c : Option Nat) (p : Progress) : Issued :=
  { pc := 0, word := w, engine := e, chunk := c, planned := none, prog := p }

/-! ### WellFormed refuses -/

def hdr0 : FrameHdr :=
  { port := 0, fcsErr := false, version := 3, type := 0, vc := 0, retx := false, ackVc := 0, ackValid := false, src := 1, dst := 0,
    seq := 0, ackSeq := 0, sack := 0, tstamp := 0, length := 0, got := 0, crc := 0 }
def mhdr0 : MortarHdr := { origin := 1, seq := 0, copy := false, resend := false, down := false, crc := 0 }
def cellHdr0 : CellHdr := { format := 0, gen := 7, source := 1, attempt := 0, layer := 1, chunk := 0 }
def manCell : ManifestCell := { h := cellHdr0, first := 0, total := 0, entries := [], crc := 0 }
def bulk0 (k : BitVec 8) (d : List Byte) : BulkFrame :=
  { kind := k, last := true, stage := false, planEpoch := 0, requester := 1, layer := 0, srcSlot := 0, expert := 0, window := 0,
    offset := 0, length := 0, windowCrc := 0, data := d }
def coll0 (d : List Byte) : CollFrame :=
  { gen := 7, sender := 1, attempt := 0, layer := 1, opseq := 0, stage := 0, chunk := 0, piece := 0, step := 0, sub := 0,
    pieceBytes := 0, offset := 0, pieceCrc := 0, data := d }
def exch0 (n : Nat) : ExchMsg :=
  { gen := 7, sender := 1, attempt := 0, layer := 1, last := true, first := 0, total := 0, entries := List.replicate n 0 }
def cellReq0 : CellReq :=
  { gen := 7, requester := 1, attempt := 0, layer := 1, kind := 1, cell := 0, token := 0, owner := 1, expert := 0, rank := 0 }
def note0 (n g : Nat) : GateNote :=
  { gen := 7, sender := 1, attempt := 0, layer := 1, last := true, first := 0, total := 0,
    entries := List.replicate n { token := 0, eTok := 0, targets := 0, chunk := 0, gates := List.replicate g 0 } }

theorem test_wf_sequencer : [Instr.waitChunk 0 260, .seal 0 0x200 true, .seal 0 0x1F true, .loop 0 1 0 5, .loop 0 1 16 0,
    .shapeCopy 0 7 9, .shapeChunks 0 0x100008 9, .signal 0 0x200, .signal 0 0x1F].all (fun i => !i.wf) = true := by decide
theorem test_wf_sequencer_good : [Instr.waitChunk 0 259, .waitChunk 0 255, .seal 0 0x200 false, .seal 0 0x1FF true, .loop 0 1 16 5,
    .shapeCopy 0 8 0, .signal 0 0x20].all Instr.wf = true := by decide
theorem test_wf_port : [Instr.tilePop 0 7, .tilePop 0 1, .signalDoorbell 7 0, .sourceConfigWrite ⟨0x7FF8, 3, 0⟩,
    .sourceConfigWrite ⟨0x8000, 4, 0⟩, .sessionWindowWrite ⟨0x80000, 3, 0⟩, .sessionWindowWrite ⟨0x40004, 3, 0⟩,
    .sessionWindowRead 0x3FFF8 3, .queueData 0 [1, 2, 3], .queueHeaderRead 0 0, .queueDataRead 0 7, .qConfigWrite ⟨0xD010, 3, 0⟩,
    .qConfigWrite ⟨0xD008, 6, 0⟩, .registerWrite ⟨0x40000, 3, 0⟩, .registerWrite ⟨2, 2, 0⟩,
    .registerWrite ⟨0, 4, 0⟩].all (fun i => !i.wf) = true := by decide
theorem test_wf_frames : [Instr.manifest hdr0 [], .dispatchCell hdr0 [.manifest manCell], .cellRequest hdr0 (List.replicate 513 cellReq0),
    .gateNote hdr0 (note0 1 15), .gateNote hdr0 (note0 114 16), .bulkRequest hdr0 (bulk0 2 []), .bulkRequest hdr0 (bulk0 1 [0]),
    .bulkData hdr0 (bulk0 1 [])].all (fun i => !i.wf) = true := by decide +kernel
theorem test_wf_frame_length : (Instr.collective hdr0 (coll0 (List.replicate 8192 0)) []).wf = false ∧
    (Instr.countMessage hdr0 (exch0 2049)).wf = false := by decide +kernel
theorem test_wf_other : [Instr.reduce 0 mhdr0 { gen := 7, attempt := 0, opseq := 0, isMax := false, words := List.replicate 9 0 },
    .scrubLine 6 32768 .clean, .hostReadResponse .save [.ok], .hostReadResponse .attempt [],
    .hostWriteResponse (.load 0 0 false) .ok, .hpRstN [(true, .save)], .map [⟨32768, 0, false, none⟩], .rescore [⟨786432, 0, true, none⟩],
    .collective hdr0 (coll0 [1]) [⟨65536, 0, true, none⟩]].all (fun i => !i.wf) = true := by decide +kernel

/-! ### Worked examples of the spec -/

/-- R474's example: the capability words, and the state word of member 0x02A after it has left the membership (R442). -/
theorem test_identity_words : live.identityWord 0x10 = 0x0401010002100400 ∧ live.identityWord 0x30 = 0x01C20258000FFF7F ∧
    ({ boot := { phase := .join, selfLost := true, memberId := 0x02A, memberValid := true } } : State).readReg 8 3 = 0x42A44 := by
  decide +kernel

/-- The reference decode program of 09 (R213): opcode, class, SH, BOUND and BODY of LOOP; STEP of SLOT; class 1 of GRANT; chunk reference. -/
theorem test_program_words : opOf 0x080000A002000001 = Op.loop ∧ BitVec.ofNat 21 0x080000A002000001 = (1 : BitVec 21) ∧
    BitVec.ofNat 16 (0x080000A002000001 / 2 ^ 21) = (16 : BitVec 16) ∧ BitVec.ofNat 11 (0x080000A002000001 / 2 ^ 37) = (5 : BitVec 11) ∧
    opOf 0x010001C200000000 = Op.slot ∧ BitVec.ofNat 16 (0x010001C200000000 / 2 ^ 32) = (450 : BitVec 16) ∧
    BitVec.ofNat 32 0x010000000001E366 = (123750 : BitVec 32) ∧ opOf 0x1540000000000000 = Op.grant ∧
    classOfWord 0x1540000000000000 = 1 ∧ chRef 0x1900000000000100 = 0x100 ∧ opOf 0x0300000000000420 = Op.sealOp ∧
    BitVec.ofNat 10 0x0300000000000420 = (0x20 : BitVec 10) ∧ bit 0x0300000000000420 10 = true := by decide +kernel

/-- Token 700 of 06 (R134 to R136): the terms' words and residues, their sum in two orders, and the rounded element. -/
theorem test_combine_terms : guardBits 7 = 3 ∧ termInt 4 10 (.fin false 3) = some 0xC0000000 ∧
    termInt 4 10 (.fin false (3 / 1024)) = some 0x300000 ∧ termInt 4 10 (.fin true 1048576) = some (-0x4000000000000) ∧
    termInt 4 10 (.fin true (1 / 1024)) = some (-0x100000) ∧ rho 0xFFFC000000000000 = 252 ∧ rho 0xFFFFFFFFFFF00000 = 240 ∧
    rho 0x00000000C0300000 = 240 := by decide +kernel
theorem test_combine_sum :
    addWord 0xC0000000 0x300000 192 = (0xC0300000, 240) ∧ addWord 0xC0300000 0xFFFC000000000000 240 = (0xFFFC0000C0300000, 237) ∧
    (addWord 0xFFFC0000C0300000 0x0004000000000000 237).1 = 0xC0300000 ∧
    (addWord 0xC1300000 0xFFFFFFFFFFF00000 241).1 = 0xC1200000 ∧ rho 0xC1200000 = 225 ∧
    roundRow false 10 [0xC1200000] = [0x41, 0x40] := by decide +kernel

/-- Position 94 of 13 (R295): parent 23, level-1 ancestor 1; position 150 lies under 2. -/
theorem test_tree_positions : parentPos 94 = 23 ∧ level1 94 = 1 ∧ level1 150 = 2 := by decide

/-- 15: the lowest free buffer of class 3 where 0 to 2 of the summary's leaves and 0 to 4 of leaf 3 are taken is 197; 240 B take 4 cells. -/
theorem test_pool_and_cells : lowestFree 4096 (List.range 197) = some 197 ∧ itemCells 240 = 4 ∧ classOf 16384 = 3 ∧ classOf 16385 = 4 := by
  decide +kernel

/-- 08's ATOMIC example: 16,777,216 + 1 + 1 in FP32 stays; 1 + 1 + 16,777,216 is 16,777,218 (R188). -/
theorem test_fp32_order :
    (FV.add (FV.add (.fin false 16777216) (.fin false 1)).rn32 (.fin false 1)).rn32 = .fin false 16777216 ∧
    (FV.add (FV.add (.fin false 1) (.fin false 1)).rn32 (.fin false 16777216)).rn32 = .fin false 16777218 := by decide +kernel

/-- 02's block: 0.104 lies under 7 × 2^(−6) and not under 7 × 2^(−7) (R33). -/
theorem test_quant_exp : quantExp (104 / 1000) = -6 := by decide +kernel

/-- 07's softmax: EXP(−2.0) is 0.135335 to FP32, RCP(2.503214) about 0.399486 (R155). -/
theorem test_exp : builtin fnExp .rn fp32 (.fin true 2) = 0x3E0A9555 := by decide +kernel

/-- 11's example (R254, R317): a frame 21 numbers ahead across the wrap of SEQ. -/
theorem test_serial_wrap : serial 32 0xFFFFFFF0 5 = .before ∧ serial 32 5 0xFFFFFFF0 = .after ∧
    serial 32 0 0x80000000 = .undefined := by decide

/-- The check value of CRC-32C (R101): the nine digits give 0xE306_9283. -/
theorem test_crc : crc32c [0x31, 0x32, 0x33, 0x34, 0x35, 0x36, 0x37, 0x38, 0x39] = 0xE3069283 := by decide +kernel

/-- No row of the table has bits. -/
theorem test_no_words : decodeTableWord 8 0 = none := rfl

/-! ### Witnesses: the block as a whole -/

theorem test_witness_StepRunsFront : ({ live with pending := [.nop 0] } : State).pending = .nop 0 :: [] := rfl
theorem test_witness_EmptyQueueTicks : (live.pending = [] ∧ live.boot.powered = true ∧ live.power.state = .run ∧ live.power.stepped = false) ∧
    dark.pending = [] ∧ dark.boot.powered = false ∧ ({ live with power := { stepped := true } } : State).power.stepped = true ∧
    (∀ d ∈ [PowerState.light, .deep], (sleeping d false).pending = [] ∧ (sleeping d false).boot.powered = true ∧
      (sleeping d false).power.state = d) := by decide +kernel
theorem test_witness_MemoryFormKept : Memory.wf [(5, 7)] ∧ ∃ t, step { live with mem := [(5, 7)], pending := [.nop 0] } = .next t :=
  ⟨by decide +kernel, _, rfl⟩
theorem test_witness_Resets : dark.boot.powered = false ∧ live.boot.powered = true := by decide +kernel
theorem test_witness_HeldMemberIsInert : ({ heldS with pending := [.nop 0] } : State).heldWith heldS.effects ∧
    ∃ t, step { heldS with pending := [.nop 0] } = .next t :=
  ⟨⟨rfl, ⟨rfl, by decide +kernel⟩, rfl, by decide +kernel⟩, _, rfl⟩
theorem test_witness_ClockLossHolds : live.boot.powered = true ∧ live.held = false ∧ live.power.pllLock = true ∧
    live.power.refAbsent = false ∧ heldS.boot.powered = true ∧ heldS.held = true ∧ heldS.power.pllLock = false ∧
    ({ live with power := { pllLock := true, refAbsent := true } } : State).power.refAbsent = true ∧
    ({ live with ledger := { refLoss := true } } : State).power.refAbsent = false := by decide +kernel
theorem test_witness_UnpoweredBlockIsInert : ({ dark with pending := [.nop 0] } : State).darkWith dark.effects ∧
    ∃ t, step { dark with pending := [.nop 0] } = .next t := by
  refine ⟨⟨rfl, rfl, ?_⟩, _, rfl⟩
  intro c hc m; simp at hc; subst hc; exact fun h => by cases h
theorem test_witness_RegistersChangeOnlyByRequests : isRequest .ledgerRaise = false ∧ resets .ledgerRaise = false ∧
    (∀ b, Instr.ledgerRaise ≠ .imagePass1 b) ∧ Instr.ledgerRaise ≠ .wakeComplete ∧ Instr.ledgerRaise ≠ .deepWake ∧
    (∀ st, Instr.ledgerRaise ≠ .hostWriteResponse .save st) ∧
    (∀ lost, (false, HostCtx.save) ∈ lost → Instr.ledgerRaise ≠ .hpRstN lost) ∧ (∃ t, exec .ledgerRaise live = .next t) ∧
    (∃ t, exec .keystoneRelease live = .next t) ∧ live.power.state ≠ .light :=
  ⟨rfl, rfl, (fun _ h => by cases h), (fun h => by cases h), (fun h => by cases h), (fun _ h => by cases h), (fun _ _ h => by cases h), ⟨_, rfl⟩,
    ⟨_, rfl⟩, by decide⟩
theorem test_witness_TestInstruction : testSelect (.ijtagAccess (.loopback 0) true) = some 0x24 ∧ testSelect (.nop 0) = none ∧ resets (.nop 0) = false ∧
    (∀ a, Instr.nop 0 ≠ .trstN a) ∧ (∀ i, Instr.nop 0 ≠ .ijtagAccess i false) ∧ live.testWorks = true ∧ dark.testWorks = false ∧
    ({ live with testReset := true } : State).testWorks = false ∧ (∃ t, exec (.nop 0) live = .next t) :=
  ⟨rfl, rfl, rfl, (fun _ h => by cases h), (fun _ h => by cases h), rfl, rfl, rfl, _, rfl⟩

/-- IDCODE over TDR: version 3, part 0xD053 and the tie-off, bit 0 set (R409). -/
theorem test_idcode : idcodeWord.toNat / 2 ^ 12 = 0x3D053 ∧ idcodeWord.toNat % 2 = 1 := by
  unfold idcodeWord
  have h : ∀ m : BitVec 11, (0x3D053001 ||| (m.setWidth 32 <<< 1) : BitVec 32).toNat / 2 ^ 12 = 0x3D053 ∧
      (0x3D053001 ||| (m.setWidth 32 <<< 1) : BitVec 32).toNat % 2 = 1 := by decide +kernel
  exact h _
theorem test_witness_MemoryReadAfterWrite : (hostTop - 1) + [(7 : Byte)].length ≤ hostTop := by decide +kernel
theorem test_witness_WhatFollowsACommand : live.noPass ∧ (passing (seqAt 0 [])).held = false ∧ dark.awake = false ∧
    (sleeping .light false).awake = false ∧ Memory.wf live.mem := ⟨⟨rfl, rfl, rfl⟩, by decide +kernel⟩

/-! ### Witnesses: the target port -/

theorem test_witness_NotServedAtOnce :
    (State.reset.boot.powered = true ∧ State.reset.serving = false ∧ isRequest (.flush 1) = true ∧
      bellOf (.signalDoorbell 2 0x200) = some (.signal 2 0x200)) ∧ State.reset.noPass ∧
    (∀ d ∈ [PowerState.light, .deep], (sleeping d false).boot.powered = true ∧ (sleeping d false).serving = true ∧
      (sleeping d false).power.state ≠ .run) ∧
    (List.replicate 63 (KeptBell.signal 2 0x200)).length < 64 ∧
    (let s : State := { sleeping .light false with power := { state := .light, deepPending := true } }
     s.boot.powered = true ∧ s.serving = true ∧ s.power.state ≠ .run ∧ s.power.deepPending = true) :=
  ⟨by decide +kernel, ⟨rfl, rfl, rfl⟩, by decide +kernel⟩
theorem test_witness_RegisterWrites : live.servesNow ∧
    (∀ w ∈ [(⟨0x5008, 3, 0⟩ : PortWrite), ⟨0xE85C, 2, 0⟩, ⟨0xE858, 2, 0⟩], w.off.toNat / 8 * 8 ∈ plainWords ∧
      (w.size = 3 ∧ w.off.toNat % 8 = 0 ∨ w.size = 2 ∧ w.off.toNat % 4 = 0)) ∧
    (∀ w ∈ [(⟨0x5004, 3, 0⟩ : PortWrite), ⟨0x5002, 2, 0⟩, ⟨0x5000, 1, 0⟩, ⟨0x5000, 7, 0⟩],
      w.off.toNat % 2 ^ w.size.toNat ≠ 0 ∨ w.size.toNat < 2 ∨ 6 < w.size.toNat) := ⟨live_serves, by decide +kernel⟩
/-- Each guarded word with a value just below its limit and one at it; each word behind a selector; the first and the last staged word. -/
theorem test_witness_RegisterWrites_words :
    (∀ x ∈ [((0x1008 : BitVec 20), 32, 125), (0x1010, 0, 125), (0x3008, 0, 125), (0xE810, 0, 1250), (0xE818, 0, 1250), (0xE848, 0, 1250)],
      (x.1.toNat, x.2.1, x.2.2) ∈ [(0x1008, 32, 125), (0x1010, 0, 125), (0x3008, 0, 125), (0xE810, 0, 1250), (0xE818, 0, 1250), (0xE848, 0, 1250)] ∧
      (BitVec.ofNat 512 ((x.2.2 - 1) * 2 ^ x.2.1)).toNat / 2 ^ x.2.1 % 2 ^ 32 < x.2.2 ∧
      ¬ (BitVec.ofNat 512 (x.2.2 * 2 ^ x.2.1)).toNat / 2 ^ x.2.1 % 2 ^ 32 < x.2.2) ∧
    (∀ o ∈ [0xC010, 0xC018, 0xC020, 0xC028, 0xC030], (BitVec.ofNat 20 o).toNat = o) ∧
    (∀ o ∈ [0x6800, 0x6FF8], (BitVec.ofNat 20 o).toNat = o ∧ 0x6800 ≤ o ∧ o < 0x7000 ∧ o % 8 = 0) ∧
    ((8 : BitVec 512).toNat % 16 ≤ 8 ∧ ¬ (9 : BitVec 512).toNat % 16 ≤ 8) ∧ 0x3004 % 2 ^ 3 ≠ 0 ∧ 0x5008 ∈ plainWords ∧
    (BitVec.ofNat 64 (rwMask 0x5008)).getLsbD 42 = true ∧ (∀ o ∈ [0x20100, 0x20FF8], 0x20100 ≤ o ∧ o < 0x21000 ∧ o % 8 = 0) := by decide +kernel
theorem test_witness_SagTimesBelow125Ignored : live.servesNow ∧ ∀ w ∈ [(⟨0x0100C, 2, 124⟩ : PortWrite), ⟨0x01010, 2, 0⟩],
    w.size = 2 ∧ (w.off = 0x0100C ∨ w.off = 0x01010) ∧ w.data.toNat % 2 ^ 32 < 125 := ⟨live_serves, by decide +kernel⟩
theorem test_witness_SagTimesBelow125Ignored_whole_word : live.servesNow ∧
    (⟨0x01008, 3, 0x7CFFFFFFFF⟩ : PortWrite).data.toNat / 2 ^ 32 % 2 ^ 32 < 125 ∧ (⟨0x01010, 3, 0x10000007C⟩ : PortWrite).data.toNat % 2 ^ 32 < 125 :=
  ⟨live_serves, by decide +kernel⟩

/-- SUSTAIN_TB at its smallest value is taken, and one below is not (R467). -/
theorem test_sustain_tb : (match exec (.registerWrite ⟨0x0100C, 2, 125⟩) live with
      | .next t => t.reg 0x100C 0 32
      | _ => 0) = 125 ∧
    (match exec (.registerWrite ⟨0x0100C, 2, 124⟩) live with
      | .next t => t.reg 0x100C 0 32
      | _ => 0) = 1250 := by decide +kernel

/-! ### Witnesses: sequencers -/

/-- A pass of program 0 whose sequencer 3 holds x; the program has 8 code words at 0x1000 and 16 shape words at 0x2000, of which word 1
(CHUNKS) holds n. -/
def shaped (x : Sequencer) (n : Nat) : State :=
  ({ live with
      att := { tokens := some 10, chunks := some 1 },
      sched := { seqs := [(3, x)], programs := [(0, { image := { codeWords := 8, codeBase := 0x1000, shapeBase := 0x2000, shapeWords := 16 } })] }
    } : State).writeLe 0x2008 8 (shapeWord n 7 0x5101)

theorem shaped_issuing (x : Sequencer) (n : Nat) (h : x.issues = true) : (shaped x n).issuing 3 x := ⟨rfl, rfl, h⟩

theorem test_witness_SequencerWaits :
    (passing (seqAt 0 [])).issuing 3 (seqAt 0 []) ∧ (∀ i ∈ [issued 0 .scoringFront none .done], i.prog = .done) ∧
    (∃ i ∈ [issued 0 .scoringFront none .started], i.prog ≠ .done) ∧
    chunkOf (seqAt 0 []) (255 : BitVec 9).toNat = some 255 ∧ (passing (seqAt 0 [])).bellIn (seqAt 0 []) 255 = false ∧
    (((shaped (seqAt 0 []) 1).chunksOf (seqAt 0 [])).any (· ≤ 255) = true ∧ (seqAt 0 []).tail = false ∧
      ((passing (seqAt 0 [])).chunksOf (seqAt 0 [])).any (· ≤ 255) = false) ∧
    (let x : Sequencer := { seqAt 0 [] with tail := true, rung := [0], loops := [⟨1, 2, 0, 5⟩] }
     chunkOf x (256 : BitVec 9).toNat = some 0 ∧ ((passing x).chunksOf x).any (· ≤ 0) = false ∧ (passing x).bellIn x 0 = true ∧
     x.issues = true) :=
  ⟨passing_issuing _ rfl, by decide +kernel⟩

theorem test_witness_Loops : (shaped (seqAt 0 []) 4).issuing 3 (seqAt 0 []) ∧ (seqAt 0 []).tail = false ∧
    (16 : BitVec 16) ≠ 0 ∧ (1 : BitVec 11) ≠ 0 ∧ (seqAt 0 []).loops.length < 4 ∧
    (∀ n ∈ [0, 1, 16, 17], (shaped (seqAt 0 []) n).readShape (1 : BitVec 21).toNat = .word n 0x5101) ∧
    (let x : Sequencer := { seqAt 2 [] with loops := [⟨1, 2, 3, 5⟩] }
     x.issues = true ∧ x.loops = ⟨1, 2, 3, 5⟩ :: [] ∧ (⟨1, 2, 3, 5⟩ : LoopFrame).last = x.pc) ∧
    (let x : Sequencer := { seqAt 0 [] with tail := true }
     x.issues = true ∧ x.tail = true) :=
  ⟨shaped_issuing _ _ rfl, by decide +kernel⟩

theorem test_witness_ShapeInstructions : (shaped (seqAt 0 []) 4).issuing 3 (seqAt 0 []) ∧ (seqAt 0 []).tail = false ∧
    (∀ d ∈ [8, 15], ownWord (BitVec.ofNat 21 d).toNat = false ∧
      field (BitVec.ofNat 21 d).toNat 0 20 < ((shaped (seqAt 0 []) 4).prog (seqAt 0 []).prog).image.shapeWords) ∧
    (shaped (seqAt 0 []) 4).readShape (1 : BitVec 21).toNat = .word 4 0x5101 ∧
    (shaped (seqAt 0 []) 4).readShape (9 : BitVec 21).toNat = .wait :=
  ⟨shaped_issuing _ _ rfl, by decide +kernel⟩

/-- SHAPE COPY stores the value with the tag of the source word and the pass's generation (R221). -/
theorem test_shape_copy : (match exec (.shapeCopy 3 8 1) (shaped (seqAt 0 []) 4) with
      | .next t => t.readLe 0x2040 8
      | _ => 0) = 0x5101000700000004 := by decide +kernel

def tailSeq : Sequencer := { seqAt 0 [] with tail := true, sealing := true }

theorem test_witness_SealSignalAndHalt :
    (passing (seqAt 0 [])).issuing 3 (seqAt 0 []) ∧ (seqAt 0 []).tail = false ∧ (seqAt 0 []).loops = [] ∧
    sourceOk (0x20 : BitVec 10).toNat = true ∧ sourceOk (0x1FF : BitVec 10).toNat = true ∧ (seqAt 0 []).slotAt = none ∧
    (seqAt 0 []).vote = none ∧ ({ seqAt 0 [] with vote := some 0x30 } : Sequencer).vote = some 0x30 ∧
    ({ seqAt 0 [] with vote := some 0x30, slotAt := some 5 } : Sequencer).issues = true ∧
    (0x20 ≤ (0x20 : BitVec 10).toNat ∧ (0x1FF : BitVec 10).toNat < 0x200) ∧
    (passing tailSeq).issuing 3 tailSeq ∧ tailSeq.tail = true ∧ ((passing tailSeq).prog tailSeq.prog).state ≠ .running ∧
    (let s : State := { passing tailSeq with sched := { seqs := [(3, tailSeq)], programs := [(0, { state := .running })] } }
     s.endsProgram tailSeq = false ∧ (s.prog tailSeq.prog).state = .running) ∧
    (let s := (shaped tailSeq 4).writeLe 0x1000 8 0x3100000000000001
     s.endsProgram tailSeq = true) := by
  refine ⟨passing_issuing _ rfl, ?_, ?_, ?_, ?_, ?_, ?_, ?_, ?_, ?_, passing_issuing _ rfl, ?_⟩ <;> decide +kernel

/-- A code word at the sequencer's place, for each engine instruction and sequencer instruction. -/
def coded (w : Nat) : State := (shaped (seqAt 0 []) 4).writeLe 0x1000 8 w

theorem coded_issuing (w : Nat) : (coded w).issuing 3 (seqAt 0 []) := ⟨rfl, rfl, rfl⟩

/-- NORM of chunk 0 (0x10), from the reference program with CH 0: all checks pass, and the queue has room. -/
theorem test_witness_InstructionIssue : (coded 0x1000000000000000).issuing 3 (seqAt 0 []) ∧
    (let s := coded 0x1000000000000000; let x := seqAt 0 []; let w := 0x1000000000000000
     let r := s.modSeq 3 (fun y => { y with declared := max y.declared (classOfWord w) })
     x.pc < (s.prog x.prog).image.codeWords ∧ s.codeWord (s.prog x.prog).image x.pc = w ∧ engineOf (opOf w) = some .scoringFront ∧
     (if hasChunk (opOf w) then chunkOf x (chRef w) else none).isSome = true ∧ r.queued .scoringFront < 256 ∧
     (r.groupOk x w && r.classOk w && r.producersOk x.instrs (opOf w) (some 0) && r.statsOk x w) = true ∧
     -- SCORE before its NORM
     (r.groupOk x 0x1100000000000000 && r.classOk 0x1100000000000000 &&
       r.producersOk x.instrs (opOf 0x1100000000000000) (some 0) && r.statsOk x 0x1100000000000000) = false) ∧
    256 ≤ (passing (seqAt 0 (List.replicate 256 (issued 0 .scoringFront none .waiting)))).queued .scoringFront :=
  ⟨coded_issuing _, by decide +kernel⟩
theorem test_witness_IssueRunsSequencerInstructions : ∀ w ∈ [0, 0x0100000000000000, 0x0200000000000000, 0x0200000000000001,
    0x0200000000000002, 0x0300000000000420, 0x080000A002000001, 0x0900000000000000, 0x0A00000000000008, 0x0A00040000000008,
    0x3000000000000020, 0x3100000000000000],
    (coded w).codeWord ((coded w).prog 0).image 0 = w ∧ 0 < ((coded w).prog 0).image.codeWords := by decide +kernel

/-- The reference program's LOOP begins its body with index 0 (R223); SIGNAL of 0x020 fires it when it is enabled. -/
theorem test_issue_loop : (match exec (.instructionIssue 3) (coded 0x080000A002000001) with
      | .next t => (t.seq 3).map (fun x => (x.pc, x.loops))
      | _ => none) = some (1, [⟨1, 6, 0, 4⟩]) := by decide +kernel

/-! ### Witnesses: engines -/

/-- The head of an engine's queue is an instruction that can start, as a check that evaluates. -/
def headOk (s : State) (e : Engine) (op : Nat) (sub : Option Nat) (q k : Nat) (x : Sequencer) (i : Issued) : Bool :=
  s.awake && decide ((s.engineQueue e).head? = some (q, k, i)) && decide (s.seq q = some x) && decide (i.prog = .waiting) &&
  decide (i.op = op) && (match sub with
    | some o => decide (s.readLe (recordOf i.word.toNat) 1 = o)
    | none => true) && s.inputsIn x k i

theorem headRuns_of {s e op sub q k x i} (h : headOk s e op sub q k x i = true) : s.headRuns e op sub q k x i := by
  simp only [headOk, Bool.and_eq_true, decide_eq_true_eq] at h
  obtain ⟨⟨⟨⟨⟨⟨h1, h2⟩, h3⟩, h4⟩, h5⟩, h6⟩, h7⟩ := h
  refine ⟨h1, h2, h3, h4, h5, ?_, h7⟩
  intro o ho; subst ho; simpa using h6

/-- A pass of 10 tokens in 1 chunk, whose doorbell is in, with these instructions issued; the record at 64 × n begins with byte n. -/
def working (l : List Issued) : State :=
  { live with
    mem := [(64, 1), (128, 2), (192, 3), (256, 4), (320, 5), (384, 6)]
    att := { tokens := some 10, chunks := some 1 }
    sched := { seqs := [(3, seqAt 8 l)], programs := [(0, { bells := [⟨0, 0, 0⟩] })] } }

def opWord (op r : Nat) : BitVec 64 := BitVec.ofNat 64 (op * 2 ^ 56 + r)

/-- Each engine command, the engine, opcode and OP of its instruction, and the instruction that must have completed before. -/
def engineCases : List (Instr × Engine × Nat × Option Nat × Option Nat × List Issued) :=
  let after (op : Nat) (c : Option Nat) : List Issued := [issued (opWord op 0) .exchange c .done]
  [(.norm, .scoringFront, 0x10, none, some 0, []), (.score [], .sketch, 0x11, none, some 0, after 0x10 (some 0)),
   (.rescore [], .exact, 0x12, none, some 0, after 0x11 (some 0)), (.select, .ranking, 0x13, none, some 0, after 0x12 (some 0)),
   (.count, .exchange, 0x14, none, none, after 0x13 (some 0)), (.grant, .exchange, 0x15, none, none, after 0x14 none),
   (.sort, .exchange, 0x18, none, some 0, after 0x15 none), (.dispatch, .transport, 0x19, none, some 0, after 0x18 (some 0)),
   (.tiles, .tileEngine, 0x1A, none, none, after 0x19 (some 0)), (.ret, .transport, 0x1B, none, none, after 0x1A none),
   (.combine, .combine, 0x1C, none, none, after 0x15 none), (.combineAr, .combine, 0x1D, none, none, after 0x15 none),
   (.reduceAr, .collective, 0x20, none, none, []), (.stats, .collective, 0x21, none, none, []),
   (.convert, .layout, 0x28, some 0, none, []), (.transpose [], .layout, 0x28, some 1, none, []),
   (.scatter, .layout, 0x28, some 2, none, []), (.gather, .layout, 0x28, some 3, none, []),
   (.blocksOut, .layout, 0x28, some 4, none, []), (.blocksIn, .layout, 0x28, some 5, none, []),
   (.routerQuantise, .layout, 0x28, some 6, none, []), (.map [], .function, 0x29, some 0, none, []),
   (.gateAct [], .function, 0x29, some 1, none, []), (.softmax [], .function, 0x29, some 2, none, []),
   (.fetch, .tier, 0x2A, none, none, [])]

theorem engineCases_ok : ∀ t ∈ engineCases, engineCommand t.1 = some (t.2.1, t.2.2.1, t.2.2.2.1) ∧
    headOk (working (t.2.2.2.2.2 ++ [issued (opWord t.2.2.1 (t.2.2.2.1.getD 0)) t.2.1 t.2.2.2.2.1 .waiting])) t.2.1 t.2.2.1 t.2.2.2.1 3
      t.2.2.2.2.2.length (seqAt 8 (t.2.2.2.2.2 ++ [issued (opWord t.2.2.1 (t.2.2.2.1.getD 0)) t.2.1 t.2.2.2.2.1 .waiting]))
      (issued (opWord t.2.2.1 (t.2.2.2.1.getD 0)) t.2.1 t.2.2.2.2.1 .waiting) = true := by decide +kernel

theorem test_witness_EngineInstructions (t : Instr × Engine × Nat × Option Nat × Option Nat × List Issued) (ht : t ∈ engineCases) :
    engineCommand t.1 = some (t.2.1, t.2.2.1, t.2.2.2.1) ∧ ∃ (s : State) (q k : Nat) (x : Sequencer) (i : Issued), s.headRuns t.2.1 t.2.2.1 t.2.2.2.1 q k x i :=
  ⟨(engineCases_ok t ht).1, _, _, _, _, _, headRuns_of (engineCases_ok t ht).2⟩
theorem test_engines_all : engineCases.map (·.1) = [.norm, .score [], .rescore [], .select, .count, .grant, .sort, .dispatch, .tiles, .ret,
    .combine, .combineAr, .reduceAr, .stats, .convert, .transpose [], .scatter, .gather, .blocksOut, .blocksIn, .routerQuantise,
    .map [], .gateAct [], .softmax [], .fetch] := by decide +kernel

/-- Allocation 0 is live, 4,096 B at 0x100000; these descriptors are live. -/
def laid (descs : List Nat) : State :=
  (({ live with layout := { allocs := [0], descs := descs } } : State).writeLe 0 8 0x100000).writeLe 8 8 4096

/-- Chunk 0 holds a valid token and an invalid one, against one expert of 32 channels: layer table at 0x4000, s_T 1, INT4 section at 0x8000 with
L1 byte 0xFF. -/
def scored0 : State :=
  let s : State := { live with att := { table := 0x4000, tokens := some 2, score := [(0, [{ nonfinite := true, pairs := [⟨0x3F800000, 0, false⟩] },
    { invalid := true }])] } }
  (((((s.writeLe 0x4002 2 2).writeLe 0x4040 8 0x8000).writeLe 0x4060 4 0x3F800000).writeLe 0x406C 2 32).writeLe 0x406E 2 1).writeLe 0x8220 1 0xFF
theorem test_witness_EngineInstructions_scores : scored0.scoring.ok = true ∧ ((Tab.get? scored0.att.score 0).getD []).length = (scored0.chunkRange 0).length ∧
    (((Tab.get? scored0.att.score 0).getD []).map (fun x => (x.invalid, x.nonfinite, x.outliers.length))) = [(false, true, 0), (true, false, 0)] ∧
    (scored0.sketchBlock scored0.scoring 0 0).l1 = 0xFF := by decide +kernel
theorem test_witness_EngineInstructions_sums : (∀ p ∈ [FV.fin true 0, .fin true 0], p.isFin = true ∧ p = .fin true 0) ∧
    FV.mul (.inf false) .zero = .nan ∧ FV.mul (.inf true) (.fin false 1) = .inf true ∧ FV.mul (.inf true) (.fin true 1) = .inf false := by decide +kernel

/-- A descriptor record of rank 1 or 2 in allocation 0, with its CHECK. -/
def descRec (base n m fmt rank : Nat) : List Byte :=
  let b := leBytes 8 base ++ leBytes 4 n ++ leBytes 4 m ++ leBytes 4 1 ++ leBytes 4 1 ++ leBytes 8 (4 * n) ++ List.replicate 16 0 ++ leBytes 2 0 ++
    leBytes 1 fmt ++ leBytes 1 rank ++ List.replicate 8 0
  b ++ leBytes 4 (crc32c b).toNat
/-- Descriptors 0 to 4 (8 × 2, 8 × 2, 2 × 8, a list of 2, 8 × 2) and the move record at 0x2000. -/
def moveOf (op dst index : Nat) : State :=
  ((((((laid [0, 1, 2, 3, 4]).write 32768 (descRec 0x100000 8 2 0 2)).write 32832 (descRec 0x100100 8 2 0 2)).write 32896
    (descRec 0x100200 2 8 0 2)).write 32960 (descRec 0x100300 2 1 5 1)).write 33024 (descRec 0x100400 8 2 0 2)).writeLe 0x2000 10
      (op + dst * 2 ^ 32 + index * 2 ^ 48 + 0xFFFF * 2 ^ 64)
theorem test_witness_EngineInstructions_moves : ∀ r ∈ [(opConvert, 1, 0xFFFF), (opTranspose, 2, 0xFFFF), (opGather, 4, 3)],
    let s := moveOf r.1 r.2.1 r.2.2
    let m := MoveRec.parse (s.read 0x2000 64)
    m.legal 1 = true ∧ m.op = r.1 ∧ m.op ≠ opRouter ∧ ((s.moveArgs m).any (fun a => a.fits m && !(a.clash m) && a.index.isSome == (r.2.2 == 3))) = true := by
  decide +kernel
theorem test_witness_EngineInstructions_conversions : 448 < e4m3.roundMag .rn false 480 ∧ (List.replicate 32 FV.nan).length = 32 ∧
    FV.nan.isFin = false ∧ 6 ≤ 9 := by decide +kernel

/-- A job of one row of 2 FP32 elements at 0x100000, its record at 0x3000. -/
def jobOf (op y : Nat) : State :=
  (((((laid []).writeLe 0x3000 2 (op + 256)).writeLe 0x3004 4 2).writeLe 0x3008 4 1).writeLe 0x3010 8 0x100000).write 0x3018 (leBytes 8 0x100200 ++ leBytes 8 y)
theorem test_witness_EngineInstructions_jobs : ∀ x ∈ [(3, 0x100100, false, true, false), (0, 0x200000, true, false, false), (0, 0x100004, true, true, true),
      (0, 0x100100, true, true, false), (1, 0x100100, true, true, false)],
    let s := jobOf x.1 x.2.1
    let j := FuncJob.parse (s.read 0x3000 64)
    s.jobLegal j = x.2.2.1 ∧ (s.insideAlloc j.a j.runA.span && s.insideAlloc j.y j.runY.span && s.insideAlloc j.b j.runB.span) = x.2.2.2.1 ∧
    (j.runY.badOverlap j.runA || (j.op == 1 && j.runY.badOverlap j.runB)) = x.2.2.2.2 := by decide +kernel
theorem test_witness_EngineInstructions_terms :
    (let a : Accum := { eTok := 10, words := [5, 0xFFFFFFFFFFFFFFFF], residues := wordResidues [5, 0xFFFFFFFFFFFFFFFF] }
     let s : State := { live with att := { comb := { accs := [(7, a)] } } }
     Tab.get? s.att.comb.accs 7 = some a ∧ a.words.length = [FV.fin false 3, .fin true 3].length ∧
     ∀ p ∈ [FV.fin false 3, .fin true 3].zip [(3221225472 : Int), -3221225472], p.1.isFin = true ∧ p.2 = rnInt (p.1.rat / pow2 (a.eTok - 40)) ∧
       p.2.natAbs < 2 ^ (62 - guardBits s.selection.kMax)) ∧ FV.nan.isFin = false := by decide +kernel
theorem test_witness_EnginesWaitTheirTurn : (live.engineQueue .sketch).head? = none ∧
    (let i := issued (opWord 0x11 0) .sketch (some 0) .waiting; let s := working [i]
     (s.engineQueue .sketch).head? = some (3, 0, i) ∧ s.seq 3 = some (seqAt 8 [i]) ∧ s.inputsIn (seqAt 8 [i]) 0 i = false ∧ i.op ≠ Op.norm) ∧
    (let i := issued (opWord 0x28 3) .layout none .started; let s := working [i]
     (s.engineQueue .layout).head? = some (3, 0, i) ∧ i.prog ≠ .waiting ∧ s.readLe (recordOf i.word.toNat) 1 ≠ 4 ∧
     reservedSub Op.move (s.readLe (recordOf i.word.toNat) 1) = false) := by decide +kernel

/-- An instruction in its turn completes: SORT is done after its command (R217). -/
theorem test_sort_completes : (match exec .sort (working [issued (opWord 0x15 0) .exchange none .done,
      issued (opWord 0x18 0) .exchange (some 0) .waiting]) with
      | .next t => ((t.seq 3).map (fun x => x.instrs.map (·.prog))).getD []
      | _ => []) = [.done, .done] := by decide +kernel

/-! ### Witnesses: programs -/

/-- A program image at 0x100: two code words, SEAL and HALT, one entry of 1,000 tb, eight shape words. PLAN_PROG names program 1. -/
def imaged : State :=
  let s : State := { live with regs := [(0xE000 / 8, 0x100), (0xEC08 / 8, 1 + 256 * 2 ^ 32)] }
  let s := ((((s.writeLe 0x100 4 0x00030002).writeLe 0x104 2 2).writeLe 0x106 2 1).writeLe 0x108 8 0x200).writeLe 0x110 8 0x300
  let s := ((s.writeLe 0x118 8 0x400).writeLe 0x120 8 0x800).writeLe 0x128 4 8
  ((s.writeLe 0x200 8 0x0300000000000000).writeLe 0x208 8 0x3100000000000000).writeLe 0x304 4 1000

theorem imaged_serves : imaged.servesNow := ⟨rfl, rfl, rfl, rfl, rfl⟩

def inState (x : ProgState) : State := { live with sched := { programs := [(0, { state := x })] } }

theorem inState_serves (x : ProgState) : (inState x).servesNow := ⟨rfl, rfl, rfl, rfl, rfl⟩

theorem test_witness_ProgramLoad : live.servesNow ∧ imaged.servesNow ∧ (1 : BitVec 32).toNat % 8 = 1 ∧
    ((inState .running).prog 0).state = .running ∧ ((inState .stopping).prog 0).state = .stopping ∧
    (live.prog 0).state ≠ .running ∧ (live.prog 0).state ≠ .stopping ∧
    live.loadFail 0 (ProgImage.parse (live.read (live.progImageAddr 0) 64)) = some { reason := 1, index := 0xFFFF, entry := false } ∧
    imaged.loadFail 0 (ProgImage.parse (imaged.read (imaged.progImageAddr 0) 64)) = none ∧
    (∀ x ∈ [(LoadRead.header, (0xFFFF, false)), (.entry 0, (0, true)), (.code 1, (1, false))],
      imaged.ok.loadFail 0 (ProgImage.parse (imaged.read (imaged.progImageAddr 0) 64)) (some x.1) =
        some { reason := 11, index := x.2.1, entry := x.2.2 }) :=
  ⟨live_serves, imaged_serves, by decide +kernel⟩
theorem test_witness_ProgramStartAndStop : (∀ x, (inState x).servesNow) ∧ ((inState .loaded).prog 0).state = .loaded ∧
    ((inState .stopped).prog 0).state = .stopped ∧ ((inState .running).prog 0).state = .running ∧
    ((inState .empty).prog 0).state ≠ .loaded ∧ ((inState .empty).prog 0).state ≠ .stopped ∧
    (2 : BitVec 32).toNat % 8 = 2 ∧ (4 : BitVec 32).toNat % 8 = 4 ∧ (3 : BitVec 32).toNat % 8 ∉ [1, 2, 4] :=
  ⟨inState_serves, by decide +kernel⟩

/-- LOAD of the image makes the program LOADED; a second command bit makes the write do nothing (R204, R205). -/
theorem test_load : (match exec (.load 0 1) imaged with
      | .next t => (t.prog 0).state
      | _ => .empty) = .loaded ∧ (match exec (.load 0 3) imaged with
      | .next t => (t.prog 0).state
      | _ => .loaded) = .empty := by decide +kernel

/-- Program 0 with one pass list entry, not open. -/
def entered (l : List ChunkBell) : State :=
  { live with sched := { programs := [(0, { state := .running, image := { passes := 1 }, bells := l })] } }

theorem test_witness_ChunkDoorbell : (entered []).servesNow ∧ (entered []).openSeq = none ∧ (entered []).sched.next = none ∧
    ((entered []).prog 0).state ≠ .empty ∧ ((entered []).prog 0).state ≠ .fault ∧ (⟨0, 0, 0⟩ : ChunkBell) ∉ ((entered []).prog 0).bells ∧
    ((entered []).placeOf 0 false).entry = 0 ∧ ((entered []).placeOf 0 false).steps % 4096 = 0 ∧
    (⟨0, 0, 0⟩ : ChunkBell) ∈ ((entered [⟨0, 0, 0⟩]).prog 0).bells ∧ ((entered []).placeOf 0 false).entry ≠ 4095 :=
  ⟨⟨rfl, rfl, rfl, rfl, rfl⟩, by decide +kernel⟩

/-- An open attempt: GEN 7, attempt 0; one tile has entered; the layer table at 0x4000 names a shared term. -/
def opened (done : List Nat) (sh : Bool) (bells : List Nat) : State :=
  { live with
    mem := [(0x40F9, 1)]
    att := { table := 0x4000, entered := 1, doneTiles := done, collBells := bells, comb := { shared := sh } }
    sched := { seqs := [(3, seqAt 0 [])], curGen := 7, curLayer := 1 } }

theorem opened_serves (d s b) : (opened d s b).servesNow := ⟨rfl, rfl, rfl, rfl, rfl⟩

theorem test_witness_AttemptDoorbells : (∀ d s b, (opened d s b).servesNow) ∧ (opened [] false []).openSeq = some (seqAt 0 []) ∧
    (seqAt 0 []).prog = 0 ∧ (seqAt 0 []).aborted = false ∧ (0 : BitVec 32).toNat / 2 ^ 24 % 4 = (seqAt 0 []).attempt.toNat ∧
    0 < (opened [] false []).att.entered ∧ 0 ∉ (opened [] false []).att.doneTiles ∧ 0 ∈ (opened [0] false []).att.doneTiles ∧
    (opened [] false []).att.entered ≤ 1 ∧ (7 : BitVec 32).toNat % 2 ^ 16 = (seqAt 0 []).gen.toNat ∧
    (opened [] false []).combineBlock.shared ≠ 0 ∧ (opened [] false []).att.comb.shared = false ∧
    (opened [] true []).att.comb.shared = true ∧ 0 ∉ (opened [] false []).att.collBells ∧ 0 ∈ (opened [] false [0]).att.collBells ∧
    ({ seqAt 0 [] with aborted := true } : Sequencer).aborted = true ∧ (8 : BitVec 32).toNat % 2 ^ 16 ≠ (seqAt 0 []).gen.toNat ∧
    (0x1000000 : BitVec 32).toNat / 2 ^ 24 % 4 ≠ (seqAt 0 []).attempt.toNat :=
  ⟨opened_serves, by decide +kernel⟩

/-- The open attempt with a tile list (queue 0) and the code that pops answer. -/
def popping (l : List QEntry) (code : Nat) : State :=
  { opened [] false [] with
    storage := { queues := [(0, { entries := l })] }
    sched := { seqs := [(3, seqAt 0 [])], curGen := 7, curLayer := 1, popCode := [(0, code)] } }

theorem test_witness_TilePop : (∀ l c, (popping l c).servesNow) ∧ (popping [] 1).openSeq = some (seqAt 0 []) ∧ (2 : BitVec 3) ≠ 5 ∧
    (let i : QItem := ⟨0, 0, 32, List.replicate 32 0⟩
     ((popping [.item i] 1).queue (popping [.item i] 1).dispatchBlock.queue).entries = [.item i] ∧ descLast i.data = false) ∧
    ((popping [] 1).queue (popping [] 1).dispatchBlock.queue).entries = [] ∧ Tab.get? (popping [] 1).sched.popCode 0 = some 1 ∧
    Tab.get? (popping [] 3).sched.popCode 0 = some 3 :=
  ⟨fun _ _ => ⟨rfl, rfl, rfl, rfl, rfl⟩, by decide +kernel⟩

/-! ### Witnesses: signals -/

/-- Source 0x3FF is enabled, routed to target 0, with this COAL_COUNT and COAL_TB 10; its batch is b. -/
def sourced (coal : Nat) (b : Source) : State :=
  { live with regs := [(0x13FF, BitVec.ofNat 64 (coal * 2 ^ 16 + 0x10 + 10 * 2 ^ 32))], signals := { sources := [(0x3FF, b)] } }

theorem sourced_serves (c b) : (sourced c b).servesNow := ⟨rfl, rfl, rfl, rfl, rfl⟩

theorem test_witness_SignalDoorbell : live.servesNow ∧ 0x200 ≤ (0x200 : BitVec 32).toNat ∧ (0x3FF : BitVec 32).toNat < 0x400 ∧
    ((3 : BitVec 3) ≠ 2 ∧ (0x1FF : BitVec 32).toNat < 0x200 ∧ 0x400 ≤ (0x400 : BitVec 32).toNat) ∧
    (∀ w ∈ [(⟨0x80000, 2, 0x200⟩ : PortWrite), ⟨0x80000, 6, 0⟩], w.off = 0x80000 ∧ 2 ≤ w.size.toNat ∧ w.size.toNat ≤ 6) :=
  ⟨live_serves, by decide +kernel⟩
theorem test_witness_SetAndClearPending : (sourced 1 {}).servesNow ∧ (0x3FF : BitVec 32).toNat < 0x400 ∧
    (sourced 1 {}).srcEnable (0x3FF : BitVec 32).toNat = true ∧ 0x400 ≤ (0x400 : BitVec 32).toNat ∧
    live.srcEnable (0x3FF : BitVec 32).toNat = false :=
  ⟨sourced_serves _ _, by decide +kernel⟩
theorem test_witness_FireCounts : (sourced 2 {}).srcEnable 0x3FF = true ∧ ((sourced 1 { pending := true }).source 0x3FF).pending = true ∧
    (let s := sourced 3 { isOpen := true, count := 1 }
     (s.source 0x3FF).pending = false ∧ (s.source 0x3FF).isOpen = true ∧ (s.source 0x3FF).count1.count.toNat < s.srcCoalCount 0x3FF) ∧
    (let s := sourced 2 { isOpen := true, count := 1 }
     (s.source 0x3FF).isOpen = true ∧ s.srcCoalCount 0x3FF ≤ (s.source 0x3FF).count1.count.toNat) ∧
    ((sourced 2 {}).source 0x3FF).pending = false ∧ ((sourced 2 {}).source 0x3FF).isOpen = false ∧ 1 < (sourced 2 {}).srcCoalCount 0x3FF ∧
    (sourced 1 {}).srcCoalCount 0x3FF ≤ 1 := by decide +kernel
theorem test_witness_DisabledSources : live.srcEnable 0x3FF = false ∧ (sourced 1 {}).servesNow ∧ (sourced 1 {}).srcEnable 0x3FF = true ∧
    ∀ w ∈ [(⟨0x9FF8, 3, 0⟩ : PortWrite), ⟨0x9FF8, 2, 0⟩], w.off.toNat = 0x8000 + 8 * 0x3FF ∧ (w.size = 3 ∨ w.size = 2) ∧
      w.data.getLsbD 4 = false :=
  ⟨by decide +kernel, sourced_serves _ _, by decide +kernel⟩
theorem test_witness_TargetsPresentTheBest : live.power.state = .run ∧
    ({ live with signals := { vpReset := true } } : State).signals.vpReset = true ∧
    16 ≤ (({ live with signals := { targets := [(0, { stack := List.replicate 16 (5, 1) })] } } : State).target 0).stack.length ∧
    (((sourced 1 { pending := true }).arbitrate 0).target 0).presented = some 0x3FF ∧
    (sourced 1 {}).srcEnable 0x3FF = true ∧
    (∀ l ∈ [[], List.replicate 15 (5, 0)],
      let s : State := { live with
        regs := [(0xB008 / 8, 3), (0x13FF, 0x12510)]
        signals := { sources := [(0x3FF, { pending := true })], targets := [(0, { stack := l })] } }
      s.signals.vpReset = false ∧ (s.target 0).stack = l ∧ l.length < 16 ∧ 0x3FF ∈ s.bank 0 ∧ (s.source 0x3FF).pending = true ∧
      ∀ top ∈ l, top.2 < s.srcGroup 0x3FF) := by decide +kernel

/-- Target 0 presents or holds these. -/
def targeted (p : Option Nat) (st : List (Nat × Nat)) : State :=
  { live with signals := { targets := [(0, { presented := p, stack := st })] } }

theorem test_witness_AcceptanceAndEoi : live.boot.powered = true ∧ (targeted (some 5) []).signals.vpReset = false ∧
    ((targeted (some 5) []).target 0).presented = some 5 ∧ (live.target 0).presented = none ∧
    ({ live with signals := { vpReset := true } } : State).signals.vpReset = true ∧
    (targeted none [(1023, 1)]).servesNow ∧ ((targeted none [(1023, 1)]).target 0).stack = (1023, 1) :: [] ∧
    (1023, 1).1 = (1023 : BitVec 32).toNat % 1024 ∧ (1023, 1).1 ≠ (5 : BitVec 32).toNat % 1024 ∧ (live.target 0).stack = [] :=
  ⟨by decide +kernel, by decide +kernel, by decide +kernel, by decide +kernel, by decide +kernel, ⟨rfl, rfl, rfl, rfl, rfl⟩,
    by decide +kernel⟩

/-- 64 sources enabled for target 0. -/
def fullBank : State := { live with regs := (List.range 64).map (fun i => (0x1200 + i, 0x10010)) }

theorem test_witness_SourceConfiguration : fullBank.servesNow ∧ 0x3FF < 0x400 ∧
    (⟨0x9FF8, 3, 0x10010⟩ : PortWrite).off.toNat = 0x8000 + 8 * 0x3FF ∧ fullBank.srcEnable 0x3FF = false ∧
    64 ≤ (fullBank.bank 0).length ∧ (live.bank 0).length < 64 ∧ (live.source 0x3FF).isOpen = false ∧
    (sourced 1 {}).srcEnable 0x3FF = true ∧ (1 : Nat) ≠ (sourced 1 {}).srcTarget 0x3FF ∧
    (let old := fullBank.word (0x1000 + 0x3FF)
     let v := (old &&& ~~~(0xFFFFFFFF0FFFFF1F : BitVec 64)) ||| ((0x10010 : BitVec 512).setWidth 64 &&& 0xFFFFFFFF0FFFFF1F)
     v.toNat / 2 ^ 16 % 2 ^ 12 ≠ 0 ∧ v.getLsbD 4 = true ∧ v.toNat % 16 = 0) :=
  ⟨⟨rfl, rfl, rfl, rfl, rfl⟩, by decide +kernel⟩
/-- An enabled source that stays enabled with COAL_COUNT 2, its batch below and at the count; one that is disabled; both halves at 4 bytes. -/
theorem test_witness_SourceConfiguration_kept : (∀ c b, (sourced c b).servesNow) ∧
    (∀ x ∈ [((⟨0x9FF8, 3, 0x30010⟩ : PortWrite), 3), (⟨0x9FF8, 3, 0x10⟩, 2), (⟨0x9FF8, 2, 0x10⟩, 2), (⟨0x9FFC, 2, 10⟩, 2)],
      (x.1.size = 3 ∨ x.1.size = 2) ∧ (x.1.off.toNat = 0x8000 + 8 * 0x3FF ∨ x.1.off.toNat = 0x8004 + 8 * 0x3FF)) ∧
    (let s := sourced 2 { isOpen := true, count := 2 }
     s.srcEnable 0x3FF = true ∧ s.srcTarget 0x3FF = 0 ∧ (s.source 0x3FF).isOpen = true ∧ 2 ≤ (s.source 0x3FF).count.toNat ∧
     (s.source 0x3FF).count.toNat < 3) := ⟨sourced_serves, by decide +kernel⟩
theorem test_witness_CoalescingDeadline : live.awake = true ∧ ((sourced 2 { isOpen := true, timed := true }).source 0x3FF).isOpen = true ∧
    ((sourced 2 { isOpen := true, timed := true }).source 0x3FF).timed = true ∧ (live.source 0x3FF).isOpen = false ∧
    ((sourced 2 { isOpen := true }).source 0x3FF).timed = false := by decide +kernel

/-- 16's example (R380): priority 0x25 with GROUP_BITS 3 is group 1. -/
theorem test_group : (({ live with regs := [(0x1258, 0x12512)  , (0xB108 / 8, 3)] } : State).srcGroup 0x258) = 1 := by decide +kernel

/-! ### Witnesses: sleep -/

/-- A memory whose word at n holds c, everything below it 0. -/
theorem saved_area (n c : Nat) (h : n + 4 ≤ hostTop) (s : State) (hs : s.mem = storeBytes [] n (leBytes 4 c)) :
    s.read 0 n = List.replicate n 0 ∧ s.readLe n 4 = c % 2 ^ 32 := by
  have hout : ∀ j, j < n → s.byte j = 0 := by
    intro j hj
    unfold State.byte; rw [hs, get_storeBytes_out _ _ _ _ (.inl hj)]; rfl
  constructor
  · unfold State.read
    apply List.ext_getElem
    · simp
    · intro i h1 h2
      simp only [List.length_map, List.length_range] at h1
      simp only [List.getElem_map, List.getElem_range, List.getElem_replicate, Nat.zero_add]; exact hout i h1
  · have : s.read n 4 = leBytes 4 c := by
      unfold State.read
      apply List.ext_getElem
      · simp [leBytes_length]
      · intro i h1 h2
        simp only [List.length_map, List.length_range] at h1
        simp only [List.getElem_map, List.getElem_range]
        have hb := get_storeBytes_in (leBytes 4 c) [] n i h2 (by omega)
        unfold State.byte; rw [hs, hb, List.getD_eq_getElem?_getD, List.getElem?_eq_getElem h2]; rfl
    exact (congrArg ofLe this).trans (ofLe_leBytes 4 c)

/-- A block in deep sleep with this CRC behind its save area. -/
def saved (c : Nat) : State := { sleeping .deep true with mem := storeBytes [] 4194304 (leBytes 4 c) }

theorem saved_crc (c : Nat) : (saved c).read ((saved c).reg 0x1018 0 52) 4194304 = List.replicate 4194304 0 ∧
    (saved c).readLe ((saved c).reg 0x1018 0 52 + 4194304) 4 = c % 2 ^ 32 := by
  have hb : (saved c).reg 0x1018 0 52 = 0 := by
    show field (Tab.get regReset [] (0x1018 / 8)).toNat (0x1018 % 8 * 8 + 0) 52 = 0; decide +kernel
  rw [hb, Nat.zero_add]; exact saved_area 4194304 c (by decide +kernel) (saved c) rfl

theorem mod32 (x : BitVec 32) : x.toNat = x.toNat % 2 ^ 32 ∧ x.toNat ≠ (x.toNat + 1) % 2 ^ 32 := by
  have := x.isLt; omega

theorem test_witness_SleepEnds : (∀ d b, (sleeping d b).boot.powered = true ∧ (sleeping d b).held = false) ∧
    (sleeping .light false).power.state ≠ .run ∧ (sleeping .light false).power.timerAt = some 50 ∧
    (sleeping .light true).power.state = .light ∧ (sleeping .light true).waking = true ∧ (sleeping .light false).waking = false ∧
    live.power.state ≠ .light ∧ (sleeping .deep true).power.state = .deep ∧ (sleeping .deep true).waking = true ∧
    (sleeping .deep false).waking = false ∧ live.power.state ≠ .deep :=
  ⟨fun _ _ => ⟨rfl, rfl⟩, by decide +kernel⟩
theorem test_witness_DeepWake_good : ∃ s : State, s.boot.powered = true ∧ s.held = false ∧ s.power.state = .deep ∧ s.waking = true ∧
    (crc32c (s.read (s.reg 0x1018 0 52) 4194304)).toNat = s.readLe (s.reg 0x1018 0 52 + 4194304) 4 := by
  refine ⟨saved (crc32c (List.replicate 4194304 0)).toNat, rfl, rfl, rfl, rfl, ?_⟩
  rw [(saved_crc _).1, (saved_crc _).2]; exact (mod32 _).1
theorem test_witness_DeepWake_bad : ∃ s : State, s.boot.powered = true ∧ s.held = false ∧ s.power.state = .deep ∧ s.waking = true ∧
    (crc32c (s.read (s.reg 0x1018 0 52) 4194304)).toNat ≠ s.readLe (s.reg 0x1018 0 52 + 4194304) 4 := by
  refine ⟨saved ((crc32c (List.replicate 4194304 0)).toNat + 1), rfl, rfl, rfl, rfl, ?_⟩
  rw [(saved_crc _).1, (saved_crc _).2]; exact (mod32 _).2

/-! ### Witnesses: session window, layout -/

theorem test_witness_SessionWindow : live.servesNow ∧ (passing (seqAt 0 [])).servesNow ∧
    (∀ w ∈ [(⟨0x40000, 3, 0⟩ : PortWrite), ⟨0x7FFC0, 6, 0⟩], 0x40000 ≤ w.off.toNat ∧ w.off.toNat < 0x80000 ∧ (w.size = 3 ∨ w.size = 6) ∧
      w.off.toNat % 2 ^ w.size.toNat = 0) ∧ live.sched.sessQueue.length < 512 ∧ live.passInProgress = false ∧ live.sched.sessQueue = [] ∧
    (passing (seqAt 0 [])).passInProgress = true ∧ (passing (seqAt 0 [])).sched.sessQueue.length < 512 ∧
    (match exec (.sessionWindowWrite ⟨0x40000, 3, 1⟩) live with
     | .next t => t.serving && t.awake && t.power.state == .run
     | _ => false) = true :=
  ⟨live_serves, ⟨rfl, rfl, rfl, rfl, rfl⟩, by decide +kernel⟩

theorem laid_serves (d) : (laid d).servesNow := ⟨rfl, rfl, rfl, rfl, rfl⟩

/-- A record of one row of 8 FP32 elements at 0x100000 in allocation 0: sizes 8, 1, 1, 1, format 0, rank 1. -/
def descBody : BitVec 512 := 0x100000 + 8 <<< 64 + 1 <<< 96 + 1 <<< 128 + 1 <<< 160 + 1 <<< 408

theorem test_witness_LayoutCreation : (laid []).servesNow ∧ ((laid []).layoutWindow 0).stalled = [] ∧
    le (leBytes 64 (layoutRecord 1 descBody)) 0x3D 3 = 0 ∧ (laid []).createReason (leBytes 64 (layoutRecord 1 descBody)) = none ∧
    lowestFree 16384 (laid []).layout.descs = some 0 ∧ live.createReason (leBytes 64 (layoutRecord 1 descBody)) = some 1 ∧
    le (leBytes 64 (layoutRecord 2 (0x1000 + 64 <<< 64))) 0x3D 3 = 0 ∧
    live.registerReason (leBytes 64 (layoutRecord 2 (0x1000 + 64 <<< 64))) = none ∧ lowestFree 1024 live.layout.allocs = some 0 ∧
    live.registerReason (leBytes 64 (layoutRecord 2 0)) = some 6 :=
  ⟨laid_serves _, by decide +kernel⟩
theorem test_witness_LayoutReleasesAndResults : (∀ d, (laid d).servesNow) ∧ ((laid [0]).layoutWindow 0).stalled = [] ∧
    le (leBytes 64 (layoutRecord 3 0)) 0x3D 3 = 0 ∧ (∀ i, 2 ≤ i → i < 60 → (leBytes 64 (layoutRecord 3 0))[i]? = some 0) ∧
    le (leBytes 64 (layoutRecord 3 0)) 0 2 = 0 ∧ 0 ∈ (laid [0]).layout.descs ∧ 0 ∉ (laid []).layout.descs ∧ 0 ∈ (laid []).layout.allocs ∧
    (∀ h ∈ (laid []).layout.descs, (Desc.parse ((laid []).read ((laid []).descAddr h) 64)).alloc ≠ 0) ∧
    (∃ h ∈ (laid [0]).layout.descs, (Desc.parse ((laid [0]).read ((laid [0]).descAddr h) 64)).alloc = 0) ∧ 0 ∉ live.layout.allocs ∧
    (live.layoutWindow 0).done = false ∧
    (({ live with layout := { windows := [(0, { done := true })] } } : State).layoutWindow 0).done = true := by
  refine ⟨laid_serves, by decide +kernel, by decide +kernel, ?_, by decide +kernel⟩
  have h : ∀ i, i < 60 → 2 ≤ i → (leBytes 64 (layoutRecord 3 0))[i]? = some 0 := by decide +kernel
  exact fun i h2 h6 => h i h6 h2

/-! ### Witnesses: pools -/

/-- Pool 1's class 0 has n buffers of which these are used; host core 0 may hold `quota` KiB at level 0; these requests wait. -/
def pooled (n quota : Nat) (used : Tab Nat) (waiting : List PoolReq) (w : PoolWindow) : State :=
  { live with
    effect := [(bankWord 8 0xC018, BitVec.ofNat 64 (n * 2 ^ 32)), (bankWord 80 0xC030, BitVec.ofNat 64 quota), (bankWord 80 0xC038, 0)]
    storage := { classes := [(8, { used := used, waiting := waiting })], windows := [(0, w)] } }

theorem pooled_serves (a b c d e) : (pooled a b c d e).servesNow := ⟨rfl, rfl, rfl, rfl, rfl⟩

theorem test_witness_PoolRequest : (∀ a b c d e, (pooled a b c d e).servesNow) ∧ ((pooled 1 1 [] [] {}).poolWindow 0).waiting = false ∧
    ((pooled 1 1 [] [] {}).poolWindow 0).stalled = [] ∧ (0x40000 : BitVec 64).toNat / 2 ^ 18 % 8 = 1 ∧
    (pooled 1 0 [] [] {}).quotaOf 16 < (pooled 1 0 [] [] {}).usedBy 16 + classSize 0 ∧
    (pooled 1 1 [(0, 16), (1, 16), (2, 16)] [] {}).usedBy 16 + classSize 0 ≤ (pooled 1 1 [] [] {}).quotaOf 16 ∧
    (pooled 1 1 [] [] {}).heldBack 1 0 ((pooled 1 1 [] [] {}).levelOf 16) = false ∧ live.heldBack 1 0 (live.levelOf 16) = true ∧
    (0x240000 : BitVec 64).getLsbD 21 = true ∧ (0x40000 : BitVec 64).getLsbD 21 = false ∧
    (pooled 1 1 [] [] {}).freeIndex 1 0 16 = some 0 ∧ (pooled 1 1 [(0, 16)] [] {}).freeIndex 1 0 16 = none :=
  ⟨pooled_serves, by decide +kernel⟩
theorem test_witness_BufferChoice : 1 ≤ 262144 ∧ 262144 ≤ 262144 ∧ 0 < 8 ∧ (pooled 2 1 [(0, 16)] [] {}).freeIndex 1 0 16 = some 1 := by
  decide +kernel
theorem test_witness_PoolFree : (pooled 1 1 [(0, 16)] [] {}).servesNow ∧ ((pooled 1 1 [(0, 16)] [] {}).poolWindow 0).waiting = false ∧
    (let h : BitVec 32 := 0x10000000
     h.toNat / 2 ^ 28 ≤ 4 ∧ h.toNat / 2 ^ 25 % 8 ≤ 5 ∧ h.toNat % 2 ^ 12 < (pooled 1 1 [(0, 16)] [] {}).classCount 1 0 ∧
     (Tab.get? ((pooled 1 1 [(0, 16)] [] {}).poolClass 1 0).used 0).isSome = true) ∧
    (Tab.get? ((pooled 1 1 [] [] {}).poolClass 1 0).used 0).isSome = false ∧ ¬ ((0x50000000 : BitVec 32).toNat / 2 ^ 28 ≤ 4) :=
  ⟨pooled_serves _ _ _ _ _, by decide +kernel⟩
theorem test_witness_PoolReadsAndWaits : (pooled 1 1 [] [] { done := true, handle := 0x10000000 }).servesNow ∧
    (let s := pooled 1 1 [] [] { done := true, handle := 0x10000000 }
     (s.poolWindow 0).done = true ∧ (s.poolWindow 0).status = 0 ∧ (s.poolWindow 0).handle.toNat = handleOf 1 0 0 ∧
     s.windowBase 1 + s.classBase 1 0 + 0 * classSize 0 < hostTop) ∧
    (live.poolWindow 0).done = false ∧
    ((pooled 1 1 [] [] { done := true, status := 2 }).poolWindow 0).status ≠ 0 ∧
    (∀ r ∈ [(⟨16, 1, some 0, none, none⟩ : PoolReq), ⟨1, 1, none, some 0, some (.egress 1)⟩],
     let s := pooled 1 1 [] [r] {}
     s.awake = true ∧ (s.poolClass 1 0).waiting.find? (fun x => !(s.heldBack 1 0 (s.reqLevel x)) && (s.freeIndex 1 0 x.requester).isSome) = some r ∧
     s.freeIndex 1 0 r.requester = some 0) ∧ (live.poolClass 1 0).waiting.find? (fun _ => true) = none :=
  ⟨pooled_serves _ _ _ _ _, by decide +kernel⟩

/-! ### Witnesses: course queues -/

/-- Queue 0x40 with this configuration word, selected, and holding k; host core 0's push window is w. -/
def queued (cfg : BitVec 64) (k : Queue) (w : PushWindow) : State :=
  { live with
    regs := [(0xD000 / 8, 0x40), (0xD118 / 8, 100), (bankWord (128 + 0x40) 0xD008, cfg)]
    storage := { queues := [(0x40, k)], pushes := [(0, w)], nextItem := 1 } }

theorem queued_serves (a b c) : (queued a b c).servesNow := ⟨rfl, rfl, rfl, rfl, rfl⟩

/-- ENABLE and CAP_CELLS 8; with DROP_NEWEST; with no cells. -/
def qOn : BitVec 64 := 0x0000000800000101
def qDrops : BitVec 64 := 0x0000000000000105
def qNoRoom : BitVec 64 := 0x0000000000000101

theorem test_witness_QueuePush : (∀ a b c, (queued a b c).servesNow) ∧ ((queued qOn {} {}).push 0).held = [] ∧
    ((queued qOn {} {}).push 0).isOpen = none ∧ (0x400000 : BitVec 64).toNat % 2 ^ 15 = 0 ∧ 16384 < (16385 : BitVec 64).toNat % 2 ^ 15 ∧
    (queued 0 {} {}).qEnable 0x40 = false ∧ (queued qOn {} {}).qProducer 0x3F = 1 ∧
    (1 ≤ (0x404000 : BitVec 64).toNat % 2 ^ 15 ∧ (0x404000 : BitVec 64).toNat % 2 ^ 15 ≤ 16384 ∧
      (0x404000 : BitVec 64).toNat / 2 ^ 16 % 2 ^ 12 = 0x40) ∧
    (queued qOn {} {}).qEnable 0x40 = true ∧ (queued qOn {} {}).qProducer 0x40 ≠ 1 ∧ (queued qOn {} {}).qFits 0x40 240 = true ∧
    (queued qDrops {} {}).qEnable 0x40 = true ∧ (queued qDrops {} {}).qFits 0x40 1 = false ∧ (queued qDrops {} {}).qDropNewest 0x40 = true ∧
    (queued qNoRoom {} {}).qFits 0x40 1 = false ∧ (queued qNoRoom {} {}).qDropNewest 0x40 = false ∧
    (let s := queued qOn { entries := [.item ⟨0, 0, 16, []⟩] } { isOpen := some (0x40, 0) }
     (s.push 0).isOpen = some (0x40, 0) ∧ ((s.queue 0x40).append 0 (List.replicate 8 1)).find 0 = some ⟨0, 0, 16, List.replicate 8 1⟩ ∧
     ((s.queue 0x40).append 0 (List.replicate 64 1)).find 0 = some ⟨0, 0, 16, List.replicate 16 1⟩) :=
  ⟨queued_serves, by decide +kernel⟩
theorem test_witness_QueueReads : (∀ a b c, (queued a b c).servesNow) ∧ (queued qOn {} {}).hostReads (0x40 : BitVec 12).toNat = true ∧
    (let s := queued qOn { entries := [.item ⟨0, 0, 8, List.replicate 8 1⟩] } {}
     (s.queue 0x40).stalls = [] ∧ s.nextEntry 0x40 = some 0 ∧ (s.queue 0x40).entries[0]? = some (.item ⟨0, 0, 8, List.replicate 8 1⟩)) ∧
    (queued qOn {} {}).nextEntry 0x40 = none ∧
    (let s := queued qOn { cur := some ⟨0, 0, 16, List.replicate 8 1⟩ } {}
     (s.queue 0x40).cur = some ⟨0, 0, 16, List.replicate 8 1⟩ ∧ min ((s.queue 0x40).curPos + 2 ^ 3) 16 ≤ 8 ∧
     8 < min ((s.queue 0x40).curPos + 2 ^ 4) 16) ∧ ((queued qOn {} {}).queue 0x40).cur = none ∧
    ((3 : BitVec 3) = 3 ∨ (3 : BitVec 3) = 4) ∧ ((2 : BitVec 3) ≠ 3 ∧ (2 : BitVec 3) ≠ 4) :=
  ⟨queued_serves, by decide +kernel⟩
theorem test_witness_QueueStallsEnd : (queued qOn {} {}).awake = true ∧
    (let s := queued qOn { entries := [.flush 1], stalls := [⟨true, 8, 0, 4⟩] } {}
     (s.queue 0x40).stalls = ⟨true, 8, 0, 4⟩ :: [] ∧ s.nextEntry 0x40 = some 0 ∧ (s.queue 0x40).entries[0]? = some (.flush 1) ∧
     (s.queue 0x40).stalls.find? (·.header) = some ⟨true, 8, 0, 4⟩ ∧ s.stallLimit ≠ 0) ∧
    ((queued qOn {} {}).queue 0x40).stalls = [] ∧ live.stallLimit = 0 ∧
    (let s := queued qOn {} { held := [(5, .start 0x400008)] }
     (s.push 0).held = [(5, .start 0x400008)] ∧ (s.push 0).isOpen = none ∧ (0x400008 : BitVec 64).toNat / 2 ^ 16 % 2 ^ 12 = 0x40 ∧
     (∀ d : Fin 16, d ≠ 0 → (s.push d.val).held = []) ∧ 1 ≤ (0x400008 : BitVec 64).toNat % 2 ^ 15 ∧
     (0x400008 : BitVec 64).toNat % 2 ^ 15 ≤ 16384 ∧ s.qEnable 0x40 = true ∧ s.qProducer 0x40 ≠ 1 ∧ s.qFits 0x40 8 = true) := by
  decide +kernel
theorem test_witness_QueueFlushAndConfig : (∀ a b c, (queued a b c).servesNow) ∧ (queued qOn {} {}).queueSel = 0x40 ∧
    (1 : BitVec 32).getLsbD 0 = true ∧ (2 : BitVec 32).getLsbD 0 = false ∧ ((queued qOn {} {}).queue 0x40).stalls = [] ∧
    (queued qOn {} {}).isTileList 0x40 = false ∧ (queued (qOn + 0x80) {} {}).isTileList 0x40 = true ∧
    ((queued qOn { stalls := [⟨true, 8, 0, 4⟩] } {}).queue 0x40).stalls = [⟨true, 8, 0, 4⟩] ∧
    (∀ c : Fin 16, ((queued qOn {} {}).push c.val).isOpen = none) ∧ (⟨0xD008, 3, 0⟩ : PortWrite).off.toNat = 0xD008 ∧
    (queued qOn {} {}).blockOwned 0x40 = false ∧ ((queued qOn {} {}).qNow 0x40).getLsbD 0 = true ∧
    ((queued 0 {} {}).qNow 0x40).getLsbD 0 = false ∧ (0 : BitVec 64) >>> 1 ≠ qOn >>> 1 ∧ qOn.getLsbD 0 = true ∧
    (0x0000000800000100 : BitVec 64) >>> 1 = qOn >>> 1 ∧ (0x0000000800000100 : BitVec 64).getLsbD 0 = false ∧
    ownedWord 0x40 0x160 = true ∧ ownedWord 0x40 0x100 = false ∧
    (let s : State := { queued qOn {} {} with regs := [(0xD000 / 8, 0x3F)], net := { ports := [(15, { egress := [{ peer := 1, vc := 3, seq := 5, bytes := 64 }] })] } }
     s.queueSel = 0x3F ∧ s.blockOwned 0x3F = true ∧ s.isTileList 0x3F = false ∧ ({ peer := 1, vc := 3, seq := 5, bytes := 64 } : Egress) ∈ (s.mac 15).egress) :=
  ⟨queued_serves, by decide +kernel⟩

/-! ### Witnesses: the ledger and the control registers -/

def recC : LedgerRec := { code := 0x10, sev := 1 }
def recM : LedgerRec := { code := 0x11, sev := 3 }

theorem test_witness_LedgerPlacement : live.servesNow ∧ live.awake = true ∧ live.ledger.input = [] ∧
    (let s : State := { live with ledger := { input := [recM], first := some recC } }
     s.ledger.input = recM :: [] ∧ s.ledger.first = some recC ∧ s.ledger.esc = none ∧ recC.sev.toNat < recM.sev.toNat) ∧
    ({ live with ledger := { input := [recM] } } : State).ledger.first = none ∧
    ((1 : BitVec 32).getLsbD 0 = true ∧ (1 : BitVec 32).getLsbD 1 = false) ∧ ((2 : BitVec 32).getLsbD 0 = false ∧
      (2 : BitVec 32).getLsbD 1 = true) ∧ ((3 : BitVec 32).getLsbD 0 = true ∧ (3 : BitVec 32).getLsbD 1 = true) ∧
    (4 : BitVec 32).getLsbD 0 = false ∧ (4 : BitVec 32).getLsbD 1 = false :=
  ⟨live_serves, by decide +kernel⟩

/-- Queue 0x40 is the overflow queue, with this configuration. -/
def overflowing (cfg : BitVec 64) (l : Ledger) : State :=
  { queued cfg {} {} with regs := (0x20008 / 8, 0x40 * 2 ^ 32) :: (queued cfg {} {}).regs, ledger := l }

/-- A raise that neither record takes, one that displaces, an overflow queue that takes, drops and makes wait; an input queue of 63 and of 64. -/
theorem test_witness_LedgerPlacement_overflow :
    (∀ c l, (overflowing c l).reg 0x2000C 0 12 = 0x40) ∧
    ((overflowing qOn {}).qEnable 0x40 = true ∧ (overflowing qOn {}).qFits 0x40 32 = true) ∧ (overflowing 0 {}).qEnable 0x40 = false ∧
    ((overflowing qDrops {}).qEnable 0x40 = true ∧ (overflowing qDrops {}).qFits 0x40 32 = false ∧ (overflowing qDrops {}).qDropNewest 0x40 = true) ∧
    ((overflowing qNoRoom {}).qEnable 0x40 = true ∧ (overflowing qNoRoom {}).qFits 0x40 32 = false ∧
      (overflowing qNoRoom {}).qDropNewest 0x40 = false) ∧
    (let l : Ledger := { input := [recC], first := some recM }
     l.input = recC :: [] ∧ l.first = some recM ∧ recC.sev.toNat ≤ max recM.sev.toNat (l.esc.elim 0 (·.sev.toNat)) ∧
     ((overflowing qOn l).directRecord { recC with seq := l.nextSeq }).isSome = true ∧
     (overflowing qNoRoom l).directRecord { recC with seq := l.nextSeq } = none) ∧
    (let l : Ledger := { input := [recM], first := some recC, esc := some { recC with sev := 2 } }
     max recC.sev.toNat (l.esc.elim 0 (·.sev.toNat)) < recM.sev.toNat ∧ ((overflowing qOn l).directRecord { recC with sev := 2 }).isSome = true ∧
     (overflowing qNoRoom l).directRecord { recC with sev := 2 } = none) ∧
    (∀ n ∈ [63, 64], (List.replicate n recM).length ≤ 64 ∧ (∀ e ∈ List.replicate n recM, ({ recM with unit := 1 } : LedgerRec).precedes e = false) ∧
      recC.precedes recM = true) := by
  refine ⟨fun c l => ?_, by decide +kernel⟩
  show field (BitVec.toNat (0x40 * 2 ^ 32 : BitVec 64)) _ 12 = 0x40
  decide +kernel

theorem test_witness_ControlWrites : live.servesNow ∧ ({ live with boot := { live.boot with phase := .joined } } : State).servesNow ∧
    (1 : BitVec 32).getLsbD 0 = true ∧ (0 : BitVec 32).getLsbD 0 = false ∧ (0x20 : BitVec 32).getLsbD 5 = true ∧
    (0 : BitVec 32).getLsbD 5 = false ∧ live.mortar.bar.begun = false ∧
    (∀ x ∈ [(0, 0), (1, 0), (0x7FFFFFFF, 0), (0x80000000, 0), (0, 1)],
      let s : State := { live with regs := [(0xE840 / 8, BitVec.ofNat 64 x.1)], mortar := { bar := { begun := true, lastBn := BitVec.ofNat 32 x.2 } } }
      s.mortar.bar.begun = true ∧ (s.reg 0xE840 0 32 + 2 ^ 32 - s.mortar.bar.lastBn.toNat) % 2 ^ 32 = if x.2 = 1 then 0xFFFFFFFF else x.1) ∧
    (8 : BitVec 32).getLsbD 3 = true ∧ (8 : BitVec 32).getLsbD 5 = false :=
  ⟨live_serves, ⟨rfl, rfl, rfl, rfl, rfl⟩, by decide +kernel⟩

/-! ### Witnesses: frames -/

/-- A member with an open attempt (GEN 7, layer 1). Pool 0 has 64 buffers of each of classes 0 to 3, with levels 48, 56 and 60, and 4 of class 3
in reserve; INBOUND has 64 KiB. -/
def fabric : State :=
  { live with
    effect := (0xC038 / 8, 4 * 2 ^ 32) :: (bankWord 66 0xC030, 64) :: (List.range 4).flatMap (fun c =>
      [(bankWord c 0xC018, 64 * 2 ^ 32), (bankWord c 0xC020, 48 + 56 * 2 ^ 32), (bankWord c 0xC028, 60)])
    sched := { seqs := [(3, seqAt 0 [])], curGen := 7, curLayer := 1 } }

/-- The header of a frame with this payload, with a good CRC. -/
def frameFor (p : Payload) : FrameHdr :=
  let h : FrameHdr := { hdr0 with type := p.type, vc := p.vc, length := BitVec.ofNat 16 p.bytes.length, got := p.bytes.length }
  { h with crc := crc32c (h.bytes ++ p.bytes) }

/-- The hypotheses of a frame that comes in sequence, as a check that evaluates. -/
def comesOk (s : State) (h : FrameHdr) (p : Payload) : Bool :=
  s.inService && !h.fcsErr && frameGood s h p && s.wireOk h && s.portEnable h.port.val &&
  decide ((s.tb + 2 ^ 32 - h.tstamp.toNat) % 2 ^ 32 < 2 ^ 31) && decide ((s.tb + 2 ^ 32 - h.tstamp.toNat) % 2 ^ 32 ≤ s.frameLife)
def frameOk (s : State) (h : FrameHdr) (p : Payload) : Bool :=
  let k := s.pair (pairKey h.src h.vc)
  let n := inboundNeeds h.vc p
  comesOk s h p && decide (h.seq = k.cum) && decide (k.rmap = 0) && decide (k.ackDue + 1 < s.ackFrames) && !h.ackValid &&
  !(s.overQuota n.1 n.2.2) && s.hasRoom 0 n.2.2 n.1 n.2.1

/-- There is a buffer for the frame within its requester's quota. -/
def roomOk (s : State) (h : FrameHdr) (p : Payload) : Bool :=
  let n := inboundNeeds h.vc p
  !(s.overQuota n.1 n.2.2) && s.hasRoom 0 n.2.2 n.1 n.2.1

theorem comes_of {s h p} (k : comesOk s h p = true) : s.frameComes h p := by
  simpa only [comesOk, State.frameComes, Bool.and_eq_true, decide_eq_true_eq, Bool.not_eq_true', and_assoc] using k
theorem frame_of {s h p} (k : frameOk s h p = true) : ∃ r, s.nextFrame h p r := by
  simp only [frameOk, Bool.and_eq_true, decide_eq_true_eq, Bool.not_eq_true'] at k
  obtain ⟨⟨⟨⟨⟨⟨a, f⟩, g⟩, i⟩, j⟩, l⟩, m⟩ := k
  exact ⟨_, comes_of a, ⟨f, g, i, j, l, m⟩, rfl⟩

def dispCell : DispatchCell :=
  { h := cellHdr0, ordinal := 0, pos := 0, token := 0, cell := 0, cellsM1 := 0, targets := [], gFirst := 0, gCount := 0, data := [], crc := 0 }
def retCell : ReturnCell :=
  { h := cellHdr0, owner := 0, token := 0, expert := 0, rank := 0, cell := 0, cellsM1 := 0, gFirst := 0, gCount := 0, tile := 0, data := [],
    crc := 0 }
def partCell : PartialCell :=
  { h := cellHdr0, owner := 0, token := 0, parts := 0, residue := 0, cell := 0, cellsM1 := 0, gFirst := 0, gCount := 0, ranks := 0, words := [],
    crc := 0 }

/-- One payload of each kind, of the open attempt. -/
def payloads : List Payload :=
  [.count (exch0 2), .grant (exch0 2), .cells [.manifest manCell], .cells [.dispatch dispCell], .cells [.ret retCell], .cells [.part partCell],
   .gateNote (note0 0 16), .windowNote { gen := 7, sender := 1, attempt := 0, layer := 1, limit := 2 }, .cellRequest [cellReq0],
   .coll (coll0 [1]), .bulk (bulk0 1 []), .bulk (bulk0 2 [1])]

theorem payloads_ok : payloads.all (fun p => frameOk fabric (frameFor p) p) = true := by decide +kernel

theorem test_witness_ItemFrames (p : Payload) (hp : p ∈ payloads) : ∃ r, fabric.nextFrame (frameFor p) p r :=
  frame_of (List.all_eq_true.1 payloads_ok p hp)
theorem test_witness_ItemFrames_all_judged : (payloads.all (fun p => (fabric.afterFrame (frameFor p) p).judge 7 1 0 == .use) = true) ∧
    frameOk (fabric.readBuffer 0 [⟨3, 1, true, none⟩]) (frameFor (.coll (coll0 [1]))) (.coll (coll0 [1])) = true ∧
    ([Payload.cells [.ret retCell], .cells [.part partCell]].all (fun p =>
      frameOk (fabric.readAccums [⟨3, 1, false, some 1⟩]) (frameFor p) p)) = true := by decide +kernel
theorem test_witness_ItemFrames_judged : (fabric.afterFrame (frameFor (.count (exch0 2))) (.count (exch0 2))).judge 7 1 0 = .use ∧
    (ExchIn.add (none : Option (ExchIn (BitVec 32))) 0 0 (exch0 2).entries).isSome = true := by decide +kernel

/-- Count messages of other passes and attempts. -/
def exchAt (gen : BitVec 16) (layer : BitVec 8) (attempt : BitVec 2) : ExchMsg := { exch0 1 with gen := gen, layer := layer, attempt := attempt }

theorem test_witness_ItemsOutOfTime : ([exchAt 8 1 0, exchAt 7 2 0, exchAt 7 1 1, exchAt 6 1 0, exchAt 64520 1 0, exchAt 9 1 0].all
      (fun m => frameOk fabric (frameFor (.count m)) (.count m))) = true ∧
    ((8 : BitVec 16) - 7).toNat = 1 ∧ (2 : BitVec 8) ≠ fabric.sched.curLayer ∧ fabric.openSeq.isSome = true ∧
    fabric.sched.curAttempt.toNat < (1 : BitVec 2).toNat ∧ 65536 - 1023 ≤ ((6 : BitVec 16) - 7).toNat ∧
    65536 - 1023 ≤ ((64520 : BitVec 16) - 7).toNat ∧ ((9 : BitVec 16) - 7).toNat = 2 ∧ ((64519 : BitVec 16) - 7).toNat < 65536 - 1023 ∧
    (let s : State := { fabric with sched := { fabric.sched with curAttempt := 1 } }
     frameOk s (frameFor (.count (exchAt 7 1 0))) (.count (exchAt 7 1 0)) = true ∧ (0 : BitVec 2).toNat < s.sched.curAttempt.toNat) := by
  decide +kernel
theorem test_witness_BulkAckAndSync : (bulk0 1 []).kind = 1 ∧ (bulk0 2 [1]).kind = 2 ∧
    (let y : SyncBody := ⟨1, 256, 0, 0, 0⟩
     comesOk fabric (frameFor (.sync y)) (.sync y) = true ∧ (frameFor (.sync y)).ackValid = false ∧ roomOk fabric (frameFor (.sync y)) (.sync y) = true ∧
     y.mask = 1 ∧ (y.base0 - (fabric.pair (pairKey 1 0)).cum).toNat ≤ 256) ∧
    (∀ k ∈ [2 ^ 31, 257],
      let n := BitVec.ofNat 32 k
      comesOk fabric (frameFor (.sync ⟨7, 0, n, 0, 0⟩)) (.sync ⟨7, 0, n, 0, 0⟩) = true ∧ (n - (fabric.pair (pairKey 1 1)).cum).toNat = k) ∧
    comesOk fabric (frameFor .ack) .ack = true ∧ roomOk fabric (frameFor .ack) .ack = true ∧
    (∀ p ∈ [Payload.ack, .sync ⟨1, 256, 0, 0, 0⟩],
      comesOk { fabric with effect := fabric.effect.drop 1 } (frameFor p) p = true ∧
      roomOk { fabric with effect := fabric.effect.drop 1 } (frameFor p) p = false ∧ (frameFor p).vc.toNat ≤ 1) ∧
    (let h0 := { frameFor .ack with ackValid := true, ackSeq := 1 }
     let h := { h0 with crc := crc32c (h0.bytes ++ []) }
     let s : State := { fabric with net := { pairs := [(pairKey 1 0, { unacked := [⟨0, .ack, none, 0, 0, false, none⟩] })] } }
     h.ackValid = true ∧ comesOk s h .ack = true ∧ roomOk s h .ack = true ∧
     (∀ vc : BitVec 2, (s.pair (pairKey h.src vc)).waiting = []) ∧ Tab.get? s.net.syncs h.src.toNat = none ∧
     (∀ f ∈ (s.pair (pairKey h.src h.ackVc)).unacked, (f.seq - h.ackSeq).toNat ≠ 2 ^ 31) ∧
     (∀ f ∈ (s.pair (pairKey h.src h.ackVc)).unacked, f.seq ≠ h.ackSeq)) := by decide +kernel
theorem test_witness_FramesDiscarded : fabric.inService = true ∧
    (let h := frameFor (.count (exch0 2))
     let n := inboundNeeds h.vc (.count (exch0 2))
     fabric.overQuota n.1 n.2.2 = false ∧ fabric.hasRoom 0 n.2.2 n.1 n.2.1 = true ∧ fabric.wireOk h = true ∧ fabric.portEnable h.port.val = true ∧
     fabric.wireOk { h with encap := .ether 0x0800 } = false ∧ h.vc.toNat ≤ 1 ∧
     (let s : State := { fabric with effect := fabric.effect.drop 1 }
      s.overQuota n.1 n.2.2 = false ∧ s.hasRoom 0 n.2.2 n.1 n.2.1 = false ∧ frameGood s h (.count (exch0 2)) = true) ∧
     ({ fabric with effect := (0x5010 / 8, 0) :: fabric.effect } : State).portEnable 0 = false) ∧
    ({ frameFor (.count (exch0 2)) with fcsErr := true } : FrameHdr).fcsErr = true ∧
    frameGood fabric { frameFor (.count (exch0 2)) with crc := 0 } (.count (exch0 2)) = false ∧
    (let s : State := { fabric with mortar := { cal := { tb := 1250001 } } }
     let h := frameFor (.count (exch0 2))
     frameGood s h (.count (exch0 2)) = true ∧ (s.tb + 2 ^ 32 - h.tstamp.toNat) % 2 ^ 32 < 2 ^ 31 ∧
     s.frameLife < (s.tb + 2 ^ 32 - h.tstamp.toNat) % 2 ^ 32) ∧
    (let s : State := { fabric with net := { pairs := [(pairKey 1 0, { cum := 1 })] } }
     let h := frameFor (.count (exch0 2))
     frameGood s h (.count (exch0 2)) = true ∧ h.ackValid = false ∧ 2 ^ 31 < (h.seq - (s.pair (pairKey h.src h.vc)).cum).toNat) := by
  decide +kernel

/-! ### Witnesses: timers of the transport, links -/

theorem test_witness_TransportTimers : live.awake = true ∧ (live.pair (pairKey 1 2)).ackDue = 0 ∧
    (({ live with net := { pairs := [(pairKey 1 2, { ackDue := 1 })] } } : State).pair (pairKey 1 2)).ackDue ≠ 0 ∧
    Tab.get? live.net.syncs (1 : MemberId).toNat = none ∧ 0 < live.retxMax ∧
    Tab.get? ({ live with net := { syncs := [(1, ⟨⟨1, 0, 0, 0, 0⟩, 0, live.retxMax, 0, none⟩)] } } : State).net.syncs (1 : MemberId).toNat =
      some ⟨⟨1, 0, 0, 0, 0⟩, 0, live.retxMax, 0, none⟩ ∧
    live.retxMax < (⟨⟨1, 0, 0, 0, 0⟩, 0, live.retxMax + 1, 0, none⟩ : SyncOut).retx ∧
    (let f : TxFrame := ⟨5, .ack, none, 0, live.retxMax, false, none⟩
     let s : State := { live with net := { pairs := [(pairKey 1 2, { unacked := [f] })] } }
     (s.pair (pairKey 1 2)).unacked.find? (fun g => g.seq == 5) = some f ∧ (∀ p, p < 16 → (s.mac p).egress = []) ∧ f.retx = s.retxMax ∧
     ({ f with retx := 0 } : TxFrame).retx < s.retxMax ∧ s.retxMax < ({ f with retx := s.retxMax + 1 } : TxFrame).retx) ∧
    (let f : TxFrame := ⟨5, .ack, none, 0, live.retxMax, false, none⟩
     let s : State := { live with net := { pairs := [(pairKey 1 3, { unacked := [f] })] } }
     (s.pair (pairKey 1 3)).unacked.find? (fun g => g.seq == 5) = some f ∧ f.retx = s.retxMax) ∧
    (live.pair (pairKey 1 2)).unacked.find? (fun g => g.seq == 5) = none ∧ (2 : BitVec 2) ≠ 3 := by decide +kernel
theorem test_witness_Links : live.portsRun = true ∧ dark.portsRun = false ∧ heldS.portsRun = false ∧ (live.mac 0).linkUp = false ∧
    (let s : State := { live with net := { ports := [(0, { linkUp := true })] } }
     (s.mac 0).linkUp = true ∧ (s.mac 0).inSet = false ∧ (∀ e ∈ s.net.pairs, ∀ f ∈ e.2.unacked, f.port.isSome = true) ∧
     (∀ e ∈ (s.mac 0).egress, bit (0 : BitVec 8).toNat (s.pcp e.vc.toNat) = true)) ∧
    (let e : Egress := { peer := 1, vc := 0, seq := 5, bytes := 64 }
     let s : State := { live with net := { ports := [(0, { linkUp := true, inSet := true, pause := 255, egress := [e] })] } }
     (s.mac 0).egress = [e] ∧ e.bare = none ∧ bit (0 : BitVec 8).toNat (s.pcp e.vc.toNat) = false ∧
     ∀ e ∈ (s.mac 0).egress, bit (255 : BitVec 8).toNat (s.pcp e.vc.toNat) = true) := by decide +kernel

/-! ### Witnesses: timeouts, tiles, the cold stream -/

/-- An open attempt of a group of member 1, with these engines' states. -/
def attempting (a : Attempt) : State :=
  { opened [] false [] with
    att := a, groups := [(0, [1])], mortar := { tree := { settled := [1] } } }

theorem test_witness_AttemptTimeouts : (attempting {}).awake = true ∧ (attempting {}).attemptOpen = true ∧
    (let s := attempting { grantAt := some 5 }
     s.att.grantAt = some 5 ∧ s.att.grantDone = none ∧ s.allHeld s.att.countsIn = false) ∧
    (attempting {}).att.grantAt = none ∧ (attempting { grantDone := some 6 }).att.grantDone = some 6 ∧
    (attempting {}).allHeld (attempting {}).att.manIn = false ∧ (attempting {}).att.grantDone = none ∧
    (let s := attempting { laidOut := true, tiles := [⟨0, 0, 0, 1, 0, 1⟩], table := 0x4000, entered := 1 }
     s.att.laidOut = true ∧ (∃ x ∈ s.att.tiles, s.tileReady x = false) ∧ (∃ n, n < s.att.entered ∧ n ∉ s.att.doneTiles) ∧
     s.combineBlock.shared ≠ 0 ∧ s.att.comb.shared = false) ∧
    (∀ x ∈ (attempting {}).att.tiles, (attempting {}).tileReady x = true) ∧
    (∀ n, n < (attempting {}).att.entered → n ∈ (attempting {}).att.doneTiles) ∧
    (attempting { coldWon := [5] }).att.coldSlot < (attempting { coldWon := [5] }).att.coldWon.length ∧
    (attempting {}).att.coldWon.length ≤ (attempting {}).att.coldSlot ∧
    (attempting { comb := { shared := true } }).att.comb.shared = true ∧ (attempting {}).coll (0 : BitVec 8).toNat = none := by
  refine ⟨?_, ?_, ?_, ?_, ?_, ?_, ?_, ⟨?_, ?_, ⟨0, ?_⟩, ?_⟩, ?_⟩ <;> decide +kernel
theorem test_witness_AttemptTimeouts_coll :
    (let r : CollRec := CollRec.parse (List.replicate 64 0)
     let c : Coll := { record := r, group := 0, started := 3, lastRx := 4, own := 0, total := none }
     ((attempting { colls := [(0, c)] }).coll (0 : BitVec 8).toNat = some c) ∧ ({ c with total := none } : Coll).awaits = true ∧
      ({ c with finished := true } : Coll).awaits = false) := by decide +kernel

/-- Tiles of an open attempt: the tile list is queue 0 with capacity 8. -/
def tiled (rows cap : Nat) (written : List Nat := [0]) : State :=
  { opened [] false [] with
    mem := [(0x40F9, 1)]
    regs := [(bankWord 128 0xD008, BitVec.ofNat 64 (cap * 2 ^ 32 + 0x101))]
    effect := [(bankWord 128 0xD008, BitVec.ofNat 64 (cap * 2 ^ 32 + 0x101))]
    att := { table := 0x4000, tiles := [⟨0, 0, 0, 1, 0, rows⟩], tilesOn := true, laidOut := true, written := written } }

theorem test_witness_TileEnters : (tiled 0 8).awake = true ∧ (tiled 0 8).openSeq = some (seqAt 0 []) ∧ (seqAt 0 []).aborted = false ∧
    (tiled 0 8).att.tiles[(tiled 0 8).att.entered]? = some ⟨0, 0, 0, 1, 0, 0⟩ ∧ (tiled 0 8).att.tilesOn = true ∧
    (tiled 0 8).att.laidOut = true ∧ (tiled 0 8).tileReady ⟨0, 0, 0, 1, 0, 0⟩ = true ∧ (tiled 0 8).stagedTile 0 = true ∧
    (tiled 0 8).qEnable (tiled 0 8).dispatchBlock.queue = true ∧ (tiled 0 8).qRoom (tiled 0 8).dispatchBlock.queue 32 0 = true ∧
    0 ∈ (tiled 0 8).att.written ∧ 0 ∉ (tiled 0 8 []).att.written ∧
    (tiled 1 8).tileReady ⟨0, 0, 0, 1, 0, 1⟩ = false ∧ (tiled 0 0).qRoom (tiled 0 0).dispatchBlock.queue 32 0 = false ∧
    live.qEnable 0 = false := by decide +kernel
theorem test_witness_ColdStream :
    (let s : State := { opened [] false [] with
       att := { coldWon := [5] }, placement := [(0, { plan := List.replicate 0x1B 0 ++ [1] ++ List.replicate 100 0 })] }
     s.awake = true ∧ s.openSeq = some (seqAt 0 []) ∧ s.att.coldWon[s.att.coldSlot]? = some 5 ∧
     s.att.coldBytes + min 1048576 ((s.placementOf (s.plannerOf 0)).expertBytes - s.att.coldBytes) <
       (s.placementOf (s.plannerOf 0)).expertBytes) := by decide +kernel

/-! ### Witnesses: mortar lanes, barrier, membership -/

/-- Member 0 in a roster, with lane l trained to member 1. -/
def treed (roster : List MemberId) (l : Nat) : State :=
  { live with mortar := { lanes := [(l, { trained := true, partner := 1 })], tree := { roster := roster } }, sched := { curGen := 7 } }

/-- The header of a message with this body from member 1, with a good CRC. -/
def messageFor (seq : BitVec 8) (b : MortarBody) : MortarHdr :=
  let h : MortarHdr := { mhdr0 with seq := seq }
  { h with crc := crc32c (mortarBytes h b) }

/-- The hypotheses of a message that comes, as a check that evaluates. -/
def messageOk (s : State) (l : Fin 6) (b : MortarBody) : Bool :=
  s.lanesRun && decide (s.power.state = .run) && (s.lane l.val).trained && decide ((messageFor 0 b).crc = crc32c (mortarBytes (messageFor 0 b) b)) &&
  decide ((messageFor 0 b).seq = (s.lane l.val).rxNext)

theorem message_of {s l b} (k : messageOk s l b = true) : s.messageComes l (messageFor 0 b) b := by
  simp only [messageOk, Bool.and_eq_true, decide_eq_true_eq] at k
  obtain ⟨⟨⟨⟨a, b⟩, c⟩, d⟩, e⟩ := k
  exact ⟨a, b, c, d, e⟩

/-- Child lane U0 of member 0 at position 1, and down lane D0 of member 0 at position 0. -/
def child : State := treed [1, 0] 0
def rooted : State := treed [0] 2

theorem test_witness_LaneTraining : child.lanesRun = true ∧ child.power.state = .run ∧
    (messageFor 0 (.ident 1 2 0)).crc = crc32c (mortarBytes (messageFor 0 (.ident 1 2 0)) (.ident 1 2 0)) ∧ child.laneEnable 0 = true ∧
    child.partnerNamed 0 1 2 0 ∧ ¬ child.partnerNamed 0 1 2 5 ∧ (treed [0, 1] 2).partnerNamed 2 1 0 1 := by
  refine ⟨by decide +kernel, by decide +kernel, by decide +kernel, by decide +kernel, ⟨by decide +kernel, ?_, ?_, ?_⟩, ?_,
    ⟨by decide +kernel, ?_, ?_, ?_⟩⟩
  · exact fun _ => by decide +kernel
  · exact fun h => by cases h
  · exact fun h => by omega
  · exact fun h => by have := h.1; revert this; decide +kernel
  · exact fun h => by omega
  · exact fun h => by omega
  · exact fun _ => .inl (by decide +kernel)
/-- A block that lost itself, whose secondary parent is position 0: U1 alone brings it back (R442). -/
def lostSelf : State :=
  { child with
    boot := { child.boot with phase := .join, ready := false, selfLost := true }
    mortar := { child.mortar with lanes := [], tree := { roster := [1, 0], sec := [0x8000, 0] } } }

theorem test_witness_LaneTraining_secondary : lostSelf.lanesRun = true ∧ lostSelf.laneEnable 1 = true ∧ lostSelf.partnerNamed 1 1 2 0 ∧
    lostSelf.boot.selfLost = true ∧ lostSelf.mortar.cal.loaded = false ∧ (lostSelf.lane 0).trained = false ∧
    ({ child with regs := [(0x4000 / 8, 0)] } : State).laneEnable 0 = false := by
  refine ⟨by decide +kernel, by decide +kernel, ⟨by decide +kernel, ?_, ?_, ?_⟩, by decide +kernel⟩
  · exact fun h => absurd h (by decide)
  · exact fun _ => by decide +kernel
  · exact fun h => absurd h (by decide)
theorem test_witness_LaneUpkeep_beats : rooted.tbLoaded = true ∧ child.tbLoaded = false ∧ child.trainedLanes = [0] ∧ (child.lane 0).clearFrom ≤ child.tb ∧
    child.isRoot = false ∧ child.mortar.cal.lastReq = none ∧
    ({ rooted with mortar := { rooted.mortar with cal := { lastReq := some 7 } } } : State).mortar.cal.lastReq = some 7 ∧
    (let s := treed [1, 0] 2
     messageOk s 2 (.calReq 9) = true ∧ s.mortar.cal.loaded = false ∧ s.isRoot = false) := by decide +kernel

/-- A root's first beat stands at a multiple of 5,000 tb (R312). -/
theorem test_beat : ({ rooted with mortar := { rooted.mortar with cal := { tb := 12345 } } } : State).nextBeat = 15000 := by decide +kernel

theorem test_witness_LaneUpkeep : child.lanesRun = true ∧ child.power.state = .run ∧ (child.lane 0).trained = true ∧
    (messageFor 255 .heartbeat).crc = crc32c (mortarBytes (messageFor 255 .heartbeat) .heartbeat) ∧
    (messageFor 255 .heartbeat).seq + 1 = (child.lane 0).rxNext ∧ (messageFor 31 .heartbeat).crc = crc32c (mortarBytes (messageFor 31 .heartbeat) .heartbeat) ∧
    ((messageFor 31 .heartbeat).seq + 1 - (child.lane 0).rxNext).toNat = 32 ∧
    (messageFor 0 .nak).crc = crc32c (mortarBytes (messageFor 0 .nak) .nak) ∧ messageOk rooted 2 (.calReq 9) = true ∧ rooted.isRoot = true ∧
    messageOk child 0 (.calResp 1 2 3) = true := by decide +kernel
theorem test_witness_SilentLanes : child.lanesRun = true ∧ (child.lane 0).trained = true ∧ (child.lane 1).trained = false ∧
    child.mortar.tree.roster ≠ [] ∧ child.myPos ≠ 0 ∧ rooted.myPos = 0 ∧ (rooted.lane 0).trained = false ∧
    (treed [0] 0).primaryKids = [] ∧ (treed [0] 0).secondaryKids = [] ∧ ((treed [0] 0).lane 2).trained = false ∧
    ({ child with mortar := { child.mortar with tree := { roster := [1, 0], sec := [0x8000, 0] } } } : State).secParent ≠ none := by
  decide +kernel

def arr0 (bn : BitVec 32) : ArriveBody :=
  { bn := bn, gen := 7, attempt := 0, kind := .seal, crcMismatch := false, neutral := false, admitReq := false, vote := passVote, mask := 0,
    crc := 0, downDelay := 0 }
def rel0 (bn : BitVec 32) : ReleaseBody :=
  { bn := bn, gen := 7, attempt := 0, kind := .idle, aborted := false, crcAgree := true, admits := false, tRel := 100, vote := passVote,
    mask := 0, membVer := 0, agreedCrc := 0 }
def abort0 : AbortBody := { code := 0x11, attempt := 0, gen := 7 }
def reduce0 : ReduceBody := { gen := 7, attempt := 0, opseq := 0, isMax := false, words := [1] }
def begunChild : State := { child with mortar := { child.mortar with bar := { begun := true } } }

theorem test_witness_BarrierMessages :
    (∀ bn ∈ [(0 : Nat), 1], messageOk rooted 2 (.arrive (arr0 (BitVec.ofNat 32 bn))) = true) ∧
    ((arr0 1).bn ≠ rooted.mortar.bar.bn ∧ (arr0 0).bn = rooted.mortar.bar.bn ∧ (arr0 0).neutral = false ∧ (arr0 0).admitReq = false ∧
      (messageFor 0 (.arrive (arr0 0))).origin = (rooted.lane 2).partner ∧ (messageFor 0 (.arrive (arr0 0))).origin ∉ rooted.primaryKids ∧
      ((arr0 0).gen - rooted.sched.curGen).toNat ≤ 1 ∧ ((rel0 0).gen - begunChild.sched.curGen).toNat ≤ 1) ∧
    (messageOk begunChild 0 (.release (rel0 0)) = true ∧ begunChild.upLane = some 0 ∧ begunChild.mortar.bar.begun = true ∧
      (rel0 0).bn = begunChild.mortar.bar.bn ∧ messageOk begunChild 0 (.release (rel0 1)) = true ∧ (rel0 1).bn ≠ begunChild.mortar.bar.bn) ∧
    (abort0.code ≠ Code.mortarRehome ∧ (abort0.gen - child.sched.curGen).toNat ≤ 1 ∧ messageOk child 0 (.abort abort0) = true ∧
      child.upLane = some 0 ∧ messageOk rooted 2 (.abort abort0) = true ∧ rooted.isRoot = true ∧
      messageOk (treed [1, 0] 2) 2 (.abort abort0) = true ∧ (treed [1, 0] 2).isRoot = false) ∧
    (reduce0.gen - child.sched.curGen).toNat ≤ 1 ∧ messageOk child 0 (.reduce reduce0) = true ∧ messageOk rooted 2 (.reduce reduce0) = true := by decide +kernel
/-- A root, and a root of two, whose barrier has begun. -/
def begunRoot (roster : List MemberId) (kids : Tab Nat) : State :=
  { treed roster 2 with mortar := { (treed roster 2).mortar with bar := { begun := true }, tree := { roster := roster, kidsIn := kids } } }

theorem test_witness_BarrierMessages_windows :
    64513 ≤ ((6 : BitVec 16) - begunChild.sched.curGen).toNat ∧ 64513 ≤ ((64520 : BitVec 16) - begunChild.sched.curGen).toNat ∧
    (let d := ((9 : BitVec 16) - begunChild.sched.curGen).toNat
     1 < d ∧ d < 64513) ∧
    (let d := ((64519 : BitVec 16) - begunChild.sched.curGen).toNat
     1 < d ∧ d < 64513) ∧
    ((arr0 0x80000000).bn - (begunRoot [0] []).mortar.bar.bn).toNat = 0x80000000 ∧ (begunRoot [0] []).mortar.bar.begun = true ∧
    ((rel0 0x80000000).bn - begunChild.mortar.bar.bn).toNat = 0x80000000 ∧
    ((0x8000 : BitVec 16) - begunChild.mortar.tree.membVer).toNat = 0x8000 ∧
    ((rel0 0).membVer - begunChild.mortar.tree.membVer).toNat ≠ 0x8000 := by decide +kernel
theorem test_witness_BarrierMessages_arrive :
    ([arr0 0x80000000, { arr0 0 with gen := 6 }, { arr0 0 with gen := 9 }].all (fun a =>
      messageOk (begunRoot [0] []) 2 (.arrive a) && a.kind != .first)) = true ∧
    messageOk (begunRoot [0, 1] []) 2 (.arrive (arr0 0)) = true ∧ (1 : MemberId) ∈ (begunRoot [0, 1] []).primaryKids ∧
    messageOk (begunRoot [0] [(2, 0)]) 2 (.arrive (arr0 0)) = true ∧ (1 : MemberId) ∉ (begunRoot [0] [(2, 0)]).primaryKids ∧
    (Tab.get? (begunRoot [0] [(2, 0)]).mortar.tree.kidsIn 2).isSome = true := by decide +kernel
theorem test_witness_BarrierMessages_others :
    ([rel0 0x80000000, { rel0 0 with membVer := 0x8000 }, { rel0 0 with gen := 6 }, { rel0 0 with gen := 9 }].all (fun x =>
      messageOk begunChild 0 (.release x))) = true ∧
    ([(6 : BitVec 16), 9].all (fun g => messageOk child 0 (.abort { abort0 with gen := g }) && messageOk child 0 (.reduce { reduce0 with gen := g }))) =
      true := by decide +kernel
theorem test_witness_messageComes : begunChild.messageComes 0 (messageFor 0 (.release (rel0 0))) (.release (rel0 0)) :=
  message_of (by decide +kernel)

/-- A joining root that holds a release; a slot that opens next; a root that waits for absent members. -/
def joining : State :=
  { live with boot := { live.boot with phase := .join, ready := false }, mortar := { tree := { roster := [0] }, bar := { release := some (rel0 0) } } }
def opening : State :=
  { live with sched := { next := some { prog := 0, entry := 0, attempt := 0, count := none, tNext := 500 }, programs := [(0, { image := { passes := 1 } })] } }
def waitingRoot (roster : List MemberId) (own : Option ArriveBody) : State :=
  { live with mortar := { tree := { roster := roster }, bar := { own := own } } }

theorem test_witness_BarrierAndSlotTimes : live.boot.powered = true ∧ live.held = false ∧ live.mortar.bar.release = none ∧
    (joining.mortar.bar.release = some (rel0 0) ∧ joining.power.state = .run ∧ joining.boot.phase = .join ∧ joining.mortar.bar.late = false ∧
      (((joining.until (rel0 0).tRel.toNat).noteRelease (rel0 0)).1.boot.phase = .join) ∧
      (((joining.until (rel0 0).tRel.toNat).noteRelease (rel0 0)).1.mortar.bar.late = false)) ∧
    (opening.sched.next = some { prog := 0, entry := 0, attempt := 0, count := none, tNext := 500 } ∧ opening.power.state = .run ∧
      opening.boot.phase = .admitted ∧ opening.mortar.bar.own = none ∧ opening.openNum = none ∧ opening.sched.seqs = []) ∧
    live.sched.next = none ∧
    (let own : ArriveBody := { arr0 0 with kind := .first }
     let s := waitingRoot [0] (some own)
     s.mortar.bar.own = some own ∧ s.boot.memberValid = true ∧ s.mortar.bar.begun = false ∧ s.mortar.bar.sentUp = false ∧ own.kind = .first ∧
     s.mortar.bar.kids = [] ∧ s.isRoot = true ∧ (waitingRoot [1, 0] (some own)).isRoot = false) ∧
    live.mortar.bar.own = none ∧ live.boot.memberValid = true := by decide +kernel

theorem test_witness_BarrierAndSlotTimes_admitted :
    (let s : State := { child with mortar := { child.mortar with bar := { release := some (rel0 0) } } }
     s.mortar.bar.release = some (rel0 0) ∧ s.power.state = .run ∧ ((s.until (rel0 0).tRel.toNat).noteRelease (rel0 0)).1.boot.phase = .admitted ∧
     ((s.until (rel0 0).tRel.toNat).noteRelease (rel0 0)).1.power.state = .run) ∧
    ({ prog := 0, entry := 0, attempt := 0, count := none, tNext := 500 } : NextSlot).aborted = false ∧
    (let s : State := { sleeping .light false with mortar := { bar := { release := some (rel0 0) } } }
     s.mortar.bar.release = some (rel0 0) ∧ s.power.state = .light ∧ s.boot.powered = true ∧ s.held = false) := by decide +kernel

/-- A slot that opens takes the layer-pass counter as its generation, at its T_next (R220, R226). -/
theorem test_slot_open : (match exec .slotOpen opening with
      | .next t => (t.tb, t.sched.count, t.sched.curGen, t.openNum.isSome)
      | _ => (0, 0, 0, false)) = (500, 1, 0, true) := by decide +kernel

/-- A block that is being admitted, on U0. -/
def admitted0 : State :=
  { child with boot := { child.boot with phase := .joined }, mortar := { child.mortar with bar := { admitted := true } } }

theorem test_witness_MembershipMessages :
    (messageOk (treed [1, 0] 2) 2 (.suspect 1 2) = true ∧ (treed [1, 0] 2).isRoot = false ∧ messageOk rooted 2 (.suspect 1 2) = true ∧
      rooted.isRoot = true) ∧
    (messageOk child 0 (.lost 5 1) = true ∧ child.upLane = some 0 ∧ messageOk rooted 2 (.rehome 1 0) = true) ∧
    (messageOk child 0 (.admitMsg 5 1) = true ∧ child.isKid 5 = false) ∧
    (messageOk admitted0 0 (.state (.common 9 3 0 0 0 0)) = true ∧ admitted0.upLane = some 0 ∧ admitted0.mortar.bar.admitted = true ∧
      admitted0.boot.phase = .joined ∧ 0 ∉ admitted0.mortar.bar.stateIn ∧ admitted0.mortar.bar.stateIn.length < 12) ∧
    messageOk child 0 (.state (.common 9 3 0 0 0 0)) = true ∧ child.mortar.bar.admitted = false := by decide +kernel

/-! ### Witnesses: tests, responses, start, supply -/

theorem test_witness_Maintenance : live.testing = true ∧ live.boot.rotating = false ∧
    ({ live with boot := { live.boot with rotating := true } } : State).boot.rotating = true ∧ (127 : Fin 128).val ∉ live.boot.fenced ∧
    (127 : Fin 128).val ∉ live.boot.toFence ∧ storeLines (6 : Fin 8).val 32767 = true ∧ storeLines (6 : Fin 8).val 32768 = false ∧
    32767 ∉ ((live.store 6).visit 32767).before ∧
    (let i : Issued := { issued (opWord 0x15 0) .exchange none .waiting with planned := some 900 }
     ((working [i]).engineQueue .exchange).head? = some (3, 0, i) ∧ i.planned = some 900) := by decide +kernel
/-- Lines of every store without a sleep; one read before; whether a line has been written since a deep sleep is free, and either value meets a clause. -/
theorem test_witness_Maintenance_lines : (∀ i ∈ List.range 8, storeLines i 0 = true ∧ live.scrubSkips i 0 = false) ∧
    (let s := live.setStore 6 { before := [3] }
     s.testing = true ∧ s.boot.rotating = false ∧ 3 ∈ ((s.store 6).visit 3).before) ∧
    (∀ b : Bool, Config.lineWritten 0 0 5 = b →
      ({ live with power := { live.power with unwritten := true } } : State).scrubSkips 0 5 = !b) ∧
    ({ live with power := { live.power with sag := true } } : State).power.stepped = false := by
  refine ⟨by decide +kernel, by decide +kernel, fun b h => ?_, rfl⟩
  show (true && [0, 1, 3, 4, 7].contains 0 && !(Config.lineWritten 0 0 5)) = !b
  rw [h]; cases b <;> rfl
theorem test_witness_HostResponses : live.portsRun = true ∧ HostCtx.other ∈ [HostCtx.other, .save] ∧ HostStatus.dataErr ≠ .ok ∧
    (live.prog 0).state ≠ .running ∧ (live.prog 0).state ≠ .stopping ∧
    (let m : WMove := { staging := false, layer := 1, expert := 2, holder := 0, dst := 0, src := none, epoch := 0, active := true }
     let s : State := { live with placement := [(0, { moves := [m] })] }
     let w : State := { live with placement := [(0, { moves := [{ m with wait := true }] })] }
     s.moveNamed 0 1 2 false (fun m => m.src.isNone && !m.wait) = some m ∧ w.moveNamed 0 1 2 false (·.wait) = some { m with wait := true }) ∧
    ((inState .loaded).prog 0).state = .loaded ∧ ((inState .running).prog 0).state ≠ .loaded ∧ (sleeping .deep false).portsRun = true ∧
    (sleeping .deep false).power.state = .deep := by decide +kernel
theorem test_witness_HostResponses_contexts : .decodeErr ∈ [HostStatus.ok, .decodeErr] ∧ .dataErr ∈ [HostStatus.dataErr] ∧ .decodeErr ∉ [HostStatus.dataErr] ∧
    .dataErr ∉ [HostStatus.ok] ∧ (0 : BitVec 14).toNat ∈ (laid [0]).layout.descs ∧ (laid [0]).portsRun = true ∧
    (let s := tiled 0 8 []
     s.portsRun = true ∧ (⟨0, 0, 0, 1, 0, 0⟩ : Tile) ∈ s.att.tiles ∧ s.tileReady ⟨0, 0, 0, 1, 0, 0⟩ = true ∧ (0 : BitVec 24).toNat ∉ s.att.written) ∧
    (let c : Coll := { record := CollRec.parse (List.replicate 64 0), group := 0, started := 3, lastRx := 4, own := 0, landed := [0] }
     (attempting { colls := [(0, c)] }).coll (0 : BitVec 8).toNat = some c ∧ (0 : BitVec 32).toNat ∈ c.landed ∧ (0 : BitVec 32).toNat ∉ c.doneCh) := by
  decide +kernel

/-- A tile enters once the response of its rows' writes is in, and not before (R115, R392). -/
theorem test_tile_written : (match exec .tileEnter (tiled 0 8 []) with
      | .next t => t.att.entered
      | _ => 7) = 0 ∧ (match exec (.hostWriteResponse (.tile 0) .ok) (tiled 0 8 []) with
      | .next t => t.att.written
      | _ => []) = [0] := by decide +kernel

theorem test_witness_PortResets : live.serving = true := by decide

/-! A whole image: header, four sections (ROSTER of member 0 alone, SEC_PARENT none, 64 empty groups, the layout base 0). -/

def secEntry (t off : Nat) (b : List Byte) : List Byte :=
  leBytes 2 t ++ leBytes 2 0 ++ leBytes 4 off ++ leBytes 4 b.length ++ leBytes 4 (crc32c b).toNat
def imgHead (n : Nat) : List Byte :=
  let h := leBytes 4 0x4D444E4C ++ leBytes 4 0x00030002 ++ leBytes 4 512 ++ leBytes 2 n ++ leBytes 2 0 ++ List.replicate 44 0
  h ++ leBytes 4 (crc32c h).toNat
def image (roster : List Byte) : List Byte :=
  imgHead 4 ++ secEntry 1 128 [1, 0, 0, 0] ++ secEntry 2 136 [0, 0x80] ++ secEntry 3 144 (List.replicate 128 0) ++ secEntry 0x10 272 (List.replicate 8 0) ++
  roster ++ List.replicate 4 0 ++ [0, 0x80] ++ List.replicate 374 0

def fresh : State := State.reset

theorem test_witness_Start_headers : fresh.boot.powered = true ∧ fresh.stopped = false ∧ fresh.boot.phase = .reset ∧
    fresh.boot.cfgMode.toNat < 2 ∧ (headerFault []).isSome = true ∧ headerFault (imgHead 1) = none ∧
    (tableFault (imgHead 1) (sectionsOf (imgHead 1))).isSome = true ∧ headerFault (image [1, 0, 0, 0]) = none ∧
    tableFault (image [1, 0, 0, 0]) (sectionsOf (image [1, 0, 0, 0])) = none := by decide +kernel
set_option maxRecDepth 10000 in
theorem test_witness_Start_sections :
    ((fresh.sectionsFault (image [2, 0, 0, 0]) (sectionsOf (image [2, 0, 0, 0])) (sectionsOf (image [2, 0, 0, 0])).zipIdx).2 =
      some (Code.imageCrc, 0)) ∧
    (fresh.sectionsFault (image [1, 0, 0, 0]) (sectionsOf (image [1, 0, 0, 0])) (sectionsOf (image [1, 0, 0, 0])).zipIdx).2 = none := by
  decide +kernel
theorem test_witness_Start_later : live.boot.phase ≠ .reset ∧
    (let s : State := { State.reset with boot := { phase := .selfTest }, power := { pllLock := true } }
     s.boot.powered = true ∧ s.stopped = false ∧ s.boot.phase = .selfTest ∧ s.power.pllLock = true) ∧ live.boot.phase ≠ .selfTest ∧
    (let s : State := { State.reset with boot := { phase := .load } }
     s.stopped = false ∧ s.boot.phase = .load ∧ ∀ x ∈ s.boot.sections, x.typ = 0x11 ∨ x.typ = 0x12 → crc32c (x.bytes []) = x.crc) ∧
    live.boot.phase ≠ .load := by
  refine ⟨by decide +kernel, by decide +kernel, by decide +kernel, ⟨by decide +kernel, by decide +kernel, ?_⟩, by decide +kernel⟩
  intro x hx; cases hx

set_option maxRecDepth 10000 in
/-- A good image is taken: self-test is next (R418, R419). -/
theorem test_image : (match exec (.imagePass1 (image [1, 0, 0, 0])) fresh with
      | .next t => (t.boot.phase, t.mortar.tree.roster)
      | _ => (.held, [])) = (.selfTest, [0]) := by decide +kernel

def sagged (sag stepped : Bool) : State := { live with power := { sag := sag, stepped := stepped } }

theorem test_witness_SagAndClockStep : (∀ a b, (sagged a b).awake = true ∧ (sagged a b).power.sag = a ∧ (sagged a b).power.stepped = b) ∧
    (sagged true false).reg 0x1004 2 1 ≠ 0 ∧
    ({ sagged true false with regs := [(0x1000 / 8, 0)] } : State).reg 0x1004 2 1 = 0 ∧
    (let s : State := { sagged false true with power := { stepped := true, above := true } }
     s.power.above = true ∧ s.power.stepped = true) ∧ ({ sagged false true with power := { stepped := true, above := false } } : State).power.above = false ∧
    ((sagged true false).reg 0x1008 8 8 < (255 : BitVec 8).toNat ∧ ¬ (sagged true false).reg 0x1008 8 8 < (0 : BitVec 8).toNat) ∧
    stretchedIn 1 = (0, 1) := by decide +kernel
theorem test_witness_SelectionRanking : ∀ p ∈ [(⟨0x3F800000, 0, false⟩ : PairRec), ⟨0x80000000, 0, false⟩, ⟨0xFF800000, 0, false⟩],
    (f32 p.s.toNat).isNan = false := by decide +kernel
theorem test_witness_SerialComparison : 1 ≤ 1 ∧ 0 < 2 ^ 1 ∧ 1 < 2 ^ 1 ∧ serial 1 0 1 = .undefined ∧ serial 16 0xFFFF 0 = .before := by decide

/-- Equal scores rank by the lower expert, and +0 equals −0 (R55). -/
theorem test_ranking : (ranking [⟨0x80000000, 0, false⟩, ⟨0x3F800000, 0, false⟩, ⟨0, 0, false⟩, ⟨0x3F800000, 0, false⟩]).map (·.e) =
    [1, 3, 0, 2] := by decide +kernel

end Sys2Proof.Tests
end

section
/-! SUPPORT. A free written to the pool window of a host core (15, R353, R355): which buffer it frees, and when it is DOUBLE_FREE. -/

namespace Sys2Proof.Machine

variable {s : State} {c : Fin 16} {h : BitVec 32}

/-! ### The handle that a free names (R349, R353) -/

/-- The handle names a carved buffer, and some requester holds it. -/
def State.holdsHandle (s : State) (h : BitVec 32) : Prop :=
  h.toNat / 2 ^ 28 ≤ 4 ∧ h.toNat / 2 ^ 25 % 8 ≤ 5 ∧
    h.toNat % 2 ^ 12 < s.classCount (h.toNat / 2 ^ 28) (h.toNat / 2 ^ 25 % 8) ∧
    (Tab.get? (s.poolClass (h.toNat / 2 ^ 28) (h.toNat / 2 ^ 25 % 8)).used (h.toNat % 2 ^ 12)).isSome = true

theorem field_handle_pool (h : BitVec 32) : field h.toNat 28 4 = h.toNat / 2 ^ 28 :=
  Nat.mod_eq_of_lt (by have := h.isLt; omega)

theorem field_handle_class (h : BitVec 32) : field h.toNat 25 3 = h.toNat / 2 ^ 25 % 8 := rfl

theorem field_handle_index (h : BitVec 32) : field h.toNat 0 12 = h.toNat % 2 ^ 12 := by simp [field]

theorem State.dropBuffer_handle (s : State) (h : BitVec 32) :
    s.dropBuffer h.toNat = s.setPoolClass (h.toNat / 2 ^ 28) (h.toNat / 2 ^ 25 % 8)
      { s.poolClass (h.toNat / 2 ^ 28) (h.toNat / 2 ^ 25 % 8) with
        used := Tab.erase (s.poolClass (h.toNat / 2 ^ 28) (h.toNat / 2 ^ 25 % 8)).used (h.toNat % 2 ^ 12) } := by
  unfold State.dropBuffer
  rw [field_handle_pool, field_handle_class, field_handle_index]

theorem State.freeBuffer_of_holdsHandle (hh : s.holdsHandle h) : s.freeBuffer h.toNat = s.dropBuffer h.toNat := by
  unfold State.freeBuffer
  rw [field_handle_pool, field_handle_class, field_handle_index]
  exact if_pos hh

theorem State.freeBuffer_of_not_holdsHandle (hh : ¬ s.holdsHandle h) :
    s.freeBuffer h.toNat = (s.bump 0x21720).raise Code.doubleFree { unit := 13 } := by
  unfold State.freeBuffer
  rw [field_handle_pool, field_handle_class, field_handle_index]
  exact if_neg hh

/-- A buffer that has just been given back is held by no requester. -/
theorem State.dropBuffer_not_holdsHandle (s : State) (h : BitVec 32) : ¬ (s.dropBuffer h.toNat).holdsHandle h := by
  rintro ⟨-, -, -, hheld⟩
  simp [State.dropBuffer_handle, State.poolClass_set, Tab.get?_erase] at hheld

/-! ### The write that frees (R355) -/

theorem State.portWrite_poolFree (s : State) (c : Fin 16) (h : BitVec 32) :
    s.portWrite (poolOff c + 0x18) 2 h.toNat = s.windowWrite c (.free h) := by
  have hc := c.isLt
  have hwin : Fin.ofNat 16 ((poolOff c + 0x18 - 0xC800) / 0x20) = c := by
    ext
    simp only [poolOff, Fin.val_ofNat]
    omega
  unfold State.portWrite
  rw [hwin, BitVec.ofNat_toNat, BitVec.setWidth_eq]
  unfold poolOff
  rw [if_neg (by omega), if_neg (by omega), if_neg (by omega), if_pos (by omega)]
  dsimp only
  rw [if_neg (by omega), if_pos (by omega)]

theorem State.windowWrite_of_not_waiting (hw : (s.poolWindow c).waiting = false) (w : PoolWrite) :
    s.windowWrite c w = s.ok.windowApply c w := by
  simp [State.windowWrite, hw]

/-- A served free with no request waiting in its window is answered, then applied. -/
theorem exec_poolFree (hs : s.servesNow) (hw : (s.poolWindow c).waiting = false) (h : BitVec 32) :
    exec (.poolFree c h) s = .next (s.newTag.ok.freeBuffer h.toNat) := by
  rw [exec_serves hs _ rfl]
  have hserve : s.newTag.serve (.poolFree c h) = s.newTag.windowWrite c (.free h) := s.newTag.portWrite_poolFree c h
  rw [hserve, State.windowWrite_of_not_waiting (s := s.newTag) hw]
  rfl

theorem exec_poolFree_held (hs : s.servesNow) (hw : (s.poolWindow c).waiting = false) (hh : s.newTag.holdsHandle h) :
    exec (.poolFree c h) s = .next (s.newTag.ok.dropBuffer h.toNat) := by
  rw [exec_poolFree hs hw, State.freeBuffer_of_holdsHandle (s := s.newTag.ok) hh]

theorem exec_poolFree_doubleFree (hs : s.servesNow) (hw : (s.poolWindow c).waiting = false) (hh : ¬ s.newTag.holdsHandle h) :
    exec (.poolFree c h) s = .next ((s.newTag.ok.bump 0x21720).raise Code.doubleFree { unit := 13 }) := by
  rw [exec_poolFree hs hw, State.freeBuffer_of_not_holdsHandle (s := s.newTag.ok) hh]

/-- Settles O38: the first free erases the buffer's entry, so a second one finds no holder. -/
theorem poolFree : Obligations.PoolFree := by
  unfold Obligations.PoolFree
  intro s₀ c h s hs hw pool cls i k names
  constructor
  · intro hnames
    refine ⟨s.ok.dropBuffer h.toNat, exec_poolFree_held hs hw hnames, ?_, ?_⟩
    · rw [State.dropBuffer_handle]
      rfl
    · exact exec_poolFree_doubleFree hs hw (s.ok.dropBuffer_not_holdsHandle h)
  · exact exec_poolFree_doubleFree hs hw

end Sys2Proof.Machine
end

section
/-! SUPPORT. The signal unit's writes (16): the doorbell (R373), SET_PENDING and CLEAR_PENDING (R379), and a source's
configuration word whose ENABLE is cleared (R376). -/

namespace Sys2Proof.Machine

variable {s : State} {n : Nat}

/-! ### Bits of register words -/

theorem bit_eq_testBit (w i : Nat) : bit w i = w.testBit i := by
  rw [Nat.testBit_eq_decide_div_mod_eq]
  rfl

theorem bit_ofNat_toNat {w : Nat} {i k : Nat} (hi : i < k) : bit (BitVec.ofNat k w).toNat i = bit w i := by
  simp [bit_eq_testBit, hi]

theorem bit_field_low (v : Nat) {i len : Nat} (hi : i < len) : bit (field v 0 len) i = bit v i := by
  simp [bit_eq_testBit, field, hi]

/-- A masked write takes the bits of the mask from the new value and keeps the others. -/
theorem bit_maskWrite (old v mask : Nat) {i : Nat} (hi : i < 64) :
    bit (maskWrite old v mask) i = if bit mask i then bit v i else bit old i := by
  unfold maskWrite
  rw [bit_getLsbD]
  simp only [BitVec.getLsbD_or, BitVec.getLsbD_and, BitVec.getLsbD_not, BitVec.getLsbD_ofNat, hi, bit_eq_testBit, decide_true,
    Bool.true_and]
  cases mask.testBit i <;> simp

theorem State.word_setWord (s : State) (k : Nat) (v : BitVec 64) (j : Nat) :
    (s.setWord k v).word j = if k = j then v else s.word j := Tab.get_set _ _ _ _ _

theorem sourceWord_index (n : Nat) : (0x8000 + 8 * n) / 8 = 0x8000 / 8 + n := by omega

/-- ENABLE is bit 4 of the source's configuration word. -/
theorem State.srcEnable_eq_bit (s : State) (n : Nat) : s.srcEnable n = bit (s.word (0x8000 / 8 + n)).toNat 4 := by
  unfold State.srcEnable State.reg
  rw [sourceWord_index, show (0x8000 + 8 * n) % 8 * 8 + 4 = 4 by omega]
  rfl

theorem State.srcTarget_eq_field (s : State) (n : Nat) : s.srcTarget n = field (s.word (0x8000 / 8 + n)).toNat 0 4 := by
  unfold State.srcTarget State.reg
  rw [sourceWord_index, show (0x8000 + 8 * n) % 8 * 8 + 0 = 0 by omega]

/-! ### Batches and arbitration -/

theorem State.arbitrate_stack (s : State) (t k : Nat) : ((s.arbitrate t).target k).stack = (s.target k).stack := by
  by_cases h : k = t
  · rw [h, State.arbitrate_target]
  · rw [State.arbitrate_target_other s h]

theorem State.arbitrate_srcEnable (s : State) (t n : Nat) : (s.arbitrate t).srcEnable n = s.srcEnable n := by
  rw [State.arbitrate_signals]
  rfl

theorem State.source_fireBatch (s : State) (n m : Nat) :
    (s.fireBatch n).source m = if n = m then fired s n else s.source m := by
  rcases State.fireBatch_cases s n with h | ⟨b, h⟩
  · rw [h, State.source_setSource]
  · rw [h, State.source_setSource, State.source_setSource]
    split <;> rfl

theorem Source.count1_count (b : Source) : b.count1.count = if b.count = 0xFFFF then 0xFFFF else b.count + 1 := by
  unfold Source.count1
  split
  · assumption
  · rfl

/-- A fire raises the count of an open or pending batch and opens a new one at 1 (R377). -/
theorem fired_count (s : State) (n : Nat) :
    (fired s n).count = if (s.source n).pending = false ∧ (s.source n).isOpen = false then 1 else (s.source n).count1.count := by
  unfold fired
  cases hp : (s.source n).pending with
  | true => simp
  | false =>
    cases ho : (s.source n).isOpen with
    | true => simp [apply_ite Source.count]
    | false => simp [apply_ite Source.count, Source.start]

theorem State.fire_disabled (hn : s.srcEnable n = false) : s.fire n = s.bump 0x21790 := by
  simp [State.fire, hn]

/-! ### SET_PENDING and CLEAR_PENDING (R379) -/

theorem State.setPending_ignored (h : 0x400 ≤ n ∨ s.srcEnable n = false) : s.setPending n = s :=
  if_neg fun ⟨hn, he⟩ => h.elim (by omega) (by simp [he])

theorem State.clearPending_ignored (h : 0x400 ≤ n ∨ s.srcEnable n = false) : s.clearPending n = s :=
  if_neg fun ⟨hn, he⟩ => h.elim (by omega) (by simp [he])

section Enabled
variable (hn : n < 0x400) (he : s.srcEnable n = true)
include hn he

theorem State.setPending_enabled :
    s.setPending n = (((s.bump 0x21780).fireBatch n).closeBatch n).arbitrate (s.srcTarget n) := if_pos ⟨hn, he⟩

theorem State.clearPending_enabled : s.clearPending n = (s.dropBatch n).arbitrate (s.srcTarget n) := if_pos ⟨hn, he⟩

/-- The batch of SET_PENDING is the fire's, closed; no other source changes. -/
theorem State.source_setPending (m : Nat) :
    (s.setPending n).source m = if n = m then { fired s n with isOpen := false, pending := true } else s.source m := by
  rw [State.setPending_enabled hn he, State.arbitrate_source, State.closeBatch, State.source_setSource, State.source_fireBatch,
    State.source_fireBatch]
  split
  · rw [if_pos rfl]
    rfl
  · rfl

theorem State.setPending_rest :
    s.setPending n = { s with signals := (s.setPending n).signals, counters := (s.setPending n).counters } := by
  rw [State.setPending_enabled hn he, State.arbitrate_signals, State.closeBatch, State.fireBatch_frame]
  rfl

theorem State.setPending_ctr : (s.setPending n).ctr 0x21780 = s.ctr 0x21780 + 1 := by
  rw [State.setPending_enabled hn he, State.arbitrate_signals, State.closeBatch, State.fireBatch_frame]
  exact (s.ctr_bump 0x21780 1 0x21780).trans (if_pos rfl)

theorem State.source_clearPending (m : Nat) : (s.clearPending n).source m = if n = m then {} else s.source m := by
  rw [State.clearPending_enabled hn he, State.arbitrate_source, State.dropBatch, State.source_setSource]

theorem State.clearPending_rest : s.clearPending n = { s with signals := (s.clearPending n).signals } := by
  rw [State.clearPending_enabled hn he, State.arbitrate_signals]
  rfl

end Enabled

/-! ### The writes that reach the signal unit -/

theorem State.portWrite_signalDoorbell (s : State) (size : BitVec 3) (data : BitVec 512) (h2 : 2 ≤ size.toNat) (h6 : size.toNat ≤ 6) :
    s.portWrite 0x80000 size.toNat data.toNat = (s.ringSignal size (data.setWidth 32)).ok := by
  have haligned : 0x80000 % 2 ^ size.toNat = 0 :=
    Nat.mod_eq_zero_of_dvd (Nat.pow_dvd_pow 2 (show size.toNat ≤ 19 by omega))
  unfold State.portWrite
  rw [if_neg (by omega), if_pos rfl, BitVec.ofNat_toNat, BitVec.setWidth_eq, BitVec.ofNat_toNat]

/-- The word of SET_PENDING and CLEAR_PENDING has no RW bits: a write of its lower half sets, one of its upper half clears. -/
theorem State.writeWord_pendingWord (s : State) (v en : Nat) :
    s.writeWord 0xB800 v en =
      let t := if bit en 32 then s.clearPending (field v 32 32) else s
      if bit en 0 then t.setPending (field v 0 32) else t := rfl

theorem State.write4_setPending (s : State) (v : BitVec 32) : s.write4 0xB800 v = (s.setPending v.toNat).ok := by
  rw [State.write4_low s 0xB800 v (by decide) (by decide) (by decide) (by decide), State.writeWord_pendingWord]
  dsimp only
  rw [if_pos (by decide), if_neg (by decide), field_word]

theorem State.write4_clearPending (s : State) (v : BitVec 32) : s.write4 0xB804 v = (s.clearPending v.toNat).ok := by
  have hupper : field (v.toNat * 2 ^ 32) 32 32 = v.toNat := by
    have hv := v.isLt
    unfold field
    omega
  rw [State.write4_high s 0xB800 v (by decide) (by decide) (by decide) (by decide), State.writeWord_pendingWord]
  dsimp only
  rw [if_neg (by decide), if_pos (by decide), hupper]

theorem exec_setPending (hs : s.servesNow) (v : BitVec 32) : exec (.setPending v) s = .next (s.newTag.setPending v.toNat).ok := by
  rw [exec_serves hs _ rfl]
  exact congrArg Host.Outcome.next (s.newTag.write4_setPending v)

theorem exec_clearPending (hs : s.servesNow) (v : BitVec 32) :
    exec (.clearPending v) s = .next (s.newTag.clearPending v.toNat).ok := by
  rw [exec_serves hs _ rfl]
  exact congrArg Host.Outcome.next (s.newTag.write4_clearPending v)

/-- The RW bits of a source's configuration word (R387). -/
def sourceMask : Nat := fieldsMask [(0, 5), (8, 8), (16, 12), (32, 32)]

/-- The configuration word that a write of the bytes marked by `en` leaves in source n. -/
def State.sourceWordWritten (s : State) (n v en : Nat) : BitVec 64 :=
  BitVec.ofNat 64 (maskWrite (s.word (0x8000 / 8 + n)).toNat v (BitVec.ofNat 64 sourceMask &&& BitVec.ofNat 64 en).toNat)

theorem bit_enableMask (en : Nat) : bit (BitVec.ofNat 64 sourceMask &&& BitVec.ofNat 64 en).toNat 4 = bit en 4 := by
  have hmask : sourceMask.testBit 4 = true := by decide
  rw [bit_getLsbD, BitVec.getLsbD_and, ← bit_getLsbD, ← bit_getLsbD, bit_ofNat_toNat (by decide), bit_ofNat_toNat (by decide),
    bit_eq_testBit sourceMask, hmask, Bool.true_and]

theorem State.bit_sourceWordWritten (s : State) (n v : Nat) {en : Nat} (hen : bit en 4 = true) :
    bit (s.sourceWordWritten n v en).toNat 4 = bit v 4 := by
  rw [State.sourceWordWritten, bit_ofNat_toNat (by decide), bit_maskWrite _ _ _ (by decide), bit_enableMask, if_pos hen]

theorem State.rwParts_sourceWord (s : State) (hn : n < 0x400) :
    s.rwParts (0x8000 + 8 * n) = [(0x8000 / 8 + n, sourceMask)] := by
  have hrw : rwMask (0x8000 + 8 * n) = sourceMask := by
    unfold rwMask
    rw [if_neg (by omega), if_pos (by omega)]
    rfl
  unfold State.rwParts
  dsimp only
  rw [hrw, sourceWord_index]
  iterate 10 rw [if_neg (by omega)]
  exact if_neg (by decide)

theorem State.writeActions_sourceWord (s : State) (v en : Nat) (hn : n < 0x400) :
    s.writeActions (0x8000 + 8 * n) v en = s := by
  unfold State.writeActions
  dsimp only
  iterate 8 rw [if_neg (by omega)]

theorem State.writePart_sourceWord (s : State) (v en : Nat) (hn : n < 0x400) (hen : bit en 4 = true) :
    s.writePart (0x8000 + 8 * n) v en (0x8000 / 8 + n, sourceMask) = s.configureSource n (s.sourceWordWritten n v en) := by
  have hmask : (BitVec.ofNat 64 sourceMask &&& BitVec.ofNat 64 en).toNat ≠ 0 := by
    intro h
    have hbit := bit_enableMask en
    rw [h, hen] at hbit
    exact absurd hbit (by decide)
  have hrules : fieldRules (0x8000 + 8 * n) = [] := by
    unfold fieldRules
    iterate 5 rw [if_neg (by omega)]
  unfold State.writePart
  dsimp only
  rw [if_neg hmask, if_pos (by omega), ruledWrite, hrules, show (0x8000 + 8 * n - 0x8000) / 8 = n by omega]
  rfl

/-- A write that covers ENABLE of a source's configuration word configures the source with the word it leaves. -/
theorem State.writeWord_sourceWord (s : State) (v en : Nat) (hn : n < 0x400) (hen : bit en 4 = true) :
    s.writeWord (0x8000 + 8 * n) v en = s.configureSource n (s.sourceWordWritten n v en) := by
  rw [State.writeWord, State.rwParts_sourceWord s hn, State.each_one, State.writePart_sourceWord s v en hn hen,
    State.writeActions_sourceWord _ v en hn]

/-- A 4-byte or 8-byte write at a source's configuration word leaves its bit 4 in ENABLE. -/
theorem State.portWrite_sourceWord (s : State) {size : Nat} (v : Nat) (hn : n < 0x400) (hsize : size = 3 ∨ size = 2) :
    ∃ w : BitVec 64, bit w.toNat 4 = bit v 4 ∧ s.portWrite (0x8000 + 8 * n) size v = (s.configureSource n w).ok := by
  have haligned : (0x8000 + 8 * n) % 2 ^ size = 0 := by rcases hsize with rfl | rfl <;> omega
  rw [State.portWrite_reg s _ size v haligned (by omega) (by omega) (by omega) (by omega) (by omega), State.writeReg,
    show (0x8000 + 8 * n) / 8 * 8 = 0x8000 + 8 * n by omega]
  dsimp only
  rcases hsize with rfl | rfl
  · have hen : bit (2 ^ 64 - 1) 4 = true := by decide
    refine ⟨_, (s.bit_sourceWordWritten n _ hen).trans (bit_field_low v (show 4 < 64 by decide)), ?_⟩
    rw [if_pos rfl, State.writeWord_sourceWord s _ _ hn hen]
  · have hen : bit (2 ^ 32 - 1) 4 = true := by decide
    refine ⟨_, (s.bit_sourceWordWritten n _ hen).trans (bit_field_low v (show 4 < 32 by decide)), ?_⟩
    rw [if_neg (by decide), if_pos rfl, show (0x8000 + 8 * n) % 8 * 8 = 0 by omega, Nat.pow_zero, Nat.mul_one, Nat.mul_one,
      State.writeWord_sourceWord s _ _ hn hen]

/-- A value added above bit 4 leaves it. -/
theorem bit_four_add (v : BitVec 64) (f : Nat) : bit (BitVec.ofNat 64 (v.toNat + f * 2 ^ 16)).toNat 4 = bit v.toNat 4 := by
  unfold bit
  rw [BitVec.toNat_ofNat, show (v.toNat + f * 2 ^ 16) % 2 ^ 64 / 2 ^ 4 % 2 = v.toNat / 2 ^ 4 % 2 by omega]

/-- Clearing ENABLE drops the batch, whatever the other fields of the word become (R376). -/
theorem State.configureSource_disable {v : BitVec 64} (he : s.srcEnable n = true) (hv : bit v.toNat 4 = false) :
    ∃ (w : BitVec 64) (t : Nat), bit w.toNat 4 = false ∧
      s.configureSource n v = (((s.dropBatch n).setWord (0x8000 / 8 + n) w).arbitrate (s.srcTarget n)).arbitrate t := by
  have hold : bit (s.word (0x8000 / 8 + n)).toNat 4 = true := (s.srcEnable_eq_bit n).symm.trans he
  unfold State.configureSource
  dsimp only
  generalize hw : (if field v.toNat 16 12 = 0 then _ else v) = w
  have hnew : bit w.toNat 4 = false := by
    rw [← hw]
    split
    · rw [bit_four_add, hv]
    · exact hv
  refine ⟨w, field w.toNat 0 4, hnew, ?_⟩
  rw [hold, hnew, if_neg (by simp), if_neg (by simp), if_neg (by simp), State.srcTarget_eq_field]
  rfl

/-- The state after a write that clears ENABLE: the source is off, its batch gone, every active stack as it was. -/
theorem State.configureSource_disable_effect {v : BitVec 64} (he : s.srcEnable n = true) (hv : bit v.toNat 4 = false) :
    (s.configureSource n v).srcEnable n = false ∧ (s.configureSource n v).source n = {} ∧
      ∀ k, ((s.configureSource n v).target k).stack = (s.target k).stack := by
  obtain ⟨w, t, hw, hconf⟩ := State.configureSource_disable he hv
  rw [hconf]
  refine ⟨?_, ?_, fun k => ?_⟩
  · rw [State.arbitrate_srcEnable, State.arbitrate_srcEnable, State.srcEnable_eq_bit, State.word_setWord, if_pos rfl, hw]
  · rw [State.arbitrate_source, State.arbitrate_source]
    exact (s.source_setSource n {} n).trans (if_pos rfl)
  · rw [State.arbitrate_stack, State.arbitrate_stack]
    rfl

/-! ### The obligations -/

/-- Settles O25: a register write at the doorbell's offset is the doorbell write, and `ringSignal` tests size and number. -/
theorem signalDoorbell : Obligations.SignalDoorbell := by
  unfold Obligations.SignalDoorbell
  intro s₀ size v s hs
  have hs₀ : s₀.servesNow := hs
  have hring : exec (.signalDoorbell size v) s₀ = .next (s.ringSignal size v).ok := exec_signalDoorbell hs₀ size v
  refine ⟨fun hsize hlo hhi => ?_, fun hbad => ?_, fun w hoff h2 h6 => ?_⟩
  · rw [hring, State.ringSignal, if_pos ⟨hsize, hlo, hhi⟩]
  · rw [hring, State.ringSignal, if_neg fun ⟨hsize, hlo, hhi⟩ => hbad.elim (· hsize) (by omega)]
  · have hserve : s.serve (.registerWrite w) = (s.ringSignal w.size (w.data.setWidth 32)).ok := by
      show s.portWrite w.off.toNat w.size.toNat w.data.toNat = _
      rw [hoff]
      exact s.portWrite_signalDoorbell w.size w.data h2 h6
    rw [exec_serves hs₀ _ rfl, exec_signalDoorbell hs₀]
    exact congrArg Host.Outcome.next hserve

/-- Settles O26: SET_PENDING leaves the fire's batch, closed, and CLEAR_PENDING the empty one; both skip a source that is off. -/
theorem setAndClearPending : Obligations.SetAndClearPending := by
  unfold Obligations.SetAndClearPending
  intro s₀ v s hs
  have hs₀ : s₀.servesNow := hs
  refine ⟨fun hn he => ⟨⟨_, exec_setPending hs₀ v, ?_⟩, ⟨_, exec_clearPending hs₀ v, ?_⟩⟩, fun h => ?_⟩
  · have hsource := State.source_setPending hn he
    have hself := (hsource v.toNat).trans (if_pos rfl)
    refine ⟨State.setPending_ctr hn he, congrArg Source.pending hself, congrArg Source.isOpen hself, ?_, fun n hne => ?_, ?_⟩
    · refine (congrArg Source.count hself).trans ?_
      rw [← Source.count1_count]
      exact fired_count s v.toNat
    · exact (hsource n).trans (if_neg (Ne.symm hne))
    · exact congrArg State.ok (State.setPending_rest hn he)
  · have hsource := State.source_clearPending hn he
    refine ⟨(hsource v.toNat).trans (if_pos rfl), fun n hne => (hsource n).trans (if_neg (Ne.symm hne)), ?_⟩
    exact congrArg State.ok (State.clearPending_rest hn he)
  · rw [exec_setPending hs₀, exec_clearPending hs₀]
    exact ⟨congrArg (fun t : State => Host.Outcome.next t.ok) (State.setPending_ignored h),
      congrArg (fun t : State => Host.Outcome.next t.ok) (State.clearPending_ignored h)⟩

/-- Settles O27: a fire meets ENABLE first, and the write that clears it configures the source with a word whose bit 4 is 0. -/
theorem disabledSources : Obligations.DisabledSources := by
  unfold Obligations.DisabledSources
  refine fun s n hn => ⟨State.fire_disabled, fun w hs he hoff hsize hdata => ?_⟩
  have hsize' : w.size.toNat = 3 ∨ w.size.toNat = 2 := hsize.imp (congrArg BitVec.toNat) (congrArg BitVec.toNat)
  obtain ⟨x, hx, hwrite⟩ := s.newTag.portWrite_sourceWord w.data.toNat hn hsize'
  have hclear : bit x.toNat 4 = false := hx.trans ((bit_eq_testBit _ _).trans hdata)
  refine ⟨(s.newTag.configureSource n x).ok, ?_, State.configureSource_disable_effect (s := s.newTag) he hclear⟩
  rw [exec_serves hs _ rfl, ← hwrite, ← hoff]
  rfl

end Sys2Proof.Machine
end

section
/-! SUPPORT. Writes of SUSTAIN_TB and RESTORE_TB below 125 (20, R467): which bits of their words such a write leaves. -/

namespace Sys2Proof.Machine

variable {s : State} {o lo : Nat}

/-! ### Bits and fields of a written word -/

/-- Numbers that agree in the bits of a field have the same field. -/
theorem field_eq_of_bits {v w lo len : Nat} (h : ∀ i, lo ≤ i → i < lo + len → bit v i = bit w i) : field v lo len = field w lo len := by
  refine Nat.eq_of_testBit_eq fun i => ?_
  rw [field, field, Nat.testBit_mod_two_pow, Nat.testBit_mod_two_pow, Nat.testBit_div_two_pow, Nat.testBit_div_two_pow]
  by_cases hi : i < len
  · have hbit := h (i + lo) (by omega) (by omega)
    rw [bit_eq_testBit, bit_eq_testBit] at hbit
    rw [hbit]
  · simp [hi]

/-- The mask of a write has the bits of `m` (RW bits of the word) that the write covers. -/
theorem bit_and_ofNat (m en : Nat) {i : Nat} (hi : i < 64) :
    bit (BitVec.ofNat 64 m &&& BitVec.ofNat 64 en).toNat i = (bit m i && bit en i) := by
  rw [bit_getLsbD, BitVec.getLsbD_and, ← bit_getLsbD, ← bit_getLsbD, bit_ofNat_toNat hi, bit_ofNat_toNat hi]

/-- A field whose bits a masked write takes has the value written. -/
theorem field_maskWrite (old v : Nat) {mask lo len : Nat} (h64 : lo + len ≤ 64)
    (hmask : ∀ i, lo ≤ i → i < lo + len → bit mask i = true) : field (maskWrite old v mask) lo len = field v lo len := by
  refine field_eq_of_bits fun i hlo hhi => ?_
  rw [bit_maskWrite old v mask (by omega), if_pos (hmask i hlo hhi)]

/-! ### The words of the two times -/

/-- The time in bits lo to lo + 31 of the word at o: SUSTAIN_TB or RESTORE_TB (R467). -/
def SagTime (o lo : Nat) : Prop := o = 0x1008 ∧ lo = 32 ∨ o = 0x1010 ∧ lo = 0

section
variable (h : SagTime o lo)
include h

theorem SagTime.le_half : lo + 32 ≤ 64 := by rcases h with ⟨-, rfl⟩ | ⟨-, rfl⟩ <;> decide

theorem SagTime.rwParts_eq (s : State) : s.rwParts o = [(o / 8, rwMask o)] := by rcases h with ⟨rfl, -⟩ | ⟨rfl, -⟩ <;> rfl

theorem SagTime.fieldRules_eq : fieldRules o = [⟨lo, 32, fun v => 125 ≤ v⟩] := by
  rcases h with ⟨rfl, rfl⟩ | ⟨rfl, rfl⟩ <;> rfl

theorem SagTime.writeActions_eq (s : State) (v en : Nat) : s.writeActions o v en = s := by
  have hwindow : o = 0x1008 ∨ o = 0x1010 := h.imp And.left And.left
  unfold State.writeActions
  dsimp only
  iterate 8 rw [if_neg (by omega)]

theorem SagTime.reg_eq_field (s : State) : s.reg (o + lo / 8) 0 32 = field (s.word (o / 8)).toNat lo 32 := by
  rcases h with ⟨rfl, rfl⟩ | ⟨rfl, rfl⟩ <;> rfl

theorem SagTime.bit_rwMask : ∀ i, i < 64 → lo ≤ i ∧ i < lo + 32 → bit (rwMask o) i = true := by
  rcases h with ⟨rfl, rfl⟩ | ⟨rfl, rfl⟩ <;> decide

theorem SagTime.bit_fieldsMask : ∀ i, i < 64 → (bit (fieldsMask [(lo, 32)]) i = true ↔ lo ≤ i ∧ i < lo + 32) := by
  rcases h with ⟨-, rfl⟩ | ⟨-, rfl⟩ <;> decide

/-- The bits that a 4-byte write covers are those of the time. -/
theorem SagTime.bit_half : ∀ i, i < 64 → (bit ((2 ^ 32 - 1) * 2 ^ lo) i = true ↔ lo ≤ i ∧ i < lo + 32) := by
  rcases h with ⟨-, rfl⟩ | ⟨-, rfl⟩ <;> decide

theorem SagTime.portWrite_half (s : State) (v : Nat) :
    s.portWrite (o + lo / 8) 2 v = (s.writeWord o (field v 0 32 * 2 ^ lo) ((2 ^ 32 - 1) * 2 ^ lo)).ok := by
  have htime : o = 0x1008 ∧ lo = 32 ∨ o = 0x1010 ∧ lo = 0 := h
  have hword : (o + lo / 8) / 8 * 8 = o := by omega
  have hshift : (o + lo / 8) % 8 * 8 = lo := by omega
  rw [State.portWrite_reg s _ 2 v (by omega) (by decide) (by decide) (by omega) (by omega) (by omega), State.writeReg, hword, hshift]
  rfl

theorem SagTime.portWrite_word (s : State) (v : Nat) : s.portWrite o 3 v = (s.writeWord o (field v 0 64) (2 ^ 64 - 1)).ok := by
  rcases h with ⟨rfl, -⟩ | ⟨rfl, -⟩
  all_goals exact s.portWrite_reg _ 3 v (by decide) (by decide) (by decide) (by decide) (by decide) (by decide)

/-! ### The rule -/

/-- The rule gives the field its old value back; the other bits are those of the masked write. -/
theorem SagTime.bit_ruledWrite (old v : Nat) {mask : Nat} (hmask : ∀ i, lo ≤ i → i < lo + 32 → bit mask i = true)
    (hv : field v lo 32 < 125) {i : Nat} (hi : i < 64) :
    bit (ruledWrite o old v mask) i = if lo ≤ i ∧ i < lo + 32 then bit old i else bit (maskWrite old v mask) i := by
  have hbad : ¬ decide (125 ≤ field (maskWrite old v mask) lo 32) = true := by
    rw [field_maskWrite old v h.le_half hmask, decide_eq_true_eq]
    omega
  rw [ruledWrite, h.fieldRules_eq, List.foldl_cons, List.foldl_nil, if_neg hbad, bit_maskWrite _ _ _ hi]
  simp only [h.bit_fieldsMask i hi]

/-- A write that covers a time with a value below 125 leaves the time, and every bit that it does not cover. -/
theorem SagTime.writeWord_below (s : State) {v en : Nat} (hen : ∀ i, lo ≤ i → i < lo + 32 → bit en i = true)
    (hv : field v lo 32 < 125) :
    ∃ x : BitVec 64, s.writeWord o v en = s.setWord (o / 8) x ∧
      ∀ i, i < 64 → (lo ≤ i ∧ i < lo + 32) ∨ bit en i = false → bit x.toNat i = bit (s.word (o / 8)).toNat i := by
  have h64 := h.le_half
  let mask := (BitVec.ofNat 64 (rwMask o) &&& BitVec.ofNat 64 en).toNat
  have hmask : ∀ i, lo ≤ i → i < lo + 32 → bit mask i = true := fun i hlo hhi => by
    rw [bit_and_ofNat _ _ (by omega), h.bit_rwMask i (by omega) ⟨hlo, hhi⟩, hen i hlo hhi, Bool.and_self]
  have hne : mask ≠ 0 := fun hzero => by
    have hlow := hmask lo (Nat.le_refl lo) (by omega)
    simp [hzero, bit] at hlow
  have hwindow : o < 0x8000 := by rcases h with ⟨rfl, -⟩ | ⟨rfl, -⟩ <;> decide
  refine ⟨BitVec.ofNat 64 (ruledWrite o (s.word (o / 8)).toNat v mask), ?_, fun i hi hkept => ?_⟩
  · rw [State.writeWord, h.rwParts_eq, State.each_one, h.writeActions_eq, State.writePart]
    dsimp only
    rw [if_neg hne, if_neg (by omega), if_neg (by omega), if_neg (by omega)]
  · rw [bit_ofNat_toNat hi, h.bit_ruledWrite _ v hmask hv hi]
    split
    · rfl
    · next hout =>
      rw [bit_maskWrite _ _ _ hi, bit_and_ofNat _ _ hi, hkept.resolve_left hout, Bool.and_false]
      exact if_neg Bool.false_ne_true

/-- A write of the half that is the time sets the word to what it holds. -/
theorem SagTime.writeHalf_below (s : State) {v : Nat} (hv : v < 125) :
    s.writeWord o (v * 2 ^ lo) ((2 ^ 32 - 1) * 2 ^ lo) = s.setWord (o / 8) (s.word (o / 8)) := by
  have h64 := h.le_half
  have hfield : field (v * 2 ^ lo) lo 32 < 125 := by
    rw [field, Nat.mul_div_cancel _ (Nat.two_pow_pos lo)]
    omega
  obtain ⟨x, hx, hkept⟩ := h.writeWord_below s (fun i hlo hhi => (h.bit_half i (by omega)).2 ⟨hlo, hhi⟩) hfield
  have hsame : x = s.word (o / 8) := BitVec.eq_of_getLsbD_eq fun i hi => by
    rw [← bit_getLsbD, ← bit_getLsbD]
    refine hkept i hi ?_
    rw [← h.bit_half i hi]
    exact Bool.eq_false_or_eq_true _
  rw [hx, hsame]

/-- A write of the whole word with a value below 125 in the time's half leaves the time. -/
theorem SagTime.writeWord_reg (s : State) {v : Nat} (hv : field v lo 32 < 125) :
    (s.writeWord o v (2 ^ 64 - 1)).reg (o + lo / 8) 0 32 = s.reg (o + lo / 8) 0 32 := by
  have h64 := h.le_half
  have hall : ∀ i, i < 64 → bit (2 ^ 64 - 1) i = true := by decide
  obtain ⟨x, hx, hkept⟩ := h.writeWord_below s (fun i _ hhi => hall i (by omega)) hv
  rw [hx, h.reg_eq_field, h.reg_eq_field, State.word_setWord, if_pos rfl]
  exact field_eq_of_bits fun i hlo hhi => hkept i (by omega) (.inl ⟨hlo, hhi⟩)

/-! ### The writes that reach a time -/

theorem SagTime.exec_half {s₀ : State} (hs : s₀.servesNow) {w : PortWrite} (hoff : w.off.toNat = o + lo / 8) (hsize : w.size = 2)
    (hv : w.data.toNat % 2 ^ 32 < 125) :
    exec (.registerWrite w) s₀ = .next (s₀.newTag.setWord (o / 8) (s₀.newTag.word (o / 8))).ok := by
  have hserve : s₀.newTag.serve (.registerWrite w) = s₀.newTag.portWrite w.off.toNat w.size.toNat w.data.toNat := rfl
  have hvalue : field w.data.toNat 0 32 < 125 := by rwa [field, Nat.pow_zero, Nat.div_one]
  have hsize' : w.size.toNat = 2 := congrArg BitVec.toNat hsize
  rw [exec_serves hs _ rfl, hserve, hoff, hsize', h.portWrite_half, h.writeHalf_below _ hvalue]

theorem SagTime.exec_word {s₀ : State} (hs : s₀.servesNow) {w : PortWrite} (hoff : w.off.toNat = o) (hsize : w.size = 3)
    (hv : w.data.toNat / 2 ^ lo % 2 ^ 32 < 125) :
    ∃ t, exec (.registerWrite w) s₀ = .next t ∧ t.reg (o + lo / 8) 0 32 = s₀.newTag.reg (o + lo / 8) 0 32 := by
  have hserve : s₀.newTag.serve (.registerWrite w) = s₀.newTag.portWrite w.off.toNat w.size.toNat w.data.toNat := rfl
  have hsize' : w.size.toNat = 3 := congrArg BitVec.toNat hsize
  have h64 := h.le_half
  have hvalue : field (field w.data.toNat 0 64) lo 32 < 125 := by
    rw [field_eq_of_bits fun i _ hhi => bit_field_low w.data.toNat (show i < 64 by omega)]
    exact hv
  refine ⟨(s₀.newTag.writeWord o (field w.data.toNat 0 64) (2 ^ 64 - 1)).ok, ?_, h.writeWord_reg s₀.newTag hvalue⟩
  rw [exec_serves hs _ rfl, hserve, hoff, hsize', h.portWrite_word]

end

/-! ### The obligation -/

/-- Settles O16: the rule of the word puts the field's old value back, and a 4-byte write covers no other bit. -/
theorem sagTimesBelow125Ignored : Obligations.SagTimesBelow125Ignored := by
  unfold Obligations.SagTimesBelow125Ignored
  intro s₀ w s hs
  have hs₀ : s₀.servesNow := hs
  have hsustain : SagTime 0x1008 32 := .inl ⟨rfl, rfl⟩
  have hrestore : SagTime 0x1010 0 := .inr ⟨rfl, rfl⟩
  refine ⟨fun hsize hoff hv => ?_, fun hsize hoff hv => ?_, fun hsize hoff hv => ?_⟩
  · have hhalf : ∃ o lo, SagTime o lo ∧ w.off.toNat = o + lo / 8 := by
      rcases hoff with hoff | hoff
      · exact ⟨_, _, hsustain, congrArg BitVec.toNat hoff⟩
      · exact ⟨_, _, hrestore, congrArg BitVec.toNat hoff⟩
    obtain ⟨o, lo, htime, hoff⟩ := hhalf
    refine ⟨_, htime.exec_half hs₀ hoff hsize hv, fun k => ?_, rfl⟩
    refine (s.word_setWord (o / 8) _ k).trans ?_
    split
    · next hk => rw [hk]
    · rfl
  · exact hsustain.exec_word hs₀ (congrArg BitVec.toNat hoff) hsize hv
  · exact hrestore.exec_word hs₀ (congrArg BitVec.toNat hoff) hsize (by rwa [Nat.pow_zero, Nat.div_one])

end Sys2Proof.Machine
end

section
/-! SUPPORT. What every command and every step keeps (`Keeps`, resets and the test port added): the queue, the canonical form of host
memory, the registers, the test instruction. -/

namespace Sys2Proof.Machine

variable {s t : State} {c : Instr}

/-! ### Every command answers -/

theorem State.warmReset_pending_mem (s : State) (m : BitVec 2) :
    (s.warmReset m).pending = s.pending ∧ (s.warmReset m).mem = s.mem := by
  unfold State.warmReset
  split <;> exact ⟨rfl, rfl⟩

theorem State.losePower_pending_mem (s : State) : s.losePower.pending = s.pending ∧ s.losePower.mem = s.mem := by
  unfold State.losePower
  split <;> exact ⟨rfl, rfl⟩

theorem exec_reset (s : State) (h : resets c = true) : ∃ t, exec c s = .next t ∧ t.pending = s.pending ∧ t.mem = s.mem := by
  cases c with
  | porN m => exact ⟨_, rfl, rfl, rfl⟩
  | warmN m => exact ⟨_, rfl, s.warmReset_pending_mem m⟩
  | powerLoss => exact ⟨_, rfl, s.losePower_pending_mem⟩
  | _ => exact absurd h Bool.false_ne_true

/-- The test port's own registers and the occasion of a free value are all that differs between s and t. -/
def State.testPortOnly (s t : State) : Prop :=
  t = { s with testInstr := t.testInstr, testReset := t.testReset, testOut := t.testOut, freeCtr := t.freeCtr }

theorem State.selectTest_testPortOnly (s : State) (v : BitVec 8) : s.testPortOnly (s.selectTest v) := by
  unfold State.selectTest
  split <;> rfl

theorem State.readInstrument_testPortOnly {s : State} (h : s.testPortOnly t) (i : Instrument) : s.testPortOnly (t.readInstrument i) := by
  rw [h]
  cases i <;> rfl

theorem State.accessInstrument_testPortOnly (s : State) (i : Instrument) (start : Bool) :
    s.testPortOnly (s.accessInstrument i start) := by
  have h := s.selectTest_testPortOnly 0x24
  unfold State.accessInstrument
  dsimp only
  split
  · exact State.readInstrument_testPortOnly h i
  · exact h

theorem exec_testPortOnly (s : State) (h : drivesTest c = true) : ∃ t, exec c s = .next t ∧ s.testPortOnly t := by
  cases c with
  | bypass => exact ⟨_, rfl, s.selectTest_testPortOnly 0xFF⟩
  | idcode => exact ⟨_, rfl, s.selectTest_testPortOnly 0x01⟩
  | ijtagAccess i start => exact ⟨_, rfl, s.accessInstrument_testPortOnly i start⟩
  | trstN a => exact ⟨_, rfl, rfl⟩
  | _ => exact absurd h Bool.false_ne_true

/-- Every command answers a next state, with the queue and the canonical form of host memory kept. -/
theorem exec_total (c : Instr) (s : State) :
    ∃ t, exec c s = .next t ∧ t.pending = s.pending ∧ (Memory.wf s.mem → Memory.wf t.mem) := by
  by_cases hreset : resets c = true
  · obtain ⟨t, ht, hp, hm⟩ := exec_reset s hreset
    exact ⟨t, ht, hp, fun h => hm ▸ h⟩
  by_cases htest : drivesTest c = true
  · obtain ⟨t, ht, h⟩ := exec_testPortOnly s htest
    exact ⟨t, ht, by rw [h], fun hm => by rwa [h]⟩
  · obtain ⟨t, ht, hk⟩ := exec_keeps c s (Bool.eq_false_iff.2 hreset) (Bool.eq_false_iff.2 htest)
    exact ⟨t, ht, hk.queue, hk.mem⟩

theorem exec_pending (h : exec c s = .next t) : t.pending = s.pending := by
  obtain ⟨u, hu, hp, -⟩ := exec_total c s
  cases hu.symm.trans h
  exact hp

theorem exec_keeps_memory (h : exec c s = .next t) (hm : Memory.wf s.mem) : Memory.wf t.mem := by
  obtain ⟨u, hu, -, hmem⟩ := exec_total c s
  cases hu.symm.trans h
  exact hmem hm

/-! ### Steps -/

theorem step_nil (h : s.pending = []) : step s = .next s.tick := by
  unfold step
  rw [h]

theorem step_cons {rest : List Instr} (h : s.pending = c :: rest) : step s = exec c { s with pending := rest } := by
  unfold step
  rw [h]

theorem State.tick_keeps (s : State) : Keeps true s s.tick := Keeps.ite (State.pass_keeps (Keeps.refl true s) 1) (Keeps.refl true s)

/-- Settles O1: the front of the queue is the case of `step` for a queue that is not empty. -/
theorem stepRunsFront : Obligations.StepRunsFront := by
  unfold Obligations.StepRunsFront
  exact fun _ _ _ h => step_cons h

/-- Settles O3: resets, the test port and the other commands (`exec_keeps`) each keep the queue. -/
theorem everyCommandAnswers : Obligations.EveryCommandAnswers := by
  unfold Obligations.EveryCommandAnswers
  intro c s
  obtain ⟨t, ht, hp, -⟩ := exec_total c s
  exact ⟨t, ht, hp⟩

/-- Settles O4: the reset state lists no byte. -/
theorem resetMemoryForm : Obligations.ResetMemoryForm := by
  unfold Obligations.ResetMemoryForm
  exact ⟨Tab.wf_nil memDefault, fun _ h => absurd h List.not_mem_nil⟩

/-- Settles O5: a tick stores nothing, and every command keeps the form. -/
theorem memoryFormKept : Obligations.MemoryFormKept := by
  unfold Obligations.MemoryFormKept
  intro s t hm hstep
  cases hp : s.pending with
  | nil =>
    cases (step_nil hp).symm.trans hstep
    exact s.tick_keeps.mem hm
  | cons c rest => exact exec_keeps_memory ((step_cons hp).symm.trans hstep) hm

/-! ### Registers and the test instruction -/

/-- Settles O10: the test port writes no register, and every other such command keeps them (`exec_keeps_gate`). -/
theorem registersChangeOnlyByRequests : Obligations.RegistersChangeOnlyByRequests := by
  unfold Obligations.RegistersChangeOnlyByRequests
  intro c s t hrequest hreset himage hwake hdeep hsave hlost hrelease hexec
  by_cases htest : drivesTest c = true
  · obtain ⟨u, hu, h⟩ := exec_testPortOnly s htest
    cases hu.symm.trans hexec
    rw [h]
  · obtain ⟨u, hu, hk⟩ :=
      exec_keeps_gate c s hreset (Bool.eq_false_iff.2 htest) hrequest himage hwake hdeep hsave hlost hrelease
    cases hu.symm.trans hexec
    exact hk.regs rfl

theorem exec_testSelect (s : State) {v : BitVec 8} (h : testSelect c = some v) :
    exec c s = .next (if s.testWorks = true then { s with testInstr := v } else s) := by
  cases c with
  | bypass => cases h; rfl
  | idcode => cases h; rfl
  | ijtagAccess i start =>
    cases start with
    | false => cases h
    | true =>
      cases h
      show Host.Outcome.next (s.accessInstrument i true) = _
      unfold State.accessInstrument
      simp only [Bool.not_true, Bool.and_false, Bool.false_eq_true, if_false]
      rfl
  | _ => cases h

theorem State.selectTest_works (h : s.testWorks = true) (v : BitVec 8) : s.selectTest v = { s with testInstr := v } := if_pos h

theorem exec_ijtagRead (h : s.testWorks = true) (i : Instrument) :
    exec (.ijtagAccess i false) s = .next (({ s with testInstr := 0x24 } : State).readInstrument i) := by
  show Host.Outcome.next (s.accessInstrument i false) = _
  unfold State.accessInstrument
  rw [State.selectTest_works h]
  exact congrArg Host.Outcome.next (if_pos (by rw [Bool.not_false, Bool.and_true]; exact h))

theorem exec_ijtagRead_off (h : s.testWorks = false) (i : Instrument) : exec (.ijtagAccess i false) s = .next s := by
  show Host.Outcome.next (s.accessInstrument i false) = _
  simp [State.accessInstrument, State.selectTest, h]

/-- Settles O11: one case for each command of the test port; every other command keeps the instruction (`exec_keeps`). -/
theorem testInstruction : Obligations.TestInstruction := by
  unfold Obligations.TestInstruction
  refine fun c s => ⟨fun v hv => exec_testSelect s hv, fun a => rfl, fun hw => ⟨fun w => ?_, fun w => ?_, fun i hm hs => ?_⟩,
    fun hw i => exec_ijtagRead_off hw i, fun t hselect htrst hread hreset hexec => ?_⟩
  · exact exec_ijtagRead hw _
  · exact exec_ijtagRead hw _
  · rw [exec_ijtagRead hw]
    cases i with
    | mirror w => exact absurd rfl (hm w)
    | snapshot w => exact absurd rfl (hs w)
    | _ => rfl
  · have htest : drivesTest c = false := by
      cases c with
      | bypass => cases hselect
      | idcode => cases hselect
      | ijtagAccess i start =>
        cases start with
        | false => exact absurd rfl (hread i)
        | true => cases hselect
      | trstN a => exact absurd rfl (htrst a)
      | _ => rfl
    obtain ⟨u, hu, hk⟩ := exec_keeps c s hreset htest
    cases hu.symm.trans hexec
    exact hk.test

/-! ### Time on an empty queue -/

/-- The time counter of R468 that runs with the block's clock. -/
def State.timeCounter (s : State) : Option Nat :=
  match s.power.state with
  | .run => if s.power.stepped then some 0x21810 else none
  | .light => some 0x21820
  | .deep => some 0x21830

theorem State.timeCounter_eq_some (s : State) (c : Nat) :
    s.timeCounter = some c ↔ (c = 0x21810 ∧ s.power.state = .run ∧ s.power.stepped = true) ∨
      (c = 0x21820 ∧ s.power.state = .light) ∨ (c = 0x21830 ∧ s.power.state = .deep) := by
  unfold State.timeCounter
  cases s.power.state <;> cases s.power.stepped <;> simp [eq_comm]

theorem State.pass_timeCounter (s : State) (n : Nat) :
    s.pass n = match s.timeCounter with
      | some k => (s.setTb (s.tb + n)).bump k n
      | none => s.setTb (s.tb + n) := by
  unfold State.pass State.timeCounter
  dsimp only
  rw [State.setTb_power]
  cases s.power.state <;> cases s.power.stepped <;> rfl

theorem State.pass_ctr (s : State) (n c : Nat) : (s.pass n).ctr c = s.ctr c + if s.timeCounter = some c then n else 0 := by
  rw [State.pass_timeCounter]
  cases hk : s.timeCounter with
  | none => rfl
  | some k =>
    refine (State.ctr_bump _ _ _ _).trans ?_
    by_cases h : k = c
    · subst h
      rw [if_pos rfl, if_pos rfl]
      rfl
    · rw [if_neg h, if_neg fun he => h (Option.some.inj he)]
      rfl

theorem State.pass_counters (hr : s.power.state = .run) (hs : s.power.stepped = false) (n : Nat) : (s.pass n).counters = s.counters := by
  have hnone : s.timeCounter = none := by simp [State.timeCounter, hr, hs]
  rw [State.pass_timeCounter, hnone]
  rfl

/-- Settles O2: the tick is `pass 1` of a powered block. -/
theorem emptyQueueTicks : Obligations.EmptyQueueTicks := by
  unfold Obligations.EmptyQueueTicks
  refine fun s hp => ⟨fun hoff => ?_, fun hon => ⟨s.pass 1, ?_, s.pass_tb 1, s.pass_frame 1, fun c => ?_,
    fun hr hs => State.pass_counters hr hs 1⟩⟩
  · rw [step_nil hp, State.tick, if_neg (Bool.eq_false_iff.1 hoff)]
  · rw [step_nil hp, State.tick, if_pos hon]
  · simp only [← s.timeCounter_eq_some c]
    exact s.pass_ctr 1 c

/-! ### Host memory -/

theorem State.byte_write_outside (s : State) {a j : Nat} {b : List Byte} (h : j < a ∨ a + b.length ≤ j) : (s.write a b).byte j = s.byte j :=
  get_storeBytes_out b s.mem a j h

theorem State.read_write (s : State) {a : Nat} {b : List Byte} (h : a + b.length ≤ hostTop) : (s.write a b).read a b.length = b := by
  refine List.ext_getElem (by simp [State.read]) fun i hi hi' => ?_
  have hbyte : (s.write a b).byte (a + i) = b.getD i 0 := get_storeBytes_in b s.mem a i hi' (by omega)
  simp [State.read, hbyte, hi']

/-- Settles O12, by the laws of `storeBytes` within and outside the bytes stored. -/
theorem memoryReadAfterWrite : Obligations.MemoryReadAfterWrite := by
  unfold Obligations.MemoryReadAfterWrite
  exact fun s a b h => ⟨s.read_write h, fun j hj => s.byte_write_outside hj⟩

/-! ### What follows from a command -/

theorem State.openSeq_none (h : s.sched.seqs = []) : s.openSeq = none := by
  unfold State.openSeq
  rw [h]
  rfl

theorem State.attemptOpen_false (h : s.sched.seqs = []) : s.attemptOpen = false := by
  unfold State.attemptOpen
  rw [State.openSeq_none h]

theorem State.lateChecks_noSeq (h : s.sched.seqs = []) : s.lateChecks = s := by
  unfold State.lateChecks
  rw [State.openSeq_none h]

theorem State.freeSeqs_noSeq (h : s.sched.seqs = []) : s.freeSeqs = s := by
  show ({ s with sched := { s.sched with seqs := s.sched.seqs.filter _ } } : State) = s
  rw [h, List.filter_nil, ← h]

theorem State.gateEngines_none (h : s.power.ungated = []) : s.gateEngines = s := by
  show ({ s with power := { s.power with ungated := s.power.ungated.filter _ } } : State) = s
  rw [h, List.filter_nil, ← h]

/-- With no pass held nothing can complete. -/
theorem State.completions_noPass (h : s.noPass) : s.completions = s := by
  obtain ⟨hseqs, hungated, -⟩ := h
  have hkeys : s.each (Tab.keys s.sched.seqs) State.completeSeq = s := by
    rw [hseqs]
    rfl
  unfold State.completions
  rw [if_neg (Bool.eq_false_iff.1 (State.attemptOpen_false hseqs))]
  dsimp only
  rw [hkeys, State.lateChecks_noSeq hseqs, State.freeSeqs_noSeq hseqs, State.gateEngines_none hungated]

theorem State.settle_none (h : s.sched.abortDue = none) : s.settle = s := by
  unfold State.settle
  rw [h]

theorem State.close_noPass (ha : s.awake = true) (h : s.upkeep.noPass) : s.close = s.upkeep.updatePause := by
  unfold State.close
  rw [if_pos ha, State.completions_noPass h, State.settle_none h.2.2]

/-- Settles O13: `close` does nothing unless the core runs, its completions need a pass, and all of it keeps what `Keeps` says. -/
theorem whatFollowsACommand : Obligations.WhatFollowsACommand := by
  unfold Obligations.WhatFollowsACommand Claim.NothingFollowsWithoutPass Claim.WhatFollowsKeeps
  refine ⟨fun s => ⟨State.close_idle, State.close_noPass⟩, fun s => ?_⟩
  have hk : Keeps true s s.close := State.close_keeps (Keeps.refl true s)
  exact ⟨hk.regs rfl, hk.test, hk.queue, hk.mem⟩

end Sys2Proof.Machine
end

section
/-! SUPPORT. A block that is unpowered or held (R414, R441): which commands it does not take at all, and what the others leave. -/

namespace Sys2Proof.Machine

variable {s t : State} {c : Instr}

/-! ### A property of every record of a table -/

theorem Tab.forall_set {α : Type} [DecidableEq α] {P : α → Prop} {d : Nat → α} {l : Tab α} {k : Nat} {v : α}
    (hv : P v) (hl : ∀ p ∈ l, P p.2) : ∀ p ∈ Tab.set d l k v, P p.2 := by
  intro p hp
  unfold Tab.set at hp
  split at hp
  · exact hl p (Tab.mem_erase.1 hp).1
  · rcases Tab.mem_insert.1 hp with rfl | hp
    · exact hv
    · exact hl p (Tab.mem_erase.1 hp).1

theorem Tab.forall_get {α : Type} {P : α → Prop} {d : Nat → α} {k : Nat} (hd : P (d k)) :
    ∀ {l : Tab α}, (∀ p ∈ l, P p.2) → P (Tab.get d l k)
  | [], _ => hd
  | (a, x) :: l, hl => by
    unfold Tab.get
    split
    · exact hl (a, x) List.mem_cons_self
    · exact Tab.forall_get hd fun p hp => hl p (List.mem_cons_of_mem _ hp)

/-! ### Operations of a core or a port that does not run -/

theorem State.awake_of_portsRun_false (h : s.portsRun = false) : s.awake = false := by
  unfold State.awake
  unfold State.portsRun at h
  rw [h, Bool.false_and]

theorem State.lanesRun_of_portsRun_false (h : s.portsRun = false) : s.lanesRun = false := by
  unfold State.lanesRun
  unfold State.portsRun at h
  rw [h, Bool.false_and]

/-- An unpowered block, or a held one. -/
theorem State.portsRun_eq_false : s.portsRun = false ↔ s.boot.powered = false ∨ s.held = true := by
  rw [State.portsRun, Bool.and_eq_false_iff, Bool.not_eq_false']

theorem State.onSeq_asleep (h : s.awake = false) (q : Nat) (f : Sequencer → State) : s.onSeq q f = s := by
  unfold State.onSeq
  split
  · exact if_neg (by simp [h])
  · rfl

theorem State.runEngine_asleep (h : s.awake = false) (e : Engine) (want : Nat → Bool) (f : EngineFaults) : s.runEngine e want f = s := by
  unfold State.runEngine
  split
  · rfl
  · split
    · rfl
    · exact if_pos (by simp [h])

theorem State.runOp_asleep (h : s.awake = false) (op : Nat) (f : EngineFaults) : s.runOp op f = s := by
  unfold State.runOp
  split
  · exact State.runEngine_asleep h _ _ f
  · rfl

theorem State.runRecord_asleep (h : s.awake = false) (op sub : Nat) (f : EngineFaults) : s.runRecord op sub f = s := by
  unfold State.runRecord
  split
  · exact State.runEngine_asleep h _ _ f
  · rfl

theorem State.readAccums_asleep (h : s.awake = false) (finds : List ReadFind) : s.readAccums finds = s := if_neg (by simp [h])

theorem State.readBuffer_asleep (h : s.awake = false) (op : Nat) (finds : List ReadFind) : s.readBuffer op finds = s :=
  if_neg (by simp [h])

theorem State.testing_asleep (h : s.awake = false) : s.testing = false := by simp [State.testing, h]

theorem State.stretching_asleep (h : s.awake = false) : s.stretching = false := by simp [State.stretching, h]

theorem State.cutThrough_asleep (h : s.awake = false) (x : FrameHdr) (p : Payload) : s.cutThrough x p = s := by
  unfold State.cutThrough
  split
  · exact if_pos (by simp [h])
  · rfl

theorem State.frameIn_stopped (h : s.portsRun = false) (x : FrameHdr) (p : Payload) : s.frameIn x p = s := by
  unfold State.frameIn
  rw [State.cutThrough_asleep (State.awake_of_portsRun_false h)]
  unfold State.receive
  refine if_pos ?_
  rcases State.portsRun_eq_false.1 h with hp | hh
  · simp [hp]
  · simp [hh]

theorem State.mortarIn_stopped (h : s.portsRun = false) (l : Nat) (x : MortarHdr) (b : MortarBody) : s.mortarIn l x b = s :=
  if_pos (by simp [State.lanesRun_of_portsRun_false h])

theorem State.keystone_stopped (h : s.portsRun = false) : s.wakeRelease.keystone = s := by
  have hstop := State.portsRun_eq_false.1 h
  have hwake : s.wakeRelease = s := by
    unfold State.wakeRelease
    split
    · exact if_neg (by rcases hstop with hp | hh <;> simp [*])
    · rfl
  rw [hwake]
  unfold State.keystone
  split
  · rfl
  · exact if_pos (by rcases hstop with hp | hh <;> simp [*])

theorem State.batchTimer_stopped (h : s.portsRun = false) : s.batchTimer = s := by
  unfold State.batchTimer
  split
  · exact if_pos (by rcases State.portsRun_eq_false.1 h with hp | hh <;> simp [*])
  · rfl

theorem State.wakeLight_stopped (h : s.portsRun = false) : s.wakeLight = s :=
  if_neg (by rcases State.portsRun_eq_false.1 h with hp | hh <;> simp [*])

theorem State.wakeDeep_stopped (h : s.portsRun = false) : s.wakeDeep = s :=
  if_neg (by rcases State.portsRun_eq_false.1 h with hp | hh <;> simp [*])

/-- No step of the start goes on: the block is unpowered, or a member-fatal code has been raised. -/
theorem State.start_stopped (h : s.portsRun = false) : (!s.boot.powered || s.stopped) = true := by
  rcases State.portsRun_eq_false.1 h with hp | hh
  · simp [hp]
  · simp [State.stopped, hh]

theorem State.imageFirst_stopped (h : s.portsRun = false) (b : List Byte) : s.imageFirst b = s :=
  if_pos (by simp [State.start_stopped h])

theorem State.selfTest_stopped (h : s.portsRun = false) (r : SelfTest) : s.selfTest r = s :=
  if_pos (by simp [State.start_stopped h])

theorem State.imageSecond_stopped (h : s.portsRun = false) (b : List Byte) : s.imageSecond b = s :=
  if_pos (by simp [State.start_stopped h])

/-! ### Commands that such a block does not take -/

/-- What reaches a block whose core and ports do not run: the target port's requests, the pins, the supply, the clocks and the test port. -/
def reachesStopped : Instr → Bool
  | .vpAck _ | .hpRstN _ | .macRstN _ | .vpRstN _ => true
  | .supplySag | .supplyRecover _ | .refClkLoss | .pllLoss => true
  | c => isRequest c || (bellOf c).isSome || drivesTest c || resets c

/-- SEAL, whose constructor has the name of a keyword. -/
def isSeal : Instr → Bool
  | .seal .. => true
  | _ => false

theorem exec_seal_asleep {c : Instr} (ha : s.awake = false) (hc : isSeal c = true) : exec c s = .next s := by
  have hstays {u : State} (hu : u = s) : (Host.Outcome.next u.close : Result) = .next s := by rw [hu, State.close_idle ha]
  cases c <;> cases hc
  exact hstays (State.onSeq_asleep ha _ _)

/-- Every other command does nothing. -/
theorem exec_stopped (c : Instr) (h : s.portsRun = false) (hc : reachesStopped c = false) : exec c s = .next s := by
  have ha := State.awake_of_portsRun_false h
  have hl := State.lanesRun_of_portsRun_false h
  have hwaits (u : State) : (if s.awake then u else s) = s := if_neg (by simp [ha])
  have hports (u : State) : (if s.portsRun then u else s) = s := if_neg (by simp [h])
  have hlanes (u : State) : (if s.lanesRun then u else s) = s := if_neg (by simp [hl])
  have hstays {u : State} (hu : u = s) : (Host.Outcome.next u.close : Result) = .next s := by rw [hu, State.close_idle ha]
  by_cases hseal : isSeal c = true
  · exact exec_seal_asleep ha hseal
  have hother : (isSeal c || reachesStopped c) = false := by rw [Bool.eq_false_iff.2 hseal, hc, Bool.false_or]
  cases c with
  | instructionIssue | nop | slot | waitAll | waitTime | waitChunk | loop | endloop | shapeCopy | shapeChunks | signal | halt =>
    exact hstays (State.onSeq_asleep ha _ _)
  | norm | score | rescore | select | count | grant | sort | dispatch | tiles | ret | combine | combineAr | reduceAr | stats | fetch =>
    exact hstays (State.runOp_asleep ha _ _)
  | convert | transpose | scatter | gather | blocksOut | blocksIn | routerQuantise | map | gateAct | softmax =>
    exact hstays (State.runRecord_asleep ha _ _ _)
  | slotOpen | coldStreamProgress | tileEnter | syncResend | rtoExpiry | exchangeTimeout | manifestTimeout | rowTimeout | tileTimeout
  | sharedReadyTimeout | collectiveTimeout => exact hstays (hwaits _)
  | coalDeadline | poolWaitGrant | queueSpaceFreed | queueStalledReadReturn | stallLimitExpiry | ledgerRaise | ackDelayExpiry
  | engineUngate => exact congrArg Host.Outcome.next (hwaits _)
  | returnCell x cs finds =>
    refine hstays ?_
    rw [State.readAccums_asleep ha]
    exact State.frameIn_stopped h _ _
  | rackPartial x cs finds =>
    refine hstays ?_
    rw [State.readAccums_asleep ha]
    exact State.frameIn_stopped h _ _
  | collective x f finds =>
    refine hstays ?_
    rw [State.readBuffer_asleep ha]
    exact State.frameIn_stopped h _ _
  | countMessage | grantMessage | manifest | dispatchCell | cellRequest | gateNote | windowNote | bulkRequest | bulkData | ack | sync =>
    exact hstays (State.frameIn_stopped h _ _)
  | linkDown | linkUp | linkHoldExpiry | pauseStatusChange => exact congrArg Host.Outcome.next (hports _)
  | hostReadResponse | hostWriteResponse => exact hstays (hports _)
  | ident | heartbeat | nak | calReq | calResp | arrive | release | abort | reduce | suspect | lost | rehome | admitMsg | stateMsg =>
    exact hstays (State.mortarIn_stopped h _ _ _)
  | heartbeatTick | calibrationTick | joinWaitExpiry => exact congrArg Host.Outcome.next (hlanes _)
  | laneSilence | laneTrainTimeout => exact hstays (hlanes _)
  | keystoneRelease => exact hstays (State.keystone_stopped h)
  | batchTimerWake => exact congrArg Host.Outcome.next (State.batchTimer_stopped h)
  | wakeComplete => exact hstays (State.wakeLight_stopped h)
  | deepWake => exact hstays (State.wakeDeep_stopped h)
  | imagePass1 b => exact congrArg Host.Outcome.next (State.imageFirst_stopped h b)
  | selfTestComplete r => exact congrArg Host.Outcome.next (State.selfTest_stopped h r)
  | imagePass2 b => exact congrArg Host.Outcome.next (State.imageSecond_stopped h b)
  | corePllLock => exact congrArg Host.Outcome.next (hports _)
  | clockStep => exact congrArg Host.Outcome.next (if_pos (by simp [State.stretching_asleep ha]))
  | clockRestore => exact congrArg Host.Outcome.next (if_pos (by simp [ha]))
  | maintenanceTest r =>
    have htest := State.testing_asleep ha
    cases r with
    | column passed => exact congrArg Host.Outcome.next (if_neg (by simp [htest]))
    | pipeline pipe wrong => exact congrArg Host.Outcome.next (if_pos (by simp [htest]))
  | scrubLine => exact congrArg Host.Outcome.next (if_pos (by simp [State.testing_asleep ha]))
  | _ => exact absurd hother Bool.noConfusion

/-! ### What the others leave -/

/-- From s to t: power, phase and identity of the block, and all that the outside can have of it, stay; outputs that are idle stay idle. -/
structure Inert (s t : State) : Prop where
  boot    : t.boot = s.boot
  effects : t.effects = s.effects
  idle    : s.held = true → s.outputsIdle → t.outputsIdle

theorem Inert.refl (s : State) : Inert s s := ⟨rfl, rfl, fun _ h => h⟩

theorem Inert.trans {u : State} (h : Inert s t) (h' : Inert t u) : Inert s u := by
  refine ⟨h'.boot.trans h.boot, h'.effects.trans h.effects, fun hh hi => h'.idle ?_ (h.idle hh hi)⟩
  unfold State.held
  rw [h.boot]
  exact hh

theorem Inert.portsRun (h : Inert s t) : t.portsRun = s.portsRun := by
  unfold State.portsRun State.held
  rw [h.boot]

/-- Nothing is presented on the vector port. -/
def State.presentsNone (s : State) : Prop := ∀ t ∈ s.signals.targets, t.2.presented = none

theorem State.target_presentsNone (h : s.presentsNone) (n : Nat) : (s.target n).presented = none :=
  Tab.forall_get (P := fun g : Target => g.presented = none) (by exact rfl) h

/-- With VP_RST_N asserted arbitration presents nothing. -/
theorem State.arbitrate_presentsNone (hv : s.signals.vpReset = true) (h : s.presentsNone) (n : Nat) : (s.arbitrate n).presentsNone := by
  have hnone : s.arbitrate n = s.present n none := if_pos hv
  rw [hnone]
  show ∀ p ∈ Tab.set (fun _ => {}) s.signals.targets n { s.target n with presented := none }, p.2.presented = none
  exact Tab.forall_set (P := fun g : Target => g.presented = none) rfl h

theorem State.each_arbitrate_presentsNone (l : List Nat) :
    ∀ {s : State}, s.signals.vpReset = true → s.presentsNone → (s.each l State.arbitrate).presentsNone := by
  induction l with
  | nil => exact fun _ h => h
  | cons n l ih =>
    intro s hv h
    refine ih ?_ (State.arbitrate_presentsNone hv h n)
    rw [State.arbitrate_frame]
    exact hv

theorem State.vectorReset_inert (s : State) (a : Bool) : Inert s (s.vectorReset a) := by
  unfold State.vectorReset State.arbitrateAll
  dsimp only
  split
  · next ha =>
    refine ⟨?_, ?_, fun hh hi => ?_⟩
    · rw [State.each_arbitrate_frame]
    · rw [State.each_arbitrate_frame]
      rfl
    · obtain ⟨hready, hpresent, hpause, hlanes⟩ := hi
      have hserving : s.serving = false := by simp [State.serving, hh]
      have hasserted : a = true := (Bool.or_eq_true_iff.1 ha).resolve_right (Bool.eq_false_iff.1 hserving)
      have hnone : State.presentsNone (State.each { s with signals := { s.signals with vpReset := a } } (List.range 16) State.arbitrate) :=
        State.each_arbitrate_presentsNone _ hasserted hpresent
      refine ⟨?_, hnone, ?_, ?_⟩
      · rw [State.each_arbitrate_frame]
        exact hready
      · rw [State.each_arbitrate_frame]
        exact hpause
      · rw [State.each_arbitrate_frame]
        exact hlanes
  · exact ⟨rfl, rfl, fun _ h => h⟩

theorem State.accept_presentsNone (h : s.presentsNone) (n : Nat) : s.accept n = s := by
  unfold State.accept
  dsimp only
  split
  · rfl
  · rw [State.target_presentsNone h n]

theorem State.resetPort_inert (s : State) (p : Fin 16) : Inert s (s.resetPort p) := by
  unfold State.resetPort
  split
  · exact ⟨rfl, rfl, fun _ h => h⟩
  · refine ⟨rfl, rfl, fun _ ⟨hready, hpresent, hpause, hlanes⟩ => ⟨hready, hpresent, ?_, hlanes⟩⟩
    show ∀ m ∈ Tab.set (fun _ => {}) s.net.ports p.val { s.mac p.val with pauseReq := 0 }, m.2.pauseReq = 0
    exact Tab.forall_set (P := fun m : MacPort => m.pauseReq = 0) rfl hpause

theorem State.request_inert (h : s.portsRun = false) (i : Instr) : Inert s (s.request i) := by
  unfold State.request State.gatePort
  split
  · exact Inert.refl s
  · next hp =>
    have hserving : s.serving = false := by
      simp [State.serving, (State.portsRun_eq_false.1 h).resolve_left (by simpa using hp)]
    rw [if_pos (by simp [hserving])]
    exact ⟨rfl, rfl, fun _ h => h⟩

theorem State.bell_inert (h : s.portsRun = false) (i : Instr) (b : KeptBell) : Inert s (s.bell i b) := by
  unfold State.bell State.gateBell
  split
  · exact Inert.refl s
  · next hp =>
    have hserving : s.serving = false := by
      simp [State.serving, (State.portsRun_eq_false.1 h).resolve_left (by simpa using hp)]
    rw [if_pos (by simp [hserving])]
    exact ⟨rfl, rfl, fun _ h => h⟩

theorem State.sagBegins_inert (h : s.awake = false) : Inert s s.sagBegins := by
  unfold State.sagBegins
  split
  · exact Inert.refl s
  · dsimp only
    split
    · next hst => cases hst.symm.trans (State.stretching_asleep h)
    · exact ⟨rfl, rfl, fun _ h => h⟩

theorem State.sagEnds_inert (h : s.awake = false) (mv : Nat) : Inert s (s.sagEnds mv) := by
  unfold State.sagEnds State.noteAbove State.countStay
  split
  · exact Inert.refl s
  · rw [if_neg (Bool.eq_false_iff.1 (State.stretching_asleep h))]
    dsimp only
    split
    · split <;> exact ⟨rfl, rfl, fun _ h => h⟩
    · exact ⟨rfl, rfl, fun _ h => h⟩

theorem State.loseRefClk_inert (h : s.portsRun = false) : Inert s s.loseRefClk := by
  unfold State.loseRefClk State.holdSilently
  split
  · exact Inert.refl s
  · next hp =>
    have hheld : s.held = true := (State.portsRun_eq_false.1 h).resolve_left (by simpa using hp)
    split
    · exact ⟨rfl, rfl, fun _ h => h⟩
    · next hn => exact absurd hheld hn

theorem State.losePll_inert (h : s.portsRun = false) : Inert s s.losePll := by
  unfold State.losePll State.holdSilently
  split
  · exact Inert.refl s
  · next hp =>
    have hpowered : s.boot.powered = true := by
      simp only [Bool.or_eq_true, not_or] at hp
      simpa using hp.1.1
    have hheld : s.held = true := (State.portsRun_eq_false.1 h).resolve_left (by simp [hpowered])
    split
    · exact ⟨rfl, rfl, fun _ h => h⟩
    · next hn => exact absurd hheld hn

theorem State.hostPortReset_inert (h : s.portsRun = false) (lost : List (Bool × HostCtx)) : Inert s (s.hostPortReset lost) := by
  have hports : s.hostReset.portsRun = false := h
  unfold State.hostPortReset
  dsimp only
  rw [if_neg (Bool.eq_false_iff.1 hports)]
  exact ⟨rfl, rfl, fun _ h => h⟩

theorem State.testPortOnly.inert (h : s.testPortOnly t) : Inert s t := by
  rw [h]
  exact ⟨rfl, rfl, fun _ h => h⟩

theorem exec_request (s : State) (hc : isRequest c = true) : exec c s = .next (s.request c) := by
  cases c <;> cases hc <;> rfl

theorem exec_bellOf (s : State) {b : KeptBell} (hc : bellOf c = some b) :
    exec c s = .next (s.bell c b).close ∨ exec c s = .next (s.bell c b) := by
  cases c <;> cases hc
  case signalDoorbell => exact .inr rfl
  all_goals exact .inl rfl

theorem Inert.close (h : Inert s t) (hs : s.portsRun = false) : Inert s t.close := by
  rwa [State.close_idle (State.awake_of_portsRun_false (h.portsRun.trans hs))]

/-- An unpowered block, or a held one whose outputs are idle. -/
def State.inactive (s : State) : Prop := s.boot.powered = false ∨ s.held = true ∧ s.outputsIdle

theorem State.inactive.portsRun (h : s.inactive) : s.portsRun = false := State.portsRun_eq_false.2 (h.imp_right And.left)

/-- No command but a reset changes what the outside sees of an inactive block. -/
theorem exec_inert (c : Instr) (h : s.inactive) (hc : resets c = false) : ∃ t, exec c s = .next t ∧ Inert s t := by
  have hp := h.portsRun
  have ha := State.awake_of_portsRun_false hp
  by_cases hreach : reachesStopped c = true
  case neg => exact ⟨s, exec_stopped c hp (Bool.eq_false_iff.2 hreach), Inert.refl s⟩
  by_cases hrequest : isRequest c = true
  case pos => exact ⟨_, exec_request s hrequest, State.request_inert hp c⟩
  by_cases htest : drivesTest c = true
  case pos =>
    obtain ⟨t, ht, honly⟩ := exec_testPortOnly s htest
    exact ⟨t, ht, honly.inert⟩
  cases hbell : bellOf c with
  | some b =>
    have hinert := State.bell_inert hp c b
    rcases exec_bellOf s hbell with ht | ht
    · exact ⟨_, ht, hinert.close hp⟩
    · exact ⟨_, ht, hinert⟩
  | none =>
    cases c with
    | vpAck n =>
      refine ⟨s, congrArg Host.Outcome.next ?_, Inert.refl s⟩
      rcases h with hoff | ⟨-, -, hpresent, -⟩
      · exact if_neg (by simp [hoff])
      · rw [State.accept_presentsNone hpresent, ite_self]
    | hpRstN lost => exact ⟨_, rfl, (State.hostPortReset_inert hp lost).close hp⟩
    | macRstN p =>
      refine ⟨_, congrArg (fun u : State => Host.Outcome.next (u.resetPort p)) (if_neg (by simp [hp])), State.resetPort_inert s p⟩
    | vpRstN a => exact ⟨_, rfl, State.vectorReset_inert s a⟩
    | supplySag => exact ⟨_, rfl, State.sagBegins_inert ha⟩
    | supplyRecover mv => exact ⟨_, rfl, State.sagEnds_inert ha _⟩
    | refClkLoss => exact ⟨_, rfl, State.loseRefClk_inert hp⟩
    | pllLoss => exact ⟨_, rfl, State.losePll_inert hp⟩
    | _ => simp_all [reachesStopped]

/-! ### The obligations -/

theorem Inert.held_eq (h : Inert s t) : t.held = s.held := by
  unfold State.held
  rw [h.boot]

theorem State.tick_inert (s : State) : Inert s s.tick := by
  unfold State.tick
  split
  · rw [State.pass_frame]
    exact ⟨rfl, rfl, fun _ h => h⟩
  · exact Inert.refl s

/-- A step is inert when the front command is, and the queue it leaves is part of the one before. -/
theorem step_inert (hstep : step s = .next t)
    (h : ∀ c ∈ s.pending, ∀ r : State, r.boot = s.boot → (s.outputsIdle → r.outputsIdle) → ∃ u, exec c r = .next u ∧ Inert r u) :
    Inert s t ∧ ∀ c ∈ t.pending, c ∈ s.pending := by
  cases hp : s.pending with
  | nil =>
    cases (step_nil hp).symm.trans hstep
    refine ⟨s.tick_inert, ?_⟩
    rw [s.tick_keeps.queue, hp]
    exact fun _ => id
  | cons c rest =>
    have hexec := (step_cons hp).symm.trans hstep
    obtain ⟨u, hu, hinert⟩ := h c (by rw [hp]; exact List.mem_cons_self) { s with pending := rest } rfl id
    cases hu.symm.trans hexec
    refine ⟨⟨hinert.boot, hinert.effects, hinert.idle⟩, ?_⟩
    rw [exec_pending hexec]
    exact fun _ => List.mem_cons_of_mem c

/-- Settles O7: a tick and every command but a reset are inert in a held member whose outputs are idle. -/
theorem heldMemberIsInert : Obligations.HeldMemberIsInert := by
  unfold Obligations.HeldMemberIsInert
  rintro e s t ⟨hheld, hidle, heffects, hqueue⟩ hstep
  obtain ⟨hinert, hsub⟩ := step_inert hstep fun c hc r hboot hr =>
    exec_inert c (.inr ⟨by rwa [State.held, hboot], hr hidle⟩) (hqueue c hc)
  exact ⟨hinert.held_eq.trans hheld, hinert.idle hheld hidle, hinert.effects.trans heffects, fun c hc => hqueue c (hsub c hc)⟩

/-- In an unpowered block a warm reset and a loss of the supply do nothing. -/
theorem exec_reset_unpowered (h : s.boot.powered = false) (hc : resets c = true) (hpor : ∀ m, c ≠ .porN m) : exec c s = .next s := by
  cases c with
  | porN m => exact absurd rfl (hpor m)
  | warmN m => exact congrArg Host.Outcome.next (if_pos (by simp [h]))
  | powerLoss => exact congrArg Host.Outcome.next (if_pos (by simp [h]))
  | _ => exact absurd hc Bool.noConfusion

theorem exec_inert_unpowered (h : s.boot.powered = false) (hpor : ∀ m, c ≠ .porN m) : ∃ t, exec c s = .next t ∧ Inert s t := by
  by_cases hc : resets c = true
  · exact ⟨s, exec_reset_unpowered h hc hpor, Inert.refl s⟩
  · exact exec_inert c (.inl h) (Bool.eq_false_iff.2 hc)

/-- Settles O9: of the resets POR_N alone does something in an unpowered block, and every other command is inert there. -/
theorem unpoweredBlockIsInert : Obligations.UnpoweredBlockIsInert := by
  unfold Obligations.UnpoweredBlockIsInert
  rintro e s t ⟨hoff, heffects, hqueue⟩ hstep
  obtain ⟨hinert, hsub⟩ := step_inert hstep fun c hc r hboot _ => exec_inert_unpowered (by rw [hboot, hoff]) (hqueue c hc)
  exact ⟨(congrArg Boot.powered hinert.boot).trans hoff, hinert.effects.trans heffects, fun c hc => hqueue c (hsub c hc)⟩

end Sys2Proof.Machine
end

section
/-! SUPPORT. Requests to a block that does not serve them at once (R384, R385, R398): refused, or kept for the wake. -/

namespace Sys2Proof.Machine

variable {s t : State} {c : Instr} {b : KeptBell}

/-- A doorbell write other than the signal doorbell may let a pass go on. -/
theorem exec_bell_close (s : State) (hc : bellOf c = some b) (hb : ∀ size v, b ≠ .signal size v) :
    exec c s = .next (s.bell c b).close := by
  cases c <;> cases hc
  case signalDoorbell => exact absurd rfl (hb _ _)
  all_goals rfl

/-! ### The doorbell latch -/

/-- The doorbell latch with the wake counted, the power state written out. -/
theorem State.latchDoorbell_eq (s : State) :
    s.latchDoorbell = ({ s.countWake with power := { s.power with latchBell := true } } : State).cancelDeep := by
  unfold State.latchDoorbell
  rw [State.countWake_power]

theorem State.cancelDeep_port (s : State) : s.cancelDeep.port = s.port := by
  unfold State.cancelDeep
  split <;> rfl

theorem State.cancelDeep_kept (s : State) : s.cancelDeep.power.kept = s.power.kept ∧ s.cancelDeep.power.heldReqs = s.power.heldReqs := by
  unfold State.cancelDeep
  split <;> exact ⟨rfl, rfl⟩

theorem State.latchDoorbell_port (s : State) : s.latchDoorbell.port = s.port := by
  rw [State.latchDoorbell, State.cancelDeep_port]
  exact s.countWake_port

theorem State.latchDoorbell_kept (s : State) :
    s.latchDoorbell.power.kept = s.power.kept ∧ s.latchDoorbell.power.heldReqs = s.power.heldReqs := by
  rw [State.latchDoorbell_eq]
  exact State.cancelDeep_kept _

theorem State.countWake_ctr (s : State) {k : Nat} (h : k ≠ 0x217B8) : s.countWake.ctr k = s.ctr k := by
  unfold State.countWake
  split
  · rfl
  · rw [State.ctr_bump, if_neg h.symm]

theorem State.cancelDeep_pending (h : s.power.deepPending = true) :
    s.cancelDeep = ({ s with power := { s.power with deepPending := false } } : State).bump 0x21838 := if_pos h

/-- A request that the sleeping block keeps with its tag. -/
theorem State.holdRequest_eq (s : State) (i : Instr) :
    s.holdRequest i = { s.latchDoorbell with
      power := { s.latchDoorbell.power with heldReqs := s.power.heldReqs ++ [(s.port.tag, i)] }
      port := { tag := s.port.tag, stalled := true } } := by
  unfold State.holdRequest State.stall
  dsimp only
  rw [State.latchDoorbell_port, s.latchDoorbell_kept.2]

/-! ### The obligation -/

/-- Settles O14: the gate refuses with NOT_READY, or latches the wake and keeps the request. -/
theorem notServedAtOnce : Obligations.NotServedAtOnce := by
  unfold Obligations.NotServedAtOnce Claim.NotReadyRequestsDoNothing Claim.SleepingBlockKeepsRequests
  refine ⟨fun c s hp hs => ⟨fun hc => ?_, fun b hb hsignal => ?_, fun size v => ?_⟩, ?_⟩
  · exact (exec_request s hc).trans (congrArg Host.Outcome.next (State.request_notReady hp hs c))
  · rw [exec_bell_close s hb hsignal, State.bell_notReady hp hs]
    rfl
  · exact congrArg Host.Outcome.next (State.bell_notReady hp hs _ _)
  · intro c s₀ s hp hs hsleep l
    have hl : s.latchDoorbell = l := s.latchDoorbell_eq
    have hport : l.port.tag = s.port.tag := by rw [← hl, s.latchDoorbell_port]
    have hkept : l.power.kept = s.power.kept := by rw [← hl, s.latchDoorbell_kept.1]
    refine ⟨fun hc => ?_, fun b hb hlen => ?_, fun hdeep => ?_⟩
    · rw [exec_request s₀ hc, State.request_asleep hp hs hsleep, ← hl]
      exact congrArg Host.Outcome.next (s.holdRequest_eq c)
    · have hbell : s₀.bell c b = { l with
          power := { l.power with kept := s.power.kept ++ [(s.port.tag, b)] }, port := { tag := s.port.tag } } := by
        rw [State.bell_asleep hp hs hsleep hlen, ← hkept, ← hport, ← hl]
        rfl
      have hasleep : (s₀.bell c b).awake = false := by
        rw [hbell]
        have hstate : l.power.state = s₀.power.state := by
          show (State.cancelDeep _).power.state = _
          unfold State.cancelDeep
          split <;> rfl
        simp [State.awake, hstate, hsleep]
      rcases exec_bellOf s₀ hb with h | h
      · rw [h, State.close_idle hasleep, hbell]
      · rw [h, hbell]
    · have hcancel : l = ({ s.countWake with power := { s.power with latchBell := true, deepPending := false } } : State).bump 0x21838 :=
        State.cancelDeep_pending (s := { s.countWake with power := { s.power with latchBell := true } }) hdeep
      rw [hcancel]
      exact ⟨rfl, (State.ctr_bump _ _ _ _).trans ((if_pos rfl).trans (congrArg (· + 1) (s.countWake_ctr (by decide))))⟩

end Sys2Proof.Machine
end

section
/-! SUPPORT. Batches and arbitration (16, R375 to R382, R407): what a fire leaves in its batch, and what a target presents. -/

namespace Sys2Proof.Machine

variable {s t : State} {n m : Nat}

/-! ### The bank of a target (R375) -/

/-- A register word that holds something else than its reset value is listed. -/
theorem Tab.mem_of_get_ne {α : Type} {d : Nat → α} {k : Nat} : ∀ {l : Tab α}, Tab.get d l k ≠ d k → ∃ v, (k, v) ∈ l
  | [], h => absurd rfl h
  | (a, x) :: l, h => by
    by_cases ha : a = k
    · exact ⟨x, ha ▸ List.mem_cons_self⟩
    · rw [Tab.get, if_neg ha] at h
      obtain ⟨v, hv⟩ := Tab.mem_of_get_ne h
      exact ⟨v, List.mem_cons_of_mem _ hv⟩

theorem regReset_source (h : n < 0x400) : regReset (0x8000 / 8 + n) = 0x10000 := by
  unfold regReset
  rw [if_pos (by omega), if_pos (by omega)]

theorem State.mem_configured (hn : n < 0x400) (h : s.word (0x8000 / 8 + n) ≠ 0x10000) : n ∈ s.configured := by
  have hne : Tab.get regReset s.regs (0x8000 / 8 + n) ≠ regReset (0x8000 / 8 + n) := by rwa [regReset_source hn]
  obtain ⟨v, hv⟩ := Tab.mem_of_get_ne hne
  refine List.mem_map.2 ⟨(0x8000 / 8 + n, v), List.mem_filter.2 ⟨hv, ?_⟩, Nat.add_sub_cancel_left _ _⟩
  simp only [Bool.and_eq_true, decide_eq_true_eq]
  omega

theorem State.mem_bank {k : Nat} : n ∈ s.bank k ↔ n ∈ s.configured ∧ s.srcEnable n = true ∧ s.srcTarget n = k := by
  simp [State.bank]

/-- ENABLE is clear in the reset value, so an enabled source's word is listed. -/
theorem State.mem_bank_of_enable (hn : n < 0x400) (he : s.srcEnable n = true) : n ∈ s.bank (s.srcTarget n) := by
  refine State.mem_bank.2 ⟨State.mem_configured hn fun hword => ?_, he, rfl⟩
  rw [State.srcEnable_eq_bit, hword] at he
  exact absurd he (by decide)

/-! ### The candidate of a target (R381) -/

/-- Source m does not rank above source n: a lower priority byte, or the same and no lower number. -/
def State.ranksBelow (s : State) (m n : Nat) : Prop :=
  s.srcPriority m < s.srcPriority n ∨ (s.srcPriority m = s.srcPriority n ∧ n ≤ m)

theorem State.ranksBelow_trans {k : Nat} (h : s.ranksBelow m n) (h' : s.ranksBelow n k) : s.ranksBelow m k := by
  unfold State.ranksBelow at *
  omega

theorem State.ranksBelow_better (s : State) (m n : Nat) : s.ranksBelow m (s.better m n) ∧ s.ranksBelow n (s.better m n) := by
  unfold State.ranksBelow State.better
  split <;> omega

theorem State.better_mem (s : State) (m n : Nat) : s.better m n = m ∨ s.better m n = n := by
  unfold State.better
  split
  · exact .inl rfl
  · exact .inr rfl

/-- The best of a list, beginning with the best so far. -/
def State.bestOf (s : State) (c : Option Nat) (l : List Nat) : Option Nat :=
  l.foldl (fun c n => match c with
    | none => some n
    | some m => some (s.better m n)) c

theorem State.bestOf_some (s : State) : ∀ (l : List Nat) (m : Nat),
    ∃ b, s.bestOf (some m) l = some b ∧ b ∈ m :: l ∧ ∀ k ∈ m :: l, s.ranksBelow k b
  | [], m => ⟨m, rfl, List.mem_cons_self, fun k hk => by
      rw [List.mem_singleton.1 hk]
      exact .inr ⟨rfl, Nat.le_refl m⟩⟩
  | n :: l, m => by
    obtain ⟨b, hb, hmem, hall⟩ := State.bestOf_some s l (s.better m n)
    refine ⟨b, hb, ?_, fun k hk => ?_⟩
    · rcases List.mem_cons.1 hmem with rfl | hmem
      · rcases s.better_mem m n with h | h <;> simp [h]
      · exact List.mem_cons_of_mem _ (List.mem_cons_of_mem _ hmem)
    · have hbest := hall _ List.mem_cons_self
      rcases List.mem_cons.1 hk with rfl | hk
      · exact State.ranksBelow_trans (s.ranksBelow_better k n).1 hbest
      · rcases List.mem_cons.1 hk with rfl | hk
        · exact State.ranksBelow_trans (s.ranksBelow_better m k).2 hbest
        · exact hall k (List.mem_cons_of_mem _ hk)

/-- The pending sources of a target's bank. -/
def State.pendingIn (s : State) (k : Nat) : List Nat := (s.bank k).filter fun n => (s.source n).pending

theorem State.mem_pendingIn {k : Nat} : n ∈ s.pendingIn k ↔ n ∈ s.bank k ∧ (s.source n).pending = true := List.mem_filter

theorem State.candidate_cases (s : State) (k : Nat) :
    (s.candidate k = none ∧ s.pendingIn k = []) ∨
      ∃ b, s.candidate k = some b ∧ b ∈ s.pendingIn k ∧ ∀ m ∈ s.pendingIn k, s.ranksBelow m b := by
  have hcandidate : s.candidate k = s.bestOf none (s.pendingIn k) := rfl
  cases hl : s.pendingIn k with
  | nil => exact .inl ⟨by rw [hcandidate, hl]; rfl, rfl⟩
  | cons a l =>
    obtain ⟨b, hb, hmem, hall⟩ := s.bestOf_some l a
    exact .inr ⟨b, by rw [hcandidate, hl]; exact hb, hmem, hall⟩

/-- On one target a higher priority byte has no lower group (R380). -/
theorem State.srcGroup_le (htarget : s.srcTarget m = s.srcTarget n) (h : s.ranksBelow m n) : s.srcGroup m ≤ s.srcGroup n := by
  unfold State.srcGroup
  rw [htarget]
  exact Nat.div_le_div_right (by unfold State.ranksBelow at h; omega)

/-! ### Arbitration (R381, R382, R407) -/

/-- The source is strictly above the top of the target's active stack. -/
def State.aboveTop (s : State) (k n : Nat) : Prop := ∀ top rest, (s.target k).stack = top :: rest → top.2 < s.srcGroup n

/-- What arbitration of target k chooses while the core runs. -/
def State.chooses (s : State) (k : Nat) (p : Option Nat) : Prop :=
  match p with
  | some n => s.signals.vpReset = false ∧ (s.target k).stack.length < 16 ∧ s.candidate k = some n ∧ s.aboveTop k n
  | none => s.signals.vpReset = true ∨ 16 ≤ (s.target k).stack.length ∨ s.candidate k = none ∨
      ∃ n, s.candidate k = some n ∧ ¬ s.aboveTop k n

theorem State.arbitrate_running (hr : s.power.state = .run) (k : Nat) : ∃ p, s.arbitrate k = s.present k p ∧ s.chooses k p := by
  unfold State.arbitrate
  dsimp only
  split
  · next hv => exact ⟨none, rfl, .inl hv⟩
  next hv =>
  rw [if_neg (by simp [hr])]
  split
  · next hlen => exact ⟨none, rfl, .inr (.inl hlen)⟩
  next hlen =>
  cases hc : s.candidate k with
  | none => exact ⟨none, rfl, .inr (.inr (.inl hc))⟩
  | some n =>
    have hchosen (habove : s.aboveTop k n) : s.chooses k (some n) := ⟨by simpa using hv, by omega, hc, habove⟩
    dsimp only
    split
    · next hnil => exact ⟨some n, rfl, hchosen fun top rest h => by rw [hnil] at h; cases h⟩
    · next top rest htop =>
      split
      · next hlt => exact ⟨some n, rfl, hchosen fun top' rest' h => by rw [htop] at h; cases h; exact hlt⟩
      · next hlt => exact ⟨none, rfl, .inr (.inr (.inr ⟨n, hc, fun h => hlt (h top rest htop)⟩))⟩

theorem State.present_target (s : State) (k : Nat) (p : Option Nat) :
    (s.present k p).target k = { s.target k with
      presented := p
      addr := match p with
        | some n => if (s.target k).presented = some n then (s.target k).addr else s.vectorAddr k n
        | none => (s.target k).addr } := (s.target_setTarget _ _ _).trans (if_pos rfl)

/-- Settles O28: the candidate is the best pending source of the bank, and it is presented when its group is above the top's. -/
theorem targetsPresentTheBest : Obligations.TargetsPresentTheBest := by
  unfold Obligations.TargetsPresentTheBest Claim.Arbitration Claim.BankHoldsEnabledSources
  refine ⟨?_, fun s n hn he => State.mem_bank_of_enable hn he⟩
  intro s k hr r
  obtain ⟨p, hp, hchooses⟩ := State.arbitrate_running hr k
  have hpresented : r.presented = p := by
    show ((s.arbitrate k).target k).presented = p
    rw [hp, State.present_target]
  have hcandidate := s.candidate_cases k
  refine ⟨fun hoff => ?_, fun hv hlen ⟨m, hm, hpend, habove⟩ => ?_, fun n hn => ?_, fun hn => ?_, ?_, fun j hj => s.arbitrate_target_other hj⟩
  · rw [hpresented]
    cases p with
    | none => rfl
    | some n =>
      obtain ⟨hv, hlen, -, -⟩ := hchooses
      exact hoff.elim (fun h => by simp [hv] at h) (fun h => by omega)
  · rw [hpresented]
    cases p with
    | some n => rfl
    | none =>
      have hmem : m ∈ s.pendingIn k := State.mem_pendingIn.2 ⟨hm, hpend⟩
      rcases hcandidate with ⟨-, hnil⟩ | ⟨b, hb, hbmem, hbest⟩
      · rw [hnil] at hmem
        cases hmem
      · have htarget : s.srcTarget m = s.srcTarget b :=
          (State.mem_bank.1 hm).2.2.trans (State.mem_bank.1 (State.mem_pendingIn.1 hbmem).1).2.2.symm
        have hgroup := State.srcGroup_le htarget (hbest m hmem)
        have habove' : s.aboveTop k b := fun top rest h => Nat.lt_of_lt_of_le (habove top rest h) hgroup
        rcases hchooses with h | h | h | ⟨n, h, hnot⟩
        · simp [hv] at h
        · omega
        · simp [hb] at h
        · cases hb.symm.trans h
          exact absurd habove' hnot
  · rw [hpresented] at hn
    subst hn
    obtain ⟨-, -, hc, habove⟩ := hchooses
    rcases hcandidate with ⟨hnone, -⟩ | ⟨b, hb, hbmem, hbest⟩
    · simp [hnone] at hc
    cases hb.symm.trans hc
    obtain ⟨hbank, hpend⟩ := State.mem_pendingIn.1 hbmem
    obtain ⟨-, he, htarget⟩ := State.mem_bank.1 hbank
    refine ⟨hpend, he, htarget, fun m _ hm hpm => hbest m (State.mem_pendingIn.2 ⟨hm, hpm⟩), habove, ?_⟩
    show ((s.arbitrate k).target k).addr = _
    rw [hp, State.present_target]
    rfl
  · rw [hpresented] at hn
    subst hn
    show ((s.arbitrate k).target k).addr = _
    rw [hp, State.present_target]
  · show ((s.arbitrate k).target k).stack = _
    rw [State.arbitrate_target]

/-! ### Batches (R377, R378) -/

theorem State.source_fire (he : s.srcEnable n = true) (m : Nat) : (s.fire n).source m = if n = m then fired s n else s.source m := by
  rw [State.fire, if_pos he, State.arbitrate_source, State.source_fireBatch]
  rfl

theorem State.fire_ctr_fires (he : s.srcEnable n = true) : (s.fire n).ctr 0x21780 = s.ctr 0x21780 + 1 := by
  have hfire : s.fire n = ((s.bump 0x21780).fireBatch n).arbitrate (s.srcTarget n) := if_pos he
  rw [hfire, State.arbitrate_signals, State.fireBatch_frame]
  exact (s.ctr_bump 0x21780 1 0x21780).trans (if_pos rfl)

theorem fired_pending (h : (s.source n).pending = true) : fired s n = (s.source n).count1 := if_pos h

theorem fired_open (hp : (s.source n).pending = false) (ho : (s.source n).isOpen = true) :
    fired s n = if s.srcCoalCount n ≤ (s.source n).count1.count.toNat then { (s.source n).count1 with isOpen := false, pending := true }
      else (s.source n).count1 := by
  simp [fired, hp, ho]

theorem fired_new (hp : (s.source n).pending = false) (ho : (s.source n).isOpen = false) :
    fired s n = if s.srcCoalCount n ≤ 1
      then { (s.source n).start s.tb (s.srcCoalTb n) with isOpen := false, pending := true }
      else (s.source n).start s.tb (s.srcCoalTb n) := by
  simp [fired, hp, ho, Source.start]

theorem fireCounts : Claim.FireCounts := by
  unfold Claim.FireCounts
  intro s n he b c
  have hc : c = fired s n := (State.source_fire he n).trans (if_pos rfl)
  refine ⟨fun hp => hc.trans (fired_pending hp), fun hp ho => ⟨fun h => ?_, fun h => ?_⟩, fun hp ho => ?_,
    fun m hm => (State.source_fire he m).trans (if_neg hm.symm), State.fire_ctr_fires he⟩
  · rw [hc, fired_open hp ho, if_neg (Nat.not_le.2 h)]
  · rw [hc, fired_open hp ho, if_pos h]
  · rw [hc, fired_new hp ho]
    refine ⟨?_, ?_, ?_, ?_, fun h => ?_, fun h => ?_⟩
    · split <;> rfl
    · split <;> rfl
    · split <;> rfl
    · split <;> rfl
    · rw [if_pos h]
      exact ⟨rfl, rfl⟩
    · rw [if_neg (by omega)]
      exact ⟨hp, rfl⟩

/-- The deadline closes the batch, whatever time has passed until it. -/
theorem State.batchExpiry_eq (ho : (s.source n).isOpen = true) (ht : (s.source n).timed = true) :
    s.batchExpiry n = ((s.until (s.source n).deadline).setSource n { s.source n with isOpen := false, pending := true }).arbitrate
      (s.srcTarget n) := by
  have hsource : (s.until (s.source n).deadline).source n = s.source n := by
    rw [State.until_frame]
    rfl
  unfold State.batchExpiry State.closeBatch
  dsimp only
  rw [if_pos (by simp [ho, ht]), hsource]

theorem coalescingDeadline : Claim.CoalescingDeadline := by
  unfold Claim.CoalescingDeadline
  intro s n ha
  have hexec : exec (.coalDeadline n) s = .next (s.batchExpiry n.toNat) := congrArg Host.Outcome.next (if_pos ha)
  refine ⟨fun ho ht => ⟨_, hexec, ?_⟩, fun h => ?_⟩
  · rw [State.batchExpiry_eq ho ht]
    refine ⟨?_, ?_, fun m hm => ?_, ?_⟩
    · rw [State.arbitrate_signals]
      exact s.until_tb _
    · rw [State.arbitrate_source, State.source_setSource, if_pos rfl]
    · rw [State.arbitrate_source, State.source_setSource, if_neg hm.symm, State.until_frame]
      rfl
    · rw [State.arbitrate_signals, State.until_frame]
      rfl
  · rw [hexec]
    refine congrArg Host.Outcome.next (if_neg ?_)
    rcases h with h | h <;> simp [h]

/-- Settles O31: `fired` is the batch after a fire, and the deadline closes an open batch. -/
theorem batches : Obligations.Batches := by
  unfold Obligations.Batches
  exact ⟨fireCounts, coalescingDeadline⟩

end Sys2Proof.Machine
end

section
/-! SUPPORT. Choices by an order: the buffer of a request (R346 to R348), SELECT's ranking (R55), serial numbers (R317). -/

namespace Sys2Proof.Machine

variable {s : State}

/-! ### Buffers -/

/-- Class 5 holds the largest request, so the search among the six classes finds one. -/
theorem classOf_eq {size : Nat} (h : size ≤ 262144) : (List.range 6).find? (fun c => size ≤ classSize c) = some (classOf size) := by
  unfold classOf
  cases hf : (List.range 6).find? (fun c => decide (size ≤ classSize c)) with
  | some c => rfl
  | none =>
    have h5 := List.find?_eq_none.1 hf 5 (by decide)
    exact absurd (decide_eq_true (show size ≤ classSize 5 from h)) h5

theorem smallestClass : Claim.SmallestClass := by
  unfold Claim.SmallestClass
  intro size _ hsize
  obtain ⟨hfit, hrange, hleast⟩ := List.find?_range_eq_some.1 (classOf_eq hsize)
  exact ⟨List.mem_range.1 hrange, of_decide_eq_true hfit, fun c hc => by simpa using hleast c hc⟩

theorem State.freeIndex_some {pool cls r i : Nat} (h : s.freeIndex pool cls r = some i) :
    i < s.classCount pool cls ∧ Tab.get? (s.poolClass pool cls).used i = none ∧
      ∀ j, j < i → (Tab.get? (s.poolClass pool cls).used j).isSome = true := by
  unfold State.freeIndex at h
  obtain ⟨_, hfound⟩ := Option.ite_none_right_eq_some.1 h
  obtain ⟨hfree, hrange, hleast⟩ := List.find?_range_eq_some.1 hfound
  exact ⟨List.mem_range.1 hrange, Option.isNone_iff_eq_none.1 hfree, fun j hj => by simpa using hleast j hj⟩

theorem State.takeBuffer_used (s : State) (pool cls r i j : Nat) :
    Tab.get? ((s.takeBuffer pool cls r i).poolClass pool cls).used j =
      if i = j then some r else Tab.get? (s.poolClass pool cls).used j := by
  rw [State.takeBuffer_class, if_pos rfl]
  exact Tab.get?_put _ _ _ _

/-- Settles O37: both searches take the first hit, and the buffer taken is put under its requester. -/
theorem bufferChoice : Obligations.BufferChoice := by
  unfold Obligations.BufferChoice Claim.LowestFreeBuffer
  refine ⟨smallestClass, fun s pool cls r i hcls h => ?_⟩
  obtain ⟨hcount, hfree, hlower⟩ := State.freeIndex_some h
  refine ⟨hcount, hfree, hlower, ?_, fun j hj => ?_, fun p k hk hne => ?_⟩
  · rw [State.takeBuffer_used, if_pos rfl]
  · rw [State.takeBuffer_used, if_neg hj.symm]
  · rw [State.takeBuffer_class, if_neg]
    intro heq
    exact hne (Prod.ext (by omega) (by omega))

/-! ### The order of scores -/

theorem FV.lt_asymm : ∀ {a b : FV}, FV.lt a b = true → FV.lt b a = false
  | .nan, _, h => by cases h
  | .inf _, .nan, h => by cases h
  | .fin _ _, .nan, h => by cases h
  | .inf a, .inf b, h => by revert h; cases a <;> cases b <;> decide
  | .inf a, .fin _ _, h => by
    simp only [FV.lt] at h ⊢
    rw [h]
    rfl
  | .fin _ _, .inf b, h => by simpa [FV.lt] using h
  | .fin a p, .fin b q, h => by
    simp only [FV.lt, decide_eq_true_eq, decide_eq_false_iff_not] at h ⊢
    exact Rat.not_lt.2 (Rat.le_of_lt h)

/-- What is not above y is below everything that y is below. -/
theorem FV.lt_of_not_lt_of_lt : ∀ {z y x : FV}, z.isNan = false → FV.lt y z = false → FV.lt y x = true → FV.lt z x = true
  | .nan, _, _, hz, _, _ => by cases hz
  | _, .nan, _, _, _, h => by cases h
  | _, .inf _, .nan, _, _, h => by cases h
  | _, .fin _ _, .nan, _, _, h => by cases h
  | .inf a, .inf b, .inf c, _, h, h' => by revert h h'; cases a <;> cases b <;> cases c <;> decide
  | .inf a, .inf b, .fin _ _, _, h, h' => by
    simp only [FV.lt] at h h' ⊢
    simpa [h'] using h
  | .inf a, .fin _ _, .inf c, _, h, h' => by
    simp only [FV.lt, Bool.not_eq_false', Bool.not_eq_true'] at h h' ⊢
    rw [h, h']
    rfl
  | .inf a, .fin _ _, .fin _ _, _, h, _ => by simpa [FV.lt] using h
  | .fin _ _, .inf b, .inf c, _, h, h' => by
    simp only [FV.lt] at h h' ⊢
    simp [h] at h'
  | .fin _ _, .inf b, .fin _ _, _, h, h' => by
    simp only [FV.lt] at h h'
    exact absurd h' (by rw [h]; decide)
  | .fin _ _, .fin _ _, .inf c, _, _, h' => h'
  | .fin _ _, .fin _ _, .fin _ _, _, h, h' => by
    simp only [FV.lt, decide_eq_true_eq, decide_eq_false_iff_not] at h h' ⊢
    grind

/-! ### SELECT's ranking (R55) -/

/-- Pair x stands before pair y: its score is higher, or not lower and its expert index is. -/
def Scored.before (x y : Scored) : Prop := FV.lt y.s x.s = true ∨ (FV.lt x.s y.s = false ∧ x.e < y.e)

theorem Scored.not_lt_of_before {x y : Scored} (h : x.before y) : FV.lt x.s y.s = false := h.elim FV.lt_asymm And.left

theorem scoreInsert_perm (x : Scored) : ∀ l, (scoreInsert x l).Perm (x :: l)
  | [] => .refl _
  | y :: l => by
    unfold scoreInsert
    split
    · exact .refl _
    · exact ((scoreInsert_perm x l).cons y).trans (.swap x y l)

/-- A pair that comes after those ranked keeps the ranking in order. -/
theorem scoreInsert_before (x : Scored) :
    ∀ {l : List Scored}, (∀ y ∈ l, y.s.isNan = false ∧ y.e < x.e) → l.Pairwise Scored.before → (scoreInsert x l).Pairwise Scored.before
  | [], _, _ => List.pairwise_singleton _ _
  | y :: l, hl, h => by
    obtain ⟨hy, htail⟩ := List.pairwise_cons.1 h
    unfold scoreInsert
    split
    · next hlt =>
      refine List.pairwise_cons.2 ⟨fun z hz => .inl ?_, h⟩
      rcases List.mem_cons.1 hz with rfl | hmem
      · exact hlt
      · exact FV.lt_of_not_lt_of_lt (hl z hz).1 (Scored.not_lt_of_before (hy z hmem)) hlt
    · next hlt =>
      refine List.pairwise_cons.2 ⟨fun z hz => ?_, scoreInsert_before x (fun z hz => hl z (List.mem_cons_of_mem _ hz)) htail⟩
      rcases List.mem_cons.1 ((scoreInsert_perm x l).mem_iff.1 hz) with rfl | hmem
      · exact .inr ⟨Bool.eq_false_iff.2 hlt, (hl y List.mem_cons_self).2⟩
      · exact hy z hmem

/-- The pairs of `todo` inserted one after the other into those ranked. -/
def rankOnto (done todo : List Scored) : List Scored := todo.foldl (fun l x => scoreInsert x l) done

theorem rankOnto_perm : ∀ todo done, (rankOnto done todo).Perm (done ++ todo)
  | [], done => by rw [List.append_nil]; exact .refl _
  | x :: todo, done =>
    (rankOnto_perm todo (scoreInsert x done)).trans
      (((scoreInsert_perm x done).append_right todo).trans List.perm_middle.symm)

theorem rankOnto_before : ∀ (todo : List Scored) {done : List Scored}, (∀ x ∈ done ++ todo, x.s.isNan = false) →
    (∀ x ∈ done, ∀ y ∈ todo, x.e < y.e) → todo.Pairwise (fun x y => x.e < y.e) → done.Pairwise Scored.before →
    (rankOnto done todo).Pairwise Scored.before
  | [], _, _, _, _, h => h
  | x :: todo, done, hnan, hlt, hrise, h => by
    obtain ⟨hx, htodo⟩ := List.pairwise_cons.1 hrise
    have hmem {z : Scored} : z ∈ scoreInsert x done ↔ z = x ∨ z ∈ done :=
      (scoreInsert_perm x done).mem_iff.trans List.mem_cons
    refine rankOnto_before todo (fun z hz => hnan z ?_) (fun z hz y hy => ?_) htodo
      (scoreInsert_before x (fun y hy => ⟨hnan y (List.mem_append_left _ hy), hlt y hy x List.mem_cons_self⟩) h)
    · rw [List.mem_append, List.mem_cons]
      rcases List.mem_append.1 hz with hz | hz
      · exact (hmem.1 hz).elim (fun e => .inr (.inl e)) .inl
      · exact .inr (.inr hz)
    · rcases hmem.1 hz with rfl | hz
      · exact hx y hy
      · exact hlt z hz y (List.mem_cons_of_mem _ hy)

/-- The pairs of a token by expert index, with their scores. -/
def scoredPairs (ps : List PairRec) : List Scored := ps.zipIdx.map fun p => ⟨p.2, f32 p.1.s.toNat, p.1⟩

theorem ranking_eq (ps : List PairRec) : ranking ps = rankOnto [] (scoredPairs ps) := rfl

theorem ranking_perm (ps : List PairRec) : (ranking ps).Perm (scoredPairs ps) := rankOnto_perm (scoredPairs ps) []

theorem scoredPairs_experts (ps : List PairRec) : (scoredPairs ps).map (·.e) = List.range ps.length := by
  rw [scoredPairs, List.map_map, List.range_eq_range']
  exact List.zipIdx_map_snd 0 ps

theorem mem_scoredPairs {ps : List PairRec} {x : Scored} (h : x ∈ scoredPairs ps) :
    ps[x.e]? = some x.pair ∧ x.s = f32 x.pair.s.toNat := by
  obtain ⟨p, hp, rfl⟩ := List.mem_map.1 h
  exact ⟨List.mem_zipIdx_iff_getElem?.1 hp, rfl⟩

/-- Settles O59: insertion in the order of the expert index, after every pair that is not lower. -/
theorem selectionRanking : Obligations.SelectionRanking := by
  unfold Obligations.SelectionRanking
  intro ps hnan
  have hperm := ranking_perm ps
  refine ⟨?_, fun x hx => mem_scoredPairs (hperm.mem_iff.1 hx), ?_⟩
  · rw [← scoredPairs_experts]
    exact hperm.map _
  · rw [ranking_eq]
    refine rankOnto_before (scoredPairs ps) (fun x hx => ?_) (fun _ hx => absurd hx List.not_mem_nil) ?_ List.Pairwise.nil
    · obtain ⟨hpair, hs⟩ := mem_scoredPairs hx
      rw [hs]
      exact hnan _ (List.mem_of_getElem? hpair)
    · rw [← List.pairwise_map (f := Scored.e) (R := (· < ·)), scoredPairs_experts]
      exact List.pairwise_lt_range

/-! ### Serial numbers (R317) -/

theorem sub_mod_wrap {a b m : Nat} (ha : a < m) (hb : b < m) : (b + m - a) % m = if a ≤ b then b - a else b + m - a := by
  split
  · rw [show b + m - a = b - a + m by omega, Nat.add_mod_right, Nat.mod_eq_of_lt (by omega)]
  · exact Nat.mod_eq_of_lt (by omega)

/-- Settles O60: the two differences add up to 2^n, or both are 0. -/
theorem serialComparison : Obligations.SerialComparison := by
  unfold Obligations.SerialComparison
  intro n a b hn ha hb
  have htwo : 2 ^ n = 2 * 2 ^ (n - 1) := by rw [← Nat.pow_succ', Nat.succ_eq_add_one, Nat.sub_add_cancel hn]
  have hpos : 0 < 2 ^ (n - 1) := Nat.two_pow_pos _
  rw [serial, Nat.mod_eq_of_lt ha, sub_mod_wrap ha hb, sub_mod_wrap hb ha]
  generalize 2 ^ (n - 1) = half at *
  generalize 2 ^ n = whole at *
  grind

end Sys2Proof.Machine
end

section
/-! SUPPORT. The session table window (09, R210, R211): a write of it, and the read that sees it. -/

namespace Sys2Proof.Machine

variable {s : State} {off size v : Nat}

/-! ### Bytes within a record -/

theorem field_testBit (x lo len i : Nat) : (field x lo len).testBit i = (decide (i < len) && x.testBit (lo + i)) := by
  rw [field, Nat.testBit_mod_two_pow, Nat.testBit_div_two_pow, Nat.add_comm]

/-- The bytes written stand at their offset. -/
theorem setBytes_bit (w : BitVec 512) {b : List Byte} {i : Nat} (hfit : off + b.length ≤ 64) (hi : i < 8 * b.length) :
    (setBytes w off b).getLsbD (8 * off + i) = (ofLe b).testBit i := by
  have hlen : ((leBytes 64 w.toNat).take off).length = off := by rw [List.length_take, leBytes_length]; omega
  have hmid := field_mid ((leBytes 64 w.toNat).take off) b ((leBytes 64 w.toNat).drop (off + b.length))
  rw [hlen] at hmid
  have hbit := field_testBit (ofLe ((leBytes 64 w.toNat).take off ++ b ++ (leBytes 64 w.toNat).drop (off + b.length))) (8 * off)
    (8 * b.length) i
  rw [hmid, decide_eq_true hi, Bool.true_and] at hbit
  rw [setBytes, BitVec.getLsbD_ofNat, hbit, decide_eq_true (by omega), Bool.true_and]

/-- An aligned access of 8 or 64 bytes stays within its record. -/
theorem sessionAccess_fits (hsize : size = 3 ∨ size = 6) (ha : off % 2 ^ size = 0) : off % 64 + 2 ^ size ≤ 64 := by
  rcases hsize with rfl | rfl <;> omega

/-- What a session write puts in place of the bytes it covers: those written, reserved fields 0. -/
theorem sessionField_bit (w : BitVec 512) (hsize : size = 3 ∨ size = 6) (ha : off % 2 ^ size = 0) (i : Nat) :
    (BitVec.ofNat 512 (field (setBytes w (off % 64) (leBytes (2 ^ size) v) &&& sessionMask).toNat (8 * (off % 64)) (8 * 2 ^ size))).getLsbD i =
      (decide (i < 8 * 2 ^ size) && v.testBit i && sessionMask.getLsbD (8 * (off % 64) + i)) := by
  have hfit := sessionAccess_fits hsize ha
  rw [BitVec.getLsbD_ofNat, field_testBit]
  by_cases hi : i < 8 * 2 ^ size
  · have hbyte : (ofLe (leBytes (2 ^ size) v)).testBit i = v.testBit i := by
      rw [ofLe_leBytes, show (256 : Nat) ^ 2 ^ size = 2 ^ (8 * 2 ^ size) by rw [Nat.pow_mul], Nat.testBit_mod_two_pow, decide_eq_true hi,
        Bool.true_and]
    have hset := setBytes_bit (off := off % 64) (b := leBytes (2 ^ size) v) (i := i) w (by rwa [leBytes_length]) (by rwa [leBytes_length])
    rw [← BitVec.getLsbD, BitVec.getLsbD_and, hset, hbyte, decide_eq_true hi, decide_eq_true (show i < 512 by omega)]
    rfl
  · rw [decide_eq_false hi, Bool.false_and, Bool.and_false, Bool.false_and, Bool.false_and]

/-! ### Writes of the window -/

theorem State.portWrite_session (s : State) (hlo : 0x40000 ≤ off) (hhi : off < 0x80000) (hsize : size = 3 ∨ size = 6)
    (ha : off % 2 ^ size = 0) : s.portWrite off size v = s.writeSession off size v := by
  unfold State.portWrite
  rw [if_neg (by omega), if_neg (by omega), if_pos ⟨hlo, hhi⟩]

/-- The write as the queue holds it. -/
def State.sessionWrite (s : State) (off size v : Nat) : Nat × Nat × List Byte := (s.sessRecord off, off % 64, leBytes (2 ^ size) v)

theorem State.writeSession_queued (hsize : size = 3 ∨ size = 6) (hp : s.passInProgress = true) (hq : s.sched.sessQueue.length < 512) :
    s.writeSession off size v =
      ({ s with sched := { s.sched with sessQueue := s.sched.sessQueue ++ [s.sessionWrite off size v] } } : State).ok := by
  have hroom : decide (512 ≤ s.sched.sessQueue.length) = false := decide_eq_false (by omega)
  unfold State.writeSession
  rw [if_neg (by omega), if_pos hp, hroom]
  rfl

theorem State.writeSession_applied (hsize : size = 3 ∨ size = 6) (hp : s.passInProgress = false) :
    s.writeSession off size v = (s.putSession (s.sessionWrite off size v)).ok := by
  unfold State.writeSession
  rw [if_neg (by omega), if_neg (by simp [hp])]
  rfl

/-! ### Reads of the window -/

theorem State.session_putSession (s : State) (x : Nat × Nat × List Byte) :
    (s.putSession x).session x.1 = (setBytes (s.session x.1) x.2.1 x.2.2 &&& sessionMask).toNat := by
  refine congrArg BitVec.toNat ((Tab.get_set _ _ _ _ _).trans (if_pos rfl))

/-- A read with no held write before it gives the record after every write of the queue. -/
theorem State.readSession_eq (hsize : size = 3 ∨ size = 6) (hq : s.sched.sessQueue.length ≤ 512) :
    s.readSession off size =
      s.answer (field ((s.each s.sched.sessQueue State.putSession).session (s.sessRecord off)) (8 * (off % 64)) (8 * 2 ^ size)) := by
  unfold State.readSession State.sessionValue
  rw [if_neg (by omega)]
  dsimp only
  rw [List.drop_eq_nil_of_le hq, List.take_length, if_neg (by simp)]

theorem State.each_append {α : Type} (s : State) (a b : List α) (f : State → α → State) : s.each (a ++ b) f = (s.each a f).each b f :=
  List.foldl_append

theorem exec_sessionWindowRead {t : State} {w : PortWrite} (hserves : t.servesNow) (hlo : 0x40000 ≤ w.off.toNat) (hhi : w.off.toNat < 0x80000)
    (ha : w.off.toNat % 2 ^ w.size.toNat = 0) (finds : List ReadFind) :
    exec (.sessionWindowRead w.off w.size finds) t = .next ((t.newTag.readSessions 18 finds).readSession w.off.toNat w.size.toNat) := by
  rw [exec_serves hserves _ rfl]
  exact congrArg Host.Outcome.next (if_pos ⟨hlo, hhi, ha⟩)

/-- A read of the bytes that the last write covered returns what it wrote. -/
theorem exec_sessionWindowRead_last {t u : State} {w : PortWrite} (hserves : t.servesNow) (hlo : 0x40000 ≤ w.off.toNat)
    (hhi : w.off.toNat < 0x80000) (hsize : w.size.toNat = 3 ∨ w.size.toNat = 6) (ha : w.off.toNat % 2 ^ w.size.toNat = 0)
    (hq : t.sched.sessQueue.length ≤ 512)
    (hlast : t.newTag.each t.sched.sessQueue State.putSession =
      u.putSession (t.newTag.sessionWrite w.off.toNat w.size.toNat w.data.toNat)) :
    ∃ r, exec (.sessionWindowRead w.off w.size) t = .next r ∧
      r = { t.newTag with port := { tag := t.port.tag + 1, data := r.port.data } } ∧
      ∀ i, r.port.data.getLsbD i =
        (decide (i < 8 * 2 ^ w.size.toNat) && w.data.getLsbD i && sessionMask.getLsbD (8 * (w.off.toNat % 64) + i)) := by
  have hread := State.readSession_eq (s := t.newTag) (off := w.off.toNat) hsize hq
  rw [State.newTag_sched, hlast] at hread
  have hvalue := u.session_putSession (t.newTag.sessionWrite w.off.toNat w.size.toNat w.data.toNat)
  refine ⟨_, (exec_sessionWindowRead hserves hlo hhi ha []).trans (congrArg Host.Outcome.next hread), rfl, fun i => ?_⟩
  rw [State.sessionWrite] at hvalue
  rw [State.sessionWrite, hvalue]
  exact sessionField_bit _ hsize ha i

/-- Settles O33: the write stands at the end of the queue, or in the table with nothing queued, when the read looks. -/
theorem sessionWindow : Obligations.SessionWindow := by
  unfold Obligations.SessionWindow
  intro s₀ w s hserves hlo hhi hsize ha hq
  have hs₀ : s₀.servesNow := hserves
  have hsize' : w.size.toNat = 3 ∨ w.size.toNat = 6 := hsize.imp (congrArg BitVec.toNat) (congrArg BitVec.toNat)
  have hexec : exec (.sessionWindowWrite w) s₀ = .next (s.writeSession w.off.toNat w.size.toNat w.data.toNat) := by
    rw [exec_serves hs₀ _ rfl]
    exact congrArg Host.Outcome.next (s.portWrite_session hlo hhi hsize' ha)
  let x := s.sessionWrite w.off.toNat w.size.toNat w.data.toNat
  cases hp : s.passInProgress with
  | true =>
    rw [State.writeSession_queued hsize' hp hq] at hexec
    let t : State := ({ s with sched := { s.sched with sessQueue := s.sched.sessQueue ++ [x] } } : State).ok
    have hlen : t.sched.sessQueue.length = s.sched.sessQueue.length + 1 := List.length_append
    have hserves' : t.servesNow := hserves
    have hlast : t.newTag.each t.sched.sessQueue State.putSession = (t.newTag.each s.sched.sessQueue State.putSession).putSession x :=
      State.each_append t.newTag s.sched.sessQueue [x] State.putSession
    obtain ⟨r, hr, hrest, hbits⟩ := exec_sessionWindowRead_last hserves' hlo hhi hsize' ha (by omega) hlast
    exact ⟨t, r, hexec, rfl, nofun, fun _ => ⟨rfl, hlen⟩, rfl, fun finds h => exec_sessionWindowRead h hlo hhi ha finds,
      fun _ => ⟨hr, hrest, hbits⟩⟩
  | false =>
    rw [State.writeSession_applied hsize' hp] at hexec
    let t : State := (s.putSession x).ok
    have hserves' : t.servesNow := hserves
    by_cases hnil : s.sched.sessQueue = []
    · have hqueue : t.sched.sessQueue = [] := hnil
      have hlast : t.newTag.each t.sched.sessQueue State.putSession = s.ok.newTag.putSession x := by
        rw [hqueue]
        rfl
      obtain ⟨r, hr, hrest, hbits⟩ := exec_sessionWindowRead_last hserves' hlo hhi hsize' ha (by simp [hqueue]) hlast
      exact ⟨t, r, hexec, rfl, fun _ => rfl, nofun, rfl, fun finds h => exec_sessionWindowRead h hlo hhi ha finds,
        fun _ => ⟨hr, hrest, hbits⟩⟩
    · exact ⟨t, t, hexec, rfl, fun _ => rfl, nofun, rfl, fun finds h => exec_sessionWindowRead h hlo hhi ha finds,
        fun h => h.elim nofun fun h => absurd h hnil⟩

end Sys2Proof.Machine
end

section
/-! SUPPORT. Resets and the loss of a clock (17, 18, 20; R412, R414, R421, R441, R460): what they leave. -/

namespace Sys2Proof.Machine

variable {s : State}

/-! ### Resets -/

theorem State.warmReset_off (h : s.boot.powered = false) (m : BitVec 2) : s.warmReset m = s := if_pos (by simp [h])

theorem State.warmReset_on (h : s.boot.powered = true) (m : BitVec 2) :
    s.warmReset m = { s.powerOnReset m with
      ledger := { snapFirst := s.ledger.snapFirst, snapEsc := s.ledger.snapEsc, snapValid := s.ledger.snapValid,
                  refLoss := s.ledger.refLoss, pllLoss := s.ledger.pllLoss }
      power := { (s.powerOnReset m).power with
        latchBell := s.power.latchBell, latchMortar := s.power.latchMortar, latchTimer := s.power.latchTimer } } := by
  unfold State.warmReset
  rw [if_neg (by simp [h])]
  rfl

/-- Settles O6: `powerOnReset` writes every field, `warmReset` and `losePower` are it with the plinth domain or the supply changed. -/
theorem resetsSettled : Obligations.Resets := by
  unfold Obligations.Resets Claim.PowerOnResetState Claim.WarmResetAndPowerLoss
  refine ⟨fun m s => ⟨s.powerOnReset m, rfl, fun k => rfl, fun c => rfl, rfl, rfl, fun i => BitVec.toNat_zero, fun p => rfl, rfl, rfl, rfl, rfl, rfl, rfl,
    fun n => rfl, rfl, rfl, rfl, rfl, rfl, rfl, rfl⟩, fun s => ⟨fun m => ⟨fun h => ?_, fun h => ?_⟩, fun h => ?_, fun h => ?_⟩⟩
  · exact congrArg Host.Outcome.next (State.warmReset_off h m)
  · exact ⟨s.powerOnReset m, _, rfl, congrArg Host.Outcome.next (State.warmReset_on h m), rfl, rfl, rfl⟩
  · exact congrArg Host.Outcome.next (if_pos (by simp [h]))
  · exact ⟨s.powerOnReset 0, rfl, congrArg Host.Outcome.next (if_neg (by simp [h]))⟩

/-! ### Loss of a clock -/

theorem forall_mem_map_snd {α : Type} {P : α → Prop} {f : α → α} (h : ∀ x, P (f x)) (l : Tab α) :
    ∀ p ∈ l.map (fun p => (p.1, f p.2)), P p.2 := by
  intro p hp
  obtain ⟨q, -, rfl⟩ := List.mem_map.1 hp
  exact h q.2

theorem State.hold_outputsIdle (s : State) (c : BitVec 8) : (s.hold c).outputsIdle :=
  ⟨rfl, forall_mem_map_snd (P := fun g : Target => g.presented = none) (f := fun g => { g with presented := none }) (fun _ => rfl) _,
    forall_mem_map_snd (P := fun m : MacPort => m.pauseReq = 0) (f := fun m => { m with pauseReq := 0 }) (fun _ => rfl) _,
    forall_mem_map_snd (P := fun l : Lane => l.trained = false) (f := fun l => { l with trained := false }) (fun _ => rfl) _⟩

theorem State.holdSilently_held (h : s.held = true) : s.holdSilently = s := if_pos h

theorem State.holdSilently_free (h : s.held = false) : s.holdSilently = s.hold 0 := if_neg (by simp [h])

/-- A member held silently: held, with memory and the ledger's input as they were; one that was not held takes FAIL_CODE 0x00, idle outputs
and the snapshot. -/
theorem State.holdSilently_spec (s : State) :
    s.holdSilently.held = true ∧ s.holdSilently.mem = s.mem ∧ s.holdSilently.ledger.input = s.ledger.input ∧
      s.holdSilently.power = s.power ∧ s.holdSilently.ledger.refLoss = s.ledger.refLoss ∧
      s.holdSilently.ledger.pllLoss = s.ledger.pllLoss ∧
      (s.held = false → s.holdSilently.outputsIdle ∧ s.holdSilently.boot.failCode = 0 ∧
        s.holdSilently.ledger.snapFirst = s.ledger.first ∧ s.holdSilently.ledger.snapEsc = s.ledger.esc ∧
        s.holdSilently.ledger.snapValid = true) := by
  cases h : s.held with
  | true =>
    rw [State.holdSilently_held h]
    exact ⟨h, rfl, rfl, rfl, rfl, rfl, nofun⟩
  | false =>
    rw [State.holdSilently_free h]
    exact ⟨rfl, rfl, rfl, rfl, rfl, rfl, fun _ => ⟨s.hold_outputsIdle 0, rfl, rfl, rfl, rfl⟩⟩

/-- The state in which REF_CLK is lost, before the member is held. -/
def State.refClkLost (s : State) : State :=
  { s with ledger := { s.ledger with refLoss := true }, power := { s.power with refAbsent := true } }

/-- The state in which the PLL has lost lock, before the member is held. -/
def State.lockLost (s : State) : State :=
  { s with ledger := { s.ledger with pllLoss := true }, power := { s.power with pllLock := false } }

/-- Settles O8: both losses hold the member silently; resets keep whether REF_CLK is absent, and the lock of the PLL ends it. -/
theorem clockLossHolds : Obligations.ClockLossHolds := by
  unfold Obligations.ClockLossHolds
  intro s hp
  refine ⟨?_, fun hlock href => ?_, fun h => ?_, fun m => ?_, fun m => ⟨s.powerOnReset m, rfl, rfl, rfl⟩, fun hh => ?_⟩
  · have hexec : exec .refClkLoss s = .next s.refClkLost.holdSilently := congrArg Host.Outcome.next (if_neg (by simp [hp]))
    obtain ⟨hheld, hmem, hinput, hpower, hloss, -, hidle⟩ := s.refClkLost.holdSilently_spec
    exact ⟨_, hexec, hheld, hloss, congrArg Power.refAbsent hpower, hmem, hinput, hidle, fun h => State.holdSilently_held h⟩
  · have hexec : exec .pllLoss s = .next s.lockLost.holdSilently := congrArg Host.Outcome.next (if_neg (by simp [hp, hlock, href]))
    obtain ⟨hheld, hmem, hinput, hpower, -, hloss, hidle⟩ := s.lockLost.holdSilently_spec
    exact ⟨_, hexec, hheld, hloss, congrArg Power.pllLock hpower, hmem, hinput, hidle⟩
  · exact congrArg Host.Outcome.next (if_pos (by rcases h with h | h <;> simp [h]))
  · exact ⟨_, congrArg Host.Outcome.next (State.warmReset_on hp m), rfl, rfl⟩
  · exact ⟨_, congrArg Host.Outcome.next (if_pos (by simp [hp, hh])), rfl, rfl, rfl⟩

end Sys2Proof.Machine
end

section
/-! SUPPORT. Register words (21, R7, R396, R470): what a write sets, ignores or clears, and what a read gives. -/

namespace Sys2Proof.Machine

variable {s : State} {o v en : Nat}

/-! ### Words with RW bits of their own -/

/-- The word at o stands alone, and writing it does nothing beside storing it. -/
structure StoredWord (s : State) (o : Nat) : Prop where
  aligned : o % 8 = 0
  window  : o < 0x8000 ∨ 0xB800 < o ∧ o < 0xC800 ∨ 0xCA00 ≤ o ∧ o < 0xD008 ∨ 0xD018 ≤ o ∧ o < 0x40000
  parts   : s.rwParts o = [(o / 8, rwMask o)]
  noAct   : ∀ (t : State) (v en : Nat), t.writeActions o v en = t

/-- The words of R236, R319, R435 and R467 whose time has a least value: offset, lowest bit of the time, least value. -/
def guardedWords : List (Nat × Nat × Nat) :=
  [(0x1008, 32, 125), (0x1010, 0, 125), (0x3008, 0, 125), (0xE810, 0, 1250), (0xE818, 0, 1250), (0xE848, 0, 1250)]

theorem ite_iff_congr {α : Type} {b c : Prop} [Decidable b] [Decidable c] (h : b ↔ c) (x y : α) :
    (if b then x else y) = if c then x else y := by
  by_cases hc : c
  · rw [if_pos hc, if_pos (h.mpr hc)]
  · rw [if_neg hc, if_neg (mt h.mp hc)]

theorem storedWord_plain (s : State) (h : o ∈ plainWords) : StoredWord s o := by
  unfold plainWords at h
  simp only [List.mem_cons, List.not_mem_nil, or_false] at h
  rcases h with rfl | rfl | rfl | rfl | rfl | rfl | rfl | rfl | rfl | rfl | rfl | rfl | rfl | rfl | rfl | rfl | rfl <;> exact ⟨by decide, by decide, rfl, fun _ _ _ => rfl⟩

theorem storedWord_guarded (s : State) {lo limit : Nat} (h : (o, lo, limit) ∈ guardedWords) : StoredWord s o := by
  unfold guardedWords at h
  simp only [List.mem_cons, Prod.mk.injEq, List.not_mem_nil, or_false] at h
  rcases h with ⟨rfl, rfl, rfl⟩ | ⟨rfl, rfl, rfl⟩ | ⟨rfl, rfl, rfl⟩ | ⟨rfl, rfl, rfl⟩ | ⟨rfl, rfl, rfl⟩ | ⟨rfl, rfl, rfl⟩ <;> exact ⟨by decide, by decide, rfl, fun _ _ _ => rfl⟩

theorem fieldRules_plain (h : o ∈ plainWords) : fieldRules o = [] := by
  unfold plainWords at h
  simp only [List.mem_cons, List.not_mem_nil, or_false] at h
  rcases h with rfl | rfl | rfl | rfl | rfl | rfl | rfl | rfl | rfl | rfl | rfl | rfl | rfl | rfl | rfl | rfl | rfl <;> rfl

theorem fieldRules_guarded {lo limit : Nat} (h : (o, lo, limit) ∈ guardedWords) : fieldRules o = [⟨lo, 32, fun v => limit ≤ v⟩] := by
  unfold guardedWords at h
  simp only [List.mem_cons, Prod.mk.injEq, List.not_mem_nil, or_false] at h
  rcases h with ⟨rfl, rfl, rfl⟩ | ⟨rfl, rfl, rfl⟩ | ⟨rfl, rfl, rfl⟩ | ⟨rfl, rfl, rfl⟩ | ⟨rfl, rfl, rfl⟩ | ⟨rfl, rfl, rfl⟩ <;> rfl

/-- The RW bits that a write covers. -/
def coveredMask (rw en : Nat) : Nat := (BitVec.ofNat 64 rw &&& BitVec.ofNat 64 en).toNat

/-- A write of such a word sets it, unless it covers no RW bit. -/
theorem StoredWord.writeWord_eq (h : StoredWord s o) (v en : Nat) :
    s.writeWord o v en = if coveredMask (rwMask o) en = 0 then s
      else s.setWord (o / 8) (BitVec.ofNat 64 (ruledWrite o (s.word (o / 8)).toNat v (coveredMask (rwMask o) en))) := by
  have hwindow := h.window
  rw [State.writeWord, h.parts, State.each_one, h.noAct, State.writePart]
  dsimp only
  rw [if_neg (show ¬ (0x8000 ≤ o ∧ o < 0xA000) by omega), if_neg (show ¬ o = 0xD008 by omega),
    if_neg (show ¬ (0xB000 ≤ o ∧ o < 0xB800) by omega)]
  rfl

/-- The state after a write of a word that stands alone: the word's bits are `f`, nothing else but the answer changes. -/
structure WordWritten (s t : State) (k : Nat) (f : Nat → Bool) : Prop where
  bits   : ∀ i, i < 64 → (t.word k).getLsbD i = f i
  others : ∀ j, j ≠ k → t.word j = s.word j
  rest   : t = { s with regs := t.regs }

theorem WordWritten.setWord (s : State) (k : Nat) (w : BitVec 64) : WordWritten s (s.setWord k w) k (fun i => w.getLsbD i) where
  bits i _ := by rw [State.word_setWord, if_pos rfl]
  others j hj := by rw [State.word_setWord, if_neg hj.symm]
  rest := rfl

theorem WordWritten.same (s : State) (k : Nat) : WordWritten s s k (fun i => (s.word k).getLsbD i) := ⟨fun _ _ => rfl, fun _ _ => rfl, rfl⟩

theorem WordWritten.congr {t : State} {k : Nat} {f g : Nat → Bool} (h : WordWritten s t k f) (hfg : ∀ i, i < 64 → f i = g i) :
    WordWritten s t k g := ⟨fun i hi => (h.bits i hi).trans (hfg i hi), h.others, h.rest⟩

/-- A word without rules takes the RW bits that the write covers. -/
theorem StoredWord.writeWord_noRules (h : StoredWord s o) (hrules : fieldRules o = []) (v en : Nat) :
    WordWritten s (s.writeWord o v en) (o / 8)
      (fun i => if bit (rwMask o) i && bit en i then bit v i else (s.word (o / 8)).getLsbD i) := by
  rw [h.writeWord_eq]
  split
  · next hzero =>
    refine (WordWritten.same s (o / 8)).congr fun i hi => ?_
    have hbit := bit_and_ofNat (rwMask o) en hi
    rw [show (BitVec.ofNat 64 (rwMask o) &&& BitVec.ofNat 64 en).toNat = 0 from hzero, show bit 0 i = false by simp [bit]] at hbit
    rw [← hbit]
    rfl
  · refine (WordWritten.setWord s (o / 8) _).congr fun i hi => ?_
    rw [← bit_getLsbD, bit_ofNat_toNat hi, ruledWrite, hrules, List.foldl_nil, bit_maskWrite _ _ _ hi, coveredMask, bit_and_ofNat _ _ hi,
      bit_getLsbD]

/-! ### Writes of 4 and 8 bytes -/

/-- The value and the bytes covered of a 4-byte or 8-byte write, as bits of the word. -/
theorem bit_half (v sh : Nat) {i : Nat} (h : sh ≤ i ∧ i < sh + 32) :
    bit (field v 0 32 * 2 ^ sh) i = bit v (i - sh) ∧ bit ((2 ^ 32 - 1) * 2 ^ sh) i = true := by
  have hi : i - sh < 32 := by omega
  refine ⟨?_, ?_⟩
  · rw [bit_eq_testBit, Nat.testBit_mul_two_pow, decide_eq_true h.1, Bool.true_and, ← bit_eq_testBit, bit_field_low v hi]
  · rw [bit_eq_testBit, Nat.testBit_mul_two_pow, decide_eq_true h.1, Bool.true_and, Nat.testBit_two_pow_sub_one, decide_eq_true hi]

theorem bit_half_outside {sh i : Nat} (h : ¬ (sh ≤ i ∧ i < sh + 32)) : bit ((2 ^ 32 - 1) * 2 ^ sh) i = false := by
  rw [bit_eq_testBit, Nat.testBit_mul_two_pow, Nat.testBit_two_pow_sub_one, ← Bool.decide_and, decide_eq_false_iff_not]
  omega

/-- A write of 4 or 8 bytes to a word that stands alone. -/
theorem StoredWord.portWrite_eq (h : StoredWord s o) (v : Nat) :
    s.portWrite o 3 v = (s.writeWord o (field v 0 64) (2 ^ 64 - 1)).ok ∧
      ∀ sh, sh = 0 ∨ sh = 32 → s.portWrite (o + sh / 8) 2 v = (s.writeWord o (field v 0 32 * 2 ^ sh) ((2 ^ 32 - 1) * 2 ^ sh)).ok := by
  have ha := h.aligned
  have hwindow := h.window
  refine ⟨?_, fun sh hsh => ?_⟩
  · rw [State.portWrite_reg s o 3 v (by omega) (by decide) (by decide) (by omega) (by omega) (by omega), State.writeReg,
      Nat.div_mul_cancel (Nat.dvd_of_mod_eq_zero ha)]
    rfl
  · have hword : (o + sh / 8) / 8 * 8 = o := by omega
    have hshift : (o + sh / 8) % 8 * 8 = sh := by omega
    rw [State.portWrite_reg s (o + sh / 8) 2 v (by omega) (by decide) (by decide) (by omega) (by omega) (by omega), State.writeReg, hword,
      hshift]
    rfl

theorem WordWritten.ok {t : State} {k : Nat} {f : Nat → Bool} (h : WordWritten s t k f) (n : Nat) (hport : s.port = { tag := n }) :
    (∀ i, i < 64 → (t.ok.word k).getLsbD i = f i) ∧ (∀ j, j ≠ k → t.ok.word j = s.word j) ∧
      t.ok = { s with regs := t.ok.regs, port := { tag := n } } := by
  refine ⟨h.bits, h.others, ?_⟩
  rw [h.rest, State.ok, State.answer, hport]
  rfl

/-- A register write that is served is a write of the window. -/
theorem exec_registerWrite {s₀ : State} (hs : s₀.servesNow) (w : PortWrite) :
    exec (.registerWrite w) s₀ = .next (s₀.newTag.portWrite w.off.toNat w.size.toNat w.data.toNat) := by
  rw [exec_serves hs _ rfl]
  rfl

theorem bit_whole {i : Nat} (hi : i < 64) : bit (2 ^ 64 - 1) i = true := by
  rw [bit_eq_testBit, Nat.testBit_two_pow_sub_one, decide_eq_true hi]

theorem bit_toNat {n : Nat} (x : BitVec n) (i : Nat) : bit x.toNat i = x.getLsbD i := bit_eq_testBit x.toNat i

theorem registerWrite : Claim.RegisterWrite := by
  unfold Claim.RegisterWrite
  intro s₀ w s hserves hplain hshape
  have hs₀ : s₀.servesNow := hserves
  have hword := storedWord_plain s hplain
  obtain ⟨hwrite8, hwrite4⟩ := hword.portWrite_eq w.data.toNat
  have hdiv : w.off.toNat / 8 * 8 / 8 = w.off.toNat / 8 := by omega
  have hwritten (v en : Nat) := (hword.writeWord_noRules (fieldRules_plain hplain) v en).ok s.port.tag rfl
  rw [hdiv] at hwritten
  have hrw {i : Nat} (hi : i < 64) : bit (rwMask (w.off.toNat / 8 * 8)) i = (BitVec.ofNat 64 (rwMask (w.off.toNat / 8 * 8))).getLsbD i := by
    rw [← bit_getLsbD, bit_ofNat_toNat hi]
  rcases hshape with ⟨hsize, ha⟩ | ⟨hsize, ha⟩
  · obtain ⟨hbits, hothers, hrest⟩ := hwritten (field w.data.toNat 0 64) (2 ^ 64 - 1)
    have hoff : w.off.toNat = w.off.toNat / 8 * 8 := by omega
    refine ⟨_, (exec_registerWrite hs₀ w).trans ?_, fun i hi => (hbits i hi).trans ?_, hothers, hrest⟩
    · rw [hsize]
      exact (congrArg (fun o => Host.Outcome.next (s.portWrite o 3 w.data.toNat)) hoff).trans (congrArg Host.Outcome.next hwrite8)
    · rw [hrw hi, bit_whole hi, bit_field_low _ hi, bit_toNat, hsize]
      simp [written]
  · have hsh : w.off.toNat % 8 * 8 = 0 ∨ w.off.toNat % 8 * 8 = 32 := by omega
    have hwrite := hwrite4 (w.off.toNat % 8 * 8) hsh
    rw [show w.off.toNat / 8 * 8 + w.off.toNat % 8 * 8 / 8 = w.off.toNat by omega] at hwrite
    obtain ⟨hbits, hothers, hrest⟩ := hwritten (field w.data.toNat 0 32 * 2 ^ (w.off.toNat % 8 * 8)) ((2 ^ 32 - 1) * 2 ^ (w.off.toNat % 8 * 8))
    refine ⟨_, (exec_registerWrite hs₀ w).trans ?_, fun i hi => (hbits i hi).trans ?_, hothers, hrest⟩
    · rw [hsize]
      exact congrArg Host.Outcome.next hwrite
    · rw [hrw hi, hsize]
      by_cases hin : w.off.toNat % 8 * 8 ≤ i ∧ i < w.off.toNat % 8 * 8 + 32
      · rw [(bit_half _ _ hin).1, (bit_half 0 _ hin).2, bit_toNat]
        simp [written, hin]
      · rw [bit_half_outside hin]
        simp [written, hin]

/-! ### Guarded writes (R236, R319, R467) -/

/-- A field with a least value: written below it, it keeps what it holds. -/
theorem bit_ruledWrite_least {lo limit : Nat} (hrules : fieldRules o = [⟨lo, 32, fun v => limit ≤ v⟩]) (old v : Nat) {mask : Nat}
    (h64 : lo + 32 ≤ 64) (hmask : ∀ i, lo ≤ i → i < lo + 32 → bit mask i = true) {i : Nat} (hi : i < 64) :
    bit (ruledWrite o old v mask) i =
      if bit mask i && !(decide (field v lo 32 < limit) && decide (lo ≤ i) && decide (i < lo + 32)) then bit v i else bit old i := by
  have hfield : field (maskWrite old v mask) lo 32 = field v lo 32 := field_maskWrite old v h64 hmask
  have hinside : bit (fieldsMask [(lo, 32)]) i = decide (lo ≤ i ∧ i < lo + 32) := by
    rw [fieldsMask, List.foldl_cons, List.foldl_nil, Nat.zero_add]
    by_cases h : lo ≤ i ∧ i < lo + 32
    · rw [(bit_half 0 lo h).2, decide_eq_true h]
    · rw [bit_half_outside h, decide_eq_false h]
  rw [ruledWrite, hrules, List.foldl_cons, List.foldl_nil]
  dsimp only
  rw [hfield]
  by_cases hlow : field v lo 32 < limit
  · rw [if_neg (by simpa using hlow), bit_maskWrite _ _ _ hi, hinside, bit_maskWrite _ _ _ hi]
    by_cases hin : lo ≤ i ∧ i < lo + 32
    · simp [hin, hlow]
    · have hout : ¬ (lo ≤ i ∧ i < lo + 32) := hin
      rw [decide_eq_false hout, Bool.and_assoc, ← Bool.decide_and, decide_eq_false hout]
      simp
  · rw [if_pos (by simpa using hlow), bit_maskWrite _ _ _ hi]
    simp [hlow]

theorem rwMask_guarded {lo limit : Nat} (h : (o, lo, limit) ∈ guardedWords) :
    lo + 32 ≤ 64 ∧ ∀ i < 32, bit (rwMask o) (lo + i) = true := by
  unfold guardedWords at h
  simp only [List.mem_cons, Prod.mk.injEq, List.not_mem_nil, or_false] at h
  rcases h with ⟨rfl, rfl, rfl⟩ | ⟨rfl, rfl, rfl⟩ | ⟨rfl, rfl, rfl⟩ | ⟨rfl, rfl, rfl⟩ | ⟨rfl, rfl, rfl⟩ | ⟨rfl, rfl, rfl⟩ <;> decide

theorem guardedWrites : Claim.GuardedWrites := by
  unfold Claim.GuardedWrites
  intro s₀ w lo limit s o hserves hsize hmem kept
  have hs₀ : s₀.servesNow := hserves
  have hguarded : (o, lo, limit) ∈ guardedWords := hmem
  have hword := storedWord_guarded s hguarded
  obtain ⟨h64, hrw⟩ := rwMask_guarded hguarded
  have hcovered {i : Nat} (hi : i < 64) : bit (coveredMask (rwMask o) (2 ^ 64 - 1)) i = bit (rwMask o) i := by
    rw [coveredMask, bit_and_ofNat _ _ hi, bit_whole hi, Bool.and_true]
  have hmask : ∀ i, lo ≤ i → i < lo + 32 → bit (coveredMask (rwMask o) (2 ^ 64 - 1)) i = true := fun i hlo hhi => by
    rw [hcovered (by omega), ← hrw (i - lo) (by omega), Nat.add_sub_cancel' hlo]
  have hne : coveredMask (rwMask o) (2 ^ 64 - 1) ≠ 0 := fun hzero => by
    have hlow := hmask lo (Nat.le_refl lo) (by omega)
    rw [hzero] at hlow
    simp [bit] at hlow
  have hwrite := hword.writeWord_eq (field w.data.toNat 0 64) (2 ^ 64 - 1)
  rw [if_neg hne] at hwrite
  have hvalue : field (field w.data.toNat 0 64) lo 32 = w.data.toNat / 2 ^ lo % 2 ^ 32 :=
    field_eq_of_bits fun i _ hhi => bit_field_low w.data.toNat (show i < 64 by omega)
  have hwritten := WordWritten.setWord s (o / 8)
    (BitVec.ofNat 64 (ruledWrite o (s.word (o / 8)).toNat (field w.data.toNat 0 64) (coveredMask (rwMask o) (2 ^ 64 - 1))))
  rw [← hwrite] at hwritten
  obtain ⟨hbits, hothers, hrest⟩ := hwritten.ok s.port.tag rfl
  refine ⟨_, (exec_registerWrite hs₀ w).trans ?_, fun i hi => (hbits i hi).trans ?_, hothers, hrest⟩
  · rw [hsize]
    exact congrArg Host.Outcome.next (hword.portWrite_eq w.data.toNat).1
  · rw [← bit_getLsbD, bit_ofNat_toNat hi, bit_ruledWrite_least (fieldRules_guarded hguarded) _ _ h64 hmask hi, hcovered hi, hvalue,
      bit_field_low _ hi, bit_toNat, bit_getLsbD, ← bit_getLsbD (BitVec.ofNat 64 (rwMask o)), bit_ofNat_toNat hi]

/-- Writes that no register takes (R396). -/
theorem unalignedWritesIgnored : Claim.UnalignedWritesIgnored := by
  unfold Claim.UnalignedWritesIgnored
  intro s₀ w s hserves hbad c hc
  have hs₀ : s₀.servesNow := hserves
  have hport : s.portWrite w.off.toNat w.size.toNat w.data.toNat = s.ok := if_pos hbad
  simp only [List.mem_cons, List.not_mem_nil, or_false] at hc
  rcases hc with rfl | rfl | rfl | rfl
  all_goals
    rw [exec_serves hs₀ _ rfl]
    exact congrArg Host.Outcome.next hport

/-! ### Words behind a selector (R268, R370) -/

/-- The word that a masked write leaves, as bit vectors. -/
theorem ofNat_maskWrite (old : BitVec 64) (x : BitVec 512) {v m : Nat}
    (hv : ∀ i, i < 64 → bit m i = true → bit v i = x.getLsbD i) :
    BitVec.ofNat 64 (maskWrite old.toNat v m) = (old &&& ~~~(BitVec.ofNat 64 m)) ||| (x.setWidth 64 &&& BitVec.ofNat 64 m) := by
  refine BitVec.eq_of_getLsbD_eq fun i hi => ?_
  rw [← bit_getLsbD, bit_ofNat_toNat hi, bit_maskWrite _ _ _ hi, bit_getLsbD]
  have hvi := hv i hi
  simp only [BitVec.getLsbD_or, BitVec.getLsbD_and, BitVec.getLsbD_not, BitVec.getLsbD_setWidth, BitVec.getLsbD_ofNat, hi, bit_eq_testBit,
    decide_true, Bool.true_and] at hvi ⊢
  cases hm : m.testBit i with
  | false => simp
  | true => simp [hvi hm]

theorem ofNat_coveredMask_whole (m : Nat) : BitVec.ofNat 64 (coveredMask m (2 ^ 64 - 1)) = BitVec.ofNat 64 m := by
  refine BitVec.eq_of_getLsbD_eq fun i hi => ?_
  rw [← bit_getLsbD, ← bit_getLsbD, bit_ofNat_toNat hi, bit_ofNat_toNat hi, coveredMask, bit_and_ofNat _ _ hi, bit_whole hi, Bool.and_true]

/-- The word at o has one RW part, of bits m, behind a selector; writing it does nothing beside storing it. -/
structure BankedWord (s : State) (o word m : Nat) : Prop where
  aligned : o % 8 = 0
  window  : 0x6800 ≤ o ∧ o < 0x7000 ∨ 0xC008 ≤ o ∧ o < 0xC800
  parts   : s.rwParts o = [(word, m)]
  rules   : fieldRules o = []
  noAct   : ∀ (t : State) (v en : Nat), t.writeActions o v en = t
  covered : coveredMask m (2 ^ 64 - 1) ≠ 0

theorem BankedWord.portWrite_eq {word m : Nat} (h : BankedWord s o word m) (v : BitVec 512) :
    s.portWrite o 3 v.toNat =
      (s.setWord word ((s.word word &&& ~~~(BitVec.ofNat 64 m)) ||| (v.setWidth 64 &&& BitVec.ofNat 64 m))).ok := by
  have ha := h.aligned
  have hwindow := h.window
  have hvalue := ofNat_maskWrite (m := coveredMask m (2 ^ 64 - 1)) (s.word word) v fun i hi _ =>
    (bit_field_low v.toNat hi).trans (bit_toNat v i)
  rw [ofNat_coveredMask_whole] at hvalue
  rw [State.portWrite_reg s o 3 _ (by omega) (by decide) (by decide) (by omega) (by omega) (by omega), State.writeReg,
    Nat.div_mul_cancel (Nat.dvd_of_mod_eq_zero ha), if_pos rfl, State.writeWord, h.parts, State.each_one, h.noAct, State.writePart, ← hvalue]
  dsimp only
  rw [if_neg (show ¬ (BitVec.ofNat 64 m &&& BitVec.ofNat 64 (2 ^ 64 - 1)).toNat = 0 from h.covered),
    if_neg (show ¬ (0x8000 ≤ o ∧ o < 0xA000) by omega), if_neg (show ¬ o = 0xD008 by omega),
    if_neg (show ¬ (0xB000 ≤ o ∧ o < 0xB800) by omega), ruledWrite, h.rules, List.foldl_nil]
  rfl

/-- The words of pools, classes and requesters that POOL_SEL, CLASS_SEL and REQ_SEL select (R370). -/
theorem bankedWord_pool {word : Nat} {mask : BitVec 64}
    (h : (o, word, mask) ∈ [(0xC010, bankWord (8 * s.poolSel) 0xC010, (0x1FFFFFFFF : BitVec 64)),
      (0xC018, bankWord (8 * s.poolSel + s.classSel) 0xC018, 0x1FFFFFFFFFFF),
      (0xC020, bankWord (8 * s.poolSel + s.classSel) 0xC020, 0x1FFF00001FFF),
      (0xC028, bankWord (8 * s.poolSel + s.classSel) 0xC028, 0x1FFF), (0xC030, bankWord (64 + s.reqSel) 0xC030, 0xFFFFFFFF)]) :
    ∃ m, BankedWord s o word m ∧ mask = BitVec.ofNat 64 m := by
  simp only [List.mem_cons, List.not_mem_nil, or_false, Prod.mk.injEq] at h
  rcases h with ⟨rfl, rfl, rfl⟩ | ⟨rfl, rfl, rfl⟩ | ⟨rfl, rfl, rfl⟩ | ⟨rfl, rfl, rfl⟩ | ⟨rfl, rfl, rfl⟩
  all_goals exact ⟨_, ⟨by decide, by decide, rfl, rfl, fun _ _ _ => rfl, by decide⟩, by decide⟩

/-- The staged entries of a group that GROUP_SEL selects (R268). -/
theorem bankedWord_entry (s : State) (ha : o % 8 = 0) (hlo : 0x6800 ≤ o) (hhi : o < 0x7000) :
    BankedWord s o (bankWord (groupBank s.groupSel) o) (fieldsMask [(0, 10), (16, 10), (32, 10), (48, 10)]) where
  aligned := ha
  window := .inl ⟨hlo, hhi⟩
  parts := by
    unfold State.rwParts
    dsimp only
    rw [if_neg (by omega), if_pos ⟨hlo, hhi⟩]
  rules := by
    unfold fieldRules
    iterate 5 rw [if_neg (by omega)]
  noAct t v en := by
    unfold State.writeActions
    dsimp only
    iterate 8 rw [if_neg (by omega)]
  covered := by decide

theorem bankedWrites : Claim.BankedWrites := by
  unfold Claim.BankedWrites
  intro s₀ w word mask s o pool cls hserves hsize h
  have hs₀ : s₀.servesNow := hserves
  obtain ⟨m, hword, hmask⟩ : ∃ m, BankedWord s o word m ∧ mask = BitVec.ofNat 64 m := by
    rcases h with h | ⟨hlo, hhi, ha, hword, hmask⟩
    · exact bankedWord_pool h
    · exact ⟨_, hword ▸ bankedWord_entry s ha hlo hhi, by rw [hmask]; decide⟩
  rw [exec_registerWrite hs₀, hmask, hsize]
  exact congrArg Host.Outcome.next (hword.portWrite_eq w.data)

/-! ### Bits that a write clears (R236, R380, R387) -/

/-- A word that no selector banks has the RW bits of `rwMask`. -/
theorem State.rwParts_own (s : State) (h : o < 0x6000 ∨ 0x7000 ≤ o ∧ o < 0xC008 ∨ 0xD010 ≤ o) :
    s.rwParts o = if rwMask o = 0 then [] else [(o / 8, rwMask o)] := by
  unfold State.rwParts
  dsimp only
  iterate 10 rw [if_neg (by omega)]

theorem State.portWrite_low (s : State) (ha : o % 8 = 0) (h : 0xB000 ≤ o ∧ o < 0xB800 ∨ 0xE000 ≤ o ∧ o < 0xE800) (v : Nat) :
    s.portWrite o 2 v = (s.writeWord o (field v 0 32) (2 ^ 32 - 1)).ok := by
  rw [State.portWrite_reg s o 2 v (by omega) (by decide) (by decide) (by omega) (by omega) (by omega), State.writeReg,
    Nat.div_mul_cancel (Nat.dvd_of_mod_eq_zero ha), if_neg (by decide), if_pos rfl]
  dsimp only
  rw [ha, Nat.zero_mul, Nat.pow_zero, Nat.mul_one, Nat.mul_one]

/-- A part of a target's or a program's word whose RW bits lie in its lower half. -/
theorem State.writePart_low (s : State) {m : Nat} (hm : coveredMask m (2 ^ 32 - 1) = m) (hne : m ≠ 0)
    (h : 0xB000 ≤ o ∧ o < 0xB800 ∨ 0xE000 ≤ o ∧ o < 0xE800) (v k : Nat) :
    s.writePart o v (2 ^ 32 - 1) (k, m) =
      let t := s.setWord k (BitVec.ofNat 64 (ruledWrite o (s.word k).toNat v m))
      if 0xB000 ≤ o ∧ o < 0xB800 then t.arbitrate ((o - 0xB000) / 0x80) else t := by
  unfold coveredMask at hm
  unfold State.writePart
  dsimp only
  rw [hm, if_neg hne, if_neg (by omega), if_neg (by omega)]

/-- GROUP_BITS takes 0 to 8 (R380). -/
theorem ruledWrite_groupBits (hrules : fieldRules o = [⟨0, 4, fun v => v ≤ 8⟩]) (old : BitVec 64) (v : BitVec 512) :
    BitVec.ofNat 64 (ruledWrite o old.toNat (field v.toNat 0 32) 0xF) =
      if v.toNat % 16 ≤ 8 then (old &&& ~~~(0xF : BitVec 64)) ||| (v.setWidth 64 &&& 0xF) else old := by
  have hlow : ∀ i, i < 64 → bit 0xF i = true → i < 4 := by decide
  have hmask : ∀ i, 0 ≤ i → i < 0 + 4 → bit 0xF i = true := fun i _ hi =>
    (by decide : ∀ i, i < 0 + 4 → bit 0xF i = true) i hi
  have hv : ∀ i, i < 64 → bit 0xF i = true → bit (field v.toNat 0 32) i = v.getLsbD i := fun i hi hb =>
    (bit_field_low v.toNat (show i < 32 by have := hlow i hi hb; omega)).trans (bit_toNat v i)
  have hfield : field (maskWrite old.toNat (field v.toNat 0 32) 0xF) 0 4 = v.toNat % 16 := by
    rw [field_maskWrite _ _ (by decide) hmask]
    unfold field
    omega
  rw [ruledWrite, hrules, List.foldl_cons, List.foldl_nil, hfield]
  dsimp only
  by_cases h : v.toNat % 16 ≤ 8
  · rw [if_pos (decide_eq_true h), if_pos h]
    exact ofNat_maskWrite old v hv
  · rw [if_neg (by simpa using h), if_neg h]
    refine BitVec.eq_of_getLsbD_eq fun i hi => ?_
    rw [← bit_getLsbD, bit_ofNat_toNat hi, bit_maskWrite _ _ _ hi, bit_maskWrite _ _ _ hi, ← bit_getLsbD]
    rw [show fieldsMask [(0, 4)] = 0xF by decide]
    cases bit 0xF i <;> simp

section
variable {n : Fin 16}

theorem fieldRules_groupBits (n : Fin 16) : fieldRules (0xB008 + 0x80 * n.val) = [⟨0, 4, fun v => v ≤ 8⟩] := by
  unfold fieldRules
  rw [if_neg (by omega), if_neg (by omega), if_neg (by omega), if_pos (by omega)]

theorem fieldRules_mode (n : Fin 16) : fieldRules (0xE040 + 0x80 * n.val) = [] := by
  unfold fieldRules
  iterate 5 rw [if_neg (by omega)]

theorem rwMask_target (h : 0xB000 ≤ o ∧ o < 0xB800) :
    rwMask o = if o % 0x80 = 0 then fieldsMask [(0, 64)] else if o % 0x80 = 8 then 0xF else 0 := by
  unfold rwMask
  rw [if_neg (by omega), if_neg (by omega), if_neg (by omega), if_pos h]

theorem rwMask_program (h : 0xE000 ≤ o ∧ o < 0xE800) :
    rwMask o = if o % 0x80 = 0 then addrMask else if o % 0x80 = 0x40 then 0xFF else 0 := by
  unfold rwMask
  iterate 4 rw [if_neg (by omega)]
  rw [if_pos h]

theorem State.writeWord_groupBits (s : State) (n : Fin 16) (v : BitVec 512) :
    s.writeWord (0xB008 + 0x80 * n.val) (field v.toNat 0 32) (2 ^ 32 - 1) =
      (s.setWord ((0xB008 + 0x80 * n.val) / 8) (if v.toNat % 16 ≤ 8
        then (s.word ((0xB008 + 0x80 * n.val) / 8) &&& ~~~(0xF : BitVec 64)) ||| (v.setWidth 64 &&& 0xF)
        else s.word ((0xB008 + 0x80 * n.val) / 8))).arbitrate n.val := by
  have hn := n.isLt
  have hact (t : State) (x e : Nat) : t.writeActions (0xB008 + 0x80 * n.val) x e = t := by
    unfold State.writeActions
    dsimp only
    rw [if_neg (by omega), if_neg (by omega), if_pos (by omega), if_neg (by omega), if_neg (by omega)]
  have hmask : rwMask (0xB008 + 0x80 * n.val) = 0xF := by
    rw [rwMask_target (by omega), if_neg (by omega), if_pos (by omega)]
  rw [State.writeWord, State.rwParts_own s (by omega), hmask, if_neg (by decide), State.each_one, hact,
    State.writePart_low s (by decide) (by decide) (by omega), ruledWrite_groupBits (fieldRules_groupBits n)]
  dsimp only
  rw [if_pos (by omega), show (0xB008 + 0x80 * n.val - 0xB000) / 0x80 = n.val by omega]

theorem State.writeWord_bankFull (s : State) (n : Fin 16) (v : BitVec 512) :
    s.writeWord (0xB020 + 0x80 * n.val) (field v.toNat 0 32) (2 ^ 32 - 1) =
      if v.getLsbD 8 then s.setTarget n.val { s.target n.val with bankFull := false } else s := by
  have hn := n.isLt
  have hmask : rwMask (0xB020 + 0x80 * n.val) = 0 := by
    rw [rwMask_target (by omega), if_neg (by omega), if_neg (by omega)]
  have hhit : (bit (field v.toNat 0 32) 8 && bit (2 ^ 32 - 1) 8) = v.getLsbD 8 := by
    rw [bit_field_low _ (by decide), bit_toNat, show bit (2 ^ 32 - 1) 8 = true by decide, Bool.and_true]
  rw [State.writeWord, State.rwParts_own s (by omega), hmask, if_pos rfl, State.each_nil]
  unfold State.writeActions
  dsimp only
  rw [if_neg (by omega), if_neg (by omega), if_pos (by omega), if_neg (by omega),
    show (0xB020 + 0x80 * n.val - 0xB000) / 0x80 = n.val by omega]
  exact ite_iff_congr (by rw [hhit]; exact and_iff_right (by omega)) _ _

theorem State.writeWord_mode (s : State) (n : Fin 16) (v : BitVec 512) :
    s.writeWord (0xE040 + 0x80 * n.val) (field v.toNat 0 32) (2 ^ 32 - 1) =
      let r := s.setWord ((0xE040 + 0x80 * n.val) / 8)
        ((s.word ((0xE040 + 0x80 * n.val) / 8) &&& ~~~(0xFF : BitVec 64)) ||| (v.setWidth 64 &&& 0xFF))
      if v.getLsbD 12 then r.setProg n { r.prog n with lowered := false } else r := by
  have hn := n.isLt
  have hmask : rwMask (0xE040 + 0x80 * n.val) = 0xFF := by
    rw [rwMask_program (by omega), if_neg (by omega), if_pos (by omega)]
  have hprog : Fin.ofNat 16 ((0xE040 + 0x80 * n.val - 0xE000) / 0x80) = n := by
    ext
    simp only [Fin.val_ofNat]
    omega
  have hhit : (bit (field v.toNat 0 32) 12 && bit (2 ^ 32 - 1) 12) = v.getLsbD 12 := by
    rw [bit_field_low _ (by decide), bit_toNat, show bit (2 ^ 32 - 1) 12 = true by decide, Bool.and_true]
  have hlow : ∀ i, i < 64 → bit 0xFF i = true → i < 8 := by decide
  have hword := ofNat_maskWrite (m := 0xFF) (v := field v.toNat 0 32) (s.word ((0xE040 + 0x80 * n.val) / 8)) v fun i hi hb =>
    (bit_field_low v.toNat (show i < 32 by have := hlow i hi hb; omega)).trans (bit_toNat v i)
  rw [State.writeWord, State.rwParts_own s (by omega), hmask, if_neg (by decide), State.each_one,
    State.writePart_low s (by decide) (by decide) (by omega), ruledWrite, fieldRules_mode, List.foldl_nil, hword]
  dsimp only
  rw [if_neg (by omega)]
  unfold State.writeActions
  dsimp only
  rw [hprog, if_neg (by omega), if_neg (by omega), if_neg (by omega), if_neg (by omega), if_neg (by omega), if_pos (by omega),
    if_neg (by omega)]
  exact ite_iff_congr (by rw [hhit]; exact and_iff_right (by omega)) _ _

end

theorem clearedBits : Claim.ClearedBits := by
  unfold Claim.ClearedBits
  intro s₀ n v s hserves bits mode
  have hs₀ : s₀.servesNow := hserves
  have hn := n.isLt
  have hexec (o : Nat) (ho : o % 8 = 0) (h : 0xB000 ≤ o ∧ o < 0xB800 ∨ 0xE000 ≤ o ∧ o < 0xE800) :
      exec (.registerWrite ⟨BitVec.ofNat 20 o, 2, v⟩) s₀ = .next (s.writeWord o (field v.toNat 0 32) (2 ^ 32 - 1)).ok := by
    rw [exec_registerWrite hs₀]
    dsimp only
    rw [BitVec.toNat_ofNat, Nat.mod_eq_of_lt (by omega)]
    exact congrArg Host.Outcome.next (s.portWrite_low ho h v.toNat)
  refine ⟨?_, ?_, ?_⟩
  · rw [hexec _ (by omega) (by omega), s.writeWord_groupBits n v]
  · rw [hexec _ (by omega) (by omega), s.writeWord_bankFull n v]
  · rw [hexec _ (by omega) (by omega), s.writeWord_mode n v]

end Sys2Proof.Machine
end

section
/-! SUPPORT. What a register reads (R396, R470): its RW bits beside its RO fields. -/
namespace Sys2Proof.Machine

theorem State.readReg_whole (s : State) {o : Nat} (h : o % 8 = 0) : s.readReg o 3 = s.rwWord o + s.roWord o := by
  unfold State.readReg
  rw [if_neg (by simpa using h), if_pos rfl, show o / 8 * 8 = o by omega, State.readWord]

theorem State.readReg_low (s : State) {o : Nat} (h : o % 8 = 0) : s.readReg o 2 = s.readReg o 3 % 2 ^ 32 := by
  have h4 : o % 2 ^ 2 = 0 := by omega
  have h8 : o % 2 ^ 3 = 0 := h
  simp only [State.readReg, h4, h8, h, field, ne_eq, not_true, if_false, Nat.reduceEqDiff, if_true, Nat.zero_mul, Nat.pow_zero, Nat.div_one]

theorem State.readReg_high (s : State) {o : Nat} (h : o % 8 = 0) : s.readReg (o + 4) 2 = s.readReg o 3 / 2 ^ 32 % 2 ^ 32 := by
  have h4 : (o + 4) % 2 ^ 2 = 0 := by omega
  have h8 : o % 2 ^ 3 = 0 := h
  have hword : (o + 4) / 8 * 8 = o / 8 * 8 := by omega
  have hbit : (o + 4) % 8 * 8 = 32 := by omega
  simp only [State.readReg, h4, h8, hword, hbit, field, ne_eq, not_true, if_false, Nat.reduceEqDiff, if_true]

theorem State.rwWord_none (s : State) {o : Nat} (h : s.rwParts o = []) : s.rwWord o = 0 := by
  rw [State.rwWord, h]
  rfl

theorem State.rwWord_own (s : State) {o : Nat} (h : s.rwParts o = [(o / 8, rwMask o)]) :
    s.rwWord o = (s.word (o / 8) &&& BitVec.ofNat 64 (rwMask o)).toNat := by
  simp [State.rwWord, h]

/-- A word without RW bits reads its RO fields. -/
theorem State.readReg_readOnly (s : State) {o : Nat} (h : o % 8 = 0) (hparts : s.rwParts o = []) : s.readReg o 3 = s.roWord o := by
  rw [s.readReg_whole h, s.rwWord_none hparts, Nat.zero_add]

theorem rwMask_counters {o : Nat} (h : 0x20020 ≤ o) : rwMask o = 0 := by
  have hfind : singleMasks.lookup o = none := by
    rw [List.lookup_eq_none_iff]
    intro p hp
    have hsmall : ∀ q ∈ singleMasks, q.1 < 0x20020 := by decide
    have := hsmall p hp
    exact bne_iff_ne.mpr fun he : o = p.1 => absurd h (by omega)
  unfold rwMask
  iterate 6 rw [if_neg (by omega)]
  rw [hfind]
  rfl

theorem State.rwParts_counters (s : State) {o : Nat} (h : 0x20020 ≤ o) : s.rwParts o = [] := by
  rw [s.rwParts_own (by omega), rwMask_counters h, if_pos rfl]

theorem LedgerRec.bytes_length (r : LedgerRec) : r.bytes.length = 32 := by
  simp only [LedgerRec.bytes, List.length_append, leBytes_length]

/-- The 32 bytes of a record that may be empty. -/
def recordBytes (r : Option LedgerRec) : List Byte := r.elim (List.replicate 32 0) LedgerRec.bytes

theorem recordBytes_length (r : Option LedgerRec) : (recordBytes r).length = 32 := by
  cases r with
  | none => rfl
  | some r => exact r.bytes_length

theorem recordWord_eq (a b : Option LedgerRec) (o : Nat) : recordWord a b o = le (recordBytes a ++ recordBytes b) o 8 := by
  cases a <;> cases b <;> rfl

theorem recordWord_first (a b : Option LedgerRec) {j : Nat} (h : j < 4) : recordWord a b (8 * j) = le (recordBytes a) (8 * j) 8 := by
  have ha := recordBytes_length a
  rw [recordWord_eq, le, le, List.drop_append_of_le_length (by omega),
    List.take_append_of_le_length (by rw [List.length_drop]; omega)]

theorem recordWord_second (a b : Option LedgerRec) (j : Nat) : recordWord a b (32 + 8 * j) = le (recordBytes b) (8 * j) 8 := by
  have ha := recordBytes_length a
  rw [recordWord_eq, le, le, List.drop_append, List.drop_eq_nil_of_le (by omega), List.nil_append, ha, Nat.add_sub_cancel_left]

theorem State.roWord_ledger (s : State) {o : Nat} (h : 0x20000 ≤ o ∧ o < 0x21000) : s.roWord o = s.ledgerWord o := by
  unfold State.roWord
  iterate 15 rw [if_neg (by omega)]
  rw [if_pos h]

theorem State.ledgerWord_record (s : State) {o : Nat} (h : 0x20020 ≤ o ∧ o < 0x20060) :
    s.ledgerWord o = recordWord s.ledger.first s.ledger.esc (o - 0x20020) := by
  unfold State.ledgerWord
  dsimp only
  rw [if_neg (by omega), if_neg (by omega), if_pos h]

theorem State.ledgerWord_counter (s : State) {o : Nat} (h : 0x20100 ≤ o) : s.ledgerWord o = s.ctr o % 2 ^ 64 := by
  unfold State.ledgerWord
  dsimp only
  iterate 5 rw [if_neg (by omega)]

/-- Bit i of a number that is a word plus a multiple of 2^k is the word's, below k. -/
theorem testBit_add_mul (a c : Nat) {k i : Nat} (h : i < k) : (a + 2 ^ k * c).testBit i = a.testBit i := by
  have hmod (n : Nat) : (n % 2 ^ k).testBit i = n.testBit i := by simp [h]
  rw [← hmod, Nat.add_mul_mod_self_left, hmod]

theorem pack_high (k : Nat) : ∀ l : List FieldVal, (∀ f ∈ l, k ≤ f.2.1) → 2 ^ k ∣ pack l := by
  have hfold : ∀ (l : List FieldVal) (n : Nat), 2 ^ k ∣ n → (∀ f ∈ l, k ≤ f.2.1) →
      2 ^ k ∣ l.foldl (fun n f => n + f.1 % 2 ^ f.2.2 * 2 ^ f.2.1) n := by
    intro l
    induction l with
    | nil => exact fun n hn _ => hn
    | cons f l ih =>
      intro n hn hl
      have hf : 2 ^ k ∣ f.1 % 2 ^ f.2.2 * 2 ^ f.2.1 := 
        Nat.dvd_trans (Nat.pow_dvd_pow 2 (hl f (List.mem_cons_self ..))) (Nat.dvd_mul_left _ _)
      exact ih _ (Nat.dvd_add hn hf) fun g hg => hl g (List.mem_cons_of_mem _ hg)
  exact fun l hl => hfold l 0 (Nat.dvd_zero _) hl

/-- A plain word has no RO fields, or has them above its RW bits. -/
theorem State.roWord_plain (s : State) {o : Nat} (ho : o ∈ plainWords) : s.roWord o = 0 ∨ rwMask o < 2 ^ 32 ∧ 2 ^ 32 ∣ s.roWord o := by
  simp only [plainWords, List.mem_cons, List.not_mem_nil, or_false] at ho
  by_cases hsource : o = 0xB808
  · subst hsource
    exact .inr ⟨by decide, pack_high 32 _ (by simp)⟩
  by_cases hfar : o = 0xD110
  · subst hfar
    exact .inr ⟨by decide, pack_high 32 _ (by simp)⟩
  · left
    rcases ho with rfl | rfl | rfl | rfl | rfl | rfl | rfl | h | rfl | rfl | rfl | rfl | h | rfl | rfl | rfl | rfl
    case inr.inr.inr.inr.inr.inr.inr.inl => exact absurd h hsource
    case inr.inr.inr.inr.inr.inr.inr.inr.inr.inr.inr.inr.inl => exact absurd h hfar
    all_goals rfl

theorem State.rwParts_plain (s : State) {o : Nat} (ho : o ∈ plainWords) : s.rwParts o = [(o / 8, rwMask o)] := by
  have hplace : ∀ p ∈ plainWords, (p < 0x6000 ∨ 0x7000 ≤ p ∧ p < 0xC008 ∨ 0xD010 ≤ p) ∨ p = 0xC000 ∨ p = 0xD000 := by decide
  have hmask : ∀ p ∈ plainWords, rwMask p ≠ 0 := by decide
  rcases hplace o ho with h | rfl | rfl
  · rw [s.rwParts_own h, if_neg (hmask o ho)]
  · rfl
  · rfl

theorem State.readReg_plain (s : State) {o i : Nat} (ho : o ∈ plainWords) (hi : (BitVec.ofNat 64 (rwMask o)).getLsbD i = true) :
    (s.readReg o 3).testBit i = (s.word (o / 8)).getLsbD i := by
  have haligned : ∀ p ∈ plainWords, p % 8 = 0 := by decide
  have hrw : (s.word (o / 8) &&& BitVec.ofNat 64 (rwMask o)).toNat.testBit i = (s.word (o / 8)).getLsbD i := by
    rw [BitVec.testBit_toNat, BitVec.getLsbD_and, hi, Bool.and_true]
  rw [s.readReg_whole (haligned o ho), s.rwWord_own (s.rwParts_plain ho)]
  rcases s.roWord_plain ho with h | ⟨hmask, c, hro⟩
  · rw [h, Nat.add_zero, hrw]
  · have hlow : i < 32 := by
      refine Nat.lt_of_not_le (fun hge => ?_)
      rw [BitVec.getLsbD_ofNat, Nat.testBit_lt_two_pow (Nat.lt_of_lt_of_le hmask (Nat.pow_le_pow_right (by decide) (by omega))), Bool.and_false] at hi
      cases hi
    rw [hro, testBit_add_mul _ _ hlow, hrw]

theorem registerReads : Claim.RegisterReads := by
  unfold Claim.RegisterReads
  intro s
  have hcounter (o : Nat) (hlo : 0x20100 ≤ o) (hhi : o < 0x21000) (h8 : o % 8 = 0) : s.readReg o 3 = s.ctr o % 2 ^ 64 := by
    rw [s.readReg_readOnly h8 (s.rwParts_counters (by omega)), s.roWord_ledger (by omega), s.ledgerWord_counter hlo]
  have hrecord (o : Nat) (hlo : 0x20020 ≤ o) (hhi : o < 0x20060) (h8 : o % 8 = 0) :
      s.readReg o 3 = recordWord s.ledger.first s.ledger.esc (o - 0x20020) := by
    rw [s.readReg_readOnly h8 (s.rwParts_counters (by omega)), s.roWord_ledger (by omega), s.ledgerWord_record ⟨hlo, hhi⟩]
  refine ⟨fun o h => ⟨s.readReg_low h, s.readReg_high h⟩, fun off size h => if_pos h, fun o i ho _ hi => s.readReg_plain ho hi,
    s.readReg_readOnly rfl rfl, s.readReg_readOnly rfl rfl, s.readReg_readOnly rfl rfl, s.readReg_readOnly rfl rfl,
    s.readReg_readOnly rfl rfl, s.readReg_readOnly rfl rfl, s.readReg_readOnly rfl rfl, fun j hj => ⟨?_, ?_⟩, hcounter⟩
  · rw [hrecord _ (by omega) (by omega) (by omega), show 0x20020 + 8 * j - 0x20020 = 8 * j by omega, recordWord_first _ _ hj]
    rfl
  · rw [hrecord _ (by omega) (by omega) (by omega), show 0x20040 + 8 * j - 0x20020 = 32 + 8 * j by omega, recordWord_second]
    rfl

/-- Settles O15: each claim from what a register write does to the word that holds the part, and what a read adds to it. -/
theorem registerWrites : Obligations.RegisterWrites :=
  ⟨registerWrite, unalignedWritesIgnored, guardedWrites, bankedWrites, clearedBits, registerReads⟩

end Sys2Proof.Machine
end

section
/-! SUPPORT. The instructions that a sequencer runs itself (R212, R216, R221 to R225, R228, R289, R372). -/
namespace Sys2Proof.Machine

variable {s : State} {q : Fin 16} {x : Sequencer}

theorem State.seqNop_issuing (h : s.issuing q x) : s.seqNop q.val = s.modSeq q.val (fun y => { y with pc := x.pc + 1 }) :=
  State.onSeq_issuing h _

theorem State.seqSlot_issuing (h : s.issuing q x) (offset step : Nat) :
    s.seqSlot q.val offset step = s.modSeq q.val (fun y => { y with
      slotAt := some (x.tOpen + offset + 16 * step * (x.loops.head?.map (·.i)).getD 0), pc := x.pc + 1 }) :=
  State.onSeq_issuing h _

theorem Sequencer.idle_iff (x : Sequencer) : x.idle = true ↔ ∀ i ∈ x.instrs, i.prog = .done := by
  simp [Sequencer.idle]

theorem Sequencer.not_idle_iff (x : Sequencer) : x.idle = false ↔ ∃ i ∈ x.instrs, i.prog ≠ .done := by
  simp [Sequencer.idle]

theorem State.seqWaitAll_issuing (h : s.issuing q x) :
    s.seqWaitAll q.val = if x.idle then s.modSeq q.val (fun y => { y with pc := x.pc + 1 }) else s :=
  State.onSeq_issuing h _

theorem State.seqWaitTime_issuing (h : s.issuing q x) (offset : Nat) :
    s.seqWaitTime q.val offset = (s.until (x.tOpen + offset)).modSeq q.val (fun y => { y with pc := x.pc + 1 }) :=
  State.onSeq_issuing h _

theorem State.seqWaitChunk_issuing (h : s.issuing q x) {ch n : Nat} (hn : chunkOf x ch = some n) :
    s.seqWaitChunk q.val ch =
      if (s.chunksOf x).any (· ≤ n) then (s.seqRaise x Code.shapeRange).goto q.val (if x.tail then x.pc + 1 else x.pc)
      else if s.bellIn x n then s.modSeq q.val (fun y => { y with pc := x.pc + 1, waited := n :: y.waited })
      else s := by
  rw [State.seqWaitChunk, State.onSeq_issuing h, hn]

theorem sequencerWaits : Claim.SequencerWaits := by
  unfold Claim.SequencerWaits
  intro s q x h
  refine ⟨?_, ?_, ?_, ?_, ?_, ?_⟩
  · exact congrArg (fun t : State => Host.Outcome.next t.close) (State.seqNop_issuing h)
  · intro offset step
    have hslot := State.seqSlot_issuing h offset.toNat step.toNat
    cases hl : x.loops <;> rw [hl] at hslot <;> exact congrArg (fun t : State => Host.Outcome.next t.close) hslot
  · intro hdone
    have hidle := (Sequencer.idle_iff x).mpr hdone
    exact congrArg (fun t : State => Host.Outcome.next t.close) ((State.seqWaitAll_issuing h).trans (if_pos hidle))
  · intro hopen
    have hidle := (Sequencer.not_idle_iff x).mpr hopen
    exact congrArg (fun t : State => Host.Outcome.next t.close) ((State.seqWaitAll_issuing h).trans (if_neg (by simp [hidle])))
  · intro offset
    exact ⟨_, congrArg (fun t : State => Host.Outcome.next t.close) (State.seqWaitTime_issuing h _), s.until_tb _, s.until_frame' _,
      s.until_mortar _⟩
  · intro ch n hn
    have hwait := State.seqWaitChunk_issuing h hn
    refine ⟨fun hbeyond htail => ?_, fun hbelow hbell => ?_, fun hbelow hbell => ?_⟩
    · rw [if_pos hbeyond, htail] at hwait
      rw [show exec (.waitChunk q ch) s = .next (s.seqWaitChunk q.val ch.toNat).close from rfl, hwait, State.seqRaise, htail]
      rfl
    · rw [hbelow, if_neg Bool.false_ne_true, if_pos hbell] at hwait
      exact congrArg (fun t : State => Host.Outcome.next t.close) hwait
    · rw [hbelow, if_neg Bool.false_ne_true, if_neg (by simp [hbell])] at hwait
      exact congrArg (fun t : State => Host.Outcome.next t.close) hwait

theorem State.seqLoop_issuing (h : s.issuing q x) {sh bound body n tag : Nat} (htail : x.tail = false) (hbound : bound ≠ 0)
    (hbody : body ≠ 0) (hdeep : x.loops.length < 4) (hread : s.readShape sh = .word n tag) :
    s.seqLoop q.val sh bound body =
      if n = 0 then s.goto q.val (x.pc + body + 2)
      else if bound < n then s.raise Code.loopLimit { unit := 16 }
      else s.modSeq q.val (fun y => { y with
        loops := { body := x.pc + 1, last := x.pc + body + 1, i := 0, n := n } :: x.loops, pc := x.pc + 1 }) := by
  rw [State.seqLoop, State.onSeq_issuing h, if_neg (by simp [htail, hbound, hbody, hdeep]), hread]

theorem State.seqLoop_tail (h : s.issuing q x) (sh bound body : Nat) (htail : x.tail = true) : s.seqLoop q.val sh bound body = s := by
  rw [State.seqLoop, State.onSeq_issuing h, if_pos (by simp [htail])]

theorem State.seqEndloop_issuing (h : s.issuing q x) {f : LoopFrame} {rest : List LoopFrame} (hloops : x.loops = f :: rest)
    (hlast : f.last = x.pc) :
    s.seqEndloop q.val =
      if f.i + 1 < f.n then s.modSeq q.val (fun y => { y with loops := { f with i := f.i + 1 } :: rest, pc := f.body })
      else s.modSeq q.val (fun y => { y with loops := rest, pc := x.pc + 1 }) := by
  rw [State.seqEndloop, State.onSeq_issuing h, hloops]
  exact if_neg (fun hne => hne hlast)

theorem BitVec.toNat_ne_zero_of_ne {w : Nat} {a : BitVec w} (h : a ≠ 0) : a.toNat ≠ 0 := fun h0 => h (BitVec.eq_of_toNat_eq h0)

theorem loops : Claim.Loops := by
  unfold Claim.Loops
  intro s q x h
  refine ⟨?_, ?_, ?_⟩
  · intro sh bound body n tag htail hbound hbody hdeep hread
    have hloop := State.seqLoop_issuing h htail (BitVec.toNat_ne_zero_of_ne hbound) (BitVec.toNat_ne_zero_of_ne hbody) hdeep hread
    refine ⟨fun h0 => ?_, fun hlo hhi => ?_, fun hover => ?_⟩
    · exact congrArg (fun t : State => Host.Outcome.next t.close) (hloop.trans (if_pos h0))
    · exact congrArg (fun t : State => Host.Outcome.next t.close)
        (hloop.trans ((if_neg (by omega)).trans (if_neg (by omega))))
    · exact congrArg (fun t : State => Host.Outcome.next t.close)
        (hloop.trans ((if_neg (by omega)).trans (if_pos hover)))
  · intro sh bound body htail
    exact congrArg (fun t : State => Host.Outcome.next t.close) (State.seqLoop_tail h _ _ _ htail)
  · intro f rest hloops hlast
    have hend := State.seqEndloop_issuing h hloops hlast
    exact ⟨fun hmore => congrArg (fun t : State => Host.Outcome.next t.close) (hend.trans (if_pos hmore)),
      fun hover => congrArg (fun t : State => Host.Outcome.next t.close) (hend.trans (if_neg (by omega)))⟩

/-- Settles O17: each instruction of the sequencer runs where it may issue. -/
theorem sequencerControl : Obligations.SequencerControl := ⟨sequencerWaits, loops⟩

theorem State.seqShape_issuing (h : s.issuing q x) {dst : Nat} (src : Nat) (f : Nat → Nat → Nat × Nat) (htail : x.tail = false)
    (hown : ownWord dst = false) (hin : field dst 0 20 < (s.prog x.prog).image.shapeWords) :
    s.seqShape q.val dst src f = match s.readShape src with
      | .wait => s
      | .stale w => s.staleShape w 16
      | .word v t =>
        ((s.writeShape x (field dst 0 20) (f v t).1 (f v t).2).modAtt
          (fun a => { a with shaped := a.shaped ++ [field dst 0 20] })).goto q.val (x.pc + 1) := by
  rw [State.seqShape, State.onSeq_issuing h]
  exact if_neg (by simp [htail, hown, hin])

/-- Settles O18: a shape word is written from the source word, once the attempt has written that. -/
theorem shapeInstructions : Obligations.ShapeInstructions := by
  unfold Obligations.ShapeInstructions
  intro s q x dst src h htail hown hin
  have hshape (f : Nat → Nat → Nat × Nat) := State.seqShape_issuing h src.toNat f htail hown hin
  refine ⟨fun v tag hread => ⟨?_, ?_⟩, fun hread => ⟨?_, ?_⟩⟩
  all_goals
    rw [hread] at hshape
    exact congrArg (fun t : State => Host.Outcome.next t.close) (hshape _)

theorem State.seqSignal_issuing (h : s.issuing q x) {n : Nat} (hlo : 0x20 ≤ n) (hhi : n < 0x200) :
    s.seqSignal q.val n = (s.fire n).modSeq q.val (fun y => { y with pc := x.pc + 1 }) := by
  rw [State.seqSignal, State.onSeq_issuing h]
  exact if_pos (by simp [sourceOk, hlo, hhi])

theorem State.seqHalt_issuing (h : s.issuing q x) (ends : Bool) (htail : x.tail = true) :
    s.seqHalt q.val ends =
      let r := s.modSeq q.val (fun y => { y with halted := true })
      if ends && !(s.endsProgram x) && (s.prog x.prog).state == .running then
        r.setProg x.prog { s.prog x.prog with state := if r.progOpen x.prog then .stopping else .stopped }
      else r := by
  rw [State.seqHalt, State.onSeq_issuing h]
  exact if_neg (by simp [htail])

theorem signalAndHalt : Claim.SignalAndHalt := by
  unfold Claim.SignalAndHalt
  intro s q x h
  refine ⟨fun n hlo hhi => ?_, fun htail => ?_, fun htail hends => ?_, fun htail hends hrun => ?_⟩
  · exact congrArg (fun t : State => Host.Outcome.next t.close) (State.seqSignal_issuing h hlo hhi)
  · exact congrArg (fun t : State => Host.Outcome.next t.close)
      ((State.seqHalt_issuing h false htail).trans (if_neg (by simp)))
  · exact congrArg (fun t : State => Host.Outcome.next t.close)
      ((State.seqHalt_issuing h true htail).trans (if_neg (by rcases hends with he | he <;> simp [he])))
  · exact congrArg (fun t : State => Host.Outcome.next t.close)
      ((State.seqHalt_issuing h true htail).trans (if_pos (by simp [hends, hrun])))

theorem State.seqSeal_issuing (h : s.issuing q x) {source : Nat} {fire : Bool} (htail : x.tail = false) (hloops : x.loops = [])
    (hsource : fire = true → sourceOk source = true) :
    s.seqSeal q.val source fire = if x.idle then
        let r := (s.startAt x x.pc x.slotAt).modSeq q.val (fun y => { y with
          sealing := true, fire := if fire then some source else none, slotAt := none, pc := x.pc + 1 })
        match x.vote with
        | none => r.arriveOwn .seal passVote
        | some c => (r.bump 0x215A0).arriveOwn .seal (failVote r.me c)
      else s := by
  have hfire : (fire && !(sourceOk source)) = false := by
    cases fire with
    | false => rfl
    | true => simp [hsource rfl]
  rw [State.seqSeal, State.onSeq_issuing h]
  cases hidle : x.idle with
  | false => exact if_pos (by simp)
  | true => exact if_neg (by simp [htail, hloops, hfire])

theorem sealArrives : Claim.SealArrives := by
  unfold Claim.SealArrives
  intro s q x source fire h htail hloops hsource
  have hseal := State.seqSeal_issuing h htail hloops hsource
  refine ⟨fun hopen => ?_, fun hdone => ?_⟩
  · have hidle := (Sequencer.not_idle_iff x).mpr hopen
    exact congrArg (fun t : State => Host.Outcome.next t.close) (hseal.trans (if_neg (by simp [hidle])))
  · have hidle := (Sequencer.idle_iff x).mpr hdone
    rw [if_pos hidle] at hseal
    refine ⟨fun hvote => ?_, fun code hvote => ?_⟩
    · rw [hvote] at hseal
      cases hslot : x.slotAt <;> rw [hslot] at hseal <;> exact congrArg (fun t : State => Host.Outcome.next t.close) hseal
    · rw [hvote] at hseal
      cases hslot : x.slotAt <;> rw [hslot] at hseal <;> exact congrArg (fun t : State => Host.Outcome.next t.close) hseal

/-- Settles O19: what SEAL, SIGNAL and HALT do where the sequencer may issue them. -/
theorem sealSignalAndHalt : Obligations.SealSignalAndHalt := ⟨sealArrives, signalAndHalt⟩

end Sys2Proof.Machine
end

section
/-! SUPPORT. The issue of instructions (R213 to R219). -/
namespace Sys2Proof.Machine

/-- The state with the class of the word at the sequencer's place declared, which a tail does not do. -/
def State.declaring (s : State) (q : Nat) (x : Sequencer) (w : Nat) : State :=
  if x.tail then s else s.modSeq q (fun y => { y with declared := max y.declared (classOfWord w) })

/-- What sequencer q does with the code word w at its place: its own instruction, or the issue to an engine. -/
def State.runWord (s : State) (q : Nat) (x : Sequencer) (w : Nat) : State :=
  match opOf w with
  | 0x00 => s.seqNop q
  | 0x01 => s.seqSlot q (field w 0 32) (field w 32 16)
  | 0x02 => match field w 0 4 with
    | 0 => s.seqWaitAll q
    | 1 => s.seqWaitTime q (field w 16 32)
    | 2 => s.seqWaitChunk q (field w 16 9)
    | _ => s
  | 0x03 => s.seqSeal q (field w 0 10) (bit w 10)
  | 0x08 => s.seqLoop q (field w 0 21) (field w 21 16) (field w 37 11)
  | 0x09 => s.seqEndloop q
  | 0x0A => match field w 42 2 with
    | 0 => s.seqShape q (field w 0 21) (field w 21 21) (fun v t => (v, t))
    | 1 => s.seqShape q (field w 0 21) (field w 21 21) (fun v _ => (ceilDiv v s.chunkTokens, 0x5101))
    | _ => s
  | 0x30 => s.seqSignal q (field w 0 10)
  | 0x31 => s.seqHalt q (bit w 0)
  | op => match engineOf op with
    | some e => s.issueEngine q x w e
    | none => s

variable {s : State} {q : Fin 16} {x : Sequencer} {w : Nat}

/-- Issuing runs the word at the sequencer's place. -/
theorem State.issue_issuing (h : s.issuing q x) (hcode : x.pc < (s.prog x.prog).image.codeWords)
    (hw : s.codeWord (s.prog x.prog).image x.pc = w) : s.issue q.val = (s.declaring q.val x w).runWord q.val x w := by
  subst hw
  rw [State.issue, State.onSeq_issuing h]
  exact if_neg (by omega)

theorem State.runWord_engine (s : State) (q : Nat) (x : Sequencer) {e : Engine} (he : engineOf (opOf w) = some e) :
    s.runWord q x w = s.issueEngine q x w e := by
  unfold State.runWord
  split
  case h_10 => rw [he]
  all_goals
    rename_i hop
    rw [hop] at he
    cases he

/-- The bits of a code word that an operand takes are that field. -/
theorem toNat_operand (w lo len : Nat) : (BitVec.ofNat len (w / 2 ^ lo)).toNat = field w lo len := BitVec.toNat_ofNat _ _

theorem toNat_lowOperand (w len : Nat) : (BitVec.ofNat len w).toNat = field w 0 len := by
  rw [BitVec.toNat_ofNat, field, Nat.pow_zero, Nat.div_one]

theorem issueRunsSequencerInstructions : Claim.IssueRunsSequencerInstructions := by
  unfold Claim.IssueRunsSequencerInstructions
  intro s q x w h hcode hw r
  have hissue : exec (.instructionIssue q) s = .next (r.runWord q.val x w).close :=
    congrArg (fun t : State => Host.Outcome.next t.close) (State.issue_issuing h hcode hw)
  rw [hissue]
  refine ⟨fun hop => ?_, fun hop => ?_, fun hop hf => ?_, fun hop hf => ?_, fun hop hf => ?_, fun hop => ?_, fun hop => ?_, fun hop => ?_,
    fun hop hf => ?_, fun hop hf => ?_, fun hop => ?_, fun hop => ?_⟩
  · rw [State.runWord, hop]
    rfl
  · rw [State.runWord, hop, ← toNat_lowOperand w 32, ← toNat_operand w 32 16]
    rfl
  · rw [State.runWord, hop]
    simp only [hf]
    rfl
  · rw [State.runWord, hop, ← toNat_operand w 16 32]
    simp only [hf]
    rfl
  · rw [State.runWord, hop, ← toNat_operand w 16 9]
    simp only [hf]
    rfl
  · rw [State.runWord, hop, ← toNat_lowOperand w 10]
    rfl
  · rw [State.runWord, hop, ← toNat_lowOperand w 21, ← toNat_operand w 21 16, ← toNat_operand w 37 11]
    rfl
  · rw [State.runWord, hop]
    rfl
  · rw [State.runWord, hop]
    simp only [hf]
    rw [← toNat_lowOperand w 21, ← toNat_operand w 21 21]
    rfl
  · rw [State.runWord, hop]
    simp only [hf]
    rw [← toNat_lowOperand w 21, ← toNat_operand w 21 21]
    rfl
  · rw [State.runWord, hop, ← toNat_lowOperand w 10]
    rfl
  · rw [State.runWord, hop]
    rfl

theorem State.issueEngine_full (s : State) (q : Nat) (x : Sequencer) (w : Nat) {e : Engine} (hfull : 256 ≤ s.queued e) :
    s.issueEngine q x w e = s := by
  unfold State.issueEngine
  exact if_pos (by simp [hfull])

section
variable (s : State) (q : Nat) {x : Sequencer} {w : Nat} {e : Engine} {c : Option Nat} (htail : x.tail = false)
  (hc : c = if hasChunk (opOf w) then chunkOf x (chRef w) else none) (hsome : hasChunk (opOf w) = true → c.isSome = true)
  (hroom : s.queued e < 256)
include htail hc hsome hroom

/-- Where the queue has room, the rules of R214, R215 and R219 decide. -/
theorem State.issueEngine_checked : s.issueEngine q x w e =
    if s.groupOk x w && s.classOk w && s.producersOk x.instrs (opOf w) c && s.statsOk x w then
      let r := ({ s with sched := { s.sched with issued := s.sched.issued + 1 } } : State).modSeq q (fun y => { y with
        instrs := y.instrs ++ [{ pc := x.pc, word := BitVec.ofNat 64 w, engine := e, chunk := c, planned := x.slotAt, prog := .waiting,
                                 order := s.sched.issued }]
        slotAt := none, pc := x.pc + 1, group := if exchanges (opOf w) then some (groupOf w) else y.group })
      if x.slotAt.isNone then { r with power := { r.power with ungated := (e :: r.power.ungated).eraseDups } } else r
    else (s.raise Code.illegalInstruction { unit := 16 }).modSeq q (fun y => { y with pc := x.pc }) := by
  have hchunk : (hasChunk (opOf w) && c.isNone) = false := by
    cases hop : hasChunk (opOf w) with
    | false => rfl
    | true => simpa using hsome hop
  subst hc
  have hopen : ¬(((hasChunk (opOf w) && (if hasChunk (opOf w) then chunkOf x (chRef w) else none).isNone) ||
      decide (256 ≤ s.queued e) || (x.tail && !(tailOp (opOf w)))) = true) := by
    rw [hchunk, htail, decide_eq_false (by omega)]
    exact Bool.false_ne_true
  refine (if_neg hopen).trans ?_
  by_cases hrule : (s.groupOk x w && s.classOk w &&
      s.producersOk x.instrs (opOf w) (if hasChunk (opOf w) then chunkOf x (chRef w) else none) && s.statsOk x w) = true
  · rw [if_pos hrule]
    exact if_neg (by simpa [and_assoc] using hrule)
  · rw [if_neg hrule]
    refine (if_pos (by simpa only [← Bool.not_and, Bool.not_eq_true', Bool.not_eq_true] using hrule)).trans ?_
    rw [State.seqRaise, htail]
    rfl

end

theorem instructionIssue : Claim.InstructionIssue := by
  unfold Claim.InstructionIssue
  intro s q x w e c h htail hcode hw he hc hsome r
  have hdeclared : s.declaring q.val x w = r := if_neg (by simp [htail])
  have hissue : s.issue q.val = r.issueEngine q.val x w e := by
    rw [State.issue_issuing h hcode hw, State.runWord_engine _ _ _ he, hdeclared]
  refine ⟨fun hfull => ?_, fun hroom hrule => ?_, fun hroom hrule => ?_⟩
  · exact congrArg (fun t : State => Host.Outcome.next t.close) (hissue.trans (State.issueEngine_full _ _ _ _ hfull))
  · have hqueued := (State.issueEngine_checked r q.val htail hc hsome hroom).trans (if_pos hrule)
    refine ⟨_, congrArg (fun t : State => Host.Outcome.next t.close) (hissue.trans hqueued), ?_⟩
    cases x.slotAt <;> rfl
  · exact congrArg (fun t : State => Host.Outcome.next t.close)
      (hissue.trans ((State.issueEngine_checked r q.val htail hc hsome hroom).trans (if_neg (by simp [hrule]))))

/-- Settles O20: the word at the sequencer's place is run, and an engine's instruction issued as the rules allow. -/
theorem issueOfInstructions : Obligations.IssueOfInstructions := ⟨instructionIssue, issueRunsSequencerInstructions⟩

end Sys2Proof.Machine
end

section
/-! SUPPORT. Acceptance at a vector port, and EOI (R382, R408). -/
namespace Sys2Proof.Machine

variable {s : State}

/-- What an acceptance counts: itself, a pre-emption, a saturated batch. -/
def State.countAcceptance (s : State) (g : Target) (b : Source) : State :=
  let s := s.bump 0x21798
  let s := if g.stack.isEmpty then s else s.bump 0x217A0
  if b.sat then s.bump 0x217B0 else s

theorem State.countAcceptance_frame (s : State) (g : Target) (b : Source) :
    s.countAcceptance g b = { s with counters := (s.countAcceptance g b).counters } := by
  unfold State.countAcceptance
  dsimp only
  split <;> split <;> rfl

theorem State.target_dropBatch (s : State) (n t : Nat) : (s.dropBatch n).target t = s.target t := rfl

theorem State.accept_presented {t n : Nat} (hreset : s.signals.vpReset = false) (hn : (s.target t).presented = some n) :
    s.accept t = (((s.countAcceptance (s.target t) (s.source n)).setTarget t { s.target t with
      stack := (n, s.srcGroup n) :: (s.target t).stack, presented := none,
      lastCount := (s.source n).count, lastSat := (s.source n).sat }).dropBatch n).arbitrate t := by
  have hgroup : (s.countAcceptance (s.target t) (s.source n)).srcGroup n = s.srcGroup n := by
    rw [State.countAcceptance_frame]
    rfl
  rw [← hgroup]
  unfold State.accept
  dsimp only
  rw [hreset, hn]
  rfl

theorem State.accept_none {t : Nat} (h : s.signals.vpReset = true ∨ (s.target t).presented = none) : s.accept t = s := by
  unfold State.accept
  dsimp only
  rcases h with h | h
  · rw [if_pos h]
  · rw [h]
    exact ite_self s

/-- The lower half of a target's word at 0x18 has no RW bits; its upper half takes EOI. -/
theorem State.write4_eoi (s : State) (t : Fin 16) (v : BitVec 32) :
    s.write4 (targetOff t + 0x1C) v = (s.endInterrupt t.val (v.toNat % 1024)).ok := by
  have ht := t.isLt
  have hmask : rwMask (targetOff t + 0x18) = 0 := by
    rw [rwMask_target (by unfold targetOff; omega), if_neg (by unfold targetOff; omega), if_neg (by unfold targetOff; omega)]
  have hsource : field (v.toNat * 2 ^ 32) 32 10 = v.toNat % 1024 := by
    exact congrArg (· % 1024) (Nat.mul_div_cancel v.toNat (Nat.two_pow_pos 32))
  rw [show targetOff t + 0x1C = targetOff t + 0x18 + 4 from rfl,
    State.write4_high s _ v (by unfold targetOff; omega) (by unfold targetOff; omega) (by unfold targetOff; omega) (by unfold targetOff; omega),
    State.writeWord, State.rwParts_own s (by unfold targetOff; omega), hmask, if_pos rfl, State.each_nil]
  unfold State.writeActions targetOff
  dsimp only
  rw [if_neg (by omega), if_neg (by omega), if_pos (by omega), if_pos ⟨by omega, by decide⟩, hsource,
    show (0xB000 + 0x80 * t.val + 0x18 - 0xB000) / 0x80 = t.val by omega]

theorem State.endInterrupt_top {t n : Nat} {top : Nat × Nat} {rest : List (Nat × Nat)} (hstack : (s.target t).stack = top :: rest) :
    s.endInterrupt t n =
      if top.1 = n then (s.setTarget t { s.target t with stack := rest }).arbitrate t else s.bump 0x217A8 := by
  unfold State.endInterrupt
  dsimp only
  rw [hstack]

theorem State.endInterrupt_empty {t n : Nat} (hstack : (s.target t).stack = []) : s.endInterrupt t n = s.bump 0x217A8 := by
  unfold State.endInterrupt
  dsimp only
  rw [hstack]

theorem exec_eoi (h : s.servesNow) (t : Fin 16) (v : BitVec 32) :
    exec (.eoi t v) s = .next (s.newTag.endInterrupt t.val (v.toNat % 1024)).ok := by
  rw [exec_serves h _ rfl]
  exact congrArg Host.Outcome.next (s.newTag.write4_eoi t v)

theorem vpAck_presented {t : Fin 16} {n : Nat} (hreset : s.signals.vpReset = false) (hn : (s.target t.val).presented = some n) :
    (s.accept t.val).source n = {} ∧ ((s.accept t.val).target t.val).stack = (n, s.srcGroup n) :: (s.target t.val).stack ∧
      ((s.accept t.val).target t.val).lastCount = (s.source n).count ∧ ((s.accept t.val).target t.val).lastSat = (s.source n).sat ∧
      (∀ m, m ≠ n → (s.accept t.val).source m = s.source m) ∧ (∀ k, k ≠ t.val → (s.accept t.val).target k = s.target k) ∧
      s.accept t.val = { s with signals := (s.accept t.val).signals, counters := (s.accept t.val).counters } := by
  rw [State.accept_presented hreset hn, State.countAcceptance_frame]
  refine ⟨?_, ?_, ?_, ?_, fun m hm => ?_, fun k hk => ?_, ?_⟩
  · rw [State.arbitrate_source, State.dropBatch, State.source_setSource, if_pos rfl]
  · rw [State.arbitrate_target, State.target_dropBatch, State.target_setTarget, if_pos rfl]
  · rw [State.arbitrate_target, State.target_dropBatch, State.target_setTarget, if_pos rfl]
  · rw [State.arbitrate_target, State.target_dropBatch, State.target_setTarget, if_pos rfl]
  · rw [State.arbitrate_source, State.dropBatch, State.source_setSource, if_neg hm.symm]
    rfl
  · rw [State.arbitrate_target_other _ hk]
    rw [State.target_dropBatch, State.target_setTarget, if_neg hk.symm]
    rfl
  · rw [State.arbitrate_signals]
    rfl

/-- Settles O29: VP_ACK accepts what is presented, EOI pops the stack that it names. -/
theorem acceptanceAndEoi : Obligations.AcceptanceAndEoi := by
  unfold Obligations.AcceptanceAndEoi
  intro s t
  refine ⟨fun n hpow hreset hn => ?_, fun hnone => ?_, fun v rest top hserves hstack => ⟨fun hhit => ?_, fun hmiss => ?_⟩,
    fun v hserves hempty => ?_⟩
  · exact ⟨_, congrArg Host.Outcome.next (if_pos hpow), vpAck_presented hreset hn⟩
  · exact congrArg Host.Outcome.next ((congrArg (fun r : State => if s.boot.powered then r else s) (State.accept_none hnone)).trans (ite_self s))
  · rw [exec_eoi hserves, State.endInterrupt_top (s := s.newTag) hstack, if_pos hhit]
    rfl
  · rw [exec_eoi hserves, State.endInterrupt_top (s := s.newTag) hstack, if_neg hmiss]
  · rw [exec_eoi hserves, State.endInterrupt_empty (s := s.newTag) hempty]

end Sys2Proof.Machine
end

section
/-! SUPPORT. A write of a source's configuration word (R375 to R377, R379, R387). -/
namespace Sys2Proof.Machine

variable {s : State} {n : Nat}

theorem field_target (v : Nat) : field v 0 4 = v % 16 := by
  exact congrArg (· % 16) (Nat.div_one v)

/-- The word that a write of a configuration word leaves: COAL_COUNT keeps its value when 0 is written (R387). -/
def State.coalKept (s : State) (n : Nat) (w : BitVec 64) : BitVec 64 :=
  if w.toNat / 2 ^ 16 % 2 ^ 12 = 0 then BitVec.ofNat 64 (w.toNat + (s.word (0x1000 + n)).toNat / 2 ^ 16 % 2 ^ 12 * 2 ^ 16) else w

/-- The word stored; an open batch of a source that stays enabled closes at COAL_COUNT; both targets arbitrate. -/
def State.storeSource (s : State) (n : Nat) (v : BitVec 64) (old : Nat) : State :=
  let r := s.setWord (0x1000 + n) v
  let r := if v.getLsbD 4 && (r.source n).isOpen && v.toNat / 2 ^ 16 % 2 ^ 12 ≤ (r.source n).count.toNat then r.closeBatch n else r
  (r.arbitrate old).arbitrate (v.toNat % 16)

theorem State.configureSource_eq (s : State) (n : Nat) (w : BitVec 64) :
    s.configureSource n w =
      let v := s.coalKept n w
      if s.srcEnable n && v.getLsbD 4 && s.srcTarget n ≠ v.toNat % 16 then s
      else if v.getLsbD 4 && (!(s.srcEnable n) || s.srcTarget n ≠ v.toNat % 16) && 64 ≤ (s.bank (v.toNat % 16)).length then
        s.setTarget (v.toNat % 16) { s.target (v.toNat % 16) with bankFull := true }
      else (if s.srcEnable n && !(v.getLsbD 4) then s.dropBatch n else s).storeSource n v (s.srcTarget n) := by
  rw [State.srcEnable_eq_bit, State.srcTarget_eq_field]
  unfold State.configureSource State.storeSource
  dsimp only
  have hkept : (if field w.toNat 16 12 = 0 then
      BitVec.ofNat 64 (w.toNat + field (s.word (0x8000 / 8 + n)).toNat 16 12 * 2 ^ 16) else w) = s.coalKept n w := rfl
  rw [hkept]
  simp only [field_target, bit_toNat]
  rfl

section
variable {w : BitVec 64}

theorem State.configureSource_retarget (he : s.srcEnable n = true) (hv : (s.coalKept n w).getLsbD 4 = true)
    (ht : (s.coalKept n w).toNat % 16 ≠ s.srcTarget n) : s.configureSource n w = s := by
  rw [State.configureSource_eq]
  exact if_pos (by simp [he, hv, ht.symm])

theorem State.configureSource_full (he : s.srcEnable n = false) (hv : (s.coalKept n w).getLsbD 4 = true)
    (hfull : 64 ≤ (s.bank ((s.coalKept n w).toNat % 16)).length) :
    s.configureSource n w = s.setTarget ((s.coalKept n w).toNat % 16)
      { s.target ((s.coalKept n w).toNat % 16) with bankFull := true } := by
  rw [State.configureSource_eq]
  exact (if_neg (by simp [he])).trans (if_pos (by simp [he, hv, hfull]))

theorem State.configureSource_new (he : s.srcEnable n = false)
    (hroom : (s.coalKept n w).getLsbD 4 = true → (s.bank ((s.coalKept n w).toNat % 16)).length < 64) :
    s.configureSource n w = s.storeSource n (s.coalKept n w) (s.srcTarget n) := by
  rw [State.configureSource_eq]
  refine (if_neg (by simp [he])).trans ((if_neg ?_).trans (congrArg (State.storeSource · _ _ _) (if_neg (by simp [he]))))
  cases hv : (s.coalKept n w).getLsbD 4 with
  | false => simp
  | true => simpa [he] using hroom hv

theorem State.configureSource_stays (he : s.srcEnable n = true) (hv : (s.coalKept n w).getLsbD 4 = true)
    (ht : (s.coalKept n w).toNat % 16 = s.srcTarget n) :
    s.configureSource n w = s.storeSource n (s.coalKept n w) (s.srcTarget n) := by
  rw [State.configureSource_eq]
  exact (if_neg (by simp [ht])).trans ((if_neg (by simp [he, ht])).trans (congrArg (State.storeSource · _ _ _) (if_neg (by simp [hv]))))

theorem State.configureSource_off (he : s.srcEnable n = true) (hv : (s.coalKept n w).getLsbD 4 = false) :
    s.configureSource n w = (s.dropBatch n).storeSource n (s.coalKept n w) (s.srcTarget n) := by
  rw [State.configureSource_eq]
  exact (if_neg (by rw [hv]; simp)).trans ((if_neg (by rw [hv]; simp)).trans (congrArg (State.storeSource · _ _ _) (if_pos (by rw [he, hv]; rfl))))

end

theorem State.source_setWord (s : State) (k : Nat) (v : BitVec 64) (n : Nat) : (s.setWord k v).source n = s.source n := rfl

theorem State.storeSource_plain (s : State) {v : BitVec 64} (old : Nat)
    (h : v.getLsbD 4 = false ∨ (s.source n).isOpen = false ∨ (s.source n).count.toNat < v.toNat / 2 ^ 16 % 2 ^ 12) :
    s.storeSource n v old = ((s.setWord (0x1000 + n) v).arbitrate old).arbitrate (v.toNat % 16) := by
  unfold State.storeSource
  dsimp only
  rw [if_neg]
  rw [State.source_setWord]
  rcases h with h | h | h
  · rw [h]
    simp
  · simp [h]
  · rw [decide_eq_false (by omega)]
    simp

theorem State.storeSource_closes (s : State) {v : BitVec 64} (old : Nat) (hv : v.getLsbD 4 = true) (hopen : (s.source n).isOpen = true)
    (hcount : v.toNat / 2 ^ 16 % 2 ^ 12 ≤ (s.source n).count.toNat) :
    s.storeSource n v old = (((s.setWord (0x1000 + n) v).setSource n { s.source n with isOpen := false, pending := true }).arbitrate old).arbitrate
      (v.toNat % 16) := by
  unfold State.storeSource
  dsimp only
  rw [if_pos (by rw [State.source_setWord, hv, hopen]; simpa using hcount)]
  rfl

/-! ### The word that a write of 8 bytes, or of 4 to either half, leaves -/

/-- Bits of the data that the write's bytes carry, at their place in the word. -/
theorem ofNat_sourceWord (old mask data : BitVec 64) (v en : Nat) (hmask : BitVec.ofNat 64 sourceMask &&& BitVec.ofNat 64 en = mask)
    (hv : ∀ i, i < 64 → mask.getLsbD i = true → bit v i = data.getLsbD i) :
    BitVec.ofNat 64 (maskWrite old.toNat v (BitVec.ofNat 64 sourceMask &&& BitVec.ofNat 64 en).toNat) =
      (old &&& ~~~mask) ||| (data &&& mask) := by
  have hwide : (data.setWidth 512).setWidth 64 = data := by simp
  have hword := ofNat_maskWrite (v := v) (m := mask.toNat) old (data.setWidth 512) fun i hi hm => by
    rw [hv i hi (by rwa [bit_toNat] at hm)]
    simp [hi, show i < 512 by omega]
  rw [hmask, hword, hwide, BitVec.ofNat_toNat, BitVec.setWidth_eq]

theorem State.writeWord_source (s : State) (v : Nat) {en : Nat} {mask : BitVec 64} (hn : n < 0x400)
    (hmask : BitVec.ofNat 64 sourceMask &&& BitVec.ofNat 64 en = mask) (hne : mask ≠ 0) :
    s.writeWord (0x8000 + 8 * n) v en = s.configureSource n (s.sourceWordWritten n v en) := by
  have hcover : (BitVec.ofNat 64 sourceMask &&& BitVec.ofNat 64 en).toNat ≠ 0 := by
    rw [hmask]
    exact BitVec.toNat_ne_zero_of_ne hne
  have hrules : fieldRules (0x8000 + 8 * n) = [] := by
    unfold fieldRules
    iterate 5 rw [if_neg (by omega)]
  rw [State.writeWord, State.rwParts_sourceWord s hn, State.each_one, State.writeActions_sourceWord _ v en hn, State.writePart]
  dsimp only
  rw [if_neg hcover, if_pos (by omega), ruledWrite, hrules, show (0x8000 + 8 * n - 0x8000) / 8 = n by omega]
  rfl

/-- The three writes of a configuration word, with the bits that they carry. -/
theorem State.portWrite_source (s : State) (w : PortWrite) {data mask : BitVec 64} (hn : n < 0x400)
    (hform : (w.size = 3 ∧ w.off.toNat = 0x8000 + 8 * n ∧ mask = 0xFFFFFFFF0FFFFF1F ∧ data = w.data.setWidth 64) ∨
      (w.size = 2 ∧ w.off.toNat = 0x8000 + 8 * n ∧ mask = 0x0FFFFF1F ∧ data = (w.data.setWidth 32).setWidth 64) ∨
      (w.size = 2 ∧ w.off.toNat = 0x8004 + 8 * n ∧ mask = 0xFFFFFFFF00000000 ∧ data = w.data.setWidth 64 <<< 32)) :
    s.portWrite w.off.toNat w.size.toNat w.data.toNat =
      (s.configureSource n ((s.word (0x1000 + n) &&& ~~~mask) ||| (data &&& mask))).ok := by
  rcases hform with ⟨hsize, hoff, rfl, rfl⟩ | ⟨hsize, hoff, rfl, rfl⟩ | ⟨hsize, hoff, rfl, rfl⟩
  · have hmask : BitVec.ofNat 64 sourceMask &&& BitVec.ofNat 64 (2 ^ 64 - 1) = 0xFFFFFFFF0FFFFF1F := by decide
    have hbits := ofNat_sourceWord (s.word (0x1000 + n)) _ (w.data.setWidth 64) (field w.data.toNat 0 64) _ hmask fun i hi _ => by
      rw [bit_field_low _ hi, bit_toNat]
      simp [hi]
    rw [← hbits, hsize, hoff]
    refine (State.portWrite_reg s _ 3 _ (by omega) (by decide) (by decide) (by omega) (by omega) (by omega)).trans (congrArg State.ok ?_)
    rw [State.writeReg, show (0x8000 + 8 * n) / 8 * 8 = 0x8000 + 8 * n by omega]
    exact State.writeWord_source s _ hn hmask (by decide)
  · have hmask : BitVec.ofNat 64 sourceMask &&& BitVec.ofNat 64 (2 ^ 32 - 1) = 0x0FFFFF1F := by decide
    have hbits := ofNat_sourceWord (s.word (0x1000 + n)) _ ((w.data.setWidth 32).setWidth 64) (field w.data.toNat 0 32) _ hmask
      fun i hi hm => by
        have hlow : ∀ i, i < 64 → (0x0FFFFF1F : BitVec 64).getLsbD i = true → i < 32 := by decide
        rw [bit_field_low _ (hlow i hi hm), bit_toNat]
        simp [hi, hlow i hi hm]
    rw [← hbits, hsize, hoff]
    refine (State.portWrite_reg s _ 2 _ (by omega) (by decide) (by decide) (by omega) (by omega) (by omega)).trans (congrArg State.ok ?_)
    rw [State.writeReg, show (0x8000 + 8 * n) / 8 * 8 = 0x8000 + 8 * n by omega]
    dsimp only
    rw [if_neg (by decide), if_pos rfl, show (0x8000 + 8 * n) % 8 * 8 = 0 by omega, Nat.pow_zero, Nat.mul_one, Nat.mul_one]
    exact State.writeWord_source s _ hn hmask (by decide)
  · have hmask : BitVec.ofNat 64 sourceMask &&& BitVec.ofNat 64 ((2 ^ 32 - 1) * 2 ^ 32) = 0xFFFFFFFF00000000 := by decide
    have hbits := ofNat_sourceWord (s.word (0x1000 + n)) _ (w.data.setWidth 64 <<< 32) (field w.data.toNat 0 32 * 2 ^ 32) _ hmask
      fun i hi hm => by
        have hhigh : ∀ i, i < 64 → (0xFFFFFFFF00000000 : BitVec 64).getLsbD i = true → 32 ≤ i := by decide
        have h32 := hhigh i hi hm
        rw [bit_eq_testBit, Nat.testBit_mul_two_pow, ← bit_eq_testBit, bit_field_low _ (by omega), bit_toNat]
        simp [hi, h32]
    rw [← hbits, hsize, hoff]
    refine (State.portWrite_reg s _ 2 _ (by omega) (by decide) (by decide) (by omega) (by omega) (by omega)).trans (congrArg State.ok ?_)
    rw [State.writeReg, show (0x8004 + 8 * n) / 8 * 8 = 0x8000 + 8 * n by omega]
    dsimp only
    rw [if_neg (by decide), if_pos rfl, show (0x8004 + 8 * n) % 8 * 8 = 32 by omega]
    exact State.writeWord_source s _ hn hmask (by decide)

/-- Settles O30: the written word is checked, stored and acted on, whichever bytes of it the write carries. -/
theorem sourceConfiguration : Obligations.SourceConfiguration := by
  unfold Obligations.SourceConfiguration
  intro s₀ n w data mask s hn hserves hform old written v target b
  have hs₀ : s₀.servesNow := hserves
  have hexec : exec (.sourceConfigWrite w) s₀ = .next (s.configureSource n written).ok := by
    rw [exec_serves hs₀ _ rfl]
    exact congrArg Host.Outcome.next (State.portWrite_source s w hn hform)
  have hstep {r : State} (h : s.configureSource n written = r) : exec (.sourceConfigWrite w) s₀ = .next r.ok := hexec.trans (h ▸ rfl)
  refine ⟨fun he hv ht => hstep ?_, fun he hv hfull => hstep ?_, fun he hroom hopen => hstep ?_,
    fun he hv ht => ⟨fun hcount => hstep ?_, fun hopen hcount => hstep ?_⟩, fun he hv => hstep ?_⟩
  · exact State.configureSource_retarget he hv ht
  · exact State.configureSource_full he hv hfull
  · exact (State.configureSource_new he hroom).trans (State.storeSource_plain _ _ (.inr (.inl hopen)))
  · refine (State.configureSource_stays he hv ht).trans ?_
    rw [← ht]
    exact State.storeSource_plain _ _ (.inr hcount)
  · refine (State.configureSource_stays he hv ht).trans ?_
    rw [← ht]
    exact State.storeSource_closes _ _ hv hopen hcount
  · exact (State.configureSource_off he hv).trans (State.storeSource_plain _ _ (.inl hv))

end Sys2Proof.Machine
end

section
/-! SUPPORT. The timeouts of an attempt (R90, R121, R149, R286). -/
namespace Sys2Proof.Machine

variable {s : State}

/-- A command that ends with what follows at once. -/
theorem closed_congr {t r : State} (h : t = r) : (Host.Outcome.next t.close : Result) = .next r.close := h ▸ rfl

/-- A timer of an awake block. -/
theorem closed_awake {t r : State} (ha : s.awake = true) (h : t = r) :
    (Host.Outcome.next (if s.awake then t else s).close : Result) = .next r.close :=
  closed_congr ((if_pos ha).trans h)

section
variable (ho : s.attemptOpen = true)
include ho

theorem State.exchangeTimer_missing {a : Nat} (hat : s.att.grantAt = some a) (hdone : s.att.grantDone = none)
    (hmiss : s.allHeld s.att.countsIn = false ∨ s.allHeld s.att.grantsIn = false) :
    s.exchangeTimer = s.exchangeExpired (a + s.grantBlock.timeout) 5 := by
  unfold State.exchangeTimer
  rw [hat]
  exact if_pos (by rcases hmiss with h | h <;> simp [ho, hdone, h])

omit ho in
theorem State.exchangeTimer_idle (h : s.att.grantAt = none ∨ s.att.grantDone.isSome = true) : s.exchangeTimer = s := by
  unfold State.exchangeTimer
  cases hat : s.att.grantAt with
  | none => rfl
  | some a =>
    have hdone : s.att.grantDone.isSome = true := h.resolve_left (by simp [hat])
    exact if_neg (by simp [Option.isNone_iff_eq_none, Option.ne_none_iff_isSome.mpr hdone])

theorem State.manifestTimer_missing {a : Nat} (hdone : s.att.grantDone = some a) (hmiss : s.allHeld s.att.manIn = false) :
    s.manifestTimer = s.exchangeExpired (a + s.grantBlock.timeout) 7 := by
  unfold State.manifestTimer
  rw [hdone]
  exact if_pos (by simp [ho, hmiss])

omit ho in
theorem State.manifestTimer_idle (h : s.att.grantDone = none ∨ s.allHeld s.att.manIn = true) : s.manifestTimer = s := by
  unfold State.manifestTimer
  cases hdone : s.att.grantDone with
  | none => rfl
  | some a => exact if_neg (by simp [h.resolve_left (by simp [hdone])])

theorem State.rowTimer_missing (hlaid : s.att.laidOut = true) (hmiss : ∃ x ∈ s.att.tiles, s.tileReady x = false) :
    s.rowTimer = s.exchangeExpired (s.sched.tEnd + s.grantBlock.timeout) 7 :=
  if_pos (by simpa [ho, hlaid] using hmiss)

omit ho in
theorem State.rowTimer_idle (h : ∀ x ∈ s.att.tiles, s.tileReady x = true) : s.rowTimer = s :=
  if_neg (by simpa using fun _ _ => h)

omit ho in
theorem State.tileTimer_cold (h : s.att.coldSlot < s.att.coldWon.length) : s.tileTimer = s :=
  if_neg (by simp [Nat.not_le_of_lt h])

theorem State.tileTimer_missing (hcold : s.att.coldWon.length ≤ s.att.coldSlot) (hmiss : ∃ n, n < s.att.entered ∧ n ∉ s.att.doneTiles) :
    s.tileTimer = s.exchangeExpired
      (max s.sched.tEnd (max (s.att.comb.coldDone.getD 0) (s.att.comb.lastDone.getD 0)) + s.tileTimeoutTb) 6 :=
  if_pos (by simpa [ho, hcold] using hmiss)

omit ho in
theorem State.tileTimer_idle (h : ∀ n, n < s.att.entered → n ∈ s.att.doneTiles) : s.tileTimer = s :=
  if_neg (by simpa using fun _ _ => h)

theorem State.sharedTimer_missing (hwant : s.combineBlock.shared ≠ 0) (hmiss : s.att.comb.shared = false) :
    s.sharedTimer = s.exchangeExpired (s.sched.tEnd + s.grantBlock.timeout) 8 :=
  if_pos (by simp [ho, hwant, hmiss])

omit ho in
theorem State.sharedTimer_idle (h : s.att.comb.shared = true) : s.sharedTimer = s := if_neg (by simp [h])

theorem State.collTimer_waits {op : Nat} {c : Coll} (hc : s.coll op = some c) (hw : c.awaits = true) :
    s.collTimer op = s.exchangeExpired (max c.started c.lastRx + c.record.timeout) 9 := by
  unfold State.collTimer
  rw [hc]
  exact if_pos (by simp [ho, hw])

omit ho in
theorem State.collTimer_idle {op : Nat} (h : ∀ c, s.coll op = some c → c.awaits = false) : s.collTimer op = s := by
  unfold State.collTimer
  cases hc : s.coll op with
  | none => rfl
  | some c => exact if_neg (by simp [h c hc])

end

/-- Settles O48: each timer by what it waits for, missing or in. -/
theorem attemptTimeouts : Obligations.AttemptTimeouts := by
  unfold Obligations.AttemptTimeouts
  intro s ha ho timeout
  refine ⟨?_, ?_, ?_, ?_, ?_, ?_, ?_, ?_, ?_, ?_, ?_, ?_, ?_⟩
  · exact fun a hat hdone hmiss => closed_awake ha (State.exchangeTimer_missing ho hat hdone hmiss)
  · exact fun h => closed_awake ha (State.exchangeTimer_idle h)
  · exact fun a hdone hmiss => closed_awake ha (State.manifestTimer_missing ho hdone hmiss)
  · exact fun h => closed_awake ha (State.manifestTimer_idle h)
  · exact fun hlaid hmiss => closed_awake ha (State.rowTimer_missing ho hlaid hmiss)
  · exact fun h => closed_awake ha (State.rowTimer_idle h)
  · exact fun h => closed_awake ha (State.tileTimer_cold h)
  · exact fun hcold hmiss => closed_awake ha (State.tileTimer_missing ho hcold hmiss)
  · exact fun h => closed_awake ha (State.tileTimer_idle h)
  · exact fun hwant hmiss => closed_awake ha (State.sharedTimer_missing ho hwant hmiss)
  · exact fun h => closed_awake ha (State.sharedTimer_idle h)
  · exact fun op c hc hw => closed_awake ha (State.collTimer_waits ho hc hw)
  · exact fun op h => closed_awake ha (State.collTimer_idle h)

end Sys2Proof.Machine
end

section
/-! SUPPORT. Sag, stretch and step of the core clock (R449 to R453). -/
namespace Sys2Proof.Machine

variable {s : State}

theorem State.awake_powered (h : s.awake = true) : s.boot.powered = true := by
  unfold State.awake at h
  simp only [Bool.and_eq_true] at h
  exact h.1.1

theorem State.sagBegins_new (ha : s.awake = true) (hsag : s.power.sag = false) :
    s.sagBegins =
      let r : State := { s with power := { s.power with sag := true, above := false, sagSince := s.tb, stretchFrom := s.tb } }
      if s.power.stepped then r else r.raiseOnce Code.droopStretch { unit := 0 } := by
  have hawake : ({ s with power := { s.power with sag := true, above := false, sagSince := s.tb, stretchFrom := s.tb } } : State).awake =
      true := ha
  unfold State.sagBegins
  rw [if_neg (by simp [State.awake_powered ha, hsag])]
  dsimp only
  unfold State.stretching
  rw [hawake]
  cases s.power.stepped <;> rfl

theorem State.sagBegins_going (hsag : s.power.sag = true) : s.sagBegins = s := if_pos (by simp [hsag])

theorem State.stretching_iff (ha : s.awake = true) : s.stretching = (s.power.sag && !s.power.stepped) := by
  rw [State.stretching, ha, Bool.and_true]

/-- When the height above the threshold is known, the time above begins, goes on or ends (R452). -/
theorem State.noteAbove_eq (s : State) (mv : Nat) :
    s.noteAbove mv = { s with power := { s.power with
      above := decide (s.reg 0x1008 8 8 < mv)
      recovered := if decide (s.reg 0x1008 8 8 < mv) = true ∧ s.power.above = false then s.tb else s.power.recovered } } := by
  unfold State.noteAbove
  by_cases hhigh : s.reg 0x1008 8 8 < mv
  · rw [if_pos hhigh, decide_eq_true hhigh]
    cases habove : s.power.above with
    | true =>
      rw [if_pos rfl, if_neg (by simp), ← habove]
    | false => rfl
  · rw [if_neg hhigh, decide_eq_false hhigh, if_neg (by simp)]

/-- The cycles of a stay are counted within the bounds of R451. -/
theorem State.countStay_counted (hs : s.stretching = true) :
    ∃ n, (stretchedIn (s.tb - s.power.stretchFrom)).1 ≤ n ∧ n ≤ (stretchedIn (s.tb - s.power.stretchFrom)).2 ∧
      s.countStay = { (s.bump 0x21800 n) with freeCtr := s.freeCtr + 1, power := { s.power with stretchFrom := s.tb } } := by
  generalize hr : stretchedIn (s.tb - s.power.stretchFrom) = r
  have hle : r.1 ≤ r.2 := by
    rw [← hr, stretchedIn]
    dsimp only
    omega
  refine ⟨r.1 + Config.stretchedCycles s.freeCtr % (r.2 - r.1 + 1), by omega, ?_, ?_⟩
  · have := Nat.mod_lt (Config.stretchedCycles s.freeCtr) (show 0 < r.2 - r.1 + 1 by omega)
    omega
  · rw [← hr]
    exact if_pos hs

theorem State.countStay_none (hs : s.stretching = false) : s.countStay = s := if_neg (by simp [hs])

/-! ### A raise leaves the timebase -/

theorem State.offer_cal (s : State) (r : LedgerRec) : (s.offer r).mortar.cal = s.mortar.cal := by
  unfold State.offer
  dsimp only
  split
  · rfl
  · split <;> rfl

theorem State.note_cal (s : State) (c : BitVec 8) (w : Where) : (s.note c w).mortar.cal = s.mortar.cal := by
  unfold State.note
  dsimp only
  split
  · rw [State.fire_mortar, State.offer_cal]
  · rw [State.offer_cal]

theorem State.raise_cal (s : State) (c : BitVec 8) (w : Where) : (s.raise c w).mortar.cal = s.mortar.cal := by
  unfold State.raise
  dsimp only
  split
  · split <;> exact State.note_cal _ _ _
  · split
    · unfold State.modOpen
      split <;> exact State.note_cal _ _ _
    · exact State.note_cal _ _ _

theorem State.mark_eq (s : State) (m : Nat) : s.mark m = { s with marks := (s.mark m).marks } := by
  unfold State.mark
  split <;> rfl

/-- What a code raised once leaves: power, registers, memory, the timebase, and the counters above the signal unit's. -/
theorem State.raiseOnce_leaves (s : State) (c : BitVec 8) (w : Where) :
    (s.raiseOnce c w).power = s.power ∧ (s.raiseOnce c w).regs = s.regs ∧ (s.raiseOnce c w).mem = s.mem ∧ (s.raiseOnce c w).tb = s.tb ∧
      ∀ k, 0x21790 < k → (s.raiseOnce c w).ctr k = s.ctr k := by
  unfold State.raiseOnce
  split
  · exact ⟨rfl, rfl, rfl, rfl, fun _ _ => rfl⟩
  · have hmark := s.mark_eq c.toNat
    refine ⟨?_, ?_, ?_, ?_, fun k hk => ?_⟩
    · rw [State.raise_power, hmark]
    · rw [State.raise_regs, hmark]
    · rw [State.raise_rest, hmark]
    · rw [State.tb, State.raise_cal, hmark]
      rfl
    · rw [State.raise_ctr _ _ _ _ hk, hmark]
      rfl

theorem stretchedShare : Claim.StretchedShare := by
  intro n hn r
  simp only [r, stretchedIn]
  omega

/-- The clock at 450 MHz, the step counted. -/
def State.slowed (s : State) : State := ({ s with power := { s.power with stepped := true } } : State).bump 0x21808

theorem State.slowed_ctr (s : State) (k : Nat) : s.slowed.ctr k = if 0x21808 = k then s.ctr 0x21808 + 1 else s.ctr k :=
  State.ctr_bump _ _ _ _

theorem State.stepDown_steps (hs : s.stretching = true) (hen : s.reg 0x1004 2 1 ≠ 0) :
    s.stepDown = ((s.until (s.power.sagSince + s.reg 0x100C 0 32)).countStay.slowed).noteDroop :=
  if_neg (by simp [hs, hen])

theorem State.until_stretching (s : State) (t : Nat) : (s.until t).stretching = s.stretching := by
  rw [State.until_frame]
  rfl

theorem State.until_ctr_stretched (s : State) (t : Nat) {k : Nat} (hk : k < 0x21810) : (s.until t).ctr k = s.ctr k := by
  unfold State.until State.pass
  dsimp only
  split
  · split
    · split
      · exact (State.ctr_bump _ _ _ _).trans (if_neg (by omega))
      · rfl
    · exact (State.ctr_bump _ _ _ _).trans (if_neg (by omega))
    · exact (State.ctr_bump _ _ _ _).trans (if_neg (by omega))
  · rfl

/-- The end of a stay: the count of stretched cycles rises within its bounds, nothing else that the step shows changes. -/
theorem State.countStay_leaves (hs : s.stretching = true) :
    s.countStay.regs = s.regs ∧ s.countStay.mem = s.mem ∧ s.countStay.tb = s.tb ∧
      (∀ k, k ≠ 0x21800 → s.countStay.ctr k = s.ctr k) ∧
      s.ctr 0x21800 + (stretchedIn (s.tb - s.power.stretchFrom)).1 ≤ s.countStay.ctr 0x21800 ∧
      s.countStay.ctr 0x21800 ≤ s.ctr 0x21800 + (stretchedIn (s.tb - s.power.stretchFrom)).2 := by
  obtain ⟨n, hlo, hhi, hcount⟩ := State.countStay_counted hs
  have hctr (k : Nat) : s.countStay.ctr k = if 0x21800 = k then s.ctr 0x21800 + n else s.ctr k := by
    rw [hcount]
    exact State.ctr_bump _ _ _ _
  refine ⟨?_, ?_, ?_, fun k hk => ?_, ?_, ?_⟩
  · rw [hcount]
    rfl
  · rw [hcount]
    rfl
  · rw [hcount]
    rfl
  · rw [hctr, if_neg hk.symm]
  · rw [hctr, if_pos rfl]
    omega
  · rw [hctr, if_pos rfl]
    omega

theorem State.stepDown_effect (ha : s.awake = true) (hsag : s.power.sag = true) (hst : s.power.stepped = false)
    (hen : s.reg 0x1004 2 1 ≠ 0) :
    let t := s.stepDown
    t.power.stepped = true ∧ max s.tb (s.power.sagSince + s.reg 0x100C 0 32) = t.tb ∧ t.regs = s.regs ∧ t.mem = s.mem ∧
      t.ctr 0x21808 = s.ctr 0x21808 + 1 ∧ s.ctr 0x21800 + (stretchedIn (t.tb - s.power.stretchFrom)).1 ≤ t.ctr 0x21800 ∧
      t.ctr 0x21800 ≤ s.ctr 0x21800 + (stretchedIn (t.tb - s.power.stretchFrom)).2 := by
  have hstretch : s.stretching = true := by rw [State.stretching_iff ha, hsag, hst]; rfl
  dsimp only
  rw [State.stepDown_steps hstretch hen]
  generalize hu : s.until (s.power.sagSince + s.reg 0x100C 0 32) = u
  have htb : u.tb = max s.tb (s.power.sagSince + s.reg 0x100C 0 32) := by rw [← hu, State.until_tb]
  have hpower : u.power = s.power := by rw [← hu, State.until_power]
  have hregs : u.regs = s.regs := by rw [← hu, State.until_regs]
  have hmem : u.mem = s.mem := by rw [← hu, State.until_frame]
  have hctr (k : Nat) (hk : k < 0x21810) : u.ctr k = s.ctr k := by rw [← hu, State.until_ctr_stretched s _ hk]
  obtain ⟨cregs, cmem, ctb, cctr, clo, chi⟩ := State.countStay_leaves (s := u) (by rw [← hu, State.until_stretching, hstretch])
  rw [hpower, hctr _ (by decide)] at clo chi
  obtain ⟨rpower, rregs, rmem, rtb, rctr⟩ := State.raiseOnce_leaves u.countStay.slowed Code.droopStretch { unit := 0 }
  have dtb : u.countStay.slowed.noteDroop.tb = u.tb := rtb.trans ctb
  have dcount : u.countStay.slowed.noteDroop.ctr 0x21800 = u.countStay.ctr 0x21800 :=
    (rctr _ (by decide)).trans ((State.slowed_ctr _ _).trans (if_neg (by decide)))
  rw [dtb, dcount]
  refine ⟨?_, htb.symm, ?_, ?_, ?_, clo, chi⟩
  · exact congrArg Power.stepped rpower
  · exact rregs.trans (cregs.trans hregs)
  · exact rmem.trans (cmem.trans hmem)
  · refine (rctr _ (by decide)).trans ?_
    rw [State.slowed_ctr, if_pos rfl, cctr _ (by decide), hctr _ (by decide)]

theorem State.stepDown_not (ha : s.awake = true) (h : s.power.sag = false ∨ s.power.stepped = true ∨ s.reg 0x1004 2 1 = 0) :
    s.stepDown = s := by
  refine if_pos ?_
  rw [State.stretching_iff ha]
  rcases h with h | h | h <;> simp [h]

theorem State.stepUp_steps (ha : s.awake = true) (habove : s.power.above = true) (hst : s.power.stepped = true) :
    s.stepUp = { s.until (s.power.recovered + s.reg 0x1010 0 32) with
      power := { (s.until (s.power.recovered + s.reg 0x1010 0 32)).power with stepped := false } } :=
  if_neg (by simp [ha, habove, hst])

theorem State.sagEnds_eq (ha : s.awake = true) (mv : Nat) :
    s.sagEnds mv = ({ s.countStay with power := { s.countStay.power with sag := false } } : State).noteAbove mv :=
  if_neg (by simp [State.awake_powered ha])

theorem sagAndStep : Claim.SagAndStep := by
  unfold Claim.SagAndStep
  intro s ha
  refine ⟨fun hsag => ?_, fun hsag => ?_, fun mv => ⟨fun hquiet => ?_, fun hsag hst => ?_⟩, fun hsag hst hen => ?_, fun hnot => ?_,
    fun habove hst => ?_, fun hnot => ?_⟩
  · exact congrArg Host.Outcome.next (State.sagBegins_new ha hsag)
  · exact congrArg Host.Outcome.next (State.sagBegins_going hsag)
  · have hstretch : s.stretching = false := by
      rw [State.stretching_iff ha]
      rcases hquiet with h | h <;> simp [h]
    refine congrArg Host.Outcome.next ((State.sagEnds_eq ha _).trans ?_)
    rw [State.countStay_none hstretch, State.noteAbove_eq]
    rfl
  · have hstretch : s.stretching = true := by rw [State.stretching_iff ha, hsag, hst]; rfl
    obtain ⟨n, hlo, hhi, hcount⟩ := State.countStay_counted hstretch
    have hends := State.sagEnds_eq ha mv.toNat
    rw [hcount, State.noteAbove_eq] at hends
    refine ⟨_, n, congrArg Host.Outcome.next hends, hlo, hhi, ?_, fun c hc => ?_, rfl, rfl⟩
    · exact (State.ctr_bump s 0x21800 n _).trans (if_pos rfl)
    · exact (State.ctr_bump s 0x21800 n _).trans (if_neg hc.symm)
  · exact ⟨_, rfl, State.stepDown_effect ha hsag hst hen⟩
  · exact congrArg Host.Outcome.next (State.stepDown_not ha hnot)
  · refine ⟨_, congrArg Host.Outcome.next (State.stepUp_steps ha habove hst), ?_, ?_, ?_⟩
    · dsimp only
      rw [State.until_power]
    · exact s.until_tb _
    · dsimp only
      rw [State.until_power]
      exact s.until_withPower _ _
  · exact congrArg Host.Outcome.next (if_pos (by rcases hnot with h | h <;> simp [h]))

/-- Settles O58: a sag's begin and end, the step down and back, and the share of cycles stretched. -/
theorem sagAndClockStep : Obligations.SagAndClockStep := ⟨sagAndStep, stretchedShare⟩

end Sys2Proof.Machine
end

section
/-! SUPPORT. HP_RST_N and VP_RST_N (R408, R413). -/
namespace Sys2Proof.Machine

variable {s : State}

theorem State.hostReset_poolWindow (s : State) (c : Fin 16) :
    s.hostReset.poolWindow c = { s.poolWindow c with held := [], stalled := [] } :=
  Tab.get_map (fun _ => ({} : PoolWindow)) (fun w => { w with held := [], stalled := [] }) (fun _ => rfl) s.storage.windows c.val

theorem State.hostReset_push (s : State) (c : Nat) : s.hostReset.push c = { s.push c with held := [] } :=
  Tab.get_map (fun _ => ({} : PushWindow)) (fun w => { w with held := [] }) (fun _ => rfl) s.storage.pushes c

theorem State.hostReset_layoutWindow (s : State) (c : Fin 16) : s.hostReset.layoutWindow c = { s.layoutWindow c with stalled := [] } :=
  Tab.get_map (fun _ => ({} : LayoutWindow)) (fun w => { w with stalled := [] }) (fun _ => rfl) s.layout.windows c.val

theorem State.hostReset_queue (s : State) (q : Nat) : s.hostReset.queue q = { s.queue q with stalls := [] } :=
  Tab.get_map (fun _ => ({} : Queue)) (fun k => { k with stalls := [] }) (fun _ => rfl) s.storage.queues q

theorem State.arbitrate_reset (h : s.signals.vpReset = true) (t : Nat) : s.arbitrate t = s.present t none := if_pos h

theorem State.arbitrate_vpReset (s : State) (t : Nat) : (s.arbitrate t).signals.vpReset = s.signals.vpReset := by
  rw [State.arbitrate_frame]

/-- While VP_RST_N is asserted, arbitration withdraws what a target presents. -/
theorem State.each_arbitrate_reset {k : Nat} : ∀ (l : List Nat) (s : State), s.signals.vpReset = true →
    (k ∈ l ∨ (s.target k).presented = none) → ((s.each l State.arbitrate).target k).presented = none
  | [], _, _, hk => hk.resolve_left List.not_mem_nil
  | t :: l, s, hr, hk => by
    refine State.each_arbitrate_reset l (s.arbitrate t) ((s.arbitrate_vpReset t).trans hr) ?_
    by_cases ht : k = t
    · right
      rw [ht, State.arbitrate_reset hr, State.present, State.target_setTarget, if_pos rfl]
    · rw [State.arbitrate_target_other s ht]
      exact hk.imp_left fun hm => (List.mem_cons.mp hm).resolve_left ht

theorem State.each_arbitrate_stack (k : Nat) (l : List Nat) (s : State) :
    ((s.each l State.arbitrate).target k).stack = (s.target k).stack :=
  State.each_same (fun u => (u.target k).stack) (fun u t => u.arbitrate_stack t k) l s

theorem State.arbitrateAll_frame (s : State) :
    s.arbitrateAll = { s with signals := { s.signals with targets := s.arbitrateAll.signals.targets } } :=
  State.each_arbitrate_frame _ _

/-- VP_RST_N sets its level and arbitrates, unless it is released in a block that does not serve. -/
theorem State.vectorReset_spec (s : State) (a : Bool) :
    let t := s.vectorReset a
    t.signals.vpReset = a ∧ (∀ n, t.source n = s.source n) ∧ (∀ k, (t.target k).stack = (s.target k).stack) ∧
      (a = true → ∀ k, k < 16 → (t.target k).presented = none) ∧ t = { s with signals := t.signals } := by
  dsimp only
  unfold State.vectorReset
  dsimp only
  split
  · refine ⟨?_, fun n => ?_, fun k => ?_, fun ha k hk => ?_, ?_⟩
    · rw [State.arbitrateAll_frame]
    · rw [State.arbitrateAll_frame]
      rfl
    · exact State.each_arbitrate_stack k _ _
    · exact State.each_arbitrate_reset _ _ ha (.inl (List.mem_range.mpr hk))
    · rw [State.arbitrateAll_frame]
  · next hquiet =>
    refine ⟨rfl, fun _ => rfl, fun _ => rfl, fun ha => ?_, rfl⟩
    rw [ha] at hquiet
    exact absurd rfl hquiet

/-- Settles O56: what each reset clears, entry by entry. -/
theorem portResets : Obligations.PortResets := by
  unfold Obligations.PortResets
  intro s
  refine ⟨⟨s.hostReset, fun _ => rfl, rfl, rfl, rfl, rfl, fun c => ?_, fun c => ?_, fun c => ?_, fun q => ?_, rfl, rfl, rfl, rfl, rfl, rfl⟩,
    fun a => ⟨_, rfl, s.vectorReset_spec a⟩⟩
  · rw [State.hostReset_poolWindow]
    exact ⟨rfl, rfl⟩
  · rw [State.hostReset_push]
  · rw [State.hostReset_layoutWindow]
  · rw [State.hostReset_queue]
    exact ⟨rfl, rfl⟩

end Sys2Proof.Machine
end

section
/-! SUPPORT. ADMIT, ARM and DEEP_REQ (R427, R430, R463): commands in the upper half of a word. -/
namespace Sys2Proof.Machine

variable {s : State} {o : Nat}

/-- The data of a 4-byte write of an upper half, at its place in the word. -/
theorem ofNat_upperHalf (v : BitVec 32) : BitVec.ofNat 64 (v.toNat * 2 ^ 32) = v.setWidth 64 <<< 32 := by
  refine BitVec.eq_of_toNat_eq ?_
  have hv := v.isLt
  rw [BitVec.toNat_ofNat, BitVec.toNat_shiftLeft, BitVec.toNat_setWidth, Nat.shiftLeft_eq, Nat.mod_eq_of_lt (a := v.toNat) (by omega)]

theorem bit_upperHalf (v : BitVec 32) (i : Nat) : bit (v.toNat * 2 ^ 32) (32 + i) = v.getLsbD i := by
  rw [bit_eq_testBit, Nat.testBit_mul_two_pow, Nat.add_sub_cancel_left, BitVec.testBit_toNat]
  simp

theorem ofNat_maskWrite_upper (old mask : BitVec 64) (v : BitVec 32) :
    BitVec.ofNat 64 (maskWrite old.toNat (v.toNat * 2 ^ 32) mask.toNat) = (old &&& ~~~mask) ||| (v.setWidth 64 <<< 32 &&& mask) := by
  rw [maskWrite, ofNat_upperHalf]
  simp only [BitVec.ofNat_toNat, BitVec.setWidth_eq]

/-- The upper half of a word without rules takes the bits that are RW. -/
theorem State.writePart_upper (s : State) {m : Nat} {mask : BitVec 64}
    (hmask : BitVec.ofNat 64 m &&& BitVec.ofNat 64 ((2 ^ 32 - 1) * 2 ^ 32) = mask) (hne : mask ≠ 0) (hrules : fieldRules o = [])
    (hplace : o < 0x8000 ∨ 0xE000 ≤ o) (v : BitVec 32) :
    s.writePart o (v.toNat * 2 ^ 32) ((2 ^ 32 - 1) * 2 ^ 32) (o / 8, m) =
      s.setWord (o / 8) ((s.word (o / 8) &&& ~~~mask) ||| (v.setWidth 64 <<< 32 &&& mask)) := by
  unfold State.writePart
  dsimp only
  rw [hmask, if_neg (BitVec.toNat_ne_zero_of_ne hne), if_neg (by omega), if_neg (by omega), if_neg (by omega), ruledWrite, hrules,
    List.foldl_nil, ofNat_maskWrite_upper]

theorem State.write4_upper (s : State) (ha : o % 8 = 0) (hplace : o < 0x6000 ∨ 0xE000 ≤ o ∧ o < 0xF000) (v : BitVec 32) :
    s.write4 (o + 4) v = ((s.each (if rwMask o = 0 then [] else [(o / 8, rwMask o)])
      (fun s p => s.writePart o (v.toNat * 2 ^ 32) ((2 ^ 32 - 1) * 2 ^ 32) p)).writeActions o (v.toNat * 2 ^ 32) ((2 ^ 32 - 1) * 2 ^ 32)).ok := by
  rw [State.write4_high s o v ha (by omega) (by omega) (by omega), State.writeWord, State.rwParts_own s (by omega)]

/-- A command bit of the upper half is hit when it is written 1. -/
theorem hit_upper (v : BitVec 32) {k i : Nat} (hk : k = 32 + i) (hi : i < 32) :
    (bit (v.toNat * 2 ^ 32) k && bit ((2 ^ 32 - 1) * 2 ^ 32) k) = v.getLsbD i := by
  subst hk
  rw [bit_upperHalf, bit_eq_testBit, Nat.testBit_mul_two_pow, Nat.add_sub_cancel_left, Nat.testBit_two_pow_sub_one]
  simp [hi]

theorem State.write4_admit (s : State) (v : BitVec 32) : s.write4 0x3044 v = (if v.getLsbD 0 then s.requestAdmit else s).ok := by
  have hpart : s.writePart 0x3040 (v.toNat * 2 ^ 32) ((2 ^ 32 - 1) * 2 ^ 32) (0x3040 / 8, rwMask 0x3040) = s := by
    have hmask : (BitVec.ofNat 64 (rwMask 0x3040) &&& BitVec.ofNat 64 ((2 ^ 32 - 1) * 2 ^ 32)).toNat = 0 := by decide
    unfold State.writePart
    dsimp only
    rw [if_pos hmask]
  rw [State.write4_upper (o := 0x3040) s (by decide) (by decide), if_neg (by decide), State.each_one, hpart]
  unfold State.writeActions
  dsimp only
  have h0 := hit_upper v (k := 32) (i := 0) rfl (by decide)
  rw [if_neg (by decide), if_pos rfl]
  simp only [h0]

theorem State.write4_deepReq (s : State) (v : BitVec 32) :
    s.write4 0x1004 v =
      (let r := s.setWord (0x1000 / 8) ((s.word (0x1000 / 8) &&& ~~~(0x700000000 : BitVec 64)) ||| (v.setWidth 64 <<< 32 &&& 0x700000000))
       let r : State := if v.getLsbD 5 then { r with power := { r.power with deepRefused := false } } else r
       if v.getLsbD 3 then r.requestDeep else r).ok := by
  rw [State.write4_upper (o := 0x1000) s (by decide) (by decide), if_neg (by decide), State.each_one,
    State.writePart_upper (mask := 0x700000000) s (by decide) (by decide) (by decide) (by decide)]
  unfold State.writeActions
  dsimp only
  have h5 := hit_upper v (k := 37) (i := 5) rfl (by decide)
  have h3 := hit_upper v (k := 35) (i := 3) rfl (by decide)
  rw [if_pos rfl]
  simp only [h5, h3]

theorem State.write4_arm (s : State) (v : BitVec 32) :
    s.write4 0xE844 v =
      (let r := s.setWord (0xE840 / 8) ((s.word (0xE840 / 8) &&& ~~~(0x1F00000000 : BitVec 64)) ||| (v.setWidth 64 <<< 32 &&& 0x1F00000000))
       let r : State := { r with boot := { s.boot with
         missed := s.boot.missed && !(v.getLsbD 7), funcRefused := s.boot.funcRefused && !(v.getLsbD 8),
         poolsRefused := s.boot.poolsRefused && !(v.getLsbD 9) } }
       if v.getLsbD 5 then r.armReconf else r).ok := by
  rw [State.write4_upper (o := 0xE840) s (by decide) (by decide), if_neg (by decide), State.each_one,
    State.writePart_upper (mask := 0x1F00000000) s (by decide) (by decide) (by decide) (by decide)]
  unfold State.writeActions
  dsimp only
  rw [if_neg (by decide), if_neg (by decide), if_neg (by decide), if_neg (by decide), if_neg (by decide), if_neg (by decide), if_pos rfl]
  have h5 := hit_upper v (k := 37) (i := 5) rfl (by decide)
  have h7 := hit_upper v (k := 39) (i := 7) rfl (by decide)
  have h8 := hit_upper v (k := 40) (i := 8) rfl (by decide)
  have h9 := hit_upper v (k := 41) (i := 9) rfl (by decide)
  simp only [h5, h7, h8, h9]
  rfl

/-- LAST_BN comes before RECONF_BN when RECONF_BN lies from 1 to 2^31 − 1 ahead. -/
theorem serial_before_iff {last bn : Nat} (hlast : last < 2 ^ 32) :
    serial 32 last bn = .before ↔ 1 ≤ (bn + 2 ^ 32 - last) % 2 ^ 32 ∧ (bn + 2 ^ 32 - last) % 2 ^ 32 < 2 ^ 31 := by
  unfold serial
  dsimp only
  rw [Nat.mod_eq_of_lt hlast]
  generalize (bn + 2 ^ 32 - last) % 2 ^ 32 = d
  split
  · simp; omega
  · split
    · simp; omega
    · split
      · simp; omega
      · simp; omega

theorem State.armReconf_ahead (h : s.mortar.bar.begun = false ∨
    serial 32 s.mortar.bar.lastBn.toNat (s.reg 0xE840 0 32) = .before) : s.armReconf = { s with boot := { s.boot with armed := true } } := by
  refine if_neg ?_
  rcases h with h | h <;> simp [h]

theorem State.armReconf_missed (hb : s.mortar.bar.begun = true)
    (h : serial 32 s.mortar.bar.lastBn.toNat (s.reg 0xE840 0 32) ≠ .before) :
    s.armReconf = ({ s with boot := { s.boot with missed := true } } : State).fire 0xA :=
  if_pos (by simp [hb, h])

/-- Bits written into the upper half leave the lower half. -/
theorem field_maskUpper (old x mask : BitVec 64) (hmask : ∀ i, i < 32 → mask.getLsbD i = false) :
    field ((old &&& ~~~mask) ||| (x &&& mask)).toNat 0 32 = field old.toNat 0 32 := by
  refine field_eq_of_bits fun i _ hi => ?_
  rw [bit_toNat, bit_toNat]
  simp only [BitVec.getLsbD_or, BitVec.getLsbD_and, BitVec.getLsbD_not, hmask i (by omega), Bool.not_false, Bool.and_false, Bool.or_false]
  simp [show i < 64 by omega]

theorem State.reg_reconfBn (s : State) (x : BitVec 64) (b : Boot) :
    ({ s.setWord (0xE840 / 8) ((s.word (0xE840 / 8) &&& ~~~(0x1F00000000 : BitVec 64)) ||| (x &&& 0x1F00000000)) with
      boot := b } : State).reg 0xE840 0 32 = s.reg 0xE840 0 32 := by
  have hword := s.word_setWord (0xE840 / 8) ((s.word (0xE840 / 8) &&& ~~~(0x1F00000000 : BitVec 64)) ||| (x &&& 0x1F00000000)) (0xE840 / 8)
  rw [if_pos rfl] at hword
  exact (congrArg (fun w : BitVec 64 => field w.toNat 0 32) hword).trans (field_maskUpper _ _ _ (by decide))

/-- Settles O44: each command bit is acted on where it is written 1, and the RW bits of its half are stored. -/
theorem controlWrites : Obligations.ControlWrites := by
  unfold Obligations.ControlWrites
  intro s₀ v s hserves
  have hs₀ : s₀.servesNow := hserves
  have hadmit : exec (.admitWrite v) s₀ = .next (if v.getLsbD 0 then s.requestAdmit else s).ok := by
    rw [exec_serves hs₀ _ rfl]
    exact congrArg Host.Outcome.next (s.write4_admit v)
  have hdeep : exec (.deepReq v) s₀ = .next (s.write4 0x1004 v) := by
    rw [exec_serves hs₀ _ rfl]
    rfl
  have harm : exec (.arm v) s₀ = .next (s.write4 0xE844 v) := by
    rw [exec_serves hs₀ _ rfl]
    rfl
  have hlast := s.mortar.bar.lastBn.isLt
  refine ⟨fun h0 => ?_, fun h0 => ?_, ?_, ?_⟩
  · rw [hadmit, h0, if_pos rfl, State.requestAdmit]
    split <;> rfl
  · rw [hadmit, h0, if_neg Bool.false_ne_true]
  · rw [State.write4_arm] at harm
    intro r b ahead
    have hreg : ({ r with boot := b } : State).reg 0xE840 0 32 = s.reg 0xE840 0 32 := s.reg_reconfBn _ _
    refine ⟨fun h5 => ?_, fun h5 hbefore => ?_, fun h5 hb hafter => ?_⟩
    · rw [harm, h5]
      rfl
    · have harmed : ({ r with boot := b } : State).armReconf = { r with boot := { b with armed := true } } :=
        State.armReconf_ahead (s := { r with boot := b })
          (hbefore.imp_right fun h => by rw [hreg]; exact (serial_before_iff hlast).mpr h)
      rw [harm, h5]
      exact congrArg (fun t : State => Host.Outcome.next t.ok) harmed
    · have hmissed : ({ r with boot := b } : State).armReconf = ({ r with boot := { b with missed := true } } : State).fire 0xA :=
        State.armReconf_missed (s := { r with boot := b }) hb fun h => by
          rw [hreg] at h
          obtain ⟨hlo, hhi⟩ := (serial_before_iff hlast).mp h
          rcases hafter with h0 | h31
          · exact absurd hlo (by rw [show (s.reg 0xE840 0 32 + 2 ^ 32 - s.mortar.bar.lastBn.toNat) % 2 ^ 32 = 0 from h0]; decide)
          · exact absurd hhi (Nat.not_lt.mpr h31)
      rw [harm, h5]
      exact congrArg (fun t : State => Host.Outcome.next t.ok) hmissed
  · rw [hdeep, State.write4_deepReq]
    cases v.getLsbD 5 <;> cases v.getLsbD 3 <;>
      simp [State.requestDeep, State.ok, State.answer, State.setWord]

end Sys2Proof.Machine
end

section
/-! SUPPORT. The ledger: releases, placement, the overflow queue and the input queue (R439 to R441). -/
namespace Sys2Proof.Machine

variable {s : State}

/-! ### Releases -/

theorem hit_lower (v : BitVec 32) {i : Nat} (hi : i < 32) : (bit v.toNat i && bit (2 ^ 32 - 1) i) = v.getLsbD i := by
  rw [bit_toNat, bit_eq_testBit, Nat.testBit_two_pow_sub_one, decide_eq_true hi, Bool.and_true]

theorem State.write4_release (s : State) (v : BitVec 32) :
    s.write4 0x20008 v = ({ s with ledger := s.ledger.release (v.getLsbD 0) (v.getLsbD 1) } : State).ok := by
  have hpart : s.writePart 0x20008 v.toNat (2 ^ 32 - 1) (0x20008 / 8, rwMask 0x20008) = s := by
    have hmask : (BitVec.ofNat 64 (rwMask 0x20008) &&& BitVec.ofNat 64 (2 ^ 32 - 1)).toNat = 0 := by decide
    unfold State.writePart
    dsimp only
    rw [if_pos hmask]
  have h0 := hit_lower v (i := 0) (by decide)
  have h1 := hit_lower v (i := 1) (by decide)
  rw [State.write4_low s 0x20008 v (by decide) (by decide) (by decide) (by decide), State.writeWord, State.rwParts_own s (by decide),
    if_neg (by decide), State.each_one, hpart]
  unfold State.writeActions
  dsimp only
  iterate 7 rw [if_neg (by decide)]
  rw [if_pos rfl, h0, h1]

theorem exec_release (hs : s.servesNow) (v : BitVec 32) : ∀ c ∈ [Instr.releaseFirst v, .releaseEsc v],
    exec c s = .next ({ s.newTag with ledger := s.newTag.ledger.release (v.getLsbD 0) (v.getLsbD 1) } : State).ok := by
  intro c hc
  simp only [List.mem_cons, List.not_mem_nil, or_false] at hc
  rcases hc with rfl | rfl
  · rw [exec_serves hs _ rfl]
    exact congrArg Host.Outcome.next (s.newTag.write4_release v)
  · rw [exec_serves hs _ rfl]
    exact congrArg Host.Outcome.next (s.newTag.write4_release v)

theorem ledgerReleases : Claim.LedgerReleases := by
  unfold Claim.LedgerReleases
  intro s₀ v s hserves l
  have hexec := exec_release (s := s₀) hserves v
  refine ⟨fun h0 h1 => ?_, fun h0 h1 => ?_, fun h0 h1 c hc => ?_, fun h0 h1 c hc => ?_⟩
  · rw [hexec _ (by simp), h0, h1]
    rfl
  · rw [hexec _ (by simp), h0, h1]
    rfl
  · rw [hexec c hc, h0, h1]
    rfl
  · rw [hexec c hc, h0, h1]
    rfl

/-! ### The overflow queue -/

theorem State.fire_ledger (s : State) (n : Nat) : (s.fire n).ledger = s.ledger := by rw [State.fire_rest]

theorem State.fire_nextSeq (s : State) (n : Nat) : (s.fire n).ledger.nextSeq = s.ledger.nextSeq := congrArg Ledger.nextSeq (s.fire_ledger n)

@[simp] theorem State.placeItem_ledger (s : State) (q : Nat) (prio : BitVec 3) (n : Nat) (d : List Byte) :
    (s.placeItem q prio n d).ledger = s.ledger := State.setQueue_ledger _ _ _

/-- The ledger's own drop counts and raises nothing (R440). -/
theorem State.dropItem_own (s : State) (q : Nat) (prio : BitVec 3) :
    s.dropItem q prio true =
      ((s.setQueue q { (s.queue q).addGap prio with drops := (s.queue q).drops + 1 }).bump 0x21738).bump 0x20128 := rfl

theorem State.dropItem_own_ledger (s : State) (q : Nat) (prio : BitVec 3) : (s.dropItem q prio true).ledger = s.ledger :=
  State.setQueue_ledger _ _ _

theorem State.dropItem_own_ctr (s : State) (q : Nat) (prio : BitVec 3) :
    (s.dropItem q prio true).ctr 0x20128 = s.ctr 0x20128 + 1 := by
  rw [State.dropItem_own, State.ctr_bump, if_pos rfl, State.ctr_bump, if_neg (by decide), State.ctr, State.setQueue_counters]
  rfl

section
variable (r : LedgerRec)

theorem State.directRecord_disabled (he : s.qEnable s.ledgerQueue = false) :
    s.directRecord r = some ((s.bump 0x20128).fire 2) := by
  simp [State.directRecord, State.engineItem, he]

theorem State.directRecord_fits (he : s.qEnable s.ledgerQueue = true) (hfit : s.qFits s.ledgerQueue 32 = true) :
    s.directRecord r = some ((((s.placeItem s.ledgerQueue (r.sev.setWidth 3) 32 r.bytes).bump 0x21730).bump 0x20120).fire 2) := by
  simp [State.directRecord, State.engineItem, he, hfit, LedgerRec.bytes_length]

theorem State.directRecord_drops (he : s.qEnable s.ledgerQueue = true) (hfit : s.qFits s.ledgerQueue 32 = false)
    (hd : s.qDropNewest s.ledgerQueue = true) :
    s.directRecord r = some ((s.dropItem s.ledgerQueue (r.sev.setWidth 3) true).fire 2) := by
  simp [State.directRecord, State.engineItem, he, hfit, hd, LedgerRec.bytes_length]

theorem State.directRecord_waits (he : s.qEnable s.ledgerQueue = true) (hfit : s.qFits s.ledgerQueue 32 = false)
    (hd : s.qDropNewest s.ledgerQueue = false) : s.directRecord r = none := by
  simp [State.directRecord, State.engineItem, he, hfit, hd, LedgerRec.bytes_length]

/-- What the overflow queue does with a record leaves the ledger. -/
theorem State.directRecord_ledger {u : State} (h : s.directRecord r = some u) : u.ledger = s.ledger := by
  cases he : s.qEnable s.ledgerQueue with
  | false =>
    rw [State.directRecord_disabled r he] at h
    cases h
    exact State.fire_ledger _ _
  | true =>
    cases hfit : s.qFits s.ledgerQueue 32 with
    | true =>
      rw [State.directRecord_fits r he hfit] at h
      cases h
      exact (State.fire_ledger _ _).trans (s.placeItem_ledger ..)
    | false =>
      cases hd : s.qDropNewest s.ledgerQueue with
      | true =>
        rw [State.directRecord_drops r he hfit hd] at h
        cases h
        exact (State.fire_ledger _ _).trans (s.dropItem_own_ledger ..)
      | false =>
        rw [State.directRecord_waits r he hfit hd] at h
        cases h

end

theorem overflowQueue : Claim.OverflowQueue := by
  unfold Claim.OverflowQueue
  intro s r
  exact ⟨State.directRecord_disabled r, fun he => ⟨State.directRecord_fits r he,
    fun hfit hd => ⟨State.directRecord_drops r he hfit hd, s.dropItem_own_ctr _ _⟩, State.directRecord_waits r he⟩,
    fun u => State.directRecord_ledger r⟩

/-! ### Placement -/

/-- The record at the head of the input queue leaves it and takes its SEQ; a member-fatal code holds the member. -/
def State.ledgerTook (s u : State) (code : BitVec 8) (rest : List LedgerRec) : State :=
  let v : State := { u with ledger := { u.ledger with input := rest, nextSeq := s.ledger.nextSeq + 1 } }
  if holds code then v.hold code else v

section
variable {r : LedgerRec} {rest : List LedgerRec} (hin : s.ledger.input = r :: rest)
include hin

theorem State.ledgerStep_waits (hp : s.place { r with seq := s.ledger.nextSeq } = none) : s.ledgerStep = s := by
  unfold State.ledgerStep
  rw [hin]
  dsimp only
  rw [hp]

theorem State.ledgerStep_places {u : State} (hp : s.place { r with seq := s.ledger.nextSeq } = some u)
    (hseq : u.ledger.nextSeq = s.ledger.nextSeq) : s.ledgerStep = s.ledgerTook u r.code rest := by
  unfold State.ledgerStep
  rw [hin]
  dsimp only
  rw [hp, State.ledgerTook, ← hseq]

end

theorem LedgerRec.fold_eq (f : LedgerRec) :
    f.fold = { f with count := if f.count = 0xFFFFFFFF then f.count else f.count + 1 } := by
  unfold LedgerRec.fold
  split <;> rfl

section
variable (x : LedgerRec)

theorem State.place_first (h : s.ledger.first = none) :
    s.place x = some (({ s with ledger := { s.ledger with first := some x } } : State).fire 0) := by
  rw [State.place, h]

variable {f : LedgerRec} (hf : s.ledger.first = some f)
include hf

theorem Ledger.heldSev_eq : s.ledger.heldSev = max f.sev.toNat (s.ledger.esc.elim 0 (·.sev.toNat)) := by
  rw [Ledger.heldSev, hf]
  cases s.ledger.esc <;> rfl

theorem State.place_folds (h : x.sev.toNat ≤ s.ledger.heldSev) :
    s.place x = (s.directRecord x).map (fun s => { s with ledger := { s.ledger with first := s.ledger.first.map LedgerRec.fold } }) := by
  rw [State.place, hf]
  exact if_pos h

theorem State.place_folded (h : x.sev.toNat ≤ s.ledger.heldSev) {u : State} (hu : s.directRecord x = some u) :
    s.place x = some { u with ledger := { s.ledger with
      first := some { f with count := if f.count = 0xFFFFFFFF then f.count else f.count + 1 } } } := by
  rw [State.place_folds x hf h, hu, Option.map_some, State.directRecord_ledger x hu, hf, Option.map_some, LedgerRec.fold_eq]

theorem State.place_escalates (h : s.ledger.heldSev < x.sev.toNat) (he : s.ledger.esc = none) :
    s.place x = some (({ s with ledger := { s.ledger with esc := some x } } : State).fire 1) := by
  rw [State.place, hf]
  dsimp only
  rw [if_neg (by omega), he]

theorem State.place_displaces (h : s.ledger.heldSev < x.sev.toNat) {old : LedgerRec} (he : s.ledger.esc = some old) :
    s.place x = (s.directRecord old).map fun s => ({ s with ledger := { s.ledger with esc := some x } } : State).fire 1 := by
  rw [State.place, hf]
  dsimp only
  rw [if_neg (by omega), he]

theorem State.place_displaced (h : s.ledger.heldSev < x.sev.toNat) {old : LedgerRec} (he : s.ledger.esc = some old) {u : State}
    (hu : s.directRecord old = some u) :
    s.place x = some (({ u with ledger := { s.ledger with esc := some x } } : State).fire 1) := by
  rw [State.place_displaces x hf h he, hu, Option.map_some, State.directRecord_ledger old hu]

end

theorem ledgerTakesRaises : Claim.LedgerTakesRaises := by
  unfold Claim.LedgerTakesRaises
  intro s ha
  have hexec {t : State} (h : s.ledgerStep = t) : exec .ledgerRaise s = .next t := congrArg Host.Outcome.next ((if_pos ha).trans h)
  refine ⟨fun hin => hexec (by rw [State.ledgerStep, hin]), fun r rest hin => ⟨fun hfirst => ?_, fun f hfirst hesc hsev => ?_⟩,
    fun r rest hin => ⟨fun hfirst => hexec ?_, fun f hfirst => ⟨fun hlow => ⟨fun u hu => hexec ?_, fun hwait => hexec ?_⟩,
      fun hhigh => ⟨fun hesc => hexec ?_, fun old hesc => ⟨fun u hu => hexec ?_, fun hwait => hexec ?_⟩⟩⟩⟩⟩
  · have hplace := State.place_first (s := s) { r with seq := s.ledger.nextSeq } hfirst
    refine ⟨_, hexec (State.ledgerStep_places hin hplace (State.fire_nextSeq _ _)), ?_, ?_⟩
    · dsimp only
      rw [State.fire_ledger]
    · rw [State.fire_rest]
  · have hheld := Ledger.heldSev_eq hfirst
    rw [hesc] at hheld
    have hplace := State.place_escalates { r with seq := s.ledger.nextSeq } hfirst
      (by rw [hheld]; exact Nat.max_lt.2 ⟨hsev, Nat.zero_lt_of_lt hsev⟩) hesc
    refine ⟨_, hexec (State.ledgerStep_places hin hplace (State.fire_nextSeq _ _)), ?_, ?_⟩
    · dsimp only
      rw [State.fire_ledger]
    · rw [State.fire_rest]
  · exact State.ledgerStep_places hin (State.place_first _ hfirst) (State.fire_nextSeq _ _)
  · exact State.ledgerStep_places hin (State.place_folded _ hfirst (by rw [Ledger.heldSev_eq hfirst]; exact hlow) hu) rfl
  · exact State.ledgerStep_waits hin ((State.place_folds _ hfirst (by rw [Ledger.heldSev_eq hfirst]; exact hlow)).trans
      (congrArg (Option.map _) hwait))
  · exact State.ledgerStep_places hin (State.place_escalates _ hfirst (by rw [Ledger.heldSev_eq hfirst]; exact hhigh) hesc)
      (State.fire_nextSeq _ _)
  · exact State.ledgerStep_places hin (State.place_displaced _ hfirst (by rw [Ledger.heldSev_eq hfirst]; exact hhigh) hesc hu)
      (State.fire_nextSeq _ _)
  · exact State.ledgerStep_waits hin ((State.place_displaces _ hfirst (by rw [Ledger.heldSev_eq hfirst]; exact hhigh) hesc).trans
      (congrArg (Option.map _) hwait))

/-! ### The input queue -/

theorem enterRaise_length (l : List LedgerRec) (r : LedgerRec) : (enterRaise l r).length = l.length + 1 := by
  have hsplit := congrArg List.length (List.takeWhile_append_dropWhile (p := fun e => !(r.precedes e)) (l := l))
  rw [List.length_append] at hsplit
  rw [enterRaise, List.length_append, List.length_cons]
  omega

theorem dropWhile_all {α : Type} {p : α → Bool} : ∀ l : List α, (∀ x ∈ l, p x = true) → l.dropWhile p = []
  | [], _ => rfl
  | x :: t, h => by
    rw [List.dropWhile_cons, if_pos (h x (List.mem_cons_self ..))]
    exact dropWhile_all t (fun y hy => h y (List.mem_cons_of_mem _ hy))

/-- Behind every entry that it does not precede, a raise is the last. -/
theorem enterRaise_last {l : List LedgerRec} {r : LedgerRec} (h : ∀ e ∈ l, r.precedes e = false) : enterRaise l r = l ++ [r] := by
  have hall : ∀ e ∈ l, (!(r.precedes e)) = true := fun e he => by rw [h e he]; rfl
  have hdrop := dropWhile_all l hall
  have htake := List.takeWhile_append_dropWhile (p := fun e => !(r.precedes e)) (l := l)
  rw [hdrop, List.append_nil] at htake
  rw [enterRaise, htake, hdrop]

theorem enterRaise_split (l : List LedgerRec) (r : LedgerRec) :
    ∃ a b, l = a ++ b ∧ (∀ e ∈ a, r.precedes e = false) ∧ (∀ e, b.head? = some e → r.precedes e = true) ∧ enterRaise l r = a ++ r :: b := by
  refine ⟨l.takeWhile (fun e => !(r.precedes e)), l.dropWhile (fun e => !(r.precedes e)), List.takeWhile_append_dropWhile.symm,
    fun e he => by simpa using List.all_eq_true.1 List.all_takeWhile e he, fun e he => ?_, rfl⟩
  have := List.head?_dropWhile_not (fun e => !(r.precedes e)) l
  rw [he] at this
  simpa using this

/-- What `offer` counts beside a lost raise. -/
def State.offerCounted (s : State) (r : LedgerRec) : State := (s.bump (codeCount r.code)).bump (0x20100 + 8 * r.sev.toNat)

theorem State.offerCounted_ctr (s : State) (r : LedgerRec) (k : Nat) :
    (s.offerCounted r).ctr k = if 0x20100 + 8 * r.sev.toNat = k ∨ codeCount r.code = k then s.ctr k + 1 else s.ctr k := by
  have hsev := r.sev.isLt
  have hcode : 0x20800 ≤ codeCount r.code := Nat.le_add_right _ _
  rw [State.offerCounted, State.ctr_bump, State.ctr_bump, State.ctr_bump]
  split
  · next h =>
    rw [if_neg (by omega), if_pos (.inl h), h]
  · next h =>
    split
    · next hk => rw [if_pos (.inr hk), hk]
    · next hk => rw [if_neg (fun h' => h'.elim h hk)]

/-- With room, the queue takes the raise; else the last in the order of entry counts in LEDGER_LOST. -/
theorem State.offer_lost (s : State) (r : LedgerRec) :
    (s.offer r).ledger.input = (enterRaise s.ledger.input r).take 64 ∧
      ∀ k, (s.offer r).ctr k = if (enterRaise s.ledger.input r).length ≤ 64 then (s.offerCounted r).ctr k
        else ((s.offerCounted r).bump 0x20130).ctr k := by
  unfold State.offer enterFull
  dsimp only
  simp only [State.bump_ledger]
  cases hlost : (enterRaise s.ledger.input r)[64]? with
  | none =>
    refine ⟨rfl, fun k => ?_⟩
    rw [if_pos (List.getElem?_eq_none_iff.mp hlost)]
    rfl
  | some lost =>
    have hlong : ¬ (enterRaise s.ledger.input r).length ≤ 64 := fun h => by
      rw [List.getElem?_eq_none_iff.mpr h] at hlost
      cases hlost
    simp only [if_neg hlong]
    split <;> exact ⟨rfl, fun _ => rfl⟩

theorem ledgerInput : Claim.LedgerInput := by
  unfold Claim.LedgerInput
  intro s r hlen
  have hsev := r.sev.isLt
  have hcode : 0x20800 ≤ codeCount r.code := Nat.le_add_right _ _
  obtain ⟨hinput, hctr⟩ := s.offer_lost r
  obtain ⟨a, b, hab, ha, hb, henter⟩ := enterRaise_split s.ledger.input r
  have hlong := enterRaise_length s.ledger.input r
  have hcount (k : Nat) (hk : k ≠ 0x20130) : (s.offer r).ctr k = (s.offerCounted r).ctr k := by
    rw [hctr]
    split
    · rfl
    · rw [State.ctr_bump, if_neg hk.symm]
  refine ⟨⟨a, b, hab, ha, hb, by rw [hinput, henter]⟩, ?_, ?_, fun hroom => ?_, fun hfull => ⟨?_, fun hlast => ?_⟩⟩
  · rw [hcount _ (by omega), State.offerCounted_ctr, if_pos (.inr rfl)]
  · rw [hcount _ (by omega), State.offerCounted_ctr, if_pos (.inl rfl)]
  · rw [hctr, if_pos (by omega), State.offerCounted_ctr, if_neg (by omega)]
  · rw [hctr, if_neg (by omega), State.ctr_bump, if_pos rfl, State.offerCounted_ctr, if_neg (by omega)]
  · rw [hinput, enterRaise_last hlast, List.take_append_of_le_length (by omega), List.take_of_length_le (by omega)]

/-- Settles O43: releases, the placement of the oldest raise, the overflow queue and the input queue. -/
theorem ledgerPlacement : Obligations.LedgerPlacement := ⟨ledgerReleases, ledgerTakesRaises, overflowQueue, ledgerInput⟩

end Sys2Proof.Machine
end

section
/-! SUPPORT. LOAD, START and STOP (R202, R204, R205). -/
namespace Sys2Proof.Machine

variable {s : State} {p : Fin 16}

theorem field_command (v : Nat) : field v 0 3 = v % 8 := congrArg (· % 8) (Nat.div_one v)

/-- A write of PROG_CTRL is its command. -/
theorem State.write4_program (s : State) (p : Fin 16) (v : BitVec 32) : s.write4 (progOff p + 8) v = (s.programCommand p (v.toNat % 8)).ok := by
  have hp := p.isLt
  have hoff : progOff p = 0xE000 + 0x80 * p.val := rfl
  have hprog : Fin.ofNat 16 ((progOff p + 8 - 0xE000) / 0x80) = p := by
    ext
    simp only [Fin.val_ofNat]
    omega
  have hmask : rwMask (progOff p + 8) = 0 := by
    rw [rwMask_program (by omega), if_neg (by omega), if_neg (by omega)]
  rw [State.write4_low s _ v (by omega) (by omega) (by omega) (by omega), State.writeWord, State.rwParts_own s (by omega), hmask, if_pos rfl,
    State.each_nil]
  unfold State.writeActions
  dsimp only
  iterate 5 rw [if_neg (by omega)]
  rw [if_pos (by omega), if_pos (by omega), hprog, field_command]

theorem exec_programCommand {s₀ : State} (hs : s₀.servesNow) (p : Fin 16) (v : BitVec 32) :
    ∀ c ∈ [Instr.load p v, .start p v, .stop p v], exec c s₀ = .next (s₀.newTag.programCommand p (v.toNat % 8)).ok := by
  intro c hc
  simp only [List.mem_cons, List.not_mem_nil, or_false] at hc
  rcases hc with rfl | rfl | rfl
  all_goals
    rw [exec_serves hs _ rfl]
    exact congrArg Host.Outcome.next (s₀.newTag.write4_program p v)

theorem State.programCommand_none {v : Nat} (h : v % 8 ∉ [1, 2, 4]) : s.programCommand p (v % 8) = s := by
  simp only [List.mem_cons, List.not_mem_nil, or_false, not_or] at h
  obtain ⟨h1, h2, h4⟩ := h
  unfold State.programCommand
  rw [field_command, Nat.mod_mod]
  split
  · next hv => exact absurd hv h1
  · next hv => exact absurd hv h2
  · next hv => exact absurd hv h4
  · rfl

section
variable {failed : Option LoadRead} (hrun : (s.prog p).state ≠ .running) (hstop : (s.prog p).state ≠ .stopping)
include hrun hstop

theorem State.loadProgram_refused {f : LoadFail} (hf : s.loadFail p (ProgImage.parse (s.read (s.progImageAddr p) 64)) failed = some f) :
    s.loadProgram p failed = s.refuseLoad p f := by
  unfold State.loadProgram
  dsimp only
  rw [if_neg (by simp [hrun, hstop]), hf]

theorem State.loadProgram_accepted (hf : s.loadFail p (ProgImage.parse (s.read (s.progImageAddr p) 64)) failed = none) :
    s.loadProgram p failed =
      let r := ((s.setProg p { s.prog p with state := .loaded, image := ProgImage.parse (s.read (s.progImageAddr p) 64), passIndex := 0,
                                             steps := 0, loadReason := 0, loadFault := 0, loadFaultEntry := false,
                                             bells := [] }).applyPlacement p.val).modPlacement p
        (fun x => { x with inLast := none, lastOpened := false })
      (if r.isPlanner p then r.loadPlan p else r).fire 0xB := by
  unfold State.loadProgram
  dsimp only
  rw [if_neg (by simp [hrun, hstop]), hf]

end

theorem State.loadProgram_running {failed : Option LoadRead} (h : (s.prog p).state = .running ∨ (s.prog p).state = .stopping) :
    s.loadProgram p failed = s :=
  if_pos (by rcases h with h | h <;> simp [h])

/-- A LOAD of which a read fails writes no other command bit. -/
theorem exec_load_failed {s₀ : State} (hs : s₀.servesNow) (p : Fin 16) {v : BitVec 32} (hv : v.toNat % 8 = 1) (failed : LoadRead) :
    exec (.load p v (some failed)) s₀ = .next (s₀.newTag.ok.loadProgram p (some failed)) := by
  have hrest : (v - 1).toNat % 8 = 0 := by
    have := v.isLt
    rw [BitVec.toNat_sub, show (1 : BitVec 32).toNat = 1 from rfl]
    omega
  have hwrite : s₀.newTag.write4 (progOff p + 8) (v - 1) = s₀.newTag.ok := by
    rw [State.write4_program, hrest]
    rfl
  rw [exec_serves hs _ rfl]
  refine congrArg Host.Outcome.next ((if_pos ((field_command _).trans hv)).trans ?_)
  rw [hwrite]

theorem programLoad : Claim.ProgramLoad := by
  unfold Claim.ProgramLoad
  intro s₀ p v s hserves hv
  have hload : exec (.load p v) s₀ = .next (s.loadProgram p).ok := by
    rw [exec_programCommand (s₀ := s₀) hserves p v _ (by simp), hv]
    rfl
  refine ⟨fun hbusy => ?_, fun hrun hstop => ⟨fun f hf => ?_, fun hok => ?_, ?_, fun failed f hf => ?_⟩⟩
  · rw [hload, State.loadProgram_running hbusy]
  · rw [hload, State.loadProgram_refused hrun hstop hf]
    rfl
  · rw [hload, State.loadProgram_accepted hrun hstop hok]
  · rw [State.loadFail]
    dsimp only
    rw [if_pos rfl]
  · rw [exec_load_failed (s₀ := s₀) hserves p hv failed, State.loadProgram_refused (s := s₀.newTag.ok) hrun hstop hf]
    rfl

theorem programStartAndStop : Claim.ProgramStartAndStop := by
  unfold Claim.ProgramStartAndStop
  intro s₀ p v s hserves
  have hexec : ∀ c ∈ [Instr.load p v, .start p v, .stop p v], exec c s₀ = .next (s.programCommand p (v.toNat % 8)).ok :=
    exec_programCommand (s₀ := s₀) hserves p v
  refine ⟨fun hv hst => ?_, fun hv hl hs => ?_, fun hv hr => ?_, fun hv hr => ?_, fun hv => ?_⟩
  · rw [hexec _ (by simp), hv]
    exact congrArg (fun t : State => Host.Outcome.next t.ok) (if_pos (by rcases hst with h | h <;> simp [h]))
  · rw [hexec _ (by simp), hv]
    exact congrArg (fun t : State => Host.Outcome.next t.ok) (if_neg (by simp [hl, hs]))
  · rw [hexec _ (by simp), hv]
    exact congrArg (fun t : State => Host.Outcome.next t.ok) (if_pos hr)
  · rw [hexec _ (by simp), hv]
    exact congrArg (fun t : State => Host.Outcome.next t.ok) (if_neg hr)
  · have hnone := State.programCommand_none (s := s) (p := p) hv
    rw [hexec _ (by simp), hexec (.start p v) (by simp), hexec (.stop p v) (by simp), hnone]
    exact ⟨rfl, rfl, rfl⟩

/-- Settles O22: the command that PROG_CTRL holds, by the program's state. -/
theorem programCommands : Obligations.ProgramCommands := ⟨programLoad, programStartAndStop⟩

end Sys2Proof.Machine
end

section
/-! SUPPORT. The doorbells of a program, and the tile pop (R117, R142, R212, R272). -/
namespace Sys2Proof.Machine

variable {s : State} {p : Fin 16} {v : BitVec 32}

theorem field_low (v len : Nat) : field v 0 len = v % 2 ^ len := congrArg (· % 2 ^ len) (Nat.div_one v)

/-! ### Chunk-ready -/

/-- What a chunk-ready doorbell names (R212). -/
def chunkBellOf (v : BitVec 32) : ChunkBell :=
  { entry := v.toNat % 4096, chunk := v.toNat / 4096 % 256, step := BitVec.ofNat 12 (v.toNat / 2 ^ 20) }

theorem ofNat_field (v lo len : Nat) : BitVec.ofNat len (field v lo len) = BitVec.ofNat len (v / 2 ^ lo) :=
  BitVec.eq_of_toNat_eq (by rw [BitVec.toNat_ofNat, BitVec.toNat_ofNat, field, Nat.mod_mod])

theorem field_chunk (v : Nat) : field v 12 8 = v / 4096 % 256 := rfl

theorem State.progOpen_none (ho : s.openSeq = none) (hn : s.sched.next = none) (p : Fin 16) : s.progOpen p = false := by
  rw [State.progOpen, ho, hn]

theorem State.ringChunk_closed (v : BitVec 32) (ho : s.openSeq = none) (hn : s.sched.next = none) :
    s.ringChunk p v =
      if (s.prog p).state = .empty || (s.prog p).state = .fault || (s.prog p).bells.contains (chunkBellOf v) ||
          !((s.placeOf p false).entry == (chunkBellOf v).entry && (s.placeOf p false).steps % 4096 == (chunkBellOf v).step.toNat) then s
      else s.setProg p { s.prog p with bells := (s.prog p).bells ++ [chunkBellOf v] } := by
  unfold State.ringChunk
  dsimp only
  rw [State.progOpen_none ho hn, field_low, ofNat_field, field_chunk]
  have ho' : (s.setProg p { s.prog p with bells := (s.prog p).bells ++ [chunkBellOf v] }).openSeq = none := ho
  split
  · next h => exact (if_pos (by simpa [chunkBellOf] using h)).symm
  · next h =>
    refine Eq.trans ?_ (if_neg (by simpa [chunkBellOf] using h)).symm
    split
    · next hq => exact absurd (hq.symm.trans ho') (by simp)
    · rfl

theorem State.ringChunk_dead (h : (s.prog p).state = .empty ∨ (s.prog p).state = .fault ∨ chunkBellOf v ∈ (s.prog p).bells) :
    s.ringChunk p v = s := by
  unfold State.ringChunk
  dsimp only
  rw [field_low, ofNat_field, field_chunk]
  refine if_pos ?_
  rcases h with h | h | h
  · simp [h]
  · simp [h]
  · have : (s.prog p).bells.contains (chunkBellOf v) = true := by simpa using h
    rw [show (s.prog p).bells.contains ⟨v.toNat % 2 ^ 12, BitVec.ofNat 12 (v.toNat / 2 ^ 20), v.toNat / 4096 % 256⟩ = true from this]
    simp

theorem exec_ringProgram {s₀ : State} (hs : s₀.servesNow) {c : Instr} {b : KeptBell} (hc : bellOf c = some b)
    (hb : ∀ z v, b ≠ .signal z v) {t : State} (h : s₀.newTag.ringKept b = t) : exec c s₀ = .next t.ok.close := by
  rw [exec_bell hs c hc hb, h]

theorem chunkDoorbell : Claim.ChunkDoorbell := by
  unfold Claim.ChunkDoorbell
  intro s₀ p v s hserves b g next
  have hexec {t : State} (h : s.ringChunk p v = t) : exec (.chunkReadyDoorbell p v) s₀ = .next t.ok.close :=
    exec_ringProgram (s₀ := s₀) (b := .chunk p v) hserves rfl (fun _ _ => by simp) h
  refine ⟨fun ho hn hempty hfault hb hentry hsteps => hexec ?_, fun hdead => hexec ?_, fun ho hn hother => hexec ?_⟩
  · refine (State.ringChunk_closed v ho hn).trans (if_neg ?_)
    have hentry' : (s.placeOf p false).entry = (chunkBellOf v).entry := hentry
    have hsteps' : (s.placeOf p false).steps % 4096 = (chunkBellOf v).step.toNat := hsteps
    have hempty' : (s.prog p).state ≠ .empty := hempty
    have hfault' : (s.prog p).state ≠ .fault := hfault
    have hb' : chunkBellOf v ∉ (s.prog p).bells := hb
    simp [hentry', hsteps', hempty', hfault', hb']
  · exact State.ringChunk_dead hdead
  · refine (State.ringChunk_closed v ho hn).trans (if_pos ?_)
    have hother' : (s.placeOf p false).entry ≠ (chunkBellOf v).entry ∨ (s.placeOf p false).steps % 4096 ≠ (chunkBellOf v).step.toNat := hother
    rcases hother' with h | h <;> simp [h]

/-! ### Tile-done, shared-ready, collective-ready -/

section
variable {q : Sequencer} (ho : s.openSeq = some q)
include ho

theorem State.onAttempt_names (hp : q.prog = p) (ha : q.aborted = false) {gen attempt : Nat} (hg : gen = q.gen.toNat)
    (hat : attempt = q.attempt.toNat) (f : State → State) : s.onAttempt p gen attempt f = f s := by
  rw [State.onAttempt, ho]
  exact if_pos ⟨hp, by simp [ha], hg.symm, hat.symm⟩

theorem State.onAttempt_other {gen attempt : Nat} (h : q.aborted = true ∨ gen ≠ q.gen.toNat ∨ attempt ≠ q.attempt.toNat)
    (f : State → State) : s.onAttempt p gen attempt f = s := by
  rw [State.onAttempt, ho]
  refine if_neg fun hall => ?_
  obtain ⟨-, ha, hg, hat⟩ := hall
  rcases h with h | h | h
  · exact absurd ha (by simp [h])
  · exact h hg.symm
  · exact h hat.symm

theorem State.ringTile_open (p : Fin 16) (v : Nat) :
    s.ringTile p v = s.onAttempt p q.gen.toNat (v / 2 ^ 24 % 4) (fun s => s.tileDone (v % 2 ^ 24)) := by
  rw [State.ringTile, ho]
  dsimp only
  rw [field_low]
  rfl

end

theorem State.ringShared_eq (s : State) (p : Fin 16) (v : Nat) :
    s.ringShared p v = s.onAttempt p (v % 2 ^ 16) (v / 2 ^ 16 % 4) State.sharedReady := by
  rw [State.ringShared, field_low]
  rfl

theorem State.ringColl_eq (s : State) (p : Fin 16) (v : Nat) :
    s.ringColl p v = s.onAttempt p (v % 2 ^ 16) (v / 2 ^ 16 % 4) (fun s =>
      if s.att.collBells.contains (v / 2 ^ 18 % 256) then s
      else s.modAtt (fun a => { a with collBells := a.collBells ++ [v / 2 ^ 18 % 256] })) := by
  rw [State.ringColl, field_low]
  rfl

theorem attemptDoorbells : Claim.AttemptDoorbells := by
  unfold Claim.AttemptDoorbells
  intro s₀ p q v s hserves ho hp
  have htile {t : State} (h : s.ringTile p v.toNat = t) : exec (.tileDoneDoorbell p v) s₀ = .next t.ok.close :=
    exec_ringProgram (s₀ := s₀) (b := .tileDone p v) hserves rfl (fun _ _ => by simp) h
  have hshared {t : State} (h : s.ringShared p v.toNat = t) : exec (.sharedReadyDoorbell p v) s₀ = .next t.ok.close :=
    exec_ringProgram (s₀ := s₀) (b := .shared p v) hserves rfl (fun _ _ => by simp) h
  have hcoll {t : State} (h : s.ringColl p v.toNat = t) : exec (.collectiveReadyDoorbell p v) s₀ = .next t.ok.close :=
    exec_ringProgram (s₀ := s₀) (b := .coll p v) hserves rfl (fun _ _ => by simp) h
  refine ⟨fun ha hat => ⟨fun hin hnew => htile ?_, fun hold => htile ?_⟩, fun ha hg hat => ⟨fun hwant hnew => hshared ?_, fun hold => hshared ?_,
    fun hnew => hcoll ?_, fun hold => hcoll ?_⟩, fun hother => htile ?_, fun hother => ⟨hshared ?_, hcoll ?_⟩⟩
  · rw [State.ringTile_open ho, State.onAttempt_names ho hp ha rfl hat, State.tileDone]
    exact if_neg (by simpa using And.intro hnew hin)
  · rw [State.ringTile_open ho, State.onAttempt_names ho hp ha rfl hat, State.tileDone]
    exact if_pos (by simpa using hold)
  · rw [State.ringShared_eq, State.onAttempt_names ho hp ha hg hat, State.sharedReady]
    exact if_neg (by simp [hwant, hnew])
  · rw [State.ringShared_eq, State.onAttempt_names ho hp ha hg hat, State.sharedReady]
    exact if_pos (by simp [hold])
  · rw [State.ringColl_eq, State.onAttempt_names ho hp ha hg hat]
    exact if_neg (by simpa using hnew)
  · rw [State.ringColl_eq, State.onAttempt_names ho hp ha hg hat]
    exact if_pos (by simpa using hold)
  · rw [State.ringTile_open ho, State.onAttempt_other ho (hother.imp_right .inr)]
  · rw [State.ringShared_eq, State.onAttempt_other ho hother]
  · rw [State.ringColl_eq, State.onAttempt_other ho hother]

/-- Settles O23: each doorbell by what it names. -/
theorem programDoorbells : Obligations.ProgramDoorbells := ⟨chunkDoorbell, attemptDoorbells⟩

/-! ### Tile pop -/

theorem State.popTile_open {q : Sequencer} (ho : s.openSeq = some q) (hp : q.prog = p) (ha : q.aborted = false) :
    s.popTile p = match (s.queue s.dispatchBlock.queue).entries.dropWhile (fun e => !e.isItem) with
      | .item i :: rest =>
        let r := s.setQueue s.dispatchBlock.queue { s.queue s.dispatchBlock.queue with entries := rest }
        (if descLast i.data then r.setPop p 2 else r).answer (ofLe i.data)
      | _ => if (Tab.get? s.sched.popCode p.val).getD 1 = 1 then (s.bump 0x210F0).answer (popAnswer 1)
        else s.answer (popAnswer ((Tab.get? s.sched.popCode p.val).getD 1)) := by
  have hopen : s.attemptOpen = true := by rw [State.attemptOpen, ho]; simp [ha]
  unfold State.popTile
  rw [ho]
  exact if_neg (by simp [hp, hopen])

theorem State.popTile_item {q : Sequencer} (ho : s.openSeq = some q) (hp : q.prog = p) (ha : q.aborted = false) {i : QItem}
    {rest : List QEntry} (hq : (s.queue s.dispatchBlock.queue).entries = .item i :: rest) (hlast : descLast i.data = false) :
    s.popTile p = (s.setQueue s.dispatchBlock.queue { s.queue s.dispatchBlock.queue with entries := rest }).answer (ofLe i.data) := by
  rw [State.popTile_open ho hp ha, hq]
  exact congrArg (fun r : State => r.answer (ofLe i.data)) (if_neg (by simp [hlast]))

theorem State.popTile_none {q : Sequencer} (ho : s.openSeq = some q) (hp : q.prog = p) (ha : q.aborted = false) {code : Nat}
    (hq : (s.queue s.dispatchBlock.queue).entries = []) (hcode : Tab.get? s.sched.popCode p.val = some code) :
    s.popTile p = if code = 1 then (s.bump 0x210F0).answer (popAnswer 1) else s.answer (popAnswer code) := by
  rw [State.popTile_open ho hp ha, hq, hcode]
  rfl

/-- Settles O24: the pop by the head of the tile list, and by the code where the list is empty. -/
theorem tilePop : Obligations.TilePop := by
  unfold Obligations.TilePop
  intro s₀ p q size s hserves ho hp ha
  have hpop (size : BitVec 3) (finds : List ReadFind) : exec (.tilePop p size finds) s₀ = .next ((s.pop p size).readCache 4 finds) := by
    rw [exec_serves (s := s₀) hserves _ rfl]
    rfl
  have hexec {size : BitVec 3} {t : State} (h : s.pop p size = t) : exec (.tilePop p size) s₀ = .next t := by
    rw [hpop, State.readCache_nil, h]
  have htile {t : State} (h : s.popTile p = t) : exec (.tilePop p 5) s₀ = .next t := hexec ((if_pos rfl).trans h)
  refine ⟨fun finds => ⟨_, hexec rfl, hpop size finds⟩, fun hsize => hexec (if_neg hsize), fun i rest hq hlast => htile ?_,
    fun hq hcode => htile ?_, fun code hq hcode h1 => htile ?_⟩
  · exact State.popTile_item ho hp ha hq hlast
  · rw [State.popTile_none ho hp ha hq hcode, if_pos rfl]
  · rw [State.popTile_none ho hp ha hq hcode, if_neg h1]

end Sys2Proof.Machine
end

section
/-! SUPPORT. Responses of the host port (R392, R394). -/
namespace Sys2Proof.Machine

variable {s : State}

/-! ### The status of a read, by its beats -/

theorem readStatus_decodeErr {beats : List HostStatus} (h : .decodeErr ∈ beats) : readStatus beats = .decodeErr :=
  if_pos (List.contains_iff_mem.mpr h)

theorem readStatus_dataErr {beats : List HostStatus} (h : .decodeErr ∉ beats) (hd : .dataErr ∈ beats) : readStatus beats = .dataErr :=
  (if_neg (fun hc => h (List.contains_iff_mem.mp hc))).trans (if_pos (List.contains_iff_mem.mpr hd))

theorem readStatus_ok {beats : List HostStatus} (h : .decodeErr ∉ beats) (hd : .dataErr ∉ beats) : readStatus beats = .ok :=
  (if_neg (fun hc => h (List.contains_iff_mem.mp hc))).trans (if_neg (fun hc => hd (List.contains_iff_mem.mp hc)))

section
variable (hp : s.portsRun = true)
include hp

theorem exec_hostReadResponse {ctx : HostCtx} {beats : List HostStatus} {st : HostStatus} (hst : readStatus beats = st) :
    exec (.hostReadResponse ctx beats) s = .next (s.readResponse ctx st).close :=
  closed_congr ((if_pos hp).trans (congrArg (s.readResponse ctx) hst))

theorem exec_hostWriteResponse (ctx : HostCtx) (st : HostStatus) :
    exec (.hostWriteResponse ctx st) s = .next (s.writeResponse ctx st).close := closed_congr (if_pos hp)

end

/-- Reads of an attempt, of a tile's rows and of a chunk act in the attempt. -/
theorem State.readResponse_attempt (s : State) (row : BitVec 24) (op : BitVec 8) (ch : BitVec 32) (st : HostStatus) :
    ∀ ctx ∈ [HostCtx.attempt, .tile row, .chunk op ch], s.readResponse ctx st = s.attemptStatus st := by
  intro ctx hctx
  simp only [List.mem_cons, List.not_mem_nil, or_false] at hctx
  rcases hctx with rfl | rfl | rfl <;> rfl

theorem State.readResponse_recorded (s : State) (h : BitVec 14) (st : HostStatus) :
    ∀ ctx ∈ [HostCtx.other, .save, .descriptor h], s.readResponse ctx st = s.recordStatus st := by
  intro ctx hctx
  simp only [List.mem_cons, List.not_mem_nil, or_false] at hctx
  rcases hctx with rfl | rfl | rfl <;> rfl

theorem State.writeResponse_attempt (s : State) (row : BitVec 24) (op : BitVec 8) (ch : BitVec 32) {st : HostStatus} (hst : st ≠ .ok) :
    ∀ ctx ∈ [HostCtx.attempt, .tile row, .chunk op ch], s.writeResponse ctx st = (s.hostAnswered ctx).attemptStatus st := by
  intro ctx hctx
  simp only [List.mem_cons, List.not_mem_nil, or_false] at hctx
  rcases hctx with rfl | rfl | rfl
  · rfl
  · exact if_neg hst
  · exact if_neg hst

theorem State.writeResponse_ok (s : State) (h : BitVec 14) :
    ∀ ctx ∈ [HostCtx.other, .save, .attempt, .descriptor h], s.writeResponse ctx .ok = s.hostAnswered ctx := by
  intro ctx hctx
  simp only [List.mem_cons, List.not_mem_nil, or_false] at hctx
  rcases hctx with rfl | rfl | rfl | rfl
  · rfl
  · simp [State.writeResponse, State.saveStatus]
  · rfl
  · simp [State.writeResponse]

/-! ### Descriptors, tiles, chunks, loads and moves -/

theorem mem_insertNat (n : Nat) : ∀ l : List Nat, n ∈ insertNat n l
  | [] => List.mem_singleton_self n
  | x :: l => by
    unfold insertNat
    split
    · exact List.mem_cons_self
    · split
      · next h => exact h ▸ List.mem_cons_self
      · exact List.mem_cons_of_mem _ (mem_insertNat n l)

theorem State.damageDesc_live {h : Nat} (hlive : h ∈ s.layout.descs) :
    s.damageDesc h = { s with layout := { s.layout with damaged := insertNat h (s.layout.damaged.erase h) } } :=
  if_pos (List.contains_iff_mem.mpr hlive)

/-- A damaged entry is no descriptor. -/
theorem State.descOf_damaged {h : Nat} (hd : h ∈ s.layout.damaged) : s.descOf h = none := by
  unfold State.descOf
  exact if_neg (by simp [hd])

theorem State.writeResponse_descriptor {h : BitVec 14} {st : HostStatus} (hst : st ≠ .ok) :
    s.writeResponse (.descriptor h) st = ((s.hostAnswered (.descriptor h)).damageDesc h.toNat).recordStatus st := if_neg hst

theorem State.tileWritten_new {r : Nat} {x : Tile} (hx : x ∈ s.att.tiles) (hr : x.firstRow = r) (hready : s.tileReady x = true)
    (hnew : r ∉ s.att.written) : s.tileWritten r = s.modAtt (fun a => { a with written := r :: a.written }) := by
  refine if_pos ?_
  have hany : s.att.tiles.any (fun t => t.firstRow == r && s.tileReady t) = true :=
    List.any_eq_true.mpr ⟨x, hx, by simp [hr, hready]⟩
  rw [hany]
  simpa using hnew

theorem State.chunkWritten_new {op ch : Nat} {c : Coll} (hc : s.coll op = some c) (hlanded : ch ∈ c.landed) (hnew : ch ∉ c.doneCh) :
    s.chunkWritten op ch = s.closeChunk op ch := by
  unfold State.chunkWritten
  rw [hc]
  exact if_pos (by simp [hlanded, hnew])

theorem State.writeResponse_tile (s : State) (r : BitVec 24) :
    s.writeResponse (.tile r) .ok = (s.hostAnswered (.tile r)).tileWritten r.toNat := by simp [State.writeResponse]

theorem State.writeResponse_chunk (s : State) (op : BitVec 8) (ch : BitVec 32) :
    s.writeResponse (.chunk op ch) .ok = (s.hostAnswered (.chunk op ch)).chunkWritten op.toNat ch.toNat := by simp [State.writeResponse]

theorem State.saveStatus_fails {st : HostStatus} (hst : st ≠ .ok) (hdeep : s.power.state = .deep) :
    s.saveStatus st =
      ((({ s with power := { s.power with deepRefused := true, pllLock := true } } : State).resume.uncount 0x21828 1).recordStatus st) :=
  if_neg (by simp [hst, hdeep])

theorem State.loadStatus_fails {p : Fin 16} {index : Nat} {entry : Bool} {st : HostStatus} (hst : st ≠ .ok)
    (hl : (s.prog p).state = .loaded) :
    s.loadStatus p index entry st = s.refuseLoad p { reason := 11, index := index, entry := entry } := if_neg (by simp [hst, hl])

theorem State.loadStatus_passes {p : Fin 16} {index : Nat} {entry : Bool} {st : HostStatus} (h : st = .ok ∨ (s.prog p).state ≠ .loaded) :
    s.loadStatus p index entry st = s := if_pos (by simpa using h)

section
variable {p : Fin 16} {l e : Nat} {staging : Bool} {m : WMove}

theorem State.moveRead_named (hm : s.moveNamed p l e staging (fun m => m.src.isNone && !m.wait) = some m) (st : HostStatus) :
    s.moveRead p l e staging st = match st with
      | .ok => s.quarryWindow p m
      | .dataErr => s.windowAgain p m
      | .decodeErr => s.quarryFallback p m := by
  unfold State.moveRead
  rw [hm] <;> rfl

theorem State.moveWrite_named (hm : s.moveNamed p l e staging (·.wait) = some m) (st : HostStatus) :
    s.moveWrite p l e staging st = match st with
      | .ok => s.windowDone p m
      | .dataErr => s.windowAgain p m
      | .decodeErr => s.quarryFallback p { m with wait := false } := by
  unfold State.moveWrite
  rw [hm] <;> rfl

end

/-- Settles O55: each response by its context and status. -/
theorem hostResponses : Obligations.HostResponses := by
  unfold Obligations.HostResponses
  intro s hp seen out
  have hread {ctx : HostCtx} {beats : List HostStatus} {st : HostStatus} {t : State} (hst : readStatus beats = st)
      (ht : s.readResponse ctx st = t) : exec (.hostReadResponse ctx beats) s = .next t.close := by
    rw [exec_hostReadResponse hp hst, ht]
  have hwrite {ctx : HostCtx} {st : HostStatus} {t : State} (ht : s.writeResponse ctx st = t) :
      exec (.hostWriteResponse ctx st) s = .next t.close := by
    rw [exec_hostWriteResponse hp, ht]
  refine ⟨fun row op ch ctx hctx => ⟨fun beats h => ?_, fun beats h hd => ?_, fun beats h hd => ?_, ?_, ?_⟩,
    fun h ctx hctx => ⟨fun beats h => ?_, fun beats h hd => ?_, fun beats h hd => ?_⟩, hwrite rfl, hwrite rfl,
    fun h hlive => ?_, fun h ctx hctx => hwrite (s.writeResponse_ok h ctx hctx), fun row x hx hr hready hnew => ?_,
    fun op ch c hc hlanded hnew => ?_, fun p index entry beats => ⟨fun hbad hl => ?_, fun hgood => ?_⟩,
    fun p l e staging m hm => ⟨?_, ?_⟩, fun p l e staging m hm => ⟨?_, ?_, ?_⟩, fun st hst hdeep => ?_⟩
  · exact hread (readStatus_decodeErr h) (s.readResponse_attempt row op ch _ ctx hctx)
  · exact hread (readStatus_dataErr h hd) (s.readResponse_attempt row op ch _ ctx hctx)
  · exact hread (readStatus_ok h hd) (s.readResponse_attempt row op ch _ ctx hctx)
  · exact hwrite (s.writeResponse_attempt row op ch (by simp) ctx hctx)
  · exact hwrite (s.writeResponse_attempt row op ch (by simp) ctx hctx)
  · exact hread (readStatus_decodeErr h) (s.readResponse_recorded _ _ ctx hctx)
  · exact hread (readStatus_dataErr h hd) (s.readResponse_recorded _ _ ctx hctx)
  · exact hread (readStatus_ok h hd) (s.readResponse_recorded _ _ ctx hctx)
  · have hdamage := State.damageDesc_live (s := s.hostAnswered (.descriptor h)) hlive
    have hfails {st : HostStatus} (hst : st ≠ .ok) := hwrite ((State.writeResponse_descriptor hst).trans
      (congrArg (fun u : State => u.recordStatus st) hdamage))
    exact ⟨hfails (st := .dataErr) (by simp), hfails (st := .decodeErr) (by simp), State.descOf_damaged (mem_insertNat _ _)⟩
  · exact hwrite ((s.writeResponse_tile row).trans (State.tileWritten_new (s := s.hostAnswered (.tile row)) hx hr hready hnew))
  · exact hwrite ((s.writeResponse_chunk op ch).trans (State.chunkWritten_new (s := s.hostAnswered (.chunk op ch)) hc hlanded hnew))
  · have hst : readStatus beats ≠ .ok := by
      by_cases hdec : .decodeErr ∈ beats
      · simp [readStatus_decodeErr hdec]
      · simp [readStatus_dataErr hdec (hbad.resolve_left hdec)]
    exact hread rfl (State.loadStatus_fails hst hl)
  · exact hread rfl (State.loadStatus_passes (hgood.imp_left fun h => readStatus_ok h.1 h.2))
  · exact hread rfl (State.moveRead_named hm .ok)
  · exact hread rfl (State.moveRead_named hm .dataErr)
  · exact hwrite (State.moveWrite_named (s := s.hostAnswered _) hm .ok)
  · exact hwrite (State.moveWrite_named (s := s.hostAnswered _) hm .dataErr)
  · exact hwrite (State.moveWrite_named (s := s.hostAnswered _) hm .decodeErr)
  · exact hwrite (State.saveStatus_fails (s := s.hostAnswered .save) hst hdeep)

end Sys2Proof.Machine
end

section
/-! SUPPORT. ARRIVE, RELEASE, ABORT and REDUCE at a node of the tree (R280, R288, R307, R308, R317, R318). -/
namespace Sys2Proof.Machine

variable {s : State} {l : Fin 6} {h : MortarHdr}

/-- A message that comes in sequence is handled after its acceptance by the lane. -/
theorem mortarIn_closes {b : MortarBody} {t : State} (hc : s.messageComes l h b) (hp : plainBody b = true) (ha : isAdm b = false)
    (ht : (s.afterMessage l).handleMortar l h b = t) :
    (Host.Outcome.next (s.mortarIn l h b).close : Result) = .next t.close :=
  closed_congr ((State.mortarIn_handled hc hp ha).trans ht)

theorem State.sendDown_bar (s : State) (o : MemberId) (b : MortarBody) : (s.sendDown o b).mortar.bar = s.mortar.bar :=
  State.each_same (fun u => u.mortar.bar) (fun u l => (State.sendLane_tree u l o true b).2.1) _ s

/-- A message comes on the lane that leads up. -/
theorem State.afterMessage_fromUp (hup : s.upLane = some l.val) : decide (some l.val = (s.afterMessage l).upLane) = true :=
  decide_eq_true hup.symm

/-! ### The window of a GEN (R318) -/

/-- A GEN more than one ahead, and fewer than 1,023 behind. -/
def State.genOutside (s : State) (g : BitVec 16) : Prop := 1 < (g - s.sched.curGen).toNat ∧ (g - s.sched.curGen).toNat < 65536 - 1023

section
variable {g : BitVec 16} (hb : s.mortar.bar.begun = true)
include hb

/-- The verdict by the distance alone, once the barriers have begun. -/
theorem State.genVerdict_eq : s.genVerdict g = if (g - s.sched.curGen).toNat ≤ 1 then .current
    else if 65536 - 1023 ≤ (g - s.sched.curGen).toNat then .stale else .outside := by
  unfold State.genVerdict
  rw [hb]
  exact ite_iff_congr (by rw [Bool.not_true, Bool.false_or]; exact decide_eq_true_iff) _ _

theorem State.genVerdict_current (hg : (g - s.sched.curGen).toNat ≤ 1) : s.genVerdict g = .current :=
  (State.genVerdict_eq hb).trans (if_pos hg)

theorem State.genVerdict_stale (hg : 65536 - 1023 ≤ (g - s.sched.curGen).toNat) : s.genVerdict g = .stale :=
  (State.genVerdict_eq hb).trans ((if_neg (by omega)).trans (if_pos hg))

theorem State.genVerdict_outside (hg : s.genOutside g) : s.genVerdict g = .outside := by
  obtain ⟨hlo, hhi⟩ := hg
  exact (State.genVerdict_eq hb).trans ((if_neg (by omega)).trans (if_neg (by omega)))

end

/-! ### ARRIVE -/

section
variable {a : ArriveBody} (hb : s.mortar.bar.begun = true) (hn : a.neutral = false)
include hb hn

theorem State.arriveVerdict_other (hbn : a.bn ≠ s.mortar.bar.bn) :
    s.arriveVerdict a = if (a.bn - s.mortar.bar.bn).toNat = 2 ^ 31 then .outside else .stale := by
  unfold State.arriveVerdict State.bnUndefined
  rw [if_neg (by simp [hn, hb])]
  split
  · next h => exact (if_pos (of_decide_eq_true h)).symm
  · next h =>
    rw [if_neg (fun hu => h (decide_eq_true hu)), if_pos (by simpa using hbn)]

theorem State.arriveVerdict_same (hbn : a.bn = s.mortar.bar.bn) : s.arriveVerdict a = s.genVerdict a.gen := by
  unfold State.arriveVerdict State.bnUndefined
  rw [if_neg (by simp [hn, hb]), hbn, if_neg (by simp), if_neg (by simp)]

end

section
variable {a : ArriveBody} (hk : a.kind ≠ .first) (hl : 2 ≤ l.val)
include hk hl

theorem State.takeArrive_outside (hv : (s.afterMessage l).arriveVerdict a = .outside) :
    (s.afterMessage l).takeArrive l h a = (s.afterMessage l).windowFault h.origin 15 := by
  have harrived : (s.afterMessage l).asArrived a = a := if_neg (by simp [hk])
  unfold State.takeArrive
  dsimp only
  rw [harrived, if_neg (by omega), hv]

theorem State.takeArrive_stale (hv : (s.afterMessage l).arriveVerdict a = .stale) :
    (s.afterMessage l).takeArrive l h a = s.afterMessage l := by
  have harrived : (s.afterMessage l).asArrived a = a := if_neg (by simp [hk])
  unfold State.takeArrive
  dsimp only
  rw [harrived, if_neg (by omega), hv]

theorem State.takeArrive_held (hv : (s.afterMessage l).arriveVerdict a = .current) (hq : a.admitReq = false)
    (ho : h.origin = (s.lane l.val).partner) :
    (s.afterMessage l).takeArrive l h a = (s.afterMessage l).holdArrive l h.origin a := by
  have harrived : (s.afterMessage l).asArrived a = a := if_neg (by simp [hk])
  have hpartner : ((s.afterMessage l).lane l.val).partner = h.origin := by
    rw [State.afterMessage_lane, ho]
  unfold State.takeArrive
  dsimp only
  rw [harrived, if_neg (by omega), hv]
  dsimp only
  rw [hq, hpartner]
  exact if_neg (fun hne => hne rfl)

end

/-- A child's own arrival, where the child is: back at its primary lane, or re-homed here and known. -/
theorem State.holdArrive_primary (s : State) (l : Nat) {m : MemberId} {a : ArriveBody} (hn : a.neutral = false) (hm : m ∈ s.primaryKids) :
    s.holdArrive l m a = ((s.modTree (fun t => { t with kidsOut := t.kidsOut.filter (· != m) })).modBar (fun b => { b with
      kids := Tab.put b.kids m.toNat a, lastIn := s.tb })).gather := by
  have hm' : s.primaryKids.contains m = true := List.contains_iff_mem.mpr hm
  unfold State.holdArrive
  simp only [hn, Bool.false_and, Bool.false_eq_true, if_false, hm', if_true]
  rfl

theorem State.holdArrive_secondary (s : State) {l : Nat} {m : MemberId} {a : ArriveBody} (hn : a.neutral = false) (hm : m ∉ s.primaryKids)
    (hin : (Tab.get? s.mortar.tree.kidsIn l).isSome = true) :
    s.holdArrive l m a = (s.modBar (fun b => { b with kids := Tab.put b.kids m.toNat a, lastIn := s.tb })).gather := by
  have hm' : s.primaryKids.contains m = false := by simpa using hm
  have hin' : (Tab.get? s.mortar.tree.kidsIn l).isNone = false := by
    rw [← Option.not_isSome, hin]
    rfl
  unfold State.holdArrive
  simp only [hn, Bool.false_and, Bool.false_eq_true, if_false, hm', hin']

/-! ### RELEASE -/

section
variable {x : ReleaseBody} (hb : s.mortar.bar.begun = true)
include hb

theorem State.takeRelease_incomparable
    (hu : (x.bn - s.mortar.bar.bn).toNat = 2 ^ 31 ∨ (x.membVer - s.mortar.tree.membVer).toNat = 2 ^ 15) :
    s.takeRelease h x = s.windowFault h.origin 15 := by
  have hundefined : (s.mortar.bar.begun && (s.bnUndefined x.bn || s.verUndefined x.membVer)) = true := by
    rw [hb, Bool.true_and, Bool.or_eq_true]
    exact hu.imp decide_eq_true decide_eq_true
  exact if_pos hundefined

variable (hbn : (x.bn - s.mortar.bar.bn).toNat ≠ 2 ^ 31) (hver : (x.membVer - s.mortar.tree.membVer).toNat ≠ 2 ^ 15)
include hbn hver

/-- A release that can be compared is judged by its BN, then by its GEN. -/
theorem State.takeRelease_comparable : s.takeRelease h x =
    if x.bn ≠ s.mortar.bar.bn then s
    else if s.genVerdict x.gen = .outside then s.windowFault h.origin 15
    else if s.genVerdict x.gen = .stale then s
    else (s.sendDown h.origin (.release x)).holdRelease x := by
  have hdefined : (s.mortar.bar.begun && (s.bnUndefined x.bn || s.verUndefined x.membVer)) = false := by
    rw [hb, Bool.true_and, Bool.or_eq_false_iff]
    exact ⟨decide_eq_false hbn, decide_eq_false hver⟩
  unfold State.takeRelease
  dsimp only
  rw [hdefined, hb, if_neg Bool.false_ne_true]
  exact ite_iff_congr (by rw [Bool.true_and]; exact decide_eq_true_iff) _ _

end

/-- Once the barriers have begun a release taken waits for its T_REL. -/
theorem State.holdRelease_begun {x : ReleaseBody} (hb : s.mortar.bar.begun = true) :
    s.holdRelease x = (s.startVersions x.kind).modBar (fun b => { b with release := some x, relAt := s.tb }) := by
  unfold State.holdRelease
  dsimp only
  rw [hb]
  exact if_pos (Bool.true_or _)

/-! ### ABORT and REDUCE: judged by the distance of their GEN -/

section
variable {a : AbortBody}

theorem State.takeAbort_outside (hg : s.genOutside a.gen) : s.takeAbort l h a = s.windowFault h.origin 15 :=
  if_pos (by rw [decide_eq_true hg.1, decide_eq_true hg.2]; rfl)

theorem State.takeAbort_stale (hg : 65536 - 1023 ≤ (a.gen - s.sched.curGen).toNat) : s.takeAbort l h a = s :=
  (if_neg (by rw [decide_eq_false (Nat.not_lt.mpr hg), Bool.and_false]; exact Bool.false_ne_true)).trans (if_pos (by omega))

theorem State.takeAbort_current (hg : (a.gen - s.sched.curGen).toNat ≤ 1) : s.takeAbort l h a =
    if l.val < 2 then
      (s.sendDown h.origin (.abort a)).doAbort { origin := h.origin, code := a.code, gen := a.gen, attempt := a.attempt }
    else if s.isRoot then s.rootAbort { origin := h.origin, code := a.code, gen := a.gen, attempt := a.attempt }
    else s.sendUp h.origin (.abort a) :=
  (if_neg (by rw [decide_eq_false (Nat.not_lt.mpr hg), Bool.false_and]; exact Bool.false_ne_true)).trans (if_neg (by omega))

/-- An ABORT that is not for a re-homing, from below or from the up lane in use, is taken. -/
theorem State.handle_abort (hc : a.code ≠ Code.mortarRehome) (hup : l.val < 2 → s.upLane = some l.val) :
    s.handleMortar l h (.abort a) = s.takeAbort l h a := by
  have hwrong : ¬(decide (l.val < 2) && !decide (some l.val = s.upLane)) = true := by
    rw [Bool.and_eq_true, decide_eq_true_iff, Bool.not_eq_true', decide_eq_false_iff_not]
    exact fun hw => hw.2 (hup hw.1).symm
  exact (if_neg hwrong).trans (if_neg hc)

end

section
variable {down : Bool} {m : MemberId} {b : ReduceBody}

theorem State.takeReduce_outside (hg : s.genOutside b.gen) : s.takeReduce down m b = s.windowFault m 15 :=
  if_pos (by rw [decide_eq_true hg.1, decide_eq_true hg.2]; rfl)

theorem State.takeReduce_stale (hg : 65536 - 1023 ≤ (b.gen - s.sched.curGen).toNat) : s.takeReduce down m b = s :=
  (if_neg (by rw [decide_eq_false (Nat.not_lt.mpr hg), Bool.and_false]; exact Bool.false_ne_true)).trans (if_pos (by omega))

variable (hg : (b.gen - s.sched.curGen).toNat ≤ 1)
include hg

theorem State.takeReduce_down : s.takeReduce true m b = (s.sendDown m (.reduce b)).sumResult b :=
  (if_neg (by rw [decide_eq_false (Nat.not_lt.mpr hg), Bool.false_and]; exact Bool.false_ne_true)).trans (if_neg (by omega))

theorem State.takeReduce_up : s.takeReduce false m b =
    match (s.noteSum b (fun t => { t with kids := Tab.put t.kids m.toNat b.words })).pushSum b with
    | (u, some w) => u.sumResult { b with words := w }
    | (u, none) => u :=
  (if_neg (by rw [decide_eq_false (Nat.not_lt.mpr hg), Bool.false_and]; exact Bool.false_ne_true)).trans (if_neg (by omega))

end

/-- A REDUCE from below, or from the up lane in use, is taken. -/
theorem State.handle_reduce {b : ReduceBody} (hup : l.val < 2 → s.upLane = some l.val) : s.handleMortar l h (.reduce b) =
    s.takeReduce (decide (l.val < 2)) (if l.val < 2 then h.origin else (s.lane l.val).partner) b := by
  have hwrong : ¬(decide (l.val < 2) && !decide (some l.val = s.upLane)) = true := by
    rw [Bool.and_eq_true, decide_eq_true_iff, Bool.not_eq_true', decide_eq_false_iff_not]
    exact fun hw => hw.2 (hup hw.1).symm
  exact if_neg hwrong

/-! ### The obligation, message by message -/

/-- The state with EPOCH_WINDOW raised against a member. -/
def State.windowRaised (s : State) (m : MemberId) : State := s.raise Code.epochWindow { unit := 15, member := some m }

/-- An arrival of the barrier that gathers, of the present pass or the next, is taken for the child it comes from. -/
theorem arrive_current {a : ArriveBody} (hc : s.messageComes l h (.arrive a)) (hl : 2 ≤ l.val) (hn : a.neutral = false)
    (hq : a.admitReq = false) (ho : h.origin = (s.lane l.val).partner) (hb : s.mortar.bar.begun = true) (hk : a.kind ≠ .first)
    (hbn : a.bn = s.mortar.bar.bn) (hg : (a.gen - s.sched.curGen).toNat ≤ 1) :
    exec (.arrive l h a) s = .next ((s.afterMessage l).holdArrive l h.origin a).close :=
  have hv : (s.afterMessage l).arriveVerdict a = .current :=
    (State.arriveVerdict_same (s := s.afterMessage l) hb hn hbn).trans (State.genVerdict_current (s := s.afterMessage l) hb hg)
  mortarIn_closes hc rfl rfl (State.takeArrive_held hk hl hv hq ho)

theorem arrive_outside {a : ArriveBody} (hc : s.messageComes l h (.arrive a)) (hl : 2 ≤ l.val) (hk : a.kind ≠ .first)
    (hv : (s.afterMessage l).arriveVerdict a = .outside) :
    exec (.arrive l h a) s = .next ((s.afterMessage l).windowRaised h.origin).close :=
  mortarIn_closes hc rfl rfl (State.takeArrive_outside hk hl hv)

theorem arrive_stale {a : ArriveBody} (hc : s.messageComes l h (.arrive a)) (hl : 2 ≤ l.val) (hk : a.kind ≠ .first)
    (hv : (s.afterMessage l).arriveVerdict a = .stale) :
    exec (.arrive l h a) s = .next (s.afterMessage l).close :=
  mortarIn_closes hc rfl rfl (State.takeArrive_stale hk hl hv)

/-- A release on the up lane in use is taken after its acceptance. -/
theorem exec_releaseMessage {x : ReleaseBody} {t : State} (hc : s.messageComes l h (.release x)) (hup : s.upLane = some l.val)
    (ht : (s.afterMessage l).takeRelease h x = t) : exec (.release l h x) s = .next t.close :=
  mortarIn_closes hc rfl rfl ((if_pos (State.afterMessage_fromUp hup)).trans ht)

theorem exec_abortMessage {a : AbortBody} {t : State} (hc : s.messageComes l h (.abort a)) (hm : a.code ≠ Code.mortarRehome)
    (hup : l.val < 2 → s.upLane = some l.val) (ht : (s.afterMessage l).takeAbort l h a = t) :
    exec (.abort l h a) s = .next t.close :=
  mortarIn_closes hc rfl rfl ((State.handle_abort (s := s.afterMessage l) hm hup).trans ht)

theorem exec_reduceMessage {b : ReduceBody} {t : State} (hc : s.messageComes l h (.reduce b)) (hup : l.val < 2 → s.upLane = some l.val)
    (ht : (s.afterMessage l).takeReduce (decide (l.val < 2)) (if l.val < 2 then h.origin else (s.lane l.val).partner) b = t) :
    exec (.reduce l h b) s = .next t.close := by
  have hpartner : ((s.afterMessage l).lane l.val).partner = (s.lane l.val).partner := by
    rw [State.afterMessage_lane]
  refine mortarIn_closes hc rfl rfl ((State.handle_reduce (s := s.afterMessage l) hup).trans ?_)
  rw [hpartner, ht]

theorem State.afterMessage_sendDown_tb (m : MemberId) (b : MortarBody) : ((s.afterMessage l).sendDown m b).tb = s.tb :=
  ((s.afterMessage l).sendDown_tb m b).trans rfl

/-- Settles O51: each message is accepted by its lane, then judged by its BN, MEMB_VER and GEN, then taken by its node. -/
theorem barrierMessages : Obligations.BarrierMessages := by
  unfold Obligations.BarrierMessages
  intro s l h
  dsimp only
  refine ⟨?_, ?_, ?_, ?_⟩
  case refine_1 =>
    intro a hc hl hn hq ho hb hk
    have hother := State.arriveVerdict_other (s := s.afterMessage l) hb hn
    have hsame := State.arriveVerdict_same (s := s.afterMessage l) hb hn
    refine ⟨?_, ?_, ?_, ?_, ?_⟩
    · intro hhalf
      have hne : a.bn ≠ s.mortar.bar.bn := by
        intro he
        rw [he, BitVec.sub_self] at hhalf
        exact absurd hhalf (by decide)
      exact arrive_outside hc hl hk ((hother hne).trans (if_pos hhalf))
    · exact fun hne hhalf => arrive_stale hc hl hk ((hother hne).trans (if_neg hhalf))
    · exact fun he hg => arrive_stale hc hl hk ((hsame he).trans (State.genVerdict_stale (s := s.afterMessage l) hb hg))
    · exact fun he hg => arrive_outside hc hl hk ((hsame he).trans (State.genVerdict_outside (s := s.afterMessage l) hb hg))
    · intro he hg
      have hheld := arrive_current hc hl hn hq ho hb hk he hg
      refine ⟨fun hm => ?_, fun hm hin => ?_⟩
      · exact hheld.trans (closed_congr (State.holdArrive_primary (s.afterMessage l) l.val hn hm))
      · exact hheld.trans (closed_congr (State.holdArrive_secondary (s.afterMessage l) hn hm hin))
  case refine_2 =>
    intro x hc hup hb
    refine ⟨fun hu => exec_releaseMessage hc hup (State.takeRelease_incomparable (s := s.afterMessage l) hb hu), fun hbn hver => ?_⟩
    have hjudged := State.takeRelease_comparable (s := s.afterMessage l) (h := h) (x := x) hb hbn hver
    refine ⟨fun hne => ?_, fun he hg => ?_, fun he hg => ?_, fun he hg => ?_⟩
    · exact exec_releaseMessage hc hup (hjudged.trans (if_pos hne))
    · have hv := State.genVerdict_stale (s := s.afterMessage l) hb hg
      exact exec_releaseMessage hc hup (hjudged.trans ((if_neg (fun hne => hne he)).trans
        ((if_neg (by rw [hv]; exact GenVerdict.noConfusion)).trans (if_pos hv))))
    · exact exec_releaseMessage hc hup (hjudged.trans ((if_neg (fun hne => hne he)).trans
        (if_pos (State.genVerdict_outside (s := s.afterMessage l) hb hg))))
    · have hv := State.genVerdict_current (s := s.afterMessage l) hb hg
      have hbegun : ((s.afterMessage l).sendDown h.origin (.release x)).mortar.bar.begun = true := by
        rw [State.sendDown_bar]
        exact hb
      refine exec_releaseMessage hc hup (hjudged.trans ((if_neg (fun hne => hne he)).trans
        ((if_neg (by rw [hv]; exact GenVerdict.noConfusion)).trans ((if_neg (by rw [hv]; exact GenVerdict.noConfusion)).trans ?_))))
      rw [State.holdRelease_begun hbegun, State.afterMessage_sendDown_tb]
  case refine_3 =>
    intro a hc hm hup
    refine ⟨fun hg => exec_abortMessage hc hm hup (State.takeAbort_stale (s := s.afterMessage l) hg),
      fun hg => exec_abortMessage hc hm hup (State.takeAbort_outside (s := s.afterMessage l) hg), fun hg => ?_⟩
    have hjudged := State.takeAbort_current (s := s.afterMessage l) (l := l) (h := h) hg
    refine ⟨fun hl => ?_, fun hl hr => ?_, fun hl hr => ?_⟩
    · exact exec_abortMessage hc hm hup (hjudged.trans (if_pos hl))
    · exact exec_abortMessage hc hm hup (hjudged.trans ((if_neg (by omega)).trans (if_pos hr)))
    · exact exec_abortMessage hc hm hup (hjudged.trans ((if_neg (by omega)).trans (if_neg (Bool.eq_false_iff.mp hr))))
  case refine_4 =>
    intro b hc hup
    refine ⟨fun hg => exec_reduceMessage hc hup (State.takeReduce_stale (s := s.afterMessage l) hg),
      fun hg => exec_reduceMessage hc hup (State.takeReduce_outside (s := s.afterMessage l) hg), fun hg => ⟨fun hl => ?_, fun hl => ?_⟩⟩
    · refine exec_reduceMessage hc hup ?_
      rw [decide_eq_true hl, if_pos hl]
      exact State.takeReduce_down (s := s.afterMessage l) hg
    · refine exec_reduceMessage hc hup ?_
      rw [decide_eq_false (Nat.not_lt.mpr hl), if_neg (Nat.not_lt.mpr hl)]
      exact State.takeReduce_up (s := s.afterMessage l) hg

end Sys2Proof.Machine
end

section
/-! SUPPORT. T_REL, T_next and JOIN_WAIT_TB (R220, R226, R308, R425). -/
namespace Sys2Proof.Machine

variable {s : State}

/-! ### The release held -/

theorem State.wakeRelease_none (hr : s.mortar.bar.release = none) : s.wakeRelease = s := by
  unfold State.wakeRelease
  rw [hr]

section
variable {x : ReleaseBody} (hr : s.mortar.bar.release = some x) 
include hr

theorem State.wakeRelease_light (hp : s.boot.powered = true) (hh : s.held = false) (hl : s.power.state = .light) :
    s.wakeRelease = (s.until x.tRel.toNat).resume := by
  unfold State.wakeRelease
  rw [hr, hp, hh, hl]
  rfl

theorem State.wakeRelease_running (hl : s.power.state = .run) : s.wakeRelease = s := by
  unfold State.wakeRelease
  rw [hr, hl]
  rfl

/-- A running member notes the release that it holds and acts on it. -/
theorem State.keystone_running (hp : s.boot.powered = true) (hh : s.held = false) (hl : s.power.state = .run) :
    s.keystone = ((s.until x.tRel.toNat).noteRelease x).1.actOnRelease x (s.until x.tRel.toNat).settled
      ((s.until x.tRel.toNat).noteRelease x).2 := by
  unfold State.keystone
  rw [hr, hp, hh, hl]
  rfl

end

theorem State.noteRelease_running (x : ReleaseBody) (hl : s.power.state = .run) :
    ((s.until x.tRel.toNat).noteRelease x).1.power.state = .run := by
  obtain ⟨-, -, -, hpower⟩ := State.noteRelease_bar (s.until x.tRel.toNat) x
  rw [hpower, State.until_power]
  exact hl

theorem State.actOnRelease_admitted {x : ReleaseBody} {before fresh : List MemberId} (hl : s.power.state = .run)
    (hp : s.boot.phase = .admitted) : s.actOnRelease x before fresh = s.releaseAdmitted x before fresh := by
  unfold State.actOnRelease
  rw [hl, hp]
  rfl

theorem State.actOnRelease_join {x : ReleaseBody} {before fresh : List MemberId} (hl : s.power.state = .run)
    (hp : s.boot.phase = .join) : s.actOnRelease x before fresh = s.releaseJoin x := by
  unfold State.actOnRelease
  rw [hl, hp]
  rfl

/-- The agreed values are all that the barrier's state takes from a release here. -/
theorem State.agree_bar (s : State) (x : ReleaseBody) :
    (s.agree x).mortar.bar.lastTRel = s.mortar.bar.lastTRel ∧ (s.agree x).mortar.bar.late = s.mortar.bar.late := by
  have hprogs : ∀ (u : State) (k : Nat),
      (if !(x.mask.getLsbD k) && (u.prog (Fin.ofNat 16 k)).deficit ≠ 0 then
        u.setProg (Fin.ofNat 16 k) { u.prog (Fin.ofNat 16 k) with deficit := 0 } else u).mortar = u.mortar := by
    intro u k
    split <;> rfl
  unfold State.agree
  dsimp only
  rw [State.each_same State.mortar hprogs]
  exact ⟨rfl, rfl⟩

theorem State.releaseJoin_first {x : ReleaseBody} (hb : s.mortar.bar.late = false) : s.releaseJoin x =
    let r := s.agree x
    let r : State := { r with sched := { r.sched with count := 0 } }
    ((r.settleLoss r.mortar.tree.roster).becomeReady .admitted).boundary x s.lastRel none [] := by
  obtain ⟨hrel, hlate⟩ := s.agree_bar x
  have hlast : (s.agree x).lastRel = s.lastRel := congrArg BitVec.toNat hrel
  unfold State.releaseJoin
  dsimp only
  rw [hlate, hb, ← hlast]
  rfl

/-! ### The slot -/

theorem State.openSlot_none (hn : s.sched.next = none) : s.openSlot = s := by
  unfold State.openSlot
  rw [hn]

section
variable {x : NextSlot} (hx : s.sched.next = some x) (hl : s.power.state = .run) (hp : s.boot.phase = .admitted) (ha : x.aborted = false)
  (hown : s.mortar.bar.own = none) (hfresh : x.count = none) (hopen : s.openNum = none) (hfree : s.sched.seqs = [])
include hx hl hp ha hown hfresh hopen hfree

/-- A fresh pass opens on sequencer 0 when none is in use, with the layer-pass counter as its generation. -/
theorem State.openSlot_fresh : s.openSlot =
    let u := s.until x.tNext
    let u := u.moveProg x.prog (u.placeOf x.prog false)
    let entry := (u.prog x.prog).passIndex
    let e := u.passEntry (u.prog x.prog).image entry
    let u := if e.last then u.modPlacement x.prog (fun r => { r with lastOpened := true }) else u
    let q : Sequencer :=
      { prog := x.prog, entry := entry, layer := BitVec.ofNat 8 e.layer,
        gen := BitVec.ofNat 16 u.sched.count.toNat, attempt := x.attempt, tOpen := x.tNext, pc := e.code,
        names := u.codeGroup x.prog e.code }
    let r : State := { u with sched := { u.sched with
      seqs := [(0, q)], tOpen := x.tNext, tEnd := x.tNext + e.slot, next := none, count := u.sched.count + 1, curGen := q.gen,
      curLayer := q.layer, curAttempt := q.attempt, slotRaised := false } }
    (((r.newInterval.dropSums q).setPop x.prog 1).openPass q u.sched.count).replayEarly := by
  have hsched : (s.until x.tNext).sched = s.sched := by rw [State.until_frame]
  have hopen' : (s.until x.tNext).openNum = none := by
    unfold State.openNum at hopen ⊢
    rw [hsched, hopen]
  have hseq : (s.until x.tNext).freeSeq = some 0 := by
    unfold State.freeSeq
    rw [hsched, hfree]
    rfl
  have hready : (x.aborted || s.boot.phase ≠ .admitted || s.power.state ≠ .run || s.mortar.bar.own.isSome) = false := by
    rw [ha, hp, hl, hown]
    rfl
  have hseqs : ∀ (p : Fin 16) (g : Place) (b : Bool) (f : Placement → Placement),
      (if b then ((s.until x.tNext).moveProg p g).modPlacement p f else (s.until x.tNext).moveProg p g).sched.seqs = [] := by
    intro p g b f
    split <;> exact (congrArg (fun c => c.seqs) hsched).trans hfree
  unfold State.openSlot
  rw [hx]
  dsimp only
  rw [hready, hopen', hseq, hfresh]
  dsimp only [Option.isSome_none, Option.getD_none, Bool.false_eq_true, if_false]
  simp only [Bool.false_eq_true, if_false, hseqs]
  rfl

end

/-! ### JOIN_WAIT_TB -/

theorem State.joinExpiry_none (ho : s.mortar.bar.own = none) : s.joinExpiry = s.until (s.reg 0x3040 0 32) := by
  have hown : (s.until (s.reg 0x3040 0 32)).mortar.bar.own = none := by
    rw [State.until_mortar]
    exact ho
  unfold State.joinExpiry
  dsimp only
  rw [hown]

theorem State.until_bar (s : State) (n : Nat) : (s.until n).mortar.bar = s.mortar.bar := by rw [State.until_mortar]

theorem State.until_isRoot (s : State) (n : Nat) : (s.until n).isRoot = s.isRoot := by
  rw [State.until_frame]
  rfl

theorem State.until_me (s : State) (n : Nat) : (s.until n).me = s.me := by
  rw [State.until_frame]
  rfl

section
variable {own : ArriveBody} (ho : s.mortar.bar.own = some own) (hb : s.mortar.bar.begun = false) (hs : s.mortar.bar.sentUp = false)
  (hk : own.kind = .first) (hkids : s.mortar.bar.kids = [])
include ho hb hs hk hkids

/-- A first barrier with no child's arrival goes on with the member's own. -/
theorem State.joinExpiry_alone : s.joinExpiry =
    let r := s.until (s.reg 0x3040 0 32)
    if s.isRoot then (r.modBar (fun b => { b with lastIn := r.tb })).rootRelease own
    else (r.sendUp s.me (.arrive own)).modBar (fun b => { b with sentUp := true }) := by
  unfold State.joinExpiry
  dsimp only
  rw [State.until_bar, ho, State.until_isRoot, State.until_me]
  dsimp only
  rw [hb, hs, hk, hkids]
  rfl

end

theorem State.lanesRun_of (hp : s.boot.powered = true) (hh : s.held = false) (hm : s.boot.memberValid = true) : s.lanesRun = true := by
  unfold State.lanesRun
  rw [hp, hh, hm]
  rfl

/-- Settles O52: T_REL through the release's note, T_next through the fresh pass, JOIN_WAIT_TB through the member's own arrival. -/
theorem barrierAndSlotTimes : Obligations.BarrierAndSlotTimes := by
  unfold Obligations.BarrierAndSlotTimes
  intro s hp hh
  dsimp only
  refine ⟨?_, ?_, ?_, ?_, ?_, ?_, ?_, ?_⟩
  case refine_1 =>
    intro hr
    refine closed_congr ?_
    rw [State.wakeRelease_none hr]
    unfold State.keystone
    rw [hr]
  case refine_2 =>
    intro x hr hl
    exact closed_congr (congrArg State.keystone (State.wakeRelease_light hr hp hh hl))
  case refine_3 =>
    intro x hr hl _ _
    obtain ⟨hbn, hrel, hown, -⟩ := State.noteRelease_bar (s.until x.tRel.toNat) x
    refine ⟨⟨hbn, hrel, hown⟩, fun hj hb => closed_congr ?_⟩
    rw [State.wakeRelease_running hr hl, State.keystone_running hr hp hh hl,
      State.actOnRelease_join (State.noteRelease_running x hl) hj, State.releaseJoin_first hb]
  case refine_4 =>
    intro x hr hl ha hrun
    refine closed_congr ?_
    rw [State.wakeRelease_running hr hl, State.keystone_running hr hp hh hl, State.actOnRelease_admitted hrun ha]
  case refine_5 =>
    intro x hx hl ha hna hown hfresh hopen hfree
    have hawake : s.awake = true := by
      unfold State.awake
      rw [hp, hh, hl]
      rfl
    exact closed_awake hawake (State.openSlot_fresh hx hl ha hna hown hfresh hopen hfree)
  case refine_6 =>
    intro hn
    refine closed_congr ?_
    rw [State.openSlot_none hn, ite_self]
  case refine_7 =>
    intro own ho hm hb hs hk hkids
    have hruns := State.lanesRun_of hp hh hm
    have hexec : exec .joinWaitExpiry s = .next s.joinExpiry := congrArg Host.Outcome.next (if_pos hruns)
    rw [hexec, State.joinExpiry_alone ho hb hs hk hkids]
    exact ⟨fun hroot => congrArg _ (if_pos hroot), fun hroot => congrArg _ (if_neg (Bool.eq_false_iff.mp hroot))⟩
  case refine_8 =>
    intro ho hm
    have hruns := State.lanesRun_of hp hh hm
    exact congrArg Host.Outcome.next ((if_pos hruns).trans (State.joinExpiry_none ho))

end Sys2Proof.Machine
end

section
/-! SUPPORT. Mortar lanes: training by IDENT, heartbeats, NAK, calibration and silence (R298, R301, R304, R312, R313, R424). -/
namespace Sys2Proof.Machine

variable {s : State} {l : Fin 6} {h : MortarHdr}

/-! ### IDENT (R298) -/

/-- The partner is at the position that it names, and in the role that the table gives it on this lane. -/
def State.identFits (s : State) (l : Nat) (member : MemberId) (role : BitVec 8) (pos : BitVec 16) : Bool :=
  (s.atPos pos.toNat = member && pos.toNat < s.mortar.tree.roster.length) &&
    if l = 0 then !(s.myPos == 0) && member == s.parent && role == 2
    else if l = 1 then some member == s.secParent && role == 2
    else (role == 0 && s.primaryKids.contains member) || (role == 1 && s.secondaryKids.contains member)

section
variable {member : MemberId} {role : BitVec 8} {pos : BitVec 16}

theorem State.atPos_iff : (s.atPos pos.toNat = member && pos.toNat < s.mortar.tree.roster.length) = true ↔
    s.mortar.tree.roster[pos.toNat]? = some member := by
  unfold State.atPos
  rw [Bool.and_eq_true, decide_eq_true_iff, decide_eq_true_iff]
  constructor
  · rintro ⟨hm, hlt⟩
    rw [List.getElem?_eq_getElem hlt] at hm ⊢
    exact congrArg some hm
  · intro hm
    exact ⟨by rw [hm]; rfl, List.getElem?_eq_some_iff.mp hm |>.1⟩

theorem State.identFits_iff : s.identFits l.val member role pos = true ↔ s.partnerNamed l member role pos := by
  unfold State.identFits State.partnerNamed
  rw [Bool.and_eq_true, State.atPos_iff]
  refine and_congr_right fun _ => ?_
  by_cases h0 : l.val = 0
  · simp [h0, and_assoc]
  · by_cases h1 : l.val = 1
    · simp [h1, eq_comm (a := some member)]
    · have h2 : 2 ≤ l.val := by omega
      simp [h0, h1, h2]

/-- IDENT is handled by the lane logic, in every running state of the core. -/
theorem exec_identMessage (hr : s.lanesRun = true) (hp : s.power.state = .run) (hc : h.crc = crc32c (mortarBytes h (.ident member role pos))) :
    exec (.ident l h member role pos) s = .next (s.laneIdent l.val member role pos).close := by
  refine closed_congr ?_
  unfold State.mortarIn
  rw [hr]
  exact (if_pos hc).trans (State.acceptMortar_runs hp rfl)

theorem State.laneIdent_off (he : s.laneEnable l.val = false) : s.laneIdent l.val member role pos = s := by
  unfold State.laneIdent
  rw [he]
  rfl

section
variable (he : s.laneEnable l.val = true)
include he

theorem State.laneIdent_named (hn : s.identFits l.val member role pos = true) : s.laneIdent l.val member role pos =
    ((s.setLane l.val { trained := true, partner := member, lastRx := s.tb, clearFrom := s.tb }).sendIdent l.val).joinBy l.val := by
  unfold State.laneIdent
  rw [he]
  exact if_pos hn

theorem State.laneIdent_unnamed (hn : s.identFits l.val member role pos = false) : s.laneIdent l.val member role pos =
    (s.setLane l.val { s.lane l.val with trained := false, mismatch := true, partner := member }).sendIdent l.val := by
  unfold State.laneIdent
  rw [he]
  exact if_neg (Bool.eq_false_iff.mp hn)

end

end

/-- Only a block that lost itself, with no U0, joins by U1. -/
theorem State.joinBy_known {k : Nat} (hk : k ≠ 1 ∨ s.boot.selfLost = false ∨ (s.lane 0).trained = true) : s.joinBy k = s := by
  refine if_neg ?_
  rcases hk with hk | hk | hk <;> simp [hk]

theorem State.joinBy_lost {k : Nat} (hk : k = 1) (hlost : s.boot.selfLost = true) (hload : s.mortar.cal.loaded = false)
    (h0 : (s.lane 0).trained = false) :
    s.joinBy k = { s with mortar := { s.mortar with tree := { s.mortar.tree with rehomed := true } } } :=
  if_pos (by simp [hk, hlost, hload, h0])

/-! ### The beat (R312) -/

/-- The least of numbers that are all one number. -/
theorem sortBy_constant (c : Nat) : ∀ xs : List Nat, (∀ x ∈ xs, x = c) → xs ≠ [] → (sortBy id xs).head? = some c := by
  intro xs
  induction xs with
  | nil => exact fun _ hne => absurd rfl hne
  | cons x t ih =>
    intro hall _
    have hx : x = c := hall x List.mem_cons_self
    unfold sortBy
    by_cases ht : t = []
    · rw [ht, hx]
      rfl
    · have hhead := ih (fun y hy => hall y (List.mem_cons_of_mem x hy)) ht
      cases hs : sortBy id t with
      | nil =>
        rw [hs] at hhead
        cases hhead
      | cons y r =>
        rw [hs] at hhead
        have hy : y = c := Option.some.inj hhead
        unfold sortBy.insertByFirst
        rw [if_neg (by simp [hx, hy]), hx]
        rfl

/-- When every trained lane beats at t, the tick is that of t, on all of them. -/
theorem State.heartbeats_at {t : Nat} (hne : s.trainedLanes ≠ []) (ht : ∀ k ∈ s.trainedLanes, s.laneBeat k = t) :
    s.heartbeats = (s.until t).each s.trainedLanes (fun u k => u.sendLane k u.me (decide (2 ≤ k)) .heartbeat) := by
  have hbeat : s.nextBeat = t := by
    unfold State.nextBeat
    rw [sortBy_constant t _ (List.forall_mem_map.mpr ht) (by simpa using hne)]
    rfl
  have hall : s.trainedLanes.filter (fun k => s.laneBeat k == t) = s.trainedLanes :=
    List.filter_eq_self.mpr (fun k hk => beq_iff_eq.mpr (ht k hk))
  unfold State.heartbeats
  dsimp only
  rw [hbeat, hall]

theorem State.laneBeat_loaded (hl : s.tbLoaded = true) (k : Nat) : s.laneBeat k = (s.tb / 5000 + 1) * 5000 := by
  unfold State.laneBeat
  rw [hl]
  exact Nat.zero_add _

theorem State.laneBeat_unloaded (hl : s.tbLoaded = false) (k : Nat) :
    s.laneBeat k = (s.lane k).clearFrom + ((s.tb - (s.lane k).clearFrom) / 5000 + 1) * 5000 := by
  unfold State.laneBeat
  rw [hl]
  rfl

theorem State.mem_trainedLanes (ht : (s.lane l.val).trained = true) : l.val ∈ s.trainedLanes :=
  List.mem_filter.mpr ⟨List.mem_range.mpr l.isLt, ht⟩

/-! ### HEARTBEAT and NAK received (R301, R312) -/

/-- Something came on the lane. -/
def State.heard (s : State) (l : Nat) : State := s.setLane l { s.lane l with lastRx := s.tb }

section
variable (ht : (s.lane l.val).trained = true)
include ht

theorem State.laneReceive_heartbeat (hc : h.crc = crc32c (mortarBytes h .heartbeat)) (hd : (h.seq + 1 - (s.lane l.val).rxNext).toNat ≤ 32) :
    s.laneReceive l.val h .heartbeat =
      (if (h.seq + 1 - (s.lane l.val).rxNext).toNat = 0 then s.heard l.val else (s.heard l.val).sendNak l.val, .accept) := by
  unfold State.laneReceive State.heard
  dsimp only
  rw [ht, if_neg (by decide), if_neg (fun hn => hn hc)]
  by_cases hz : (h.seq + 1 - (s.lane l.val).rxNext).toNat = 0
  · rw [if_pos (Or.inl hz), if_pos hz]
  · rw [if_neg (by omega), if_neg hz, if_pos hd]

theorem State.laneReceive_nak (hc : h.crc = crc32c (mortarBytes h .nak)) : s.laneReceive l.val h .nak = (s.heard l.val, .accept) := by
  unfold State.laneReceive State.heard
  dsimp only
  rw [ht, if_neg (by decide), if_neg (fun hn => hn hc)]

end

/-- A message that the lane accepts is handled by a core that runs. -/
theorem mortarIn_accepts {b : MortarBody} {t : State} (hr : s.lanesRun = true) (hi : isIdent b = false) (ha : isAdm b = false)
    (hv : s.laneReceive l.val h b = (t, .accept)) (hp : t.power.state = .run) :
    (Host.Outcome.next (s.mortarIn l h b).close : Result) = .next (t.handleMortar l h b).close := by
  refine closed_congr ?_
  rw [State.mortarIn_lane hr hi, hv]
  exact State.acceptMortar_runs hp ha

/-! ### Calibration (R304) -/

/-- CAL_REQ answered once the timebase counts as loaded. -/
theorem State.calAnswer_loaded (hl : s.tbLoaded = true) (t1 : BitVec 64) :
    s.calAnswer l t1 = (s.sendLane l s.me true (.calResp t1 s.fine s.fine)).useFree := if_pos hl

theorem State.calAnswer_unloaded (hl : s.tbLoaded = false) (t1 : BitVec 64) : s.calAnswer l t1 = s := if_neg (Bool.eq_false_iff.mp hl)

/-- The request goes out now, and its time is kept. -/
def State.calSent (s : State) : State := { s with mortar := { s.mortar with cal := { s.mortar.cal with lastReq := some s.tb } } }

theorem State.calibrate_after {t : Nat} (ht : s.mortar.cal.lastReq = some t) : s.calibrate =
    let r := (s.until (t + if s.mortar.cal.loaded then 1250000 else 12500)).calSent
    if s.isRoot then r else r.each [0, 1] (fun u k => (u.sendLane k u.me false (.calReq u.fine)).useFree) := by
  unfold State.calibrate
  rw [ht]
  exact ite_iff_congr (by rw [← State.until_isRoot s (t + s.calInterval)]; rfl) _ _

theorem State.calibrate_first (ht : s.mortar.cal.lastReq = none) : s.calibrate =
    if s.isRoot then s.calSent else s.calSent.each [0, 1] (fun u k => (u.sendLane k u.me false (.calReq u.fine)).useFree) := by
  unfold State.calibrate
  rw [ht]
  rfl

/-! ### Silence (R312, R313, R424) -/

theorem State.laneSilent_trained (ht : (s.lane l.val).trained = true) : s.laneSilent l.val =
    ((s.setLane l.val { s.lane l.val with trained := false, silent := true }).bump 0x21618).actOnSilence l.val := by
  unfold State.laneSilent
  dsimp only
  rw [ht]
  rfl

theorem State.laneUntrained_trained (ht : (s.lane l.val).trained = true) : s.laneUntrained l.val = s := by
  unfold State.laneUntrained
  rw [ht]
  rfl

/-- A lane counts as silent at time n. -/
def State.silentAt (s : State) (l n : Nat) : State := ((s.until n).setLane l { (s.until n).lane l with silent := true }).bump 0x21618

theorem State.silentAt_tree (s : State) (l n : Nat) : (s.silentAt l n).myPos = s.myPos ∧ (s.silentAt l n).secParent = s.secParent ∧
    (s.silentAt l n).primaryKids = s.primaryKids ∧ (s.silentAt l n).secondaryKids = s.secondaryKids :=
  ⟨s.until_myPos n, s.until_secParent n, s.until_primaryKids n, s.until_secondaryKids n⟩

/-- What a lane that never trained makes the member do, by the lane's role. -/
theorem State.laneUntrained_late (ht : (s.lane l.val).trained = false) (hroster : s.mortar.tree.roster ≠ []) : s.laneUntrained l.val =
    let u := s.silentAt l.val (s.boot.appliedAt + 12500000)
    if l.val = 0 then (if s.myPos = 0 then u else u.actOnSilence 0)
    else if l.val = 1 then (if s.secParent.isNone then u else u.actOnSilence 1)
    else u.each ((s.primaryKids ++ s.secondaryKids).filter (fun m => (u.laneTo m).isNone)) (fun s m => s.report s.me m 2) := by
  obtain ⟨hpos, hsec, hkids, hkids'⟩ := s.silentAt_tree l.val (s.boot.appliedAt + 12500000)
  dsimp only
  rw [← hpos, ← hsec, ← hkids, ← hkids']
  unfold State.laneUntrained State.silentAt
  rw [ht, List.isEmpty_eq_false_iff.mpr hroster, Bool.or_false, if_neg Bool.false_ne_true]

/-- The timer commands act only while the lanes run. -/
theorem next_lanesRun {t : State} (hr : s.lanesRun = true) : (Host.Outcome.next (if s.lanesRun then t else s) : Result) = .next t :=
  congrArg Host.Outcome.next (if_pos hr)

theorem closed_lanesRun {t r : State} (hr : s.lanesRun = true) (h : t = r) :
    (Host.Outcome.next (if s.lanesRun then t else s).close : Result) = .next r.close :=
  closed_congr ((if_pos hr).trans h)

/-! ### The obligation's parts -/

theorem laneTraining : Claim.LaneTraining := by
  unfold Claim.LaneTraining
  intro s l h member role pos hr hp hc
  have hexec : exec (.ident l h member role pos) s = .next (s.laneIdent l.val member role pos).close := exec_identMessage hr hp hc
  dsimp only
  rw [hexec]
  refine ⟨fun he => closed_congr (State.laneIdent_off he), fun he hn => ?_, fun he hn => ?_⟩
  · have htrained := State.laneIdent_named he (State.identFits_iff.mpr hn)
    have hlane (h1 : l.val = 1) (v : Lane) : ((s.setLane l.val v).sendIdent l.val).lane 0 = s.lane 0 :=
      (Tab.get_set _ _ _ _ _).trans (if_neg (by omega))
    refine ⟨fun hj => closed_congr (htrained.trans (State.joinBy_known ?_)),
      fun h1 hlost hload h0 => closed_congr (htrained.trans (State.joinBy_lost h1 hlost hload ?_))⟩
    · by_cases h1 : l.val = 1
      · rw [hlane h1]
        exact hj
      · exact Or.inl h1
    · rw [hlane h1]
      exact h0
  · have hfalse : s.identFits l.val member role pos = false :=
      Bool.eq_false_iff.mpr (fun hfits => hn (State.identFits_iff.mp hfits))
    exact closed_congr (State.laneIdent_unnamed he hfalse)

theorem laneUpkeep : Claim.LaneUpkeep := by
  unfold Claim.LaneUpkeep
  intro s l h hr hp ht
  dsimp only
  have hmem := State.mem_trainedLanes ht
  refine ⟨fun hc => ⟨fun hd => ?_, fun hlo hhi => ?_⟩, fun hc => ?_, fun hl => ?_, fun hl hone hfrom => ?_, fun t hreq => ⟨fun hroot => ?_, fun hroot => ?_⟩,
    fun hreq => ⟨fun hroot => ?_, fun hroot => ?_⟩, fun t1 hm hdown => ⟨fun hl => ?_, fun hl hroot => ?_⟩, fun t1 t2 t3 hm hup => ?_⟩
  · have hz : (h.seq + 1 - (s.lane l.val).rxNext).toNat = 0 := by
      rw [hd, BitVec.sub_self]
      rfl
    exact mortarIn_accepts hr rfl rfl ((State.laneReceive_heartbeat ht hc (by omega)).trans (congrArg (·, _) (if_pos hz))) hp
  · exact mortarIn_accepts hr rfl rfl ((State.laneReceive_heartbeat ht hc hhi).trans (congrArg (·, _) (if_neg (by omega)))) hp
  · exact mortarIn_accepts hr rfl rfl (State.laneReceive_nak ht hc) hp
  · exact (next_lanesRun hr).trans (congrArg _ (State.heartbeats_at (List.ne_nil_of_mem hmem) (fun k _ => State.laneBeat_loaded hl k)))
  · refine (next_lanesRun hr).trans (congrArg _ ?_)
    rw [State.heartbeats_at (List.ne_nil_of_mem hmem) (t := s.laneBeat l.val) (by rw [hone]; simp), hone, State.laneBeat_unloaded hl]
    rfl
  · exact (next_lanesRun hr).trans (congrArg _ ((State.calibrate_after hreq).trans (if_neg (Bool.eq_false_iff.mp hroot))))
  · exact (next_lanesRun hr).trans (congrArg _ ((State.calibrate_after hreq).trans (if_pos hroot)))
  · exact (next_lanesRun hr).trans (congrArg _ ((State.calibrate_first hreq).trans (if_neg (Bool.eq_false_iff.mp hroot))))
  · exact (next_lanesRun hr).trans (congrArg _ ((State.calibrate_first hreq).trans (if_pos hroot)))
  · have hloaded : (s.afterMessage l).tbLoaded = true := Bool.or_eq_true_iff.mpr hl
    exact mortarIn_closes hm rfl rfl ((if_neg (by omega)).trans (State.calAnswer_loaded hloaded t1))
  · have hunloaded : (s.afterMessage l).tbLoaded = false := Bool.or_eq_false_iff.mpr ⟨hl, hroot⟩
    exact mortarIn_closes hm rfl rfl ((if_neg (by omega)).trans (State.calAnswer_unloaded hunloaded t1))
  · exact mortarIn_closes hm rfl rfl (if_pos hup)

theorem silentLanes : Claim.SilentLanes := by
  unfold Claim.SilentLanes
  intro s l hr
  refine ⟨fun ht => ?_, fun ht hroster => ?_, fun ht => closed_lanesRun hr (State.laneUntrained_trained ht)⟩
  · exact closed_lanesRun hr (State.laneSilent_trained (by rw [State.until_lane]; exact ht))
  · have hlate := State.laneUntrained_late ht hroster
    refine ⟨fun h0 hpos => ?_, fun h0 hpos => ?_, fun h1 hsec => ?_, fun h2 hprim hsec => ?_⟩
    · exact closed_lanesRun hr (hlate.trans ((if_pos h0).trans (if_pos hpos)))
    · exact closed_lanesRun hr (hlate.trans ((if_pos h0).trans (if_neg hpos)))
    · have hsome : ¬ s.secParent.isNone = true := fun hn => hsec (Option.isNone_iff_eq_none.mp hn)
      exact closed_lanesRun hr (hlate.trans ((if_neg (by omega)).trans ((if_pos h1).trans (if_neg hsome))))
    · refine closed_lanesRun hr (hlate.trans ((if_neg (by omega)).trans ((if_neg (by omega)).trans ?_)))
      rw [hprim, hsec]
      rfl

/-- Settles O50: training, upkeep and silence of the lanes. -/
theorem lanes : Obligations.Lanes := ⟨laneTraining, laneUpkeep, silentLanes⟩

end Sys2Proof.Machine
end

section
/-! SUPPORT. SUSPECT, LOST, REHOME, ADMIT and STATE (R311, R314, R315, R428). -/
namespace Sys2Proof.Machine

variable {s : State} {l : Fin 6} {h : MortarHdr}

/-! ### ADMIT for a member that is no child here wakes nothing -/

theorem State.isKid_congr {t : State} {m : MemberId} (htree : t.mortar.tree.roster = s.mortar.tree.roster) (hin : t.mortar.tree.kidsIn = s.mortar.tree.kidsIn)
    (hme : t.me = s.me) (hlane : ∀ k, (t.lane k).partner = (s.lane k).partner) : t.isKid m = s.isKid m := by
  unfold State.isKid State.primaryKids State.myPos State.posOf
  rw [htree, hin, hme]
  simp only [hlane]

theorem State.sendDown_isKid (s : State) (o : MemberId) (b : MortarBody) (m : MemberId) : (s.sendDown o b).isKid m = s.isKid m := by
  obtain ⟨hlane, htree, hboot⟩ := s.sendDown_facts o b
  refine State.isKid_congr (by rw [htree]) (by rw [htree]) ?_ hlane
  unfold State.me
  rw [hboot]

theorem State.acceptAdmit_isKid (s : State) (k : MemberId) (v : BitVec 16) (m : MemberId) : (s.acceptAdmit k v).isKid m = s.isKid m := by
  unfold State.acceptAdmit
  dsimp only
  split <;> exact State.isKid_congr rfl rfl rfl (fun _ => rfl)

theorem State.afterMessage_isKid (s : State) (l : Fin 6) (m : MemberId) : (s.afterMessage l).isKid m = s.isKid m := by
  refine State.isKid_congr rfl rfl rfl fun k => ?_
  have hlane := Tab.get_set (fun _ => ({} : Lane)) s.mortar.lanes l.val
    { s.lane l.val with rxNext := (s.lane l.val).rxNext + 1, lastRx := s.tb } k
  refine (congrArg Lane.partner hlane).trans ?_
  split
  · next heq => rw [← heq]
  · rfl

theorem State.admitWakes_other {m : MemberId} {v : BitVec 16} (hk : s.isKid m = false) : s.admitWakes (.admitMsg m v) = s :=
  if_neg (Bool.eq_false_iff.mp hk)

/-- ADMIT of a member elsewhere goes down and is taken up. -/
theorem exec_admitElsewhere {m : MemberId} {v : BitVec 16} (hc : s.messageComes l h (.admitMsg m v)) (hup : s.upLane = some l.val)
    (hk : s.isKid m = false) :
    exec (.admitMsg l h m v) s = .next (((s.afterMessage l).sendDown h.origin (.admitMsg m v)).acceptAdmit m v).close := by
  have hrun : (s.afterMessage l).power.state = .run := hc.2.1
  have hnokid : (((s.afterMessage l).sendDown h.origin (.admitMsg m v)).acceptAdmit m v).isKid m = false := by
    rw [State.acceptAdmit_isKid, State.sendDown_isKid, State.afterMessage_isKid]
    exact hk
  refine closed_congr ((State.mortarIn_accepted hc rfl).trans ?_)
  have hhandled : (s.afterMessage l).handleMortar l.val h (.admitMsg m v) =
      ((s.afterMessage l).sendDown h.origin (.admitMsg m v)).acceptAdmit m v := if_pos (State.afterMessage_fromUp hup)
  unfold State.acceptMortar
  rw [if_neg (by rw [hrun]; exact Bool.false_ne_true), hhandled, State.admitWakes_other hnokid]

/-! ### STATE, part 0 (R428) -/

section
variable {counter : BitVec 64} {bn : BitVec 32} {rr : BitVec 8} {ver mask : BitVec 16} {crc : BitVec 32}

/-- The common values of a STATE message overwrite the block's own. -/
def State.withCommon (s : State) (counter : BitVec 64) (bn : BitVec 32) (rr : BitVec 8) (ver mask : BitVec 16) (crc : BitVec 32) : State :=
  let s := s.modTree (fun t => { t with membVer := ver })
  let s := s.modBar (fun x => { x with bn := bn, agreed := { x.agreed with ready := mask, crc := crc }, stateIn := x.stateIn ++ [0] })
  { s with sched := { s.sched with count := counter, rrPtr := Fin.ofNat 16 rr.toNat } }

theorem State.withCommon_rest (s : State) (counter : BitVec 64) (bn : BitVec 32) (rr : BitVec 8) (ver mask : BitVec 16) (crc : BitVec 32) :
    s.withCommon counter bn rr ver mask crc =
      { s with sched := (s.withCommon counter bn rr ver mask crc).sched, mortar := (s.withCommon counter bn rr ver mask crc).mortar } := rfl

/-- A lane's acceptance changes nothing outside the mortar. -/
theorem State.afterMessage_rest (s : State) (l : Fin 6) (c : Schedule) (m : Mortar) :
    ({ s.afterMessage l with sched := c, mortar := m } : State) = { s with sched := c, mortar := m } := rfl

theorem State.takeState_common (ha : s.mortar.bar.admitted = true) (hp : s.boot.phase = .joined) (hnew : 0 ∉ s.mortar.bar.stateIn)
    (hmore : s.mortar.bar.stateIn.length < 12) :
    s.takeState (.common counter bn rr ver mask crc) = s.withCommon counter bn rr ver mask crc := by
  have hpart : s.mortar.bar.stateIn.contains (statePart (.common counter bn rr ver mask crc)) = false := by
    simpa [statePart] using hnew
  have hnotall : ¬(s.mortar.bar.stateIn ++ [0]).length = 13 := by
    rw [List.length_append, List.length_singleton]
    omega
  unfold State.takeState
  rw [ha, hp, hpart]
  exact if_neg hnotall

end

theorem State.takeState_unadmitted {b : StateBody} (ha : s.mortar.bar.admitted = false) : s.takeState b = s :=
  if_pos (by rw [ha]; rfl)

/-- Settles O53: each message is accepted by its lane, then taken by its node; STATE part by part. -/
theorem membershipMessages : Obligations.MembershipMessages := by
  unfold Obligations.MembershipMessages
  intro s l h
  dsimp only
  refine ⟨?_, ?_, ?_, ?_, ?_, ?_⟩
  case refine_1 =>
    intro m role hc hl
    refine ⟨fun hr => mortarIn_closes hc rfl rfl ?_, fun hr => mortarIn_closes hc rfl rfl ?_⟩
    · exact (if_neg (by omega)).trans (if_neg (Bool.eq_false_iff.mp hr))
    · exact (if_neg (by omega)).trans (if_pos hr)
  case refine_2 => exact fun m v hc hup => mortarIn_closes hc rfl rfl (if_pos (State.afterMessage_fromUp hup))
  case refine_3 => exact fun k v hc hl => mortarIn_closes hc rfl rfl (if_neg (by omega))
  case refine_4 => exact fun m v hc hup hk => exec_admitElsewhere hc hup hk
  case refine_5 =>
    intro counter bn rr ver mask crc hc hup ha hp hnew hmore
    have htaken := State.takeState_common (s := s.afterMessage l) (counter := counter) (bn := bn) (rr := rr) (ver := ver) (mask := mask)
      (crc := crc) ha hp hnew hmore
    have hexec := mortarIn_closes hc rfl rfl ((if_pos (State.afterMessage_fromUp hup)).trans htaken)
    refine ⟨(s.afterMessage l).withCommon counter bn rr ver mask crc, hexec, rfl, rfl, rfl, rfl, rfl, rfl, rfl, ?_⟩
    exact ((s.afterMessage l).withCommon_rest counter bn rr ver mask crc).trans (s.afterMessage_rest l _ _)
  case refine_6 =>
    intro b hc ha
    refine mortarIn_closes hc rfl rfl ?_
    have htaken : (s.afterMessage l).takeState b = s.afterMessage l := State.takeState_unadmitted ha
    exact (congrArg (fun t => if decide (some l.val = (s.afterMessage l).upLane) = true then t else s.afterMessage l) htaken).trans
      (ite_self _)

end Sys2Proof.Machine
end

section
/-! SUPPORT. The start of the block: the two image reads, self-test and the lock of the core PLL (R418, R419, R422, R449). -/
namespace Sys2Proof.Machine

variable {s : State}

/-! ### The first image read (R418) -/

/-- The block has begun to read its image. -/
def State.imaging (s : State) : State := { s with boot := { s.boot with phase := .image } }

section
variable {b : List Byte}

theorem State.imageFirst_elsewhere (hp : s.boot.phase ≠ .reset) : s.imageFirst b = s :=
  if_pos (by simp [hp])

section
variable (hp : s.boot.powered = true) (hs : s.stopped = false) (hr : s.boot.phase = .reset) (hmode : s.boot.cfgMode.toNat < 2)
include hp hs hr hmode

/-- A block that awaits its image judges the header, then the table, then the sections. -/
theorem State.imageFirst_reads {t : State} (ht : (match headerFault b with
      | some f => s.imaging.refuseImage f
      | none => match tableFault b (sectionsOf b) with
        | some f => s.imaging.refuseImage f
        | none => match s.imaging.sectionsFault b (sectionsOf b) (sectionsOf b).zipIdx with
          | (_, some f) => s.imaging.refuseImage f
          | (r, none) => r.applyImage b (sectionsOf b)) = t) : s.imageFirst b = t := by
  have hreads : ¬(!s.boot.powered || s.stopped || s.boot.phase ≠ .reset) = true := by simp [hp, hs, hr]
  refine (if_neg hreads).trans ((if_neg (Nat.not_le.mpr hmode)).trans ?_)
  exact ht

theorem State.imageFirst_header {f : ImageFault} (hh : headerFault b = some f) : s.imageFirst b = s.imaging.refuseImage f :=
  State.imageFirst_reads hp hs hr hmode (by rw [hh])

variable (hh : headerFault b = none)
include hh

theorem State.imageFirst_table {f : ImageFault} (ht : tableFault b (sectionsOf b) = some f) :
    s.imageFirst b = s.imaging.refuseImage f :=
  State.imageFirst_reads hp hs hr hmode (by rw [hh, ht])

variable (ht : tableFault b (sectionsOf b) = none)
include ht

theorem State.imageFirst_section {r : State} {f : ImageFault}
    (hc : s.imaging.sectionsFault b (sectionsOf b) (sectionsOf b).zipIdx = (r, some f)) : s.imageFirst b = s.imaging.refuseImage f :=
  State.imageFirst_reads hp hs hr hmode (by rw [hh, ht, hc])

theorem State.imageFirst_good {r : State}
    (hc : s.imaging.sectionsFault b (sectionsOf b) (sectionsOf b).zipIdx = (r, none)) :
    s.imageFirst b = r.applyImage b (sectionsOf b) :=
  State.imageFirst_reads hp hs hr hmode (by rw [hh, ht, hc])

end

/-! ### The second image read (R419 step 6) -/

theorem State.imageSecond_elsewhere (hp : s.boot.phase ≠ .load) : s.imageSecond b = s :=
  if_pos (by simp [hp])

/-- The function stores are loaded, and the block may join. -/
theorem State.imageSecond_good (hp : s.boot.powered = true) (hs : s.stopped = false) (hl : s.boot.phase = .load)
    (hcrc : ∀ x ∈ s.boot.sections, x.typ = 0x11 ∨ x.typ = 0x12 → crc32c (x.bytes b) = x.crc) : s.imageSecond b =
    ({ s with funcs := { micro := sectionBytes b s.boot.sections 0x11, table := sectionBytes b s.boot.sections 0x12 },
              boot := { s.boot with phase := .join, loaded := true } } : State).joinBarrier := by
  have hreads : ¬(!s.boot.powered || s.stopped || s.boot.phase ≠ .load) = true := by simp [hp, hs, hl]
  have hnone : s.boot.sections.zipIdx.find?
      (fun x => (x.1.typ == 0x11 || x.1.typ == 0x12) && crc32c (x.1.bytes b) != x.1.crc) = none := by
    rw [List.find?_eq_none]
    intro x hx hbad
    rw [Bool.and_eq_true, Bool.or_eq_true, beq_iff_eq, beq_iff_eq, bne_iff_ne] at hbad
    exact hbad.2 (hcrc x.1 (List.fst_mem_of_mem_zipIdx hx) hbad.1)
  unfold State.imageSecond
  rw [if_neg hreads]
  dsimp only
  rw [hnone]

end

/-! ### Self-test (R422) -/

theorem State.selfTest_elsewhere {r : SelfTest} (hp : s.boot.phase ≠ .selfTest) : s.selfTest r = s :=
  if_pos (by simp [hp])

theorem State.selfTest_clean (hp : s.boot.powered = true) (hs : s.stopped = false) (ht : s.boot.phase = .selfTest)
    (hl : s.power.pllLock = true) : s.selfTest { stores := [], failedCols := [], failedPipes := [] } =
    { s with boot := { s.boot with retired := [], toFence := [], rotating := true, testColumn := nextColumn 527 [], phase := .load } } := by
  have hruns : ¬(!s.boot.powered || s.stopped || s.boot.phase ≠ .selfTest || !s.power.pllLock) = true := by simp [hp, hs, ht, hl]
  have hgoes : ¬ s.stopped = true := Bool.eq_false_iff.mp hs
  unfold State.selfTest
  rw [if_neg hruns]
  simp only [List.map_nil, List.eraseDups_nil, List.foldl_nil, State.each_nil, List.length_nil, List.take_nil, sortBy, List.any_nil,
    Nat.reduceLT, Nat.not_lt_zero, Nat.reduceEqDiff, decide_true, decide_false, Bool.or_self, Bool.false_eq_true, if_true, if_false]
  generalize nextColumn 527 [] = c
  exact if_neg hgoes

theorem State.stopped_held (hs : s.stopped = false) : s.held = false := (Bool.or_eq_false_iff.mp hs).1

/-- Settles O57: each step of the start acts in its own phase. -/
theorem startOfTheBlock : Obligations.StartOfTheBlock := by
  unfold Obligations.StartOfTheBlock
  intro s hp hs
  refine ⟨fun b hr hmode => ?_, fun b hr => congrArg _ (State.imageFirst_elsewhere hr), fun ht hl => ?_,
    fun r ht => congrArg _ (State.selfTest_elsewhere ht), fun b hl hcrc => congrArg _ (State.imageSecond_good hp hs hl hcrc),
    fun b hl => congrArg _ (State.imageSecond_elsewhere hl), ?_⟩
  · dsimp only
    refine ⟨fun f hh => congrArg _ (State.imageFirst_header hp hs hr hmode hh),
      fun f hh ht => congrArg _ (State.imageFirst_table hp hs hr hmode hh ht),
      fun r f hh ht hc => congrArg _ (State.imageFirst_section hp hs hr hmode hh ht hc), fun r hh ht hc => ?_⟩
    exact ⟨r.applyImage b (sectionsOf b), congrArg _ (State.imageFirst_good hp hs hr hmode hh ht hc),
      rfl, rfl, rfl, rfl, rfl, rfl, rfl, rfl⟩
  · exact congrArg _ (State.selfTest_clean hp hs ht hl)
  · have hlocks : (s.boot.powered && !s.held) = true := by
      rw [hp, State.stopped_held hs]
      rfl
    exact congrArg _ (if_pos hlocks)

end Sys2Proof.Machine
end

section
/-! SUPPORT. Maintenance: the tests of column and pipeline, the scrubber, and the ungating of an engine (R432, R433, R461). -/
namespace Sys2Proof.Machine

variable {s : State}

/-! ### The column and the pipelines (R173, R432) -/

theorem State.testColumn_rotating {ok : Bool} (ht : s.testing = true) (hr : s.boot.rotating = true) :
    s.testColumn ok = { s with boot := { s.boot with testPassed := some (ok && s.boot.testPassed.getD true) } } :=
  if_pos (by rw [ht, hr]; rfl)

theorem State.testColumn_fixed {ok : Bool} (hr : s.boot.rotating = false) : s.testColumn ok = s :=
  if_neg (by rw [hr, Bool.and_false]; exact Bool.false_ne_true)

section
variable {pipe wrong : Nat} (ht : s.testing = true) (hf : pipe ∉ s.boot.fenced)
include ht hf

theorem State.testPipe_unfenced : s.testPipe pipe wrong =
    if wrong = 0 || s.boot.toFence.contains pipe then s.bump 0x21160 wrong
    else { s.bump 0x21160 wrong with boot := { s.boot with toFence := insertNat pipe s.boot.toFence } } :=
  if_neg (by simp [ht, hf])

theorem State.testPipe_right : s.testPipe pipe 0 = s.bump 0x21160 0 :=
  (State.testPipe_unfenced ht hf).trans (if_pos rfl)

theorem State.testPipe_wrong (hnew : pipe ∉ s.boot.toFence) (hw : wrong ≠ 0) : s.testPipe pipe wrong =
    { s.bump 0x21160 wrong with boot := { s.boot with toFence := insertNat pipe s.boot.toFence } } :=
  (State.testPipe_unfenced ht hf).trans (if_neg (by simp [hnew, hw]))

end

/-! ### The scrubber (R433) -/

/-- Only the token store and the combine store hold lines for one pass. -/
theorem State.passHolds_other {i : Nat} (hi : 2 ≤ i) (line : Nat) : s.passHolds i line = false := by
  match i, hi with
  | i + 2, _ => exact Bool.and_false _

section
variable {i line : Nat} (ht : s.testing = true) (hl : storeLines i line = true)
include ht hl

theorem State.scrub_skips (hk : s.scrubSkips i line = true) (f : ScrubFind) : s.scrub i line f = s.useFree :=
  (if_neg (by rw [ht, hl]; exact Bool.false_ne_true)).trans (if_pos hk)

variable (hk : s.scrubSkips i line = false)
include hk

theorem State.scrub_clean : s.scrub i line .clean = s.setStore i ((s.store i).visit line) :=
  (if_neg (by rw [ht, hl]; exact Bool.false_ne_true)).trans (if_neg (Bool.eq_false_iff.mp hk))

/-- The record of a store in which a line has been corrected: a second correction of the same line counts it as failing. -/
theorem State.scrub_corrected : s.scrub i line .corrected =
    let k := if line ∈ ((s.store i).visit line).before then ((s.store i).visit line).markHard line else (s.store i).visit line
    (s.setStore i { k with corrected := line :: k.corrected }).raise Code.sramCorrected
      { unit := 17, detail := i * 2 ^ 56 + 64 * line, noPass := true } := by
  refine (if_neg (by rw [ht, hl]; exact Bool.false_ne_true)).trans ((if_neg (Bool.eq_false_iff.mp hk)).trans ?_)
  dsimp only
  simp only [List.contains_iff_mem]

theorem State.scrub_uncorrectable : s.scrub i line .uncorrectable =
    let r := s.setStore i (((s.store i).visit line).markHard line)
    let r := if i = 2 then r.loseSession line else r
    (if i = 1 then r.useFree else r).raise Code.sramUncorrectable
      { unit := 17, detail := i * 2 ^ 56 + 64 * line, noPass := !(r.passHolds i line) } :=
  (if_neg (by rw [ht, hl]; exact Bool.false_ne_true)).trans (if_neg (Bool.eq_false_iff.mp hk))

end

theorem State.scrub_outside {i line : Nat} (hl : storeLines i line = false) (f : ScrubFind) : s.scrub i line f = s :=
  if_pos (by rw [hl, Bool.not_false, Bool.or_true])

/-! ### An engine is ungated before its planned start (R461) -/

/-- The engine's clock runs from its lead before the start. -/
def State.ungatedAt (s : State) (e : Engine) (at_ : Nat) : State :=
  { s.until (at_ - s.ungateLead) with power := { s.power with ungated := (e :: s.power.ungated).eraseDups } }

theorem State.ungate_planned {e : Engine} {q k : Nat} {i : Issued} {at_ : Nat} (hq : (s.engineQueue e).head? = some (q, k, i))
    (hp : i.planned = some at_) : s.ungate e = s.ungatedAt e at_ := by
  unfold State.ungate State.ungatedAt
  rw [hq]
  dsimp only
  rw [hp]
  dsimp only
  rw [State.until_power]

/-- Settles O54: each maintenance command by its case in a member in service. -/
theorem maintenance : Obligations.Maintenance := by
  unfold Obligations.Maintenance
  intro s ht
  have hawake : s.awake = true := (Bool.and_eq_true_iff.mp ht).1
  refine ⟨fun ok hr => congrArg _ (State.testColumn_rotating ht hr), fun ok hr => congrArg _ (State.testColumn_fixed hr),
    fun pipe wrong hf hnew hw => congrArg _ (State.testPipe_wrong ht hf hnew hw), fun pipe hf => congrArg _ (State.testPipe_right ht hf),
    fun store line f hl hk => congrArg _ (State.scrub_skips ht hl hk f), fun store line hl hk => ?_,
    fun store line f hl => congrArg _ (State.scrub_outside hl f), fun e q k i at_ hq hp => ?_⟩
  · have hcorrected := State.scrub_corrected ht hl hk
    have hhard := State.scrub_uncorrectable ht hl hk
    dsimp only at hcorrected hhard ⊢
    refine ⟨congrArg _ (State.scrub_clean ht hl hk), fun hold => congrArg _ (hcorrected.trans ?_),
      fun hold => congrArg _ (hcorrected.trans ?_), fun h0 => congrArg _ (hhard.trans ?_), fun h1 => congrArg _ (hhard.trans ?_),
      fun h2 => congrArg _ (hhard.trans ?_), fun h3 => congrArg _ (hhard.trans ?_)⟩
    · rw [if_neg hold]
    · rw [if_pos hold]
    · rw [h0, Nat.zero_mul, Nat.zero_add]
      rfl
    · rw [h1, Nat.one_mul]
      rfl
    · rw [h2, State.passHolds_other (Nat.le_refl 2)]
      rfl
    · rw [if_neg (by omega), if_neg (by omega), State.passHolds_other (by omega)]
      rfl
  · refine ⟨s.ungatedAt e at_, congrArg _ ((if_pos hawake).trans (State.ungate_planned hq hp)), State.until_tb _ _, rfl, ?_⟩
    unfold State.ungatedAt
    rw [State.until_frame']

end Sys2Proof.Machine
end

section
/-! SUPPORT. Frames in sequence: items of the open attempt, and items of another time (R247, R255, R318, R480). -/
namespace Sys2Proof.Machine

variable {s r : State} {h : FrameHdr} {p : Payload}

/-! ### The next frame in sequence reaches its unit -/

/-- A payload with a sequence number goes on to the sequence. -/
def sequenced : Payload → Bool
  | .ack => false
  | .sync _ => false
  | _ => true

theorem passesTo_sequence (hp : sequenced p = true) (t : State) : passesTo t h p = t.sequence h := by
  cases p with
  | ack => cases hp
  | sync y => cases hp
  | _ => rfl

/-- A good frame has nothing for the mirror's cut to end. -/
theorem State.cutThrough_good (hc : s.frameComes h p) : s.cutThrough h p = s := by
  obtain ⟨hserve, hfcs, hgood, hwire, hport, -, -⟩ := hc
  unfold State.cutThrough
  split
  · next cs => exact if_pos (by rw [hgood, hfcs]; simp)
  · rfl

theorem State.frameIn_next (hn : s.nextFrame h p r) (hp : sequenced p = true) : s.frameIn h p = (r.takePayload h p).closeRx := by
  obtain ⟨hc, hq, rfl⟩ := hn
  unfold State.frameIn
  rw [State.cutThrough_good hc]
  exact State.receive_seq hc _ hq (passesTo_sequence hp)

/-- The acceptance of a frame leaves the sequencers as they are. -/
theorem State.afterFrame_sched (hn : s.nextFrame h p r) : r.sched = s.sched := by
  obtain ⟨-, hq, rfl⟩ := hn
  obtain ⟨-, -, -, -, hquota, -⟩ := hq
  unfold State.afterFrame
  exact State.stageFrame_sched h p hquota

/-! ### An item by its verdict -/

section
variable {unit : Nat} {gen : BitVec 16} {layer : BitVec 8} {attempt : BitVec 2} {f : State → State}

theorem State.withItem_use (hj : s.judge gen layer attempt = .use) : s.withItem h p unit gen layer attempt f = f s := by
  unfold State.withItem
  rw [hj]

theorem State.withItem_discard (hj : s.judge gen layer attempt = .discard) : s.withItem h p unit gen layer attempt f = s := by
  unfold State.withItem
  rw [hj]

theorem State.withItem_hold (hj : s.judge gen layer attempt = .hold) : s.withItem h p unit gen layer attempt f = s.holdEarly h p := by
  unfold State.withItem
  rw [hj]

theorem State.withItem_window (hj : s.judge gen layer attempt = .window) :
    s.withItem h p unit gen layer attempt f = s.windowFault h.src unit := by
  unfold State.withItem
  rw [hj]

end

section
/-! What a payload with one item of the open attempt does. -/

theorem State.takePayload_cell {c : Cell} (hj : s.judge c.hdr.gen c.hdr.layer c.hdr.attempt = .use) :
    s.takePayload h (.cells [c]) = s.takeCell h.src c := State.withItem_use (f := fun s => s.takeCell h.src c) hj

theorem State.takePayload_gateNote {n : GateNote} (hj : s.judge n.gen n.layer n.attempt = .use) :
    s.takePayload h (.gateNote n) = s.takeGateNote n := State.withItem_use (f := fun s => s.takeGateNote n) hj

theorem State.takePayload_windowNote {n : WindowNote} (hj : s.judge n.gen n.layer n.attempt = .use) :
    s.takePayload h (.windowNote n) = s.takeWindowNote n := State.withItem_use (f := fun s => s.takeWindowNote n) hj

theorem State.takePayload_cellRequest {x : CellReq} (hj : s.judge x.gen x.layer x.attempt = .use) :
    s.takePayload h (.cellRequest [x]) = s.takeRequest x := State.withItem_use (f := fun s => s.takeRequest x) hj

theorem State.takePayload_collective {f : CollFrame} (hj : s.judge f.gen f.layer f.attempt = .use) :
    s.takePayload h (.coll f) = s.collFrame f := State.withItem_use (f := fun s => s.collFrame f) hj

end

theorem State.takeCount_whole {m : ExchMsg} {x : ExchIn (BitVec 32)}
    (hx : ExchIn.add (Tab.get? s.att.countsIn m.sender.toNat) m.total.toNat m.first.toNat m.entries = some x) :
    s.takeCount m = (s.modAtt (fun a => { a with countsIn := Tab.put a.countsIn m.sender.toNat x })).grantProgress := by
  unfold State.takeCount
  rw [hx]

theorem State.takeGrant_whole {m : ExchMsg} {x : ExchIn (BitVec 32)}
    (hx : ExchIn.add (Tab.get? s.att.grantsIn m.sender.toNat) m.total.toNat m.first.toNat m.entries = some x) :
    s.takeGrant m = (s.modAtt (fun a => { a with grantsIn := Tab.put a.grantsIn m.sender.toNat x })).grantProgress := by
  unfold State.takeGrant
  rw [hx]

/-! ### The verdict by GEN, LAYER and ATTEMPT (R318) -/

section
variable {gen : BitVec 16} {layer : BitVec 8} {attempt : BitVec 2}

theorem State.judge_next (hd : (gen - s.sched.curGen).toNat = 1) : s.judge gen layer attempt = .hold := if_pos hd

theorem State.judge_old (hd : 65536 - 1023 ≤ (gen - s.sched.curGen).toNat) : s.judge gen layer attempt = .discard :=
  (if_neg (by omega)).trans ((if_neg (by omega)).trans (if_pos hd))

theorem State.judge_outside (hlo : 2 ≤ (gen - s.sched.curGen).toNat) (hhi : (gen - s.sched.curGen).toNat < 65536 - 1023) :
    s.judge gen layer attempt = .window :=
  (if_neg (by omega)).trans ((if_neg (by omega)).trans (if_neg (by omega)))

section
variable (hd : (gen - s.sched.curGen).toNat = 0)
include hd

theorem State.judge_otherLayer (hl : layer ≠ s.sched.curLayer) : s.judge gen layer attempt = .discard :=
  (if_neg (by omega)).trans ((if_pos hd).trans (if_pos hl))

variable (hl : layer = s.sched.curLayer)
include hl

theorem State.judge_laterAttempt (ho : s.openSeq.isSome = true) (ha : s.sched.curAttempt.toNat < attempt.toNat) :
    s.judge gen layer attempt = .hold := by
  obtain ⟨q, hq⟩ := Option.isSome_iff_exists.mp ho
  refine (if_neg (by omega)).trans ((if_pos hd).trans ((if_neg (fun hne => hne hl)).trans ?_))
  rw [hq]
  exact if_pos ha

theorem State.judge_earlierAttempt (ha : attempt.toNat < s.sched.curAttempt.toNat) : s.judge gen layer attempt = .discard := by
  have hne : attempt ≠ s.sched.curAttempt := fun he => by
    rw [he] at ha
    omega
  refine (if_neg (by omega)).trans ((if_pos hd).trans ((if_neg (fun hn => hn hl)).trans ?_))
  cases s.openSeq with
  | none => rfl
  | some q => exact (if_neg (by omega)).trans (if_neg (fun hb => hne hb.1))

end

end

/-! ### The obligation's parts -/

/-- A frame in sequence whose item its unit takes. -/
theorem frameIn_takes {t : State} (hn : s.nextFrame h p r) (hp : sequenced p = true) (ht : r.takePayload h p = t) :
    (Host.Outcome.next (s.frameIn h p).close : Result) = .next t.closeRx.close :=
  closed_congr ((State.frameIn_next hn hp).trans (congrArg State.closeRx ht))

theorem itemFrames : Claim.ItemFrames := by
  unfold Claim.ItemFrames
  intro s h r
  refine ⟨fun m x hn hj hx => ?_, fun m x hn hj hx => ?_, fun x hn hj => ?_, fun x hn hj => ?_, fun x finds hn hj => ?_, fun x finds hn hj => ?_,
    fun n hn hj => ?_, fun n hn hj => ?_, fun x hn hj => ?_, fun f finds hn hj => ?_⟩
  · exact frameIn_takes hn rfl ((State.withItem_use (f := fun s => s.takeCount m) hj).trans (State.takeCount_whole hx))
  · exact frameIn_takes hn rfl ((State.withItem_use (f := fun s => s.takeGrant m) hj).trans (State.takeGrant_whole hx))
  · exact frameIn_takes hn rfl (State.takePayload_cell (c := .manifest x) hj)
  · exact frameIn_takes hn rfl (State.takePayload_cell (c := .dispatch x) hj)
  · exact frameIn_takes hn rfl (State.takePayload_cell (c := .ret x) hj)
  · exact frameIn_takes hn rfl (State.takePayload_cell (c := .part x) hj)
  · exact frameIn_takes hn rfl (State.takePayload_gateNote hj)
  · exact frameIn_takes hn rfl (State.takePayload_windowNote hj)
  · exact frameIn_takes hn rfl (State.takePayload_cellRequest hj)
  · exact frameIn_takes hn rfl (State.takePayload_collective hj)

theorem itemsOutOfTime : Claim.ItemsOutOfTime := by
  unfold Claim.ItemsOutOfTime
  intro s h m r hn
  have hsched := State.afterFrame_sched hn
  have hopen : r.openSeq = s.openSeq := by
    unfold State.openSeq
    rw [hsched]
  have hcount {t : State} (ht : r.withItem h (.count m) 5 m.gen m.layer m.attempt (fun s => s.takeCount m) = t) :
      exec (.countMessage h m) s = .next t.closeRx.close := frameIn_takes hn rfl ht
  dsimp only
  rw [← hsched, ← hopen]
  exact ⟨fun hd => hcount (State.withItem_hold (State.judge_next hd)),
    fun hd hl => hcount (State.withItem_discard (State.judge_otherLayer hd hl)),
    fun hd hl ho ha => hcount (State.withItem_hold (State.judge_laterAttempt hd hl ho ha)),
    fun hd hl ha => hcount (State.withItem_discard (State.judge_earlierAttempt hd hl ha)),
    fun hd => hcount (State.withItem_discard (State.judge_old hd)),
    fun hlo hhi => hcount (State.withItem_window (State.judge_outside hlo hhi))⟩

/-- Settles O45: the frame is taken in sequence, and its item is judged by GEN, LAYER and ATTEMPT. -/
theorem itemsOfAPass : Obligations.ItemsOfAPass := ⟨itemFrames, itemsOutOfTime⟩

end Sys2Proof.Machine
end

section
/-! SUPPORT. BULK, ACK and SYNC frames, and frames that fail a check (R242, R249, R255 to R257, R260, R336, R352). -/
namespace Sys2Proof.Machine

variable {s r : State} {h : FrameHdr} {p : Payload}

/-! ### ACK (R256) -/

theorem State.dropOwn_net (s : State) (b : Option Nat) (n : Nat) : (s.dropOwn b n).net = s.net := by
  unfold State.dropOwn
  split
  · split <;> rfl
  · rfl

theorem State.dropStaged_net (s : State) (l : List TxFrame) : (s.dropStaged l).net = s.net :=
  State.each_same State.net (fun u _ => u.dropOwn_net _ _) l s

/-- Nothing of a peer goes out while nothing waits for it. -/
theorem State.pumpAll_idle (n : Nat) (m : MemberId) (done chans : List Nat)
    (hw : ∀ vc : BitVec 2, (s.pair (pairKey m vc)).waiting = []) : s.pumpAll n m done chans = s := by
  have hready : s.readyChannels m chans = [] := by
    unfold State.readyChannels
    rw [List.filter_eq_nil_iff]
    intro v _
    rw [hw]
    exact Bool.false_ne_true
  have hnext : s.nextChannel done [] = none := by
    unfold State.nextChannel
    rw [if_neg (by simp), if_neg (by simp)]
    rfl
  cases n with
  | zero => rfl
  | succ n =>
    unfold State.pumpAll
    rw [hready, hnext]

theorem State.pair_setPair (s : State) (k : Nat) (v : PairVc) (j : Nat) : (s.setPair k v).pair j = if k = j then v else s.pair j :=
  Tab.get_set _ _ _ _ _

section
variable {m : MemberId} {vc : BitVec 2} {ackSeq sack : BitVec 32}

/-- The state with the frames that an acknowledgement names taken from the channel, and their buffers given back. -/
def State.freed (s : State) (m : MemberId) (vc : BitVec 2) (ackSeq sack : BitVec 32) : State :=
  (s.setPair (pairKey m vc) { s.pair (pairKey m vc) with
    unacked := (s.pair (pairKey m vc)).unacked.filter (fun f => !(acked ackSeq sack f.seq)) }).dropStaged
    ((s.pair (pairKey m vc)).unacked.filter (fun f => acked ackSeq sack f.seq))

theorem State.freed_pair (s : State) (m : MemberId) (vc : BitVec 2) (ackSeq sack : BitVec 32) (j : Nat) :
    (s.freed m vc ackSeq sack).pair j = if pairKey m vc = j then { s.pair (pairKey m vc) with
      unacked := (s.pair (pairKey m vc)).unacked.filter (fun f => !(acked ackSeq sack f.seq)) } else s.pair j :=
  (congrArg (fun n : Transport => Tab.get (fun _ => ({} : PairVc)) n.pairs j) (State.dropStaged_net _ _)).trans (State.pair_setPair s _ _ j)

theorem State.freed_syncs (s : State) (m : MemberId) (vc : BitVec 2) (ackSeq sack : BitVec 32) :
    (s.freed m vc ackSeq sack).net.syncs = s.net.syncs :=
  (congrArg (fun n : Transport => n.syncs) (State.dropStaged_net _ _)).trans rfl

theorem State.freed_waiting (s : State) (m : MemberId) (vc : BitVec 2) (ackSeq sack : BitVec 32) (j : Nat) :
    ((s.freed m vc ackSeq sack).pair j).waiting = (s.pair j).waiting := by
  rw [State.freed_pair]
  split
  · next hj => rw [hj]
  · rfl

variable (hsync : Tab.get? s.net.syncs m.toNat = none)
include hsync

theorem State.ackUndefined_defined (hu : ∀ f ∈ (s.pair (pairKey m vc)).unacked, (f.seq - ackSeq).toNat ≠ 2 ^ 31) :
    s.ackUndefined m vc ackSeq = false := by
  unfold State.ackUndefined
  rw [hsync, Bool.or_false, List.any_eq_false]
  exact fun f hf => by rw [decide_eq_true_iff]; exact hu f hf

/-- An acknowledgement that names no frame to send again frees what it names, and lets what waits go. -/
theorem State.acknowledge_frees (hn : ∀ f ∈ (s.pair (pairKey m vc)).unacked, f.seq ≠ ackSeq) :
    s.acknowledge m vc ackSeq sack = (s.freed m vc ackSeq sack).pumpPeer m := by
  have hfind : ((s.freed m vc ackSeq sack).pair (pairKey m vc)).unacked.find? (fun f => f.seq == ackSeq) = none := by
    rw [State.freed_pair, if_pos rfl, List.find?_eq_none]
    intro f hf
    rw [beq_iff_eq]
    exact hn f (List.mem_filter.mp hf).1
  have hsettle : (s.freed m vc ackSeq sack).settleSync m vc ackSeq = s.freed m vc ackSeq sack := by
    unfold State.settleSync
    rw [State.freed_syncs, hsync]
  have hagain : ∀ (u : State) (o : Option TxFrame) (f : TxFrame → State), o = none → (match o with | none => u | some x => f x) = u := by
    rintro u o f rfl
    rfl
  unfold State.acknowledge
  dsimp only
  exact (congrArg (fun t => (t.settleSync m vc ackSeq).pumpPeer m) (hagain _ _ _ hfind)).trans (congrArg (fun t => t.pumpPeer m) hsettle)

end

/-! ### SYNC (R260) -/

/-- The channels of a SYNC's mask with the numbers that it gives. -/
def syncMasked (y : SyncBody) : List (BitVec 2 × BitVec 32) :=
  ([(0, y.base0), (1, y.base1), (2, y.base2)] : List (BitVec 2 × BitVec 32)).filter (fun c => y.mask.toNat.testBit c.1.toNat)

/-- How far ahead of the number expected a SYNC asks a channel to go. -/
def State.syncAhead (s : State) (m : MemberId) (c : BitVec 2 × BitVec 32) : Nat := (c.2 - (s.pair (pairKey m c.1)).cum).toNat

/-- A channel restarts at the number given, and acknowledges it. -/
def State.syncChannel (s : State) (m : MemberId) (c : BitVec 2 × BitVec 32) : State :=
  (s.setPair (pairKey m c.1) { s.pair (pairKey m c.1) with cum := c.2, rmap := 0, ackDue := 0 }).sendAck m c.1

section
variable {m : MemberId} {y : SyncBody}

theorem State.receiveSync_eq : s.receiveSync m y =
    if (syncMasked y).any (fun c => s.syncAhead m c = 2 ^ 31) then s.raise Code.epochWindow { unit := 6, member := some m }
    else if (syncMasked y).all (fun c => s.syncAhead m c ≤ 256) then s.each (syncMasked y) (fun s c => s.syncChannel m c)
    else s.bump 0x21538 := by
  unfold State.receiveSync syncMasked
  simp only [bit_eq_testBit]
  rfl

theorem State.receiveSync_near (hn : ∀ c ∈ syncMasked y, s.syncAhead m c ≤ 256) :
    s.receiveSync m y = s.each (syncMasked y) (fun s c => s.syncChannel m c) := by
  have hany : (syncMasked y).any (fun c => s.syncAhead m c = 2 ^ 31) = false :=
    List.any_eq_false.mpr fun c hc => by
      have hle := hn c hc
      rw [decide_eq_true_iff]
      omega
  have hall : (syncMasked y).all (fun c => s.syncAhead m c ≤ 256) = true := List.all_eq_true.mpr fun c hc => decide_eq_true (hn c hc)
  rw [State.receiveSync_eq, hany, hall]
  rfl

theorem State.receiveSync_half (hh : ∃ c ∈ syncMasked y, s.syncAhead m c = 2 ^ 31) :
    s.receiveSync m y = s.raise Code.epochWindow { unit := 6, member := some m } := by
  obtain ⟨c, hc, hhalf⟩ := hh
  have hany : (syncMasked y).any (fun c => s.syncAhead m c = 2 ^ 31) = true := List.any_eq_true.mpr ⟨c, hc, decide_eq_true hhalf⟩
  rw [State.receiveSync_eq, hany]
  rfl

theorem State.receiveSync_far (hh : ∀ c ∈ syncMasked y, s.syncAhead m c ≠ 2 ^ 31) (hf : ∃ c ∈ syncMasked y, 256 < s.syncAhead m c) :
    s.receiveSync m y = s.bump 0x21538 := by
  obtain ⟨c, hc, hfar⟩ := hf
  have hany : (syncMasked y).any (fun c => s.syncAhead m c = 2 ^ 31) = false :=
    List.any_eq_false.mpr fun c hc => by
      rw [decide_eq_true_iff]
      exact hh c hc
  have hall : (syncMasked y).all (fun c => s.syncAhead m c ≤ 256) = false :=
    List.all_eq_false.mpr ⟨c, hc, by rw [decide_eq_true_iff]; omega⟩
  rw [State.receiveSync_eq, hany, hall]
  rfl

end

/-! ### ACK and SYNC lie in a buffer while they are handled -/

theorem State.frameIn_bare (hc : s.frameComes h p) (hr : s.roomFor h p) (hp : sequenced p = false)
    (ha : (h.ackValid && s.ackUndefined h.src h.ackVc h.ackSeq) = false) : s.frameIn h p =
    (((if h.ackValid then s.acknowledge h.src h.ackVc h.ackSeq h.sack else s).stageFrame h p).takePayload h p).closeRx := by
  have hpass : ∀ t, passesTo t h p = (t, true) := by
    intro t
    cases p with
    | ack => rfl
    | sync y => rfl
    | _ => cases hp
  unfold State.frameIn
  rw [State.cutThrough_good hc]
  exact State.receive_bare hc hr ha _ hpass

theorem State.frameIn_noRoom (hc : s.frameComes h p) (hr : s.noRoomFor h p) : s.frameIn h p = s.bump 0x21728 := by
  unfold State.frameIn
  rw [State.cutThrough_good hc]
  exact State.receive_noRoom hc hr _

theorem State.stageFrame_pair (hr : s.roomFor h p) (j : Nat) : (s.stageFrame h p).pair j = s.pair j :=
  congrArg (fun l => Tab.get (fun _ => ({} : PairVc)) l j) (State.stageFrame_rest h p hr.1).2

theorem bulkAckAndSync : Claim.BulkAckAndSync := by
  unfold Claim.BulkAckAndSync
  intro s h
  refine ⟨fun b r hn hk => ?_, fun b r hn hk => ?_, fun hc hr ha => ?_, fun hc hr ha => ?_, fun y hc hr ha => ?_, fun y => ⟨fun hc hr => ?_, fun hc hr => ?_⟩⟩
  · exact frameIn_takes hn rfl (if_pos hk)
  · refine frameIn_takes hn rfl ((if_neg ?_).trans (if_pos hk))
    rw [hk]
    decide
  · refine closed_congr ((State.frameIn_bare hc hr rfl (by rw [ha]; rfl)).trans ?_)
    rw [ha]
    rfl
  · intro k t hsync hu hn
    have hdefined : (h.ackValid && s.ackUndefined h.src h.ackVc h.ackSeq) = false := by
      rw [State.ackUndefined_defined hsync hu, Bool.and_false]
    refine ⟨closed_congr ((State.frameIn_bare hc hr rfl hdefined).trans ?_), fun hw => ?_⟩
    · rw [ha, if_pos rfl, State.acknowledge_frees hsync hn]
      rfl
    · refine State.pumpAll_idle _ _ _ _ fun vc => ?_
      exact (State.freed_waiting s h.src h.ackVc h.ackSeq h.sack _).trans (hw vc)
  · have hsync : exec (.sync h y) s = .next ((s.stageFrame h (.sync y)).receiveSync h.src y).closeRx.close := by
      refine closed_congr ((State.frameIn_bare hc hr rfl (by rw [ha]; rfl)).trans ?_)
      rw [ha]
      rfl
    have hahead (c : BitVec 2 × BitVec 32) : (s.stageFrame h (.sync y)).syncAhead h.src c = s.syncAhead h.src c := by
      unfold State.syncAhead
      rw [State.stageFrame_pair hr]
    dsimp only
    rw [hsync]
    refine ⟨fun hn => ?_, fun hh => ?_, fun hh hf => ?_⟩
    · exact congrArg (fun t : State => (Host.Outcome.next t.closeRx.close : Result))
        (State.receiveSync_near fun c hc => (by rw [hahead c]; exact hn c hc))
    · obtain ⟨c, hm, hhalf⟩ := hh
      exact congrArg (fun t : State => (Host.Outcome.next t.closeRx.close : Result))
        (State.receiveSync_half ⟨c, hm, (hahead c).trans hhalf⟩)
    · obtain ⟨c, hm, hfar⟩ := hf
      exact congrArg (fun t : State => (Host.Outcome.next t.closeRx.close : Result))
        (State.receiveSync_far (fun c hc => by rw [hahead]; exact hh c hc) ⟨c, hm, by rw [hahead]; exact hfar⟩)
  · exact closed_congr (State.frameIn_noRoom hc hr)
  · exact closed_congr (State.frameIn_noRoom hc hr)

/-! ### Frames that are discarded (R242, R249, R255, R257, R352) -/

section
variable {f : State → State}

theorem State.receive_ignored (hi : h.fcsErr = true ∨ s.wireOk h = false ∨ s.portEnable h.port.val = false) : s.receive h p f = s := by
  refine if_pos ?_
  rcases hi with hi | hi | hi <;> simp [hi]

section
variable (hs : s.inService = true) (hf : h.fcsErr = false) (hw : s.wireOk h = true) (he : s.portEnable h.port.val = true)
include hs hf hw he

theorem State.receive_bad (hg : frameGood s h p = false) : s.receive h p f = (s.bump 0x21528).raiseOnce Code.frameCrc
    { unit := 6, member := some h.src, detail := h.port.val + 16 * h.vc.toNat } := by
  obtain ⟨hpow, hheld, hready, hrun⟩ := State.inService_all hs
  have hbad : (s.receiveFrame h p).1 = (s.bump 0x21528).raiseOnce Code.frameCrc
      { unit := 6, member := some h.src, detail := h.port.val + 16 * h.vc.toNat } :=
    congrArg Prod.fst (if_pos (by rw [hg]; rfl))
  refine (if_neg (by simp [hpow, hheld, hready, hf, hw, he])).trans ((if_neg (by simp [hrun])).trans ?_)
  exact (if_pos (by rw [hg]; rfl)).trans hbad

variable (hg : frameGood s h p = true)
include hg

theorem State.receive_fullReserve (hv : h.vc.toNat ≤ 1) (hq : s.overQuota (inboundNeeds h.vc p).1 (inboundNeeds h.vc p).2.2 = false)
    (hr : s.hasRoom 0 (inboundNeeds h.vc p).2.2 (inboundNeeds h.vc p).1 (inboundNeeds h.vc p).2.1 = false) :
    s.receive h p f = s.bump 0x21728 := by
  obtain ⟨hpow, hheld, hready, hrun⟩ := State.inService_all hs
  refine (if_neg (by simp [hpow, hheld, hready, hf, hw, he])).trans ((if_neg (by simp [hrun])).trans ?_)
  exact (if_neg (by simp [hg])).trans ((if_neg (by simp [hq])).trans ((if_neg (by simp [hr])).trans (if_pos hv)))

/-- A frame that finds room, but that the transport does not accept. -/
theorem State.receive_refused {t : State} (hr : s.roomFor h p) (hv : s.receiveFrame h p = (t, false)) : s.receive h p f = t := by
  rw [State.receive_eq hs hf hw he hg f hr.1 hr.2, hv]

end

theorem State.receiveFrame_old (hg : frameGood s h p = true)
    (hlo : (s.tb + 2 ^ 32 - h.tstamp.toNat) % 2 ^ 32 < 2 ^ 31)
    (hold : s.frameLife < (s.tb + 2 ^ 32 - h.tstamp.toNat) % 2 ^ 32) : s.receiveFrame h p = (s.bump 0x21540, false) := by
  refine (if_neg (by rw [hg]; exact Bool.false_ne_true)).trans ((if_neg (Nat.ne_of_lt hlo)).trans (if_pos ?_))
  rw [decide_eq_true hlo, decide_eq_true hold]
  rfl

theorem State.sequence_duplicate (hd : 2 ^ 31 < (h.seq - (s.pair (pairKey h.src h.vc)).cum).toNat) :
    s.sequence h = ((s.bump 0x21530).sendAck h.src h.vc, false) :=
  (if_neg (Nat.ne_of_gt hd)).trans (if_pos (by rw [decide_eq_true hd]; rfl))

/-- A second copy is acknowledged again. -/
theorem State.receive_duplicate (hc : s.frameComes h p) (hr : s.roomFor h p) (ha : h.ackValid = false) (hp : sequenced p = true)
    (hd : 2 ^ 31 < (h.seq - (s.pair (pairKey h.src h.vc)).cum).toNat) :
    s.receive h p f = (s.bump 0x21530).sendAck h.src h.vc := by
  obtain ⟨hs, hf, hg, hw, he, hlo, hlife⟩ := hc
  refine State.receive_refused hs hf hw he hg hr ?_
  rw [State.receiveFrame_good hg hlo hlife (by rw [ha]; rfl), if_neg (by rw [ha]; exact Bool.false_ne_true),
    passesTo_sequence hp, State.sequence_duplicate hd]

end

theorem framesDiscarded : Claim.FramesDiscarded := by
  unfold Claim.FramesDiscarded
  intro s h m hs n room
  refine ⟨fun hi => closed_congr (State.receive_ignored hi),
    fun hf hw he => ⟨fun hg => closed_congr (State.receive_bad hs hf hw he hg), fun hg hv hq hr => ?_, fun hg hr hlo hold => ?_⟩,
    fun hc hr ha hd => closed_congr (State.receive_duplicate hc hr ha rfl hd)⟩
  · exact closed_congr (State.receive_fullReserve hs hf hw he hg hv hq hr)
  · exact closed_congr (State.receive_refused hs hf hw he hg hr (State.receiveFrame_old hg hlo hold))

/-- Settles O46: BULK in sequence, ACK and SYNC in a buffer of the reserve, and each check that discards a frame. -/
theorem otherFrames : Obligations.OtherFrames := ⟨bulkAckAndSync, framesDiscarded⟩

end Sys2Proof.Machine
end

section
/-! SUPPORT. The transport's timers, and links that leave and join their set (R252, R256, R258, R260, R261, R399, R412). -/
namespace Sys2Proof.Machine

variable {s : State}

/-! ### What time leaves as it is -/

theorem State.until_retxMax (s : State) (n : Nat) : (s.until n).retxMax = s.retxMax := by
  unfold State.retxMax State.eff
  rw [State.until_effect]

/-! ### SYNC resends (R260) -/

section
variable {m : MemberId} {y : SyncOut}

theorem State.syncExpire_none (hy : Tab.get? s.net.syncs m.toNat = none) : s.syncExpire m = s := by
  unfold State.syncExpire
  rw [hy]

variable (hy : Tab.get? s.net.syncs m.toNat = some y)
include hy

theorem State.syncExpire_past (hp : s.retxMax < y.retx) : s.syncExpire m = s := by
  unfold State.syncExpire
  rw [hy]
  exact if_pos hp

theorem State.syncExpire_repeats (hp : y.retx < s.retxMax) :
    s.syncExpire m = (s.until (y.sentAt + s.rtoTb)).sendSync m { y with retx := y.retx + 1 } := by
  unfold State.syncExpire
  rw [hy]
  refine (if_neg (by omega)).trans (if_neg ?_)
  rw [State.until_retxMax]
  omega

theorem State.syncExpire_limit (hp : y.retx = s.retxMax) : s.syncExpire m =
    let r := s.until (y.sentAt + s.rtoTb)
    ({ r with net := { r.net with syncs := Tab.put r.net.syncs m.toNat { y with retx := s.retxMax + 1 } } } : State).raise
      Code.retransmitLimit { unit := 6, member := some m, detail := y.port.elim 0 (·.val) } := by
  unfold State.syncExpire
  rw [hy]
  refine (if_neg (by omega)).trans ((if_pos ?_).trans ?_)
  · rw [State.until_retxMax]
    omega
  · dsimp only
    rw [State.until_retxMax]
    rfl

end

/-! ### Retransmission of a frame (R258) -/

section
variable {m : MemberId} {vc : BitVec 2} {seq : BitVec 32} {f : TxFrame}

theorem State.rtoExpire_none (hf : (s.pair (pairKey m vc)).unacked.find? (fun g => g.seq == seq) = none) : s.rtoExpire m vc seq = s := by
  unfold State.rtoExpire
  rw [hf]

variable (hf : (s.pair (pairKey m vc)).unacked.find? (fun g => g.seq == seq) = some f) (hidle : ∀ p, p < 16 → (s.mac p).egress = [])
include hf hidle

/-- With no frame in an egress queue the timer counts, until the limit has been met. -/
theorem State.rtoExpire_counts :
    s.rtoExpire m vc seq = if s.retxMax < f.retx then s else (s.until (f.sentAt + s.rtoTb)).sendAgain m vc f := by
  have hqueued : (List.range 16).any (fun p =>
      (s.mac p).egress.any (fun e => e.peer == m && e.vc == vc && e.seq == seq && e.bare.isNone)) = false := by
    refine List.any_eq_false.mpr fun p hp => ?_
    rw [hidle p (List.mem_range.mp hp)]
    exact Bool.false_ne_true
  unfold State.rtoExpire
  rw [hf]
  dsimp only
  rw [hqueued, Bool.false_or]
  exact ite_iff_congr decide_eq_true_iff _ _

theorem State.rtoExpire_again (hr : f.retx < s.retxMax) : s.rtoExpire m vc seq =
    ((s.until (f.sentAt + s.rtoTb)).raiseOnce Code.frameSeq
      { unit := 6, member := some m, detail := f.port.elim 0 (·.val) + 16 * vc.toNat }).transmit m vc { f with retx := f.retx + 1 } true := by
  rw [State.rtoExpire_counts hf hidle, if_neg (by omega)]
  refine if_neg ?_
  rw [State.until_retxMax]
  omega

theorem State.rtoExpire_limit (hr : f.retx = s.retxMax) :
    s.rtoExpire m vc seq = (s.until (f.sentAt + s.rtoTb)).frameLimit m vc f := by
  rw [State.rtoExpire_counts hf hidle, if_neg (by omega)]
  refine if_pos ?_
  rw [State.until_retxMax]
  omega

end

section
variable {m : MemberId} {vc : BitVec 2} {f : TxFrame}

theorem State.frameLimit_kept (hv : vc ≠ 3) : s.frameLimit m vc f =
    (s.setPair (pairKey m vc) { s.pair (pairKey m vc) with
      unacked := (s.pair (pairKey m vc)).unacked.map (fun g => if g.seq = f.seq then { g with retx := s.retxMax + 1 } else g) }).raise
      Code.retransmitLimit { unit := 6, member := some m, detail := f.port.elim 0 (·.val) + 16 * vc.toNat } := by
  unfold State.frameLimit State.retransmitLimit frameWhere
  simp only [if_neg hv, decide_eq_false hv]

theorem State.frameLimit_given : s.frameLimit m 3 f =
    let u := (s.setPair (pairKey m 3) { s.pair (pairKey m 3) with
      unacked := (s.pair (pairKey m 3)).unacked.filter (fun g => g.seq ≠ f.seq) }).raise
      Code.retransmitLimit { unit := 6, member := some m, detail := f.port.elim 0 (·.val) + 48, noPass := true }
    { u with net := { u.net with limited := u.net.limited ++ [f.payload] } } := rfl

end

theorem transportTimers : Claim.TransportTimers := by
  unfold Claim.TransportTimers
  intro s m vc ha
  refine ⟨fun hd => ?_, fun hd => ?_, fun hy => closed_awake ha (State.syncExpire_none hy), fun y hy => ?_, fun seq f hf hidle => ?_,
    fun seq hf => closed_awake ha (State.rtoExpire_none hf)⟩
  · exact congrArg Host.Outcome.next ((if_pos ha).trans (if_pos hd))
  · exact congrArg Host.Outcome.next ((if_pos ha).trans (if_neg hd))
  · exact ⟨fun hr => closed_awake ha (State.syncExpire_repeats hy hr), fun hr => closed_awake ha (State.syncExpire_limit hy hr),
      fun hr => closed_awake ha (State.syncExpire_past hy hr)⟩
  · have hseq : f.seq = seq := by simpa using List.find?_some hf
    refine ⟨fun hr => closed_awake ha (State.rtoExpire_again hf hidle hr), fun hr hv => ?_, fun hr hv => ?_, fun hr => ?_⟩
    · refine closed_awake ha ((State.rtoExpire_limit hf hidle hr).trans ((State.frameLimit_kept hv).trans ?_))
      rw [State.until_retxMax, hseq]
    · subst hv
      refine closed_awake ha ((State.rtoExpire_limit hf hidle hr).trans (State.frameLimit_given.trans ?_))
      rw [hseq]
    · exact closed_awake ha ((State.rtoExpire_counts hf hidle).trans (if_pos hr))

/-! ### Ports (R252, R261) -/

theorem State.framesOn_none (hf : ∀ e ∈ s.net.pairs, ∀ f ∈ e.2.unacked, f.port.isSome = true) : s.framesOn none = [] := by
  have hempty : s.net.pairs.flatMap (fun p => (p.2.unacked.filter (fun f => f.port == none)).map (fun f => (p.1, f))) = [] := by
    rw [List.flatMap_eq_nil_iff]
    intro e he
    rw [List.map_eq_nil_iff, List.filter_eq_nil_iff]
    intro f hm hnone
    rw [beq_iff_eq] at hnone
    have hsome := hf e he f hm
    rw [hnone] at hsome
    cases hsome
  unfold State.framesOn
  dsimp only
  rw [hempty]
  rfl

/-- With frames of one channel ready, that channel goes next. -/
theorem State.nextChannel_single (done : List Nat) (v : Nat) : s.nextChannel done [v] = some v := by
  unfold State.nextChannel
  by_cases h0 : v = 0
  · rw [h0]
    rfl
  · rw [if_neg (by simpa using Ne.symm h0)]
    split
    · next h1 =>
      have hv : 1 = v := by simpa using (Bool.and_eq_true_iff.mp h1).2
      rw [hv]
    · rfl

theorem State.egressOrder_single (done : List Nat) (e : Egress) : s.egressOrder 1 done [e] = [e] := by
  have hready : ([0, 1, 2, 3] : List Nat).filter (fun v => [e].any (fun x => x.vc.toNat == v)) = [e.vc.toNat] := by
    have hvc : e.vc.toNat < 4 := e.vc.isLt
    generalize hk : e.vc.toNat = k at hvc
    simp only [List.any_cons, List.any_nil, Bool.or_false, hk]
    obtain rfl | rfl | rfl | rfl : k = 0 ∨ k = 1 ∨ k = 2 ∨ k = 3 := by omega
    iterate 4 rfl
  unfold State.egressOrder State.leaveOrder
  rw [hready, State.nextChannel_single]
  simp [State.leaveOrder]

section
variable {p : Fin 16}

theorem State.portDown_up (hu : (s.mac p.val).linkUp = true) : s.portDown p =
    ((((s.setEgress p.val []).setMac p.val { s.mac p.val with linkUp := false, inSet := false, egress := [] }).bump 0x21558).raiseOnce
      Code.linkDown { unit := 6, detail := p.val }).resendFrom p := if_pos hu

theorem State.portDown_down (hu : (s.mac p.val).linkUp = false) : s.portDown p = s := if_neg (Bool.eq_false_iff.mp hu)

theorem State.portHold_down (hu : (s.mac p.val).linkUp = false) : s.portHold p = s :=
  if_neg (by rw [hu]; exact Bool.false_ne_true)

theorem State.portHold_joins (hu : (s.mac p.val).linkUp = true) (hi : (s.mac p.val).inSet = false)
    (hf : ∀ e ∈ s.net.pairs, ∀ f ∈ e.2.unacked, f.port.isSome = true) : s.portHold p =
    (s.until ((s.mac p.val).upSince + s.linkHold)).setMac p.val { s.mac p.val with inSet := true } := by
  refine (if_pos (by rw [hu, hi]; rfl)).trans ?_
  have hnone : ((s.until ((s.mac p.val).upSince + s.linkHold)).setMac p.val { s.mac p.val with inSet := true }).framesOn none = [] := by
    refine State.framesOn_none fun e he => hf e ?_
    have hpairs : (s.until ((s.mac p.val).upSince + s.linkHold)).net.pairs = s.net.pairs := by rw [State.until_net]
    exact hpairs ▸ he
  dsimp only
  rw [hnone]
  rfl

section
variable {status : BitVec 8}

theorem State.portPause_holds (hh : ∀ e ∈ (s.mac p.val).egress, bit status.toNat (s.pcp e.vc.toNat) = true) :
    s.portPause p status = s.setMac p.val { s.mac p.val with pause := status } := by
  have hgo : (s.mac p.val).egress.filter (fun e => !(bit status.toNat (s.pcp e.vc.toNat))) = [] := by
    rw [List.filter_eq_nil_iff]
    intro e he
    rw [hh e he]
    exact Bool.false_ne_true
  unfold State.portPause
  dsimp only
  rw [hgo]
  rfl

theorem State.portPause_letsGo {e : Egress} (he : (s.mac p.val).egress = [e]) (hb : bit status.toNat (s.pcp e.vc.toNat) = false) :
    s.portPause p status = ((s.setMac p.val { s.mac p.val with pause := status }).setEgress p.val []).leave p e := by
  have hgo : [e].filter (fun e => !(bit status.toNat (s.pcp e.vc.toNat))) = [e] := by simp [hb]
  have hheld : [e].filter (fun e => bit status.toNat (s.pcp e.vc.toNat)) = [] := by simp [hb]
  unfold State.portPause
  dsimp only
  rw [he, hgo, hheld]
  dsimp only [List.isEmpty_cons, List.length_singleton]
  rw [if_neg Bool.false_ne_true, State.egressOrder_single]
  rfl

end

end

/-- The port commands act only while the fabric ports run. -/
theorem next_portsRun {t r : State} (hr : s.portsRun = true) (h : t = r) :
    (Host.Outcome.next (if s.portsRun then t else s) : Result) = .next r :=
  congrArg Host.Outcome.next ((if_pos hr).trans h)

theorem next_portsHalted {t : State} (hr : s.portsRun = false) : (Host.Outcome.next (if s.portsRun then t else s) : Result) = .next s :=
  congrArg Host.Outcome.next (if_neg (Bool.eq_false_iff.mp hr))

theorem links : Claim.Links := by
  unfold Claim.Links
  intro s p
  dsimp only
  refine ⟨fun hr => ⟨fun hu => ⟨?_, ?_⟩, fun hu => ⟨?_, fun c hc => ?_⟩, fun rate hu => ?_, fun rate hu => ?_, fun hu hi hf => ?_, fun status hh => ?_,
    fun status e he hb => ?_⟩, fun hr => ⟨?_, fun rate status c hc => ?_⟩⟩
  · exact next_portsRun hr (State.portDown_up hu)
  · exact congrArg (fun t : State => (Host.Outcome.next (t.resetPort p) : Result)) ((if_pos hr).trans (State.portDown_up hu))
  · exact congrArg (fun t : State => (Host.Outcome.next (t.resetPort p) : Result)) ((if_pos hr).trans (State.portDown_down hu))
  · rcases List.mem_cons.mp hc with rfl | hc
    · exact next_portsRun hr (State.portDown_down hu)
    · rw [List.mem_singleton.mp hc]
      exact next_portsRun hr (State.portHold_down hu)
  · exact next_portsRun hr (if_neg (Bool.eq_false_iff.mp hu))
  · exact next_portsRun hr (if_pos hu)
  · exact next_portsRun hr (State.portHold_joins hu hi hf)
  · exact next_portsRun hr (State.portPause_holds hh)
  · exact next_portsRun hr (State.portPause_letsGo he hb)
  · exact congrArg (fun t : State => (Host.Outcome.next (t.resetPort p) : Result)) (if_neg (Bool.eq_false_iff.mp hr))
  · simp only [List.mem_cons, List.not_mem_nil, or_false] at hc
    rcases hc with rfl | rfl | rfl | rfl
    all_goals exact next_portsHalted hr

/-- Settles O47: the timers by what they find, the links by whether the ports run and what the port holds. -/
theorem transportEvents : Obligations.TransportEvents := ⟨transportTimers, links⟩

end Sys2Proof.Machine
end

section
/-! SUPPORT. A buffer request of a host core's window (R347, R350, R351, R355). -/
namespace Sys2Proof.Machine

variable {s : State} {c : Fin 16} {v : BitVec 64}

/-! ### The write of a request -/

theorem State.portWrite_poolRequest (s : State) (c : Fin 16) (v : BitVec 64) :
    s.portWrite (poolOff c) 3 v.toNat = s.windowWrite c (.request v) := by
  have hc := c.isLt
  have hwin : Fin.ofNat 16 ((poolOff c - 0xC800) / 0x20) = c := by
    ext
    simp only [poolOff, Fin.val_ofNat]
    omega
  have hv : BitVec.ofNat 64 v.toNat = v := by simp
  unfold State.portWrite
  rw [hwin, hv]
  unfold poolOff
  rw [if_neg (by omega), if_neg (by omega), if_neg (by omega), if_pos (by omega)]
  dsimp only
  rw [if_pos (by omega)]

theorem exec_poolRequest (hs : s.servesNow) (hw : (s.poolWindow c).waiting = false) :
    exec (.poolRequest c v) s = .next (s.newTag.ok.windowRequest c v) := by
  rw [exec_serves hs _ rfl]
  have hserve : s.newTag.serve (.poolRequest c v) = s.newTag.windowWrite c (.request v) := s.newTag.portWrite_poolRequest c v
  rw [hserve, State.windowWrite_of_not_waiting (s := s.newTag) hw]
  rfl

/-! ### A host core's request (R350, R351) -/

theorem State.poolWindow_setPoolWindow (s : State) (c : Fin 16) (w : PoolWindow) : (s.setPoolWindow c w).poolWindow c = w :=
  (Tab.get_set _ _ _ _ _).trans (if_pos rfl)

section
variable {pool size level : Nat} {nowait : Bool}

theorem State.chargedUse_core (s : State) (c : Fin 16) : s.chargedUse (16 + c.val) = s.usedBy (16 + c.val) := if_neg (by omega)

theorem State.requestBuffer_denied (hq : s.quotaOf (16 + c.val) < s.usedBy (16 + c.val) + classSize (classOf size)) :
    s.requestBuffer pool size (16 + c.val) level nowait (some c) = ((s.bump 0x21708).raise Code.quotaDenied { unit := 13 }, .denied) := by
  refine if_pos ?_
  rw [if_neg (by omega), State.chargedUse_core]
  exact hq

variable (hq : s.usedBy (16 + c.val) + classSize (classOf size) ≤ s.quotaOf (16 + c.val))
include hq

/-- Within its quota a request takes what the watermark and the bitmap allow. -/
theorem State.requestBuffer_allowed {r : State × PoolAnswer}
    (hr : (match (if s.heldBack pool (classOf size) level then none else s.freeIndex pool (classOf size) (16 + c.val)) with
      | some i => (s.takeBuffer pool (classOf size) (16 + c.val) i, PoolAnswer.granted (handleOf pool (classOf size) i))
      | none => if nowait then (s, .wouldWait) else
        ((s.setPoolClass pool (classOf size) { s.poolClass pool (classOf size) with
          waiting := (s.poolClass pool (classOf size)).waiting ++ [{ requester := 16 + c.val, size := size, window := some c }] }).bump 0x21718,
          .waits)) = r) : s.requestBuffer pool size (16 + c.val) level nowait (some c) = r := by
  refine (if_neg ?_).trans hr
  rw [if_neg (by omega), State.chargedUse_core]
  omega

theorem State.requestBuffer_granted {i : Nat}
    (hi : (if s.heldBack pool (classOf size) level then none else s.freeIndex pool (classOf size) (16 + c.val)) = some i) :
    s.requestBuffer pool size (16 + c.val) level nowait (some c) =
      (s.takeBuffer pool (classOf size) (16 + c.val) i, .granted (handleOf pool (classOf size) i)) :=
  State.requestBuffer_allowed hq (by rw [hi])

variable (hi : (if s.heldBack pool (classOf size) level then none else s.freeIndex pool (classOf size) (16 + c.val)) = none)
include hi

theorem State.requestBuffer_refused : s.requestBuffer pool size (16 + c.val) level true (some c) = (s, .wouldWait) :=
  State.requestBuffer_allowed hq (by rw [hi]; rfl)

theorem State.requestBuffer_waits : s.requestBuffer pool size (16 + c.val) level false (some c) =
    ((s.setPoolClass pool (classOf size) { s.poolClass pool (classOf size) with
      waiting := (s.poolClass pool (classOf size)).waiting ++ [{ requester := 16 + c.val, size := size, window := some c }] }).bump 0x21718,
      .waits) :=
  State.requestBuffer_allowed hq (by rw [hi]; rfl)

end

/-- The window as a request opens it. -/
def State.requestOpened (s : State) (c : Fin 16) : State :=
  s.setPoolWindow c { s.poolWindow c with done := false, status := 0, handle := 0 }

/-- The answer that the pool gives goes to the window. -/
def State.poolAnswered (s : State) (c : Fin 16) : PoolAnswer → State
  | .granted h => s.poolDone c 0 h
  | .denied => s.poolFail c 1
  | .wouldWait => s.poolFail c 2
  | .waits => s.setPoolWindow c { s.poolWindow c with waiting := true }

/-- A request that names pool 1 to 4 is asked of that pool. -/
theorem State.windowRequest_asks (h1 : 1 ≤ v.toNat / 2 ^ 18 % 8) (h4 : v.toNat / 2 ^ 18 % 8 ≤ 4) : s.windowRequest c v =
    let x := (s.requestOpened c).requestBuffer (v.toNat / 2 ^ 18 % 8) (v.toNat % 2 ^ 18 + 1) (16 + c.val)
      ((s.requestOpened c).levelOf (16 + c.val)) (v.getLsbD 21) (some c)
    x.1.poolAnswered c x.2 := by
  have hpool : field v.toNat 18 3 = v.toNat / 2 ^ 18 % 8 := rfl
  unfold State.windowRequest State.requestOpened
  dsimp only
  rw [hpool, if_neg (by omega), bit_getLsbD, field_low]
  generalize State.requestBuffer _ _ _ _ _ _ _ _ = x
  obtain ⟨t, a⟩ := x
  cases a <;> rfl

/-- The state of a request that waits for its class: the window and the class say so, and nothing else changes. -/
def State.requestWaits (s : State) (c : Fin 16) (pool size : Nat) : State :=
  let t := (s.setPoolClass pool (classOf size) { s.poolClass pool (classOf size) with
    waiting := (s.poolClass pool (classOf size)).waiting ++ [{ requester := 16 + c.val, size := size, window := some c }] }).bump 0x21718
  t.setPoolWindow c { t.poolWindow c with waiting := true }

theorem State.requestWaits_class (s : State) (c : Fin 16) (pool size : Nat) :
    (s.requestWaits c pool size).poolClass pool (classOf size) = { s.poolClass pool (classOf size) with
      waiting := (s.poolClass pool (classOf size)).waiting ++ [{ requester := 16 + c.val, size := size, window := some c }] } :=
  (State.poolClass_set s _ _ _ _ _).trans (if_pos rfl)

/-- Settles O36: the request is denied by its quota, else granted, refused or left waiting by what the class allows. -/
theorem poolRequest : Obligations.PoolRequest := by
  unfold Obligations.PoolRequest
  intro s₀ c v s hs hw _ size pool cls r w u free h1 h4
  have hasks : exec (.poolRequest c v) s₀ = .next (s.ok.windowRequest c v) := exec_poolRequest (s := s₀) hs hw
  have hanswer {x : State × PoolAnswer} (hx : u.requestBuffer pool size (16 + c.val) (s.levelOf (16 + c.val)) (v.getLsbD 21) (some c) = x) :
      exec (.poolRequest c v) s₀ = .next (x.1.poolAnswered c x.2) := by
    rw [hasks, State.windowRequest_asks h1 h4, ← hx]
    rfl
  refine ⟨fun hq => hanswer (State.requestBuffer_denied (s := u) hq), fun hq => ⟨fun i hi => ?_, fun hi hb => ?_, fun hi hb => ?_⟩⟩
  · exact hanswer (State.requestBuffer_granted (s := u) hq hi)
  · rw [hb] at hanswer
    exact hanswer (State.requestBuffer_refused (s := u) hq hi)
  · rw [hb] at hanswer
    refine ⟨u.requestWaits c pool size, hanswer (State.requestBuffer_waits (s := u) hq hi), ?_, ?_, ?_, ?_, rfl⟩
    · exact congrArg PoolWindow.waiting (State.poolWindow_setPoolWindow _ c _)
    · refine (congrArg PoolWindow.done (State.poolWindow_setPoolWindow _ c _)).trans ?_
      exact congrArg PoolWindow.done (State.poolWindow_setPoolWindow s.ok c _)
    · exact congrArg PoolClass.waiting (u.requestWaits_class c pool size)
    · exact (congrArg PoolClass.used (u.requestWaits_class c pool size)).trans rfl

end Sys2Proof.Machine
end

section
/-! SUPPORT. Reads of a pool window, and the service of a waiting request (R349, R351, R355). -/
namespace Sys2Proof.Machine

variable {s : State} {c : Fin 16}

/-! ### Reads (R349, R355) -/

theorem State.poolRead_done (hd : (s.poolWindow c).done = true) : s.poolRead c = s.answer (s.poolWindow c).result := if_pos hd

theorem State.poolRead_stalls (hd : (s.poolWindow c).done = false) : s.poolRead c =
    (s.setPoolWindow c { s.poolWindow c with stalled := (s.poolWindow c).stalled ++ [s.port.tag] }).stall :=
  if_neg (Bool.eq_false_iff.mp hd)

theorem field_handleOf {pool cls i : Nat} (hp : pool ≤ 4) (hc : cls ≤ 5) (hi : i < 4096) :
    field (handleOf pool cls i) 28 4 = pool ∧ field (handleOf pool cls i) 25 3 = cls ∧ field (handleOf pool cls i) 0 12 = i := by
  unfold field handleOf
  omega

theorem State.poolAddress_granted {pool cls i : Nat} (hd : (s.poolWindow c).done = true) (hst : (s.poolWindow c).status = 0)
    (hh : (s.poolWindow c).handle.toNat = handleOf pool cls i) (hp : pool ≤ 4) (hc : cls ≤ 5) (hi : i < 4096)
    (htop : s.windowBase pool + s.classBase pool cls + i * classSize cls < hostTop) :
    s.poolAddress c = s.answer (s.windowBase pool + s.classBase pool cls + i * classSize cls) := by
  obtain ⟨hpool, hcls, hindex⟩ := field_handleOf hp hc hi
  refine (if_pos ⟨hd, hst⟩).trans ?_
  rw [hh, hpool, hcls, hindex, Nat.mod_eq_of_lt htop]

theorem State.poolAddress_open (ho : (s.poolWindow c).done = false ∨ (s.poolWindow c).status ≠ 0) :
    s.poolAddress c = s.useFree.answer (Config.openHandle s.freeCtr).toNat := by
  refine if_neg fun hg => ?_
  rcases ho with ho | ho
  · rw [hg.1] at ho
    cases ho
  · exact ho hg.2

theorem poolReads : Claim.PoolReads := by
  unfold Claim.PoolReads
  intro s₀ c s hs w
  have hresult : exec (.poolResultRead c) s₀ = .next (s.poolRead c) := exec_serves (s := s₀) hs _ rfl
  have haddress : exec (.poolAddressRead c) s₀ = .next (s.poolAddress c) := exec_serves (s := s₀) hs _ rfl
  refine ⟨fun hd => hresult.trans (congrArg _ ((State.poolRead_done hd).trans ?_)), fun hd => hresult.trans (congrArg _ (State.poolRead_stalls hd)),
    fun pool cls i hd hst hh hp hc hi htop => haddress.trans (congrArg _ (State.poolAddress_granted hd hst hh hp hc hi htop)),
    fun ho => haddress.trans (congrArg _ (State.poolAddress_open ho))⟩
  unfold PoolWindow.result
  rw [hd]
  rfl

/-! ### A waiting request is served (R351) -/

/-- The watermark of the request's level and the class's free buffers allow it. -/
def State.requestReady (s : State) (pool cls : Nat) (x : PoolReq) : Bool :=
  !(s.heldBack pool cls (s.reqLevel x)) && (s.freeIndex pool cls x.requester).isSome

/-- A request leaves the wait of its class and takes a buffer. -/
def State.servedRequest (s : State) (pool cls : Nat) (x : PoolReq) (i : Nat) : State :=
  (s.setPoolClass pool cls { s.poolClass pool cls with waiting := (s.poolClass pool cls).waiting.erase x }).takeBuffer pool cls x.requester i

section
variable {pool cls : Nat}

theorem State.grantWaiting_none (hx : (s.poolClass pool cls).waiting.find? (s.requestReady pool cls) = none) :
    s.grantWaiting pool cls = s := by
  have hserve : s.serveWaiting pool cls = (s, none) := by
    unfold State.serveWaiting
    unfold State.requestReady at hx
    dsimp only
    rw [hx]
  unfold State.grantWaiting
  rw [hserve]

section
variable {x : PoolReq} {i : Nat} (hx : (s.poolClass pool cls).waiting.find? (s.requestReady pool cls) = some x)
  (hi : s.freeIndex pool cls x.requester = some i)
include hx hi

theorem State.grantWaiting_window (hw : x.window = some c) : s.grantWaiting pool cls =
    let t := (s.servedRequest pool cls x i).poolDone c 0 (handleOf pool cls i)
    t.windowDrain (t.poolWindow c).held.length c := by
  have hserve : s.serveWaiting pool cls =
      (let t := (s.servedRequest pool cls x i).poolDone c 0 (handleOf pool cls i)
       (t.windowDrain (t.poolWindow c).held.length c, none)) := by
    unfold State.serveWaiting
    unfold State.requestReady at hx
    dsimp only
    rw [hx]
    dsimp only
    rw [hi]
    dsimp only
    rw [hw]
    rfl
  unfold State.grantWaiting
  rw [hserve]

theorem State.grantWaiting_job {j : PoolJob} (hw : x.window = none) (hj : x.job = some j) : s.grantWaiting pool cls =
    ((s.servedRequest pool cls x i).runJob j (handleOf pool cls i)).close := by
  have hserve : s.serveWaiting pool cls = (s.servedRequest pool cls x i, some (j, handleOf pool cls i)) := by
    unfold State.serveWaiting
    unfold State.requestReady at hx
    dsimp only
    rw [hx]
    dsimp only
    rw [hi]
    dsimp only
    rw [hw, hj]
    rfl
  unfold State.grantWaiting
  rw [hserve]

end

end

theorem waitingRequestServed : Claim.WaitingRequestServed := by
  unfold Claim.WaitingRequestServed
  intro s pool cls ha k ready
  have hnext {t : State} (ht : s.grantWaiting pool cls = t) : exec (.poolWaitGrant pool cls) s = .next t :=
    congrArg Host.Outcome.next ((if_pos ha).trans ht)
  exact ⟨fun x c i hx hw hi => hnext (State.grantWaiting_window hx hi hw), fun x j i hx hw hj hi => hnext (State.grantWaiting_job hx hi hw hj),
    fun hx => hnext (State.grantWaiting_none hx)⟩

/-- Settles O39: the reads by whether the window's request is done, the wait by the first request that may be served. -/
theorem poolReadsAndWaits : Obligations.PoolReadsAndWaits := ⟨poolReads, waitingRequestServed⟩

end Sys2Proof.Machine
end

section
/-! SUPPORT. START and DATA in a push window (R359, R361, R363). -/
namespace Sys2Proof.Machine

variable {s : State} {c : Fin 16} {v : BitVec 64} {b : List Byte}

/-! ### The writes of a push window -/

theorem State.portWrite_queueStart (s : State) (c : Fin 16) (v : BitVec 64) :
    s.portWrite (pushOff c) 3 v.toNat = s.writePush c.val (.start v) := by
  have hc := c.isLt
  have hwin : (pushOff c - 0xE0000) / 0x200 = c.val := by
    unfold pushOff
    omega
  have hv : BitVec.ofNat 64 v.toNat = v := by simp
  unfold State.portWrite
  rw [hwin, hv]
  unfold pushOff
  rw [if_neg (by omega), if_neg (by omega), if_neg (by omega), if_neg (by omega), if_pos (by omega)]
  dsimp only
  rw [if_pos (by omega)]

theorem exec_queueStart (hs : s.servesNow) : exec (.queueStart c v) s = .next (s.newTag.writePush c.val (.start v)) :=
  (exec_serves hs _ rfl).trans (congrArg _ (s.newTag.portWrite_queueStart c v))

theorem exec_queueData (hs : s.servesNow) (hb : b.length = 8 ∨ b.length = 16 ∨ b.length = 32 ∨ b.length = 64) :
    exec (.queueData c b) s = .next (s.newTag.writePush c.val (.data b)) :=
  (exec_serves hs _ rfl).trans (congrArg _ (if_pos hb))

/-- A write that leaves one held keeps its tag. -/
theorem State.writePush_held {w : PushWrite} {u : State} (hw : s.pushWrite c.val w = u) (hh : (u.push c.val).held ≠ []) :
    s.writePush c.val w = u.stall := by
  unfold State.writePush
  dsimp only
  rw [hw]
  exact if_neg (by simpa using hh)

/-! ### START (R359, R361, R363) -/

/-- A START with nothing held before it acts at once. -/
theorem State.pushWrite_start (hh : (s.push c.val).held = []) {u : State} (hu : s.pushStart c.val v = some u) : s.pushWrite c.val (.start v) = u := by
  refine (if_neg (fun hne => hne hh)).trans ?_
  dsimp only
  rw [hu]

section
variable (hh : (s.push c.val).held = []) (ho : (s.push c.val).isOpen = none)
include hh ho

/-- The fields of the word of a START. -/
theorem State.pushStart_fields : s.pushStart c.val v =
    if v.toNat % 2 ^ 15 = 0 ∨ 16384 < v.toNat % 2 ^ 15 ∨ !(s.qEnable (v.toNat / 2 ^ 16 % 2 ^ 12)) ∨ s.qProducer (v.toNat / 2 ^ 16 % 2 ^ 12) = 1 then
      some (s.bump 0x21748)
    else if s.qFits (v.toNat / 2 ^ 16 % 2 ^ 12) (v.toNat % 2 ^ 15) then
      some ((s.setPush c.val { isOpen := some (v.toNat / 2 ^ 16 % 2 ^ 12, s.storage.nextItem), held := [] }).placeItem
        (v.toNat / 2 ^ 16 % 2 ^ 12) (BitVec.ofNat 3 (v.toNat / 2 ^ 59)) (v.toNat % 2 ^ 15) [])
    else if s.qDropNewest (v.toNat / 2 ^ 16 % 2 ^ 12) then
      some (s.dropItem (v.toNat / 2 ^ 16 % 2 ^ 12) (BitVec.ofNat 3 (v.toNat / 2 ^ 59)) false)
    else none := by
  have hpad : s.padOpen c.val = s := by
    unfold State.padOpen
    rw [ho]
  have hqueue : field v.toNat 16 12 = v.toNat / 2 ^ 16 % 2 ^ 12 := rfl
  have hprio : BitVec.ofNat 3 (field v.toNat 59 3) = BitVec.ofNat 3 (v.toNat / 2 ^ 59) := BitVec.eq_of_toNat_eq (by simp [field])
  unfold State.pushStart
  dsimp only
  rw [hpad, field_low, hqueue, hprio, hh]

theorem State.pushWrite_waits (hu : s.pushStart c.val v = none) :
    s.pushWrite c.val (.start v) = s.setPush c.val { isOpen := none, held := [(s.port.tag, .start v)] } := by
  have hpad : s.padOpen c.val = s := by
    unfold State.padOpen
    rw [ho]
  refine (if_neg (fun hne => hne hh)).trans ?_
  dsimp only
  rw [hu, hpad, ho]

end

/-! ### DATA (R359) -/

theorem State.pushWrite_data (hh : (s.push c.val).held = []) : s.pushWrite c.val (.data b) = s.pushData c.val b :=
  if_neg (fun hne => hne hh)

theorem State.pushData_closed (ho : (s.push c.val).isOpen = none) : s.pushData c.val b = s := by
  unfold State.pushData
  rw [ho]

theorem State.pushData_open {q id : Nat} {i : QItem} (ho : (s.push c.val).isOpen = some (q, id))
    (hi : ((s.queue q).append id b).find id = some i) : s.pushData c.val b =
    let u := s.setQueue q ((s.queue q).append id b)
    if i.data.length = i.length then (u.setPush c.val { s.push c.val with isOpen := none }).bump 0x21730 else u := by
  unfold State.pushData
  rw [ho]
  dsimp only
  rw [State.queue_set, if_pos rfl, hi, State.setQueue_push]

/-- Settles O40: START by what its queue allows, DATA by the window's open item. -/
theorem queuePush : Obligations.QueuePush := by
  unfold Obligations.QueuePush
  intro s₀ c s hs hh
  refine ⟨?_, ?_, ?_⟩
  · intro v ho length q prio
    have hfields := State.pushStart_fields (v := v) hh ho
    have hstart {u : State} (hu : s.pushStart c.val v = some u) (hheld : (u.push c.val).held = []) :
        exec (.queueStart c v) s₀ = .next u.ok :=
      (exec_queueStart (s := s₀) hs).trans (congrArg _ (State.writePush_one _ _ _ (State.pushWrite_start hh hu) hheld))
    refine ⟨fun hbad => ?_, fun hlo hhi hen hprod => ⟨fun hfit => ?_, fun hfit hdrop => ?_, fun hfit hdrop => ?_⟩⟩
    · refine hstart (hfields.trans (if_pos ?_)) hh
      exact hbad.imp_right fun hr => hr.imp_right fun he => he.imp_left fun hen => (Bool.not_eq_true' _).mpr hen
    all_goals
      have hgood : ¬(length = 0 ∨ 16384 < length ∨ (!(s.qEnable q)) = true ∨ s.qProducer q = 1) := by
        rw [hen]
        simp only [Bool.not_true, Bool.false_eq_true, false_or]
        omega
      have hplaced := hfields.trans (if_neg hgood)
    · refine hstart (hplaced.trans (if_pos hfit)) ?_
      rw [State.placeItem_push, State.push_set, if_pos rfl]
    · refine hstart (hplaced.trans ((if_neg (Bool.eq_false_iff.mp hfit)).trans (if_pos hdrop))) ?_
      rw [State.dropItem_push]
      exact hh
    · have hnone := hplaced.trans ((if_neg (Bool.eq_false_iff.mp hfit)).trans (if_neg (Bool.eq_false_iff.mp hdrop)))
      refine (exec_queueStart (s := s₀) hs).trans (congrArg _ (State.writePush_held (State.pushWrite_waits hh ho hnone) ?_))
      rw [State.push_set, if_pos rfl]
      exact List.cons_ne_nil _ _
  · intro b q id i hb ho hi
    have hdata := State.pushData_open ho hi
    have hwrite {u : State} (hu : s.pushData c.val b = u) (hheld : (u.push c.val).held = []) : exec (.queueData c b) s₀ = .next u.ok :=
      (exec_queueData (s := s₀) hs hb).trans (congrArg _ (State.writePush_one _ _ _ ((State.pushWrite_data hh).trans hu) hheld))
    refine ⟨fun hmore => hwrite (hdata.trans (if_neg (by omega))) ?_, fun hall => hwrite (hdata.trans (if_pos hall)) ?_⟩
    · rw [State.setQueue_push]
      exact hh
    · have hpush := State.push_set (s.setQueue q ((s.queue q).append id b)) c.val c.val { s.push c.val with isOpen := none }
      exact (congrArg PushWindow.held (hpush.trans (if_pos rfl))).trans hh
  · intro b ho hb
    exact (exec_queueData (s := s₀) hs hb).trans
      (congrArg _ (State.writePush_one _ _ _ ((State.pushWrite_data hh).trans (State.pushData_closed ho)) hh))

end Sys2Proof.Machine
end

section
/-! SUPPORT. Reads of a queue's window, and the ends of their stalls (R360, R361, R364). -/
namespace Sys2Proof.Machine

variable {s : State} {q : Nat}

/-! ### Header reads (R360) -/

theorem Queue.noHeader {k : Queue} (hk : k.stalls = []) : k.stalls.any (fun r => r.header) = false := by
  rw [hk]
  rfl

theorem State.headerRead_takes {i : Nat} {e : QEntry} (hk : (s.queue q).stalls = []) (hi : s.nextEntry q = some i)
    (he : (s.queue q).entries[i]? = some e) : s.headerRead q = (s.takeEntry q i e).answer e.header := by
  unfold State.headerRead
  dsimp only
  rw [Queue.noHeader hk, if_neg Bool.false_ne_true, hi]
  dsimp only
  rw [he]

theorem State.headerRead_stalls (hk : (s.queue q).stalls = []) (hi : s.nextEntry q = none) : s.headerRead q =
    ((s.setQueue q { s.queue q with stalls := [⟨true, 8, s.tb, s.port.tag⟩] }).bump 0x21750).stall := by
  unfold State.headerRead
  dsimp only
  rw [Queue.noHeader hk, if_neg Bool.false_ne_true, hi, hk]
  rfl

/-! ### Data reads (R360, R364) -/

section
variable {n : Nat}

theorem Queue.dataStalled_eq_false {k : Queue} (hk : ∀ r ∈ k.stalls, r.header = true) : k.dataStalled = false := by
  unfold Queue.dataStalled
  rw [List.any_eq_false]
  intro r hr
  rw [hk r hr]
  exact Bool.false_ne_true

theorem State.dataRead_none (hc : (s.queue q).cur = none) (hk : ∀ r ∈ (s.queue q).stalls, r.header = true) : s.dataRead q n = s.answer 0 := by
  have hready : (s.queue q).dataReady n = true := by
    unfold Queue.dataReady
    rw [hc]
  have hbytes : (s.queue q).dataBytes n = 0 := by
    unfold Queue.dataBytes
    rw [hc]
  have htake : s.dataTake q n = s := if_pos (by rw [hc]; rfl)
  unfold State.dataRead
  dsimp only
  rw [hready, Queue.dataStalled_eq_false hk, htake, hbytes]
  rfl

variable {x : QItem} (hc : (s.queue q).cur = some x)
include hc

theorem State.dataReady_iff : (s.queue q).dataReady n = true ↔ min ((s.queue q).curPos + n) x.length ≤ x.data.length := by
  unfold Queue.dataReady
  rw [hc]
  exact decide_eq_true_iff

theorem State.dataRead_takes (hr : min ((s.queue q).curPos + n) x.length ≤ x.data.length) (hk : ∀ r ∈ (s.queue q).stalls, r.header = true) :
    s.dataRead q n = (s.setQueue q { s.queue q with curPos := (s.queue q).curPos + n }).answer (ofLe (slice x.data (s.queue q).curPos n)) := by
  have hbytes : (s.queue q).dataBytes n = ofLe (slice x.data (s.queue q).curPos n) := by
    unfold Queue.dataBytes
    rw [hc]
  have htake : s.dataTake q n = s.setQueue q { s.queue q with curPos := (s.queue q).curPos + n } :=
    if_neg (by rw [hc]; exact Bool.false_ne_true)
  unfold State.dataRead
  dsimp only
  rw [(State.dataReady_iff hc).mpr hr, Queue.dataStalled_eq_false hk, htake, hbytes]
  rfl

theorem State.dataRead_stalls (hr : x.data.length < min ((s.queue q).curPos + n) x.length ∨ ∃ r ∈ (s.queue q).stalls, r.header = false) :
    s.dataRead q n =
      (s.setQueue q { s.queue q with stalls := (s.queue q).stalls ++ [⟨false, n, s.tb, s.port.tag⟩] }).stall := by
  refine if_neg fun hgo => ?_
  obtain ⟨hready, hfree⟩ := Bool.and_eq_true_iff.mp hgo
  rcases hr with hr | ⟨r, hm, hd⟩
  · exact absurd ((State.dataReady_iff hc).mp hready) (by omega)
  · have hstalled : (s.queue q).dataStalled = true := List.any_eq_true.mpr ⟨r, hm, by rw [hd]; rfl⟩
    rw [hstalled] at hfree
    cases hfree

end

theorem queueReads : Claim.QueueReads := by
  unfold Claim.QueueReads
  intro s₀ q s hs hq k
  have hheader (size : BitVec 3) (finds : List ReadFind) :
      exec (.queueHeaderRead q size finds) s₀ = .next ((s.queueHeader q.toNat size).readCache 1 finds) := exec_serves (s := s₀) hs _ rfl
  have hdata (size : BitVec 3) (finds : List ReadFind) :
      exec (.queueDataRead q size finds) s₀ = .next ((s.queueBytes q.toNat size).readCache 2 finds) := exec_serves (s := s₀) hs _ rfl
  have hheader' (size : BitVec 3) : exec (.queueHeaderRead q size) s₀ = .next (s.queueHeader q.toNat size) := by
    rw [hheader, State.readCache_nil]
  have hdata' (size : BitVec 3) : exec (.queueDataRead q size) s₀ = .next (s.queueBytes q.toNat size) := by
    rw [hdata, State.readCache_nil]
  have hread (size : BitVec 3) (hsize : size = 3 ∨ size = 4) : s.queueBytes q.toNat size = s.dataRead q.toNat (2 ^ size.toNat) := by
    refine if_pos ?_
    rw [hq]
    simpa using hsize
  refine ⟨fun size finds => ⟨⟨_, hheader' size, hheader size finds⟩, ⟨_, hdata' size, hdata size finds⟩⟩, ?_, ?_, ?_, ?_, ?_, ?_⟩
  · intro i e hk hi he
    exact (hheader' 3).trans (congrArg _ ((if_pos (by rw [hq]; rfl)).trans (State.headerRead_takes hk hi he)))
  · intro hk hi
    exact (hheader' 3).trans (congrArg _ ((if_pos (by rw [hq]; rfl)).trans (State.headerRead_stalls hk hi)))
  · intro size hsize
    exact (hheader' size).trans (congrArg _ (if_neg (by rw [hq]; simpa using hsize)))
  · intro size x hsize hc
    exact ⟨fun hr hk => (hdata' size).trans (congrArg _ ((hread size hsize).trans (State.dataRead_takes hc hr hk))),
      fun hr => (hdata' size).trans (congrArg _ ((hread size hsize).trans (State.dataRead_stalls hc hr)))⟩
  · intro size hsize hc hk
    exact (hdata' size).trans (congrArg _ ((hread size hsize).trans (State.dataRead_none hc hk)))
  · intro size h3 h4
    exact (hdata' size).trans (congrArg _ (if_neg (by rw [hq]; simpa using ⟨h3, h4⟩)))

/-! ### A stalled read returns (R360) -/

theorem State.queue_putQueue (s : State) (q : Nat) (k : Queue) : (s.putQueue q k).queue q = k :=
  (Tab.get_set _ _ _ _ _).trans (if_pos rfl)

theorem State.setQueue_putQueue (s : State) (q : Nat) (k k' : Queue) : (s.putQueue q k).setQueue q k' = s.setQueue q k' := by
  unfold State.setQueue
  rw [State.putQueue_twice]

/-- The item that a reader of an entry has before it. -/
def entryItem : QEntry → Option QItem
  | .item x => some x
  | _ => none

theorem State.stalledReturn_idle (hk : (s.queue q).stalls = []) : s.stalledReturn q = s := by
  unfold State.stalledReturn
  dsimp only
  rw [hk]
  rfl

theorem State.stalledReturn_header {r : QStall} {rest : List QStall} {i : Nat} {e : QEntry} (hk : (s.queue q).stalls = r :: rest)
    (hr : r.header = true) (hi : s.nextEntry q = some i) (he : (s.queue q).entries[i]? = some e) : s.stalledReturn q =
    (s.setQueue q { s.queue q with
      stalls := rest, entries := (s.queue q).entries.eraseIdx i, curPos := 0, cur := entryItem e }).lateAnswer r.tag e.header := by
  unfold State.stalledReturn
  dsimp only
  rw [hk, List.find?_cons_of_pos (by rw [hr, if_pos rfl, hi]; rfl)]
  dsimp only
  rw [if_pos hr, hi]
  dsimp only
  rw [he, List.erase_cons_head]
  dsimp only
  unfold State.takeEntry
  rw [State.queue_putQueue, State.setQueue_putQueue] <;> rfl

/-! ### STALL_LIMIT_TB passes (R360) -/

theorem State.stallExpiry_none (hk : (s.queue q).stalls.find? (·.header) = none ∨ s.stallLimit = 0) : s.stallExpiry q = s := by
  unfold State.stallExpiry
  cases hf : (s.queue q).stalls.find? (·.header) with
  | none => rfl
  | some r => exact if_pos (hk.resolve_left (fun hn => by rw [hf] at hn; cases hn))

theorem State.stallExpiry_empty {r : QStall} (hk : (s.queue q).stalls.find? (·.header) = some r) (hl : s.stallLimit ≠ 0) :
    s.stallExpiry q = ((s.until (r.since + s.stallLimit)).setQueue q { s.queue q with stalls := (s.queue q).stalls.erase r }).lateAnswer
      r.tag (3 * 2 ^ 62) := by
  have hqueue : (s.until (r.since + s.stallLimit)).queue q = s.queue q := by
    unfold State.queue
    rw [State.until_storage]
  unfold State.stallExpiry
  rw [hk]
  dsimp only
  rw [if_neg hl, hqueue]
  rfl

/-! ### A START that waited for space goes on (R361) -/

/-- A window that holds nothing has nothing to let go. -/
def State.spaceFor (s : State) (q c : Nat) : State :=
  match (s.push c).held with
  | (_, .start v) :: _ => if field v.toNat 16 12 = q then s.pushDrain (s.push c).held.length c else s
  | _ => s

theorem State.spaceFor_idle {c : Nat} (hh : (s.push c).held = []) : s.spaceFor q c = s := by
  unfold State.spaceFor
  rw [hh]

section
variable {c : Fin 16} {v : BitVec 64} {tag : Nat} (hh : (s.push c.val).held = [(tag, .start v)]) (ho : (s.push c.val).isOpen = none)
  (hq : v.toNat / 2 ^ 16 % 2 ^ 12 = q) (hlo : 1 ≤ v.toNat % 2 ^ 15) (hhi : v.toNat % 2 ^ 15 ≤ 16384) (hen : s.qEnable q = true)
  (hprod : s.qProducer q ≠ 1) (hfit : s.qFits q (v.toNat % 2 ^ 15) = true)
include hh ho hq hlo hhi hen hprod hfit

/-- The START held opens its item, and is answered under its tag. -/
theorem State.spaceFor_start : s.spaceFor q c.val =
    ((s.setPush c.val { isOpen := some (q, s.storage.nextItem), held := [] }).placeItem q (BitVec.ofNat 3 (v.toNat / 2 ^ 59))
      (v.toNat % 2 ^ 15) []).lateAnswer tag 0 := by
  have hpush : (s.setPush c.val { isOpen := none, held := [] }).push c.val = { isOpen := none, held := [] } :=
    (State.push_set _ _ _ _).trans (if_pos rfl)
  have hgood : ¬(v.toNat % 2 ^ 15 = 0 ∨ 16384 < v.toNat % 2 ^ 15 ∨ (!(s.qEnable q)) = true ∨ s.qProducer q = 1) := by
    rw [hen]
    simp only [Bool.not_true, Bool.false_eq_true, false_or]
    omega
  have hstart : (s.setPush c.val { isOpen := none, held := [] }).pushStart c.val v =
      some ((s.setPush c.val { isOpen := some (q, s.storage.nextItem), held := [] }).placeItem q (BitVec.ofNat 3 (v.toNat / 2 ^ 59))
        (v.toNat % 2 ^ 15) []) := by
    refine (State.pushStart_fields (c := c) (v := v) (by rw [hpush]) (by rw [hpush])).trans ?_
    rw [hq, State.setPush_twice]
    exact (if_neg hgood).trans (if_pos hfit)
  have hfield : field v.toNat 16 12 = q := hq
  unfold State.spaceFor
  rw [hh]
  dsimp only
  rw [if_pos hfield, List.length_singleton]
  unfold State.pushDrain
  dsimp only
  rw [hh, ho]
  dsimp only
  rw [hstart]
  rfl

theorem State.spaceFreed_start (hothers : ∀ d : Fin 16, d ≠ c → (s.push d.val).held = []) : s.spaceFreed q =
    ((s.setPush c.val { isOpen := some (q, s.storage.nextItem), held := [] }).placeItem q (BitVec.ofNat 3 (v.toNat / 2 ^ 59))
      (v.toNat % 2 ^ 15) []).lateAnswer tag 0 := by
  have hother {d : Nat} (hd : d ∈ List.range 16) (hne : d ≠ c.val) : (s.push d).held = [] :=
    hothers ⟨d, List.mem_range.mp hd⟩ (fun he => hne (congrArg Fin.val he))
  refine State.each_single (List.range 16) (fun s d => s.spaceFor q d) s _ c.val (List.mem_range.mpr c.isLt) List.nodup_range
    (fun d hd hne => State.spaceFor_idle (hother hd hne)) (fun d hd hne => State.spaceFor_idle ?_)
    (State.spaceFor_start hh ho hq hlo hhi hen hprod hfit)
  have hplaced := State.placeItem_push (s.setPush c.val { isOpen := some (q, s.storage.nextItem), held := [] }) q
    (BitVec.ofNat 3 (v.toNat / 2 ^ 59)) (v.toNat % 2 ^ 15) [] d
  refine (congrArg PushWindow.held (hplaced.trans ((State.push_set _ _ _ _).trans (if_neg (Ne.symm hne))))).trans (hother hd hne)

end

theorem queueStallsEnd : Claim.QueueStallsEnd := by
  unfold Claim.QueueStallsEnd
  intro s q ha k
  have hreturn {t : State} (ht : s.stalledReturn q.toNat = t) : exec (.queueStalledReadReturn q) s = .next t :=
    congrArg Host.Outcome.next ((if_pos ha).trans ht)
  have hexpiry {t : State} (ht : s.stallExpiry q.toNat = t) : exec (.stallLimitExpiry q) s = .next t :=
    congrArg Host.Outcome.next ((if_pos ha).trans ht)
  have hfreed {t : State} (ht : s.spaceFreed q.toNat = t) : exec (.queueSpaceFreed q) s = .next t :=
    congrArg Host.Outcome.next ((if_pos ha).trans ht)
  exact ⟨fun r rest i e hk hr hi he => hreturn (State.stalledReturn_header hk hr hi he), fun hk => hreturn (State.stalledReturn_idle hk),
    fun r hk hl => hexpiry (State.stallExpiry_empty hk hl), fun hk => hexpiry (State.stallExpiry_none hk),
    fun c tag v hh ho hq hothers hlo hhi hen hprod hfit =>
      hfreed (State.spaceFreed_start hh ho hq hlo hhi hen hprod hfit hothers)⟩

/-- Settles O41: the reads by what the queue holds, the stalls by what ends them. -/
theorem queueReadsAndStalls : Obligations.QueueReadsAndStalls := ⟨queueReads, queueStallsEnd⟩

end Sys2Proof.Machine
end

section
/-! SUPPORT. FLUSH of a queue and writes of Q_CONFIG (R356, R365, R368). -/
namespace Sys2Proof.Machine

variable {s : State} {q : Nat}

/-! ### What a flush leaves (R365) -/

/-- What the marker of a flush counts. -/
def Queue.flushed (k : Queue) : Nat := (k.entries.map QEntry.flushCount).sum + b2n k.cur.isSome

theorem foldl_add_eq_sum {α : Type} (f : α → Nat) : ∀ (l : List α) (n : Nat), l.foldl (fun a e => a + f e) n = n + (l.map f).sum
  | [], _ => rfl
  | x :: l, n => by
    rw [List.foldl_cons, foldl_add_eq_sum f l, List.map_cons, List.sum_cons, Nat.add_assoc]

/-- The queue that a flush leaves: its marker, unless a stalled header read takes it at once. -/
def Queue.afterFlush (k : Queue) : Queue :=
  { entries := if k.stalls.any (·.header) then [] else [.flush k.flushed], drops := k.drops, flushes := k.flushes + 1 }

/-- With no window holding an open item of the queue, the flush empties the queue and answers its stalled reads. -/
theorem State.flushQueue_closed (ho : ∀ c : Fin 16, ∀ x, (s.push c.val).isOpen = some x → x.1 ≠ q) : s.flushQueue q =
    ((s.emptyEgress q).setQueue q (s.queue q).afterFlush).each (s.queue q).stalls
      (fun u r => u.lateAnswer r.tag (if r.header then (QEntry.flush (s.queue q).flushed).header else 0)) := by
  have hcount : (s.queue q).entries.foldl (fun a e => a + e.flushCount) 0 + b2n (s.queue q).cur.isSome = (s.queue q).flushed := by
    rw [foldl_add_eq_sum, Nat.zero_add]
    rfl
  have hwindows : s.each (List.range 16) (fun s c => match (s.push c).isOpen with
      | some (q', _) => if q' = q then s.setPush c { s.push c with isOpen := none } else s
      | none => s) = s := by
    refine State.each_id _ _ _ fun c hc => ?_
    cases hopen : (s.push c).isOpen with
    | none => rfl
    | some x => exact if_neg (ho ⟨c, List.mem_range.mp hc⟩ x hopen)
  unfold State.flushQueue
  dsimp only
  rw [hcount]
  exact congrArg (fun u : State => ((u.emptyEgress q).setQueue q (s.queue q).afterFlush).each (s.queue q).stalls
    (fun u r => u.lateAnswer r.tag (if r.header then (QEntry.flush (s.queue q).flushed).header else 0))) hwindows

theorem State.flushQueue_idle (ho : ∀ c : Fin 16, ∀ x, (s.push c.val).isOpen = some x → x.1 ≠ q) (hk : (s.queue q).stalls = []) :
    s.flushQueue q = (s.emptyEgress q).setQueue q
      { entries := [.flush (s.queue q).flushed], drops := (s.queue q).drops, flushes := (s.queue q).flushes + 1 } := by
  rw [State.flushQueue_closed ho]
  unfold Queue.afterFlush
  rw [hk]
  rfl

theorem State.flushQueue_header {r : QStall} (ho : ∀ c : Fin 16, ∀ x, (s.push c.val).isOpen = some x → x.1 ≠ q)
    (hk : (s.queue q).stalls = [r]) (hr : r.header = true) : s.flushQueue q =
    ((s.emptyEgress q).setQueue q { entries := [], drops := (s.queue q).drops, flushes := (s.queue q).flushes + 1 }).lateAnswer r.tag
      (2 * 2 ^ 62 + 7 * 2 ^ 59 + min (s.queue q).flushed 0xFFFFFF * 2 ^ 32) := by
  rw [State.flushQueue_closed ho]
  unfold Queue.afterFlush
  rw [hk, State.each_one, hr, List.any_cons, hr]
  rfl

theorem State.mem_egress_emptyEgress {port : Nat} {e : Egress} (hq : q < 0x40) :
    e ∈ ((s.emptyEgress q).mac port).egress ↔ e ∈ (s.mac port).egress ∧ ¬(port = q / 4 ∧ e.vc.toNat = q % 4) := by
  have hmac : (s.emptyEgress q).mac port = if q / 4 = port then
      { s.mac (q / 4) with egress := (s.mac (q / 4)).egress.filter (fun e => e.vc.toNat != q % 4) } else s.mac port := by
    unfold State.emptyEgress
    dsimp only
    rw [if_pos hq]
    exact Tab.get_set _ _ _ _ _
  rw [hmac]
  by_cases hport : q / 4 = port
  · subst hport
    simp
  · rw [if_neg hport]
    exact (and_iff_left (fun h => hport h.1.symm)).symm

/-! ### The writes -/

theorem State.write4_flush (s : State) (v : BitVec 32) : s.write4 0xD010 v =
    if v.getLsbD 0 && !(s.isTileList s.queueSel) then s.ok.flushQueue s.queueSel else s.ok := by
  have hmask : rwMask 0xD010 = 0 := by decide
  unfold State.write4
  rw [State.portWrite_queue s 0xD010 2 _ (by decide) (by decide) (by decide) (by decide), State.writeReg, if_neg (by decide), if_pos rfl,
    State.writeWord, State.rwParts_own _ (by decide), hmask, if_pos rfl, State.each_nil, ← hit_lower v (by decide)]
  dsimp only [Nat.reduceMod, Nat.reduceMul, Nat.reducePow, Nat.reduceDiv]
  rw [field_word, Nat.mul_one]
  rfl

/-- The bits of Q_CONFIG that a write sets (R368). -/
def configMask : BitVec 64 := 0x00FFFFFF0001FFFF

/-- An 8-byte write of Q_CONFIG gives the selected queue its word with the written RW bits. -/
theorem State.portWrite_qConfig (s : State) (v : BitVec 512) : s.portWrite 0xD008 3 v.toNat =
    s.ok.configureQueue s.queueSel ((s.word (bankWord (queueBank s.queueSel) 0xD008) &&& ~~~configMask) ||| (v.setWidth 64 &&& configMask)) := by
  have hmask : BitVec.ofNat 64 (fieldsMask [(0, 17), (32, 24)]) = configMask := by decide
  have hcovered : coveredMask (fieldsMask [(0, 17), (32, 24)]) (2 ^ 64 - 1) ≠ 0 := by decide
  have hvalue := ofNat_maskWrite (m := coveredMask (fieldsMask [(0, 17), (32, 24)]) (2 ^ 64 - 1))
    (s.word (bankWord (queueBank s.queueSel) 0xD008)) v fun i hi _ => (bit_field_low v.toNat hi).trans (bit_toNat v i)
  rw [ofNat_coveredMask_whole, hmask] at hvalue
  have hparts : s.ok.rwParts 0xD008 = [(bankWord (queueBank s.queueSel) 0xD008, fieldsMask [(0, 17), (32, 24)])] := rfl
  have hact (t : State) (v en : Nat) : t.writeActions 0xD008 v en = t := rfl
  rw [State.portWrite_queue s 0xD008 3 _ (by decide) (by decide) (by decide) (by decide), State.writeReg, if_pos rfl, State.writeWord]
  dsimp only [Nat.reduceMul, Nat.reduceDiv]
  rw [hparts, State.each_one, hact, State.writePart, ← hvalue]
  exact (if_neg hcovered).trans rfl

theorem State.ok_setWord (s : State) (k : Nat) (v : BitVec 64) : s.ok.setWord k v = (s.setWord k v).ok := rfl

theorem State.ok_effect_setWord (s : State) (e : Tab (BitVec 64)) (k : Nat) (v : BitVec 64) :
    ({ s.ok with effect := e } : State).setWord k v = (({ s with effect := e } : State).setWord k v).ok := rfl

section
variable {v : BitVec 64}

theorem State.configureQueue_owned (ho : s.blockOwned q = true) : s.configureQueue q v = s.setWord (bankWord (queueBank q) 0xD008) v :=
  if_pos ho

variable (ho : s.blockOwned q = false)
include ho

theorem State.configureQueue_ignored (he : (s.qNow q).getLsbD 0 = true) (hv : v >>> 1 ≠ s.qNow q >>> 1 ∨ v.getLsbD 0 = true) :
    s.configureQueue q v = s := by
  refine (if_neg (Bool.eq_false_iff.mp ho)).trans (if_pos ?_)
  rw [bit_getLsbD, bit_getLsbD, he, Bool.true_and, Bool.or_eq_true, bne_iff_ne]
  exact hv.imp_left Ne.symm

theorem State.configureQueue_disabled (he : (s.qNow q).getLsbD 0 = true) (hv : v >>> 1 = s.qNow q >>> 1) (hd : v.getLsbD 0 = false) :
    s.configureQueue q v = (s.flushQueue q).setWord (bankWord (queueBank q) 0xD008) v := by
  refine (if_neg (Bool.eq_false_iff.mp ho)).trans ((if_neg ?_).trans (if_pos ?_))
  · rw [bit_getLsbD, bit_getLsbD, he, hd, hv, bne_self_eq_false]
    exact Bool.false_ne_true
  · rw [bit_getLsbD]
    exact he

/-- A disabled queue takes the word; one that the word would make block-owned keeps the configuration in effect. -/
theorem State.configureQueue_taken (he : (s.qNow q).getLsbD 0 = false) : s.configureQueue q v =
    if ownedWord q v then
      ({ s with effect := Tab.set regReset s.effect (bankWord (queueBank q) 0xD008) (s.qNow q) } : State).setWord
        (bankWord (queueBank q) 0xD008) v
    else s.setWord (bankWord (queueBank q) 0xD008) v := by
  refine (if_neg (Bool.eq_false_iff.mp ho)).trans ((if_neg ?_).trans (if_neg ?_)) <;> rw [bit_getLsbD, he]
  · exact Bool.false_ne_true
  · exact Bool.false_ne_true

end

/-- Settles O42: FLUSH by the queue selected and its stalled reads, Q_CONFIG by who owns the queue and whether it is enabled. -/
theorem queueFlushAndConfig : Obligations.QueueFlushAndConfig := by
  unfold Obligations.QueueFlushAndConfig
  intro s₀ s hs q k n
  have hflush (v : BitVec 32) : exec (.flush v) s₀ = .next (if v.getLsbD 0 && !(s.isTileList q) then s.ok.flushQueue q else s.ok) :=
    (exec_serves (s := s₀) hs _ rfl).trans (congrArg _ (s.write4_flush v))
  have hflushes {v : BitVec 32} (hv : v.getLsbD 0 = true) (ht : s.isTileList q = false) : exec (.flush v) s₀ = .next (s.ok.flushQueue q) :=
    (hflush v).trans (congrArg _ (if_pos (by rw [hv, ht]; rfl)))
  refine ⟨fun v hv ht => (hflush v).trans (congrArg _ (if_neg ?_)), fun v r hv ht hk hr ho => ?_, fun v hv ht hk ho => ?_,
    fun v hv => (hflush v).trans (congrArg _ (if_neg ?_)), fun port e hq => State.mem_egress_emptyEgress hq, fun w hoff hsize => ?_⟩
  · rw [ht, Bool.not_true, Bool.and_false]
    exact Bool.false_ne_true
  · exact (hflushes hv ht).trans (congrArg _ (State.flushQueue_header (s := s.ok) ho hk hr))
  · exact (hflushes hv ht).trans (congrArg _ (State.flushQueue_idle (s := s.ok) ho hk))
  · rw [hv]
    exact Bool.false_ne_true
  · intro x old v
    have hwrite : exec (.qConfigWrite w) s₀ = .next (s.ok.configureQueue q v) := by
      refine (exec_serves (s := s₀) hs _ rfl).trans (congrArg _ ?_)
      change s.portWrite w.off.toNat w.size.toNat w.data.toNat = _
      rw [hoff, hsize]
      exact s.portWrite_qConfig w.data
    clear_value v
    have hdo {u : State} (hu : s.ok.configureQueue q v = u) : exec (.qConfigWrite w) s₀ = .next u := hwrite.trans (congrArg _ hu)
    refine ⟨fun ho => hdo ((State.configureQueue_owned (s := s.ok) ho).trans (s.ok_setWord _ v)), fun ho => ⟨fun he hv => ?_, fun he hv hd => ?_, fun he hw => ?_,
      fun he hw => ?_⟩⟩
    · exact hdo (State.configureQueue_ignored (s := s.ok) ho he hv)
    · exact hdo (State.configureQueue_disabled (s := s.ok) ho he hv hd)
    · exact hdo ((State.configureQueue_taken (s := s.ok) ho he).trans ((if_neg (Bool.eq_false_iff.mp hw)).trans (s.ok_setWord _ v)))
    · exact hdo ((State.configureQueue_taken (s := s.ok) ho he).trans ((if_pos hw).trans (s.ok_effect_setWord _ _ v)))

end Sys2Proof.Machine
end

section
/-! SUPPORT. The layout engine's request windows: records, creation, releases and RESULT (R178, R181 to R184). -/
namespace Sys2Proof.Machine

variable {s : State} {c : Fin 16} {body : BitVec 512}

/-! ### The record of a request (R181) -/

theorem setAt_eq_set {α : Type} : ∀ (l : List α) (i : Nat) (v : α), setAt l i v = l.set i v
  | [], _, _ => rfl
  | _ :: _, 0, _ => rfl
  | x :: t, i + 1, v => congrArg (x :: ·) (setAt_eq_set t i v)

/-- The bytes of a request record: the body with its KIND at 0x3C. -/
theorem recordBytes_eq (kind : Nat) (body : BitVec 512) :
    leBytes 64 (layoutRecord kind body) = (leBytes 64 body.toNat).set 60 (BitVec.ofNat 8 kind) := by
  have hlength : ((leBytes 64 body.toNat).set 60 (BitVec.ofNat 8 kind)).length = 64 := by rw [List.length_set, leBytes_length]
  have hbytes := leBytes_ofLe ((leBytes 64 body.toNat).set 60 (BitVec.ofNat 8 kind))
  rw [hlength] at hbytes
  unfold layoutRecord
  rw [setAt_eq_set]
  exact hbytes

theorem kindOfRecord (kind : Nat) (body : BitVec 512) : le (leBytes 64 (layoutRecord kind body)) 0x3C 1 = kind % 256 := by
  have hlength : 60 < (leBytes 64 body.toNat).length := by rw [leBytes_length]; decide
  have hdrop : ((leBytes 64 body.toNat).set 60 (BitVec.ofNat 8 kind)).drop 60 =
      BitVec.ofNat 8 kind :: (leBytes 64 body.toNat).drop 61 := by
    rw [List.drop_eq_getElem_cons (by rw [List.length_set]; exact hlength), List.getElem_set_self, List.drop_set_of_lt (by decide)]
  rw [recordBytes_eq]
  unfold le
  rw [hdrop]
  exact (Nat.add_zero _).trans (BitVec.toNat_ofNat _ _)

/-- Records of one body agree outside the KIND. -/
theorem record_agrees (k k' : Nat) (body : BitVec 512) {i : Nat} (hi : i ≠ 60) :
    (leBytes 64 (layoutRecord k body))[i]? = (leBytes 64 (layoutRecord k' body))[i]? := by
  rw [recordBytes_eq, recordBytes_eq, List.getElem?_set_ne (Ne.symm hi), List.getElem?_set_ne (Ne.symm hi)]

theorem le_record_agrees (k k' : Nat) (body : BitVec 512) {off len : Nat} (ho : off + len ≤ 60 ∨ 60 < off) :
    le (leBytes 64 (layoutRecord k body)) off len = le (leBytes 64 (layoutRecord k' body)) off len := by
  unfold le
  refine congrArg ofLe (List.ext_getElem? fun i => ?_)
  rw [List.getElem?_take, List.getElem?_take]
  split
  · rw [List.getElem?_drop, List.getElem?_drop]
    exact record_agrees k k' body (by omega)
  · rfl

/-- The reserved bytes of a release are clear. -/
theorem reserved_clear {b : List Byte} (hb : ∀ i, 2 ≤ i → i < 60 → b[i]? = some 0) : ((b.drop 2).take 58).any (· ≠ 0) = false := by
  rw [List.any_eq_false]
  intro x hx
  obtain ⟨i, hi⟩ := List.getElem?_of_mem hx
  rw [List.getElem?_take] at hi
  split at hi
  · next hlt =>
    rw [List.getElem?_drop, hb (2 + i) (by omega) (by omega)] at hi
    rw [← Option.some.inj hi]
    decide
  · cases hi

/-! ### The windows (R181, R182) -/

theorem State.portWrite_layout (s : State) (c : Fin 16) (v : Nat) :
    s.portWrite (layoutOff c) 6 v = s.ok.layoutRequest c (leBytes 64 v) := by
  have hc := c.isLt
  have hwin : Fin.ofNat 16 ((layoutOff c - 0xFE000) / 0x100) = c := by
    ext
    simp only [layoutOff, Fin.val_ofNat]
    omega
  unfold State.portWrite
  rw [hwin]
  unfold layoutOff
  rw [if_neg (by omega), if_neg (by omega), if_neg (by omega), if_neg (by omega), if_neg (by omega), if_pos (by omega), if_pos (by omega)]

section
variable (hs : (s.layoutWindow c).stalled = [])
include hs

/-- A request that completes with no read of RESULT waiting. -/
theorem State.layoutDone_ok (id : Nat) : s.layoutDone c none id = s.setLayoutWindow c { done := true, id := BitVec.ofNat 16 id } := by
  unfold State.layoutDone
  dsimp only
  rw [hs]
  rfl

theorem State.layoutDone_refused (r : Nat) : s.layoutDone c (some r) 0 =
    (s.setLayoutWindow c { done := true, refused := true, reason := BitVec.ofNat 8 r }).bump 0x21408 := by
  unfold State.layoutDone
  dsimp only
  rw [hs]
  rfl

end

/-- A record whose reserved bytes after the KIND are clear is well formed for its KIND. -/
theorem kindOk_record {kind : Nat} (hk : kind < 256) (hr : le (leBytes 64 (layoutRecord kind body)) 0x3D 3 = 0) :
    kindOk kind (leBytes 64 (layoutRecord kind body)) = true := by
  unfold kindOk
  rw [kindOfRecord, hr, Nat.mod_eq_of_lt hk, beq_self_eq_true]
  rfl

/-- The request that a record's KIND names (R181). -/
def State.layoutKind (s : State) (c : Fin 16) (b : List Byte) : Fin 5 → State
  | 1 => s.createDesc c b
  | 2 => s.registerAlloc c b
  | 3 => s.releaseDesc c b
  | 4 => s.releaseAlloc c b
  | _ => s.layoutDone c (some 3) 0

theorem State.layoutRequest_kind {b : List Byte} {kind : Fin 5} (hk : le b 0x3C 1 = kind.val) :
    s.layoutRequest c b = s.layoutKind c b kind := by
  unfold State.layoutRequest
  rw [hk]
  match kind with
  | 0 => rfl
  | 1 => rfl
  | 2 => rfl
  | 3 => rfl
  | 4 => rfl

/-- A served write of a request record is answered, then acts by its KIND. -/
theorem exec_layout (hs : s.servesNow) (i : Instr) (hi : isRequest i = true) (kind : Fin 5)
    (hserve : s.newTag.serve i = s.newTag.portWrite (layoutOff c) 6 (layoutRecord kind.val body)) :
    exec i s = .next (s.newTag.ok.layoutKind c (leBytes 64 (layoutRecord kind.val body)) kind) := by
  rw [exec_serves hs i hi, hserve, State.portWrite_layout,
    State.layoutRequest_kind ((kindOfRecord kind.val body).trans (Nat.mod_eq_of_lt (by omega)))]

/-! ### CREATE_DESCRIPTOR and REGISTER_ALLOCATION (R182, R183) -/

section
variable {b : List Byte}

theorem State.createDesc_refused {r : Nat} (hk : kindOk 1 b = true) (hr : s.createReason b = some r) :
    s.createDesc c b = (s.raise Code.descriptorInvalid { unit := 10, noPass := true }).layoutDone c (some r) 0 := by
  unfold State.createDesc
  rw [if_pos hk, hr]

theorem State.createDesc_stores {h : Nat} (hk : kindOk 1 b = true) (hr : s.createReason b = none)
    (hh : lowestFree 16384 s.layout.descs = some h) : s.createDesc c b =
    let t := (s.write (s.descAddr h) (b.take 60 ++ leBytes 4 (crc32c (b.take 60)).toNat)).hostIssue (.descriptor (BitVec.ofNat 14 h))
    ({ t with layout := { t.layout with descs := insertNat h t.layout.descs, damaged := t.layout.damaged.erase h } } : State).layoutDone c
      none h := by
  unfold State.createDesc
  rw [if_pos hk, hr, hh]
  rfl

theorem State.registerAlloc_refused {r : Nat} (hk : kindOk 2 b = true) (hr : s.registerReason b = some r) :
    s.registerAlloc c b = s.layoutDone c (some r) 0 := by
  unfold State.registerAlloc
  rw [if_pos hk, hr]

theorem State.registerAlloc_stores {a : Nat} (hk : kindOk 2 b = true) (hr : s.registerReason b = none)
    (ha : lowestFree 1024 s.layout.allocs = some a) : s.registerAlloc c b =
    let t := s.write (s.allocAddr a) (b.take 16 ++ List.replicate 16 0)
    ({ t with layout := { t.layout with allocs := insertNat a t.layout.allocs } } : State).layoutDone c none a := by
  unfold State.registerAlloc
  rw [if_pos hk, hr, ha]
  rfl

end

/-- An access issued is outstanding once. -/
theorem State.hostIssue_eq (s : State) (x : HostCtx) :
    s.hostIssue x = { s with hostOut := if s.hostOut.contains x then s.hostOut else s.hostOut ++ [x] } := by
  unfold State.hostIssue
  split <;> rfl

theorem createDescriptor : Claim.CreateDescriptor := by
  unfold Claim.CreateDescriptor
  intro s₀ c body s hs hstalled b hreserved
  have hexec : exec (.createDescriptor c body) s₀ = .next (s.ok.createDesc c b) := exec_layout (s := s₀) hs _ rfl 1 rfl
  have hkind : kindOk 1 b = true := kindOk_record (by decide) hreserved
  refine ⟨fun h hr hh => hexec.trans (congrArg _ ((State.createDesc_stores (s := s.ok) hkind hr hh).trans ?_)),
    fun r hr => hexec.trans (congrArg _ (State.createDesc_refused (s := s.ok) hkind hr))⟩
  dsimp only
  rw [State.hostIssue_eq]
  refine (State.layoutDone_ok ?_ h).trans rfl
  exact hstalled

theorem registerAllocation : Claim.RegisterAllocation := by
  unfold Claim.RegisterAllocation
  intro s₀ c body s hs hstalled b hreserved
  have hexec : exec (.registerAllocation c body) s₀ = .next (s.ok.registerAlloc c b) := exec_layout (s := s₀) hs _ rfl 2 rfl
  have hkind : kindOk 2 b = true := kindOk_record (by decide) hreserved
  refine ⟨fun a hr ha => hexec.trans (congrArg _ ((State.registerAlloc_stores (s := s.ok) hkind hr ha).trans ?_)),
    fun r hr => hexec.trans (congrArg _ ((State.registerAlloc_refused (s := s.ok) hkind hr).trans ?_))⟩
  · refine (State.layoutDone_ok ?_ a).trans rfl
    exact hstalled
  · exact State.layoutDone_refused (s := s.ok) hstalled r

/-- Settles O34: the record passes its checks and is stored at the lowest free number, or is refused with its reason. -/
theorem layoutCreation : Obligations.LayoutCreation := ⟨createDescriptor, registerAllocation⟩

/-! ### Releases and RESULT (R182, R184) -/

section
variable {b : List Byte} (hb : ∀ i, 2 ≤ i → i < 60 → b[i]? = some 0)
include hb

theorem State.releaseReason_desc : s.releaseReason b true = if s.layout.descs.contains (le b 0 2) then none else some 8 := by
  unfold State.releaseReason
  dsimp only
  rw [reserved_clear hb]
  rfl

theorem State.releaseReason_alloc : s.releaseReason b false =
    if !(s.layout.allocs.contains (le b 0 2)) then some 8
    else if s.layout.descs.any (fun h => (Desc.parse (s.read (s.descAddr h) 64)).alloc == le b 0 2) then some 7 else none := by
  unfold State.releaseReason
  dsimp only
  rw [reserved_clear hb]
  rfl

end

section
variable {b : List Byte}

theorem State.releaseDesc_refused {r : Nat} (hk : kindOk 3 b = true) (hr : s.releaseReason b true = some r) :
    s.releaseDesc c b = s.layoutDone c (some r) 0 := by
  unfold State.releaseDesc
  rw [if_pos hk, hr]

theorem State.releaseDesc_ends (hk : kindOk 3 b = true) (hr : s.releaseReason b true = none) : s.releaseDesc c b =
    ({ s with layout := { s.layout with descs := s.layout.descs.erase (le b 0 2) } } : State).layoutDone c none (le b 0 2) := by
  unfold State.releaseDesc
  rw [if_pos hk, hr]

theorem State.releaseAlloc_refused {r : Nat} (hk : kindOk 4 b = true) (hr : s.releaseReason b false = some r) :
    s.releaseAlloc c b = s.layoutDone c (some r) 0 := by
  unfold State.releaseAlloc
  rw [if_pos hk, hr]

theorem State.releaseAlloc_ends (hk : kindOk 4 b = true) (hr : s.releaseReason b false = none) : s.releaseAlloc c b =
    ({ s with layout := { s.layout with allocs := s.layout.allocs.erase (le b 0 2) } } : State).layoutDone c none (le b 0 2) := by
  unfold State.releaseAlloc
  rw [if_pos hk, hr]

end

theorem layoutReleases : Claim.LayoutReleases := by
  unfold Claim.LayoutReleases
  intro s₀ c body s hs hstalled d a id refused hreserved hclear
  have hid : le a 0 2 = id := le_record_agrees 4 3 body (by omega)
  have hclear' : ∀ i, 2 ≤ i → i < 60 → a[i]? = some 0 := fun i hlo hhi =>
    (record_agrees 4 3 body (by omega)).trans (hclear i hlo hhi)
  have hreserved' : le a 0x3D 3 = 0 := (le_record_agrees 4 3 body (by omega)).trans hreserved
  have hdesc : exec (.releaseDescriptor c body) s₀ = .next (s.ok.releaseDesc c d) := exec_layout (s := s₀) hs _ rfl 3 rfl
  have halloc : exec (.releaseAllocation c body) s₀ = .next (s.ok.releaseAlloc c a) := exec_layout (s := s₀) hs _ rfl 4 rfl
  have hkind : kindOk 3 d = true := kindOk_record (by decide) hreserved
  have hkind' : kindOk 4 a = true := kindOk_record (by decide) hreserved'
  have hreason := State.releaseReason_desc (s := s.ok) hclear
  have hreason' := State.releaseReason_alloc (s := s.ok) hclear'
  rw [hid] at hreason'
  have hrefused (r : Nat) : s.ok.layoutDone c (some r) 0 = refused r := State.layoutDone_refused (s := s.ok) hstalled r
  have hcontains (hm : id ∈ s.layout.allocs) : ¬(!(s.ok.layout.allocs.contains id)) = true := by
    rw [Bool.not_eq_true', Bool.not_eq_false]
    exact List.contains_iff_mem.mpr hm
  refine ⟨fun hm => ?_, fun hm => ?_, fun hm hn => ?_, fun hm hn => ?_, fun hm => ?_, hid⟩
  · have hnone := hreason.trans (if_pos (List.contains_iff_mem.mpr hm))
    refine hdesc.trans (congrArg _ ((State.releaseDesc_ends hkind hnone).trans ((State.layoutDone_ok ?_ id).trans rfl)))
    exact hstalled
  · have hsome := hreason.trans (if_neg (mt List.contains_iff_mem.mp hm))
    exact hdesc.trans (congrArg _ ((State.releaseDesc_refused hkind hsome).trans (hrefused 8)))
  · have hfree : ¬ s.ok.layout.descs.any (fun h => (Desc.parse (s.ok.read (s.ok.descAddr h) 64)).alloc == id) = true := by
      rw [List.any_eq_true]
      rintro ⟨h, hmem, heq⟩
      exact hn h hmem (beq_iff_eq.mp heq)
    have hnone := hreason'.trans ((if_neg (hcontains hm)).trans (if_neg hfree))
    refine halloc.trans (congrArg _ ((State.releaseAlloc_ends hkind' hnone).trans ?_))
    rw [hid]
    refine (State.layoutDone_ok ?_ id).trans rfl
    exact hstalled
  · obtain ⟨h, hmem, heq⟩ := hn
    have hused : s.ok.layout.descs.any (fun h => (Desc.parse (s.ok.read (s.ok.descAddr h) 64)).alloc == id) = true :=
      List.any_eq_true.mpr ⟨h, hmem, beq_iff_eq.mpr heq⟩
    have hsome := hreason'.trans ((if_neg (hcontains hm)).trans (if_pos hused))
    exact halloc.trans (congrArg _ ((State.releaseAlloc_refused hkind' hsome).trans (hrefused 7)))
  · have hmissing : (!(s.ok.layout.allocs.contains id)) = true := by
      rw [Bool.not_eq_true', ← Bool.not_eq_true]
      exact mt List.contains_iff_mem.mp hm
    exact halloc.trans (congrArg _ ((State.releaseAlloc_refused hkind' (hreason'.trans (if_pos hmissing))).trans (hrefused 8)))

theorem layoutResult : Claim.LayoutResult := by
  unfold Claim.LayoutResult
  intro s₀ c s hs w
  have hexec : exec (.layoutResultRead c) s₀ = .next (s.layoutRead c) := exec_serves (s := s₀) hs _ rfl
  refine ⟨fun hd => hexec.trans (congrArg _ ((if_pos hd).trans ?_)), fun hd => hexec.trans (congrArg _ (if_neg (Bool.eq_false_iff.mp hd)))⟩
  have hresult : w.result = 2 ^ 63 + (if w.refused then 0x70 else 0) * 2 ^ 48 + w.reason.toNat * 2 ^ 40 + w.id.toNat := by
    unfold LayoutWindow.result
    rw [hd]
    rfl
  exact congrArg s.answer hresult

/-- Settles O35: a release by whether its number is live and free of users, RESULT by whether the request is done. -/
theorem layoutReleasesAndResults : Obligations.LayoutReleasesAndResults := ⟨layoutReleases, layoutResult⟩

end Sys2Proof.Machine
end

section
/-! SUPPORT. The tile list and the cold stream (R115, R339, R340). -/
namespace Sys2Proof.Machine

variable {s : State} {q : Sequencer}

theorem State.attemptOpen_of (hq : s.openSeq = some q) (ha : q.aborted = false) : s.attemptOpen = true := by
  unfold State.attemptOpen
  rw [hq]
  dsimp only
  rw [ha]
  rfl

section
variable {x : Tile} {staged : Nat → Bool} (hq : s.openSeq = some q) (hx : s.att.tiles[s.att.entered]? = some x)
include hq hx

theorem State.enterTile_refused (hr : s.tileReady x = false ∨ x.firstRow ∉ s.att.written ∨ staged x.expert = false ∨
    s.qEnable s.dispatchBlock.queue = false ∨ s.qRoom s.dispatchBlock.queue 32 0 = false) : s.enterTile staged = s := by
  unfold State.enterTile
  rw [hq, hx]
  refine if_neg ?_
  rcases hr with hr | hr | hr | hr | hr <;> simp [hr]

theorem State.enterTile_enters (ha : q.aborted = false) (hon : s.att.tilesOn = true) (hlaid : s.att.laidOut = true)
    (hready : s.tileReady x = true) (hw : x.firstRow ∈ s.att.written) (hst : staged x.expert = true)
    (hen : s.qEnable s.dispatchBlock.queue = true) (hroom : s.qRoom s.dispatchBlock.queue 32 0 = true) : s.enterTile staged =
    (((s.placeItem s.dispatchBlock.queue 0 32 (s.descriptor q s.att.entered x)).bump 0x21730).modAtt
      (fun a => { a with entered := s.att.entered + 1 })).bump 0x210E8 := by
  unfold State.enterTile
  rw [hq, hx]
  exact if_pos (by simp [State.attemptOpen_of hq ha, hon, hlaid, hready, hw, hst, hen, hroom])

end

/-- A MiB that is not an expert's last is copied and counted. -/
theorem State.coldProgress_copies {e : Nat} (hq : s.openSeq = some q) (ha : q.aborted = false)
    (he : s.att.coldWon[s.att.coldSlot]? = some e)
    (hmore : s.att.coldBytes + min 1048576 ((s.placementOf (s.plannerOf q.prog)).expertBytes - s.att.coldBytes) <
      (s.placementOf (s.plannerOf q.prog)).expertBytes) : s.coldProgress =
    let r := s.placementOf (s.plannerOf q.prog)
    let k := s.att.coldSlot
    let n := min 1048576 (r.expertBytes - s.att.coldBytes)
    (((s.write (r.coldBase + 4096 + k * r.expertBytes + s.att.coldBytes)
      (s.read (r.quarryAddr q.layer.toNat e + s.att.coldBytes) n)).bump 0x216C0 n).writeLe (r.coldBase + 8 * k) 8
      (shapeWord (ceilDiv (s.att.coldBytes + n) 1048576 + e * 2 ^ 20) q.gen (0x5400 + k))).modAtt
        (fun a => { a with coldBytes := s.att.coldBytes + n }) := by
  unfold State.coldProgress
  rw [hq, he]
  exact (if_neg (by rw [State.attemptOpen_of hq ha]; exact Bool.false_ne_true)).trans (if_neg (Nat.not_le.mpr hmore))

theorem tileEnters : Claim.TileEnters := by
  unfold Claim.TileEnters
  intro s q x hawake hq ha hx hon hlaid
  exact ⟨fun hready hw hst hen hroom => closed_awake hawake (State.enterTile_enters hq hx ha hon hlaid hready hw hst hen hroom),
    fun hr => closed_awake hawake (State.enterTile_refused hq hx hr)⟩

theorem coldStream : Claim.ColdStream := by
  unfold Claim.ColdStream
  intro s q e hawake hq ha he r k n hmore
  exact closed_awake hawake (State.coldProgress_copies hq ha he hmore)

/-- Settles O49: the next tile by what R115 asks of it, the cold stream by the bytes left of its expert. -/
theorem tilesAndColdStream : Obligations.TilesAndColdStream := ⟨tileEnters, coldStream⟩

end Sys2Proof.Machine
end

section
/-! SUPPORT. The batch timer of a sleeping block, and the two wakes (R384, R385, R462 to R464, R477). -/
namespace Sys2Proof.Machine

variable {s : State}

/-! ### The batch timer -/

theorem State.countWake_frame (s : State) : s.countWake = { s with counters := s.countWake.counters } := by
  unfold State.countWake
  split <;> rfl

theorem State.cancelDeep_eq (s : State) :
    s.cancelDeep = { s with power := { s.power with deepPending := false }, counters := s.cancelDeep.counters } := by
  unfold State.cancelDeep
  split
  · rfl
  · next h =>
    rw [← Bool.eq_false_iff.2 h]

theorem State.latchBatch_eq (s : State) : s.latchBatch =
    { s with power := { s.power with latchTimer := true, deepPending := false }, counters := s.latchBatch.counters } := by
  unfold State.latchBatch
  rw [State.cancelDeep_eq, State.countWake_frame]

theorem State.batchTimer_expires {at_ : Nat} (hp : s.boot.powered = true) (hh : s.held = false) (hs : s.power.state ≠ .run)
    (ht : s.power.timerAt = some at_) : s.batchTimer =
      { (s.until at_).latchBatch with power := { (s.until at_).latchBatch.power with timerAt := none } } := by
  unfold State.batchTimer
  rw [ht]
  exact if_neg (by simp [hp, hh, hs])

theorem State.batchTimer_effect {at_ : Nat} (hp : s.boot.powered = true) (hh : s.held = false) (hs : s.power.state ≠ .run)
    (ht : s.power.timerAt = some at_) :
    s.batchTimer.tb = max s.tb at_ ∧ s.batchTimer.power = { s.power with latchTimer := true, timerAt := none, deepPending := false } ∧
      s.batchTimer = { s with power := s.batchTimer.power, counters := s.batchTimer.counters, mortar := s.batchTimer.mortar } := by
  have hpower : (s.until at_).latchBatch.power = { s.power with latchTimer := true, deepPending := false } := by
    rw [State.latchBatch_eq, State.until_power]
  have htb : (s.until at_).latchBatch.tb = max s.tb at_ := by
    rw [State.latchBatch_eq]
    exact s.until_tb at_
  rw [State.batchTimer_expires hp hh hs ht]
  refine ⟨htb, ?_, ?_⟩
  · rw [hpower]
  · rw [State.latchBatch_eq, State.until_frame']

/-! ### The core runs again -/

/-- The power state in which the core runs again. -/
def State.wakened (s : State) : State :=
  { s with power := { s.power with
    state := .run, latchBell := false, latchMortar := false, latchTimer := false, timerAt := none, stretchFrom := s.tb } }

theorem State.running_eq (hp : s.boot.powered = true) : s.running =
    if s.power.sag && !s.power.stepped && !s.held then s.wakened.raiseOnce Code.droopStretch { unit := 0 } else s.wakened := by
  have hstretch : s.wakened.stretching = (s.power.sag && !s.power.stepped && !s.held) := by
    show (s.power.sag && !s.power.stepped && (s.boot.powered && !s.held && (PowerState.run == .run))) = _
    rw [hp]
    simp
  rw [← hstretch]
  rfl

theorem State.offer_powered (s : State) (r : LedgerRec) : (s.offer r).boot.powered = s.boot.powered := by
  unfold State.offer
  dsimp only
  split
  · rfl
  · split <;> rfl

theorem State.note_powered (s : State) (c : BitVec 8) (w : Where) : (s.note c w).boot.powered = s.boot.powered := by
  unfold State.note
  dsimp only
  split
  · rw [State.fire_rest]
    exact State.offer_powered _ _
  · exact State.offer_powered _ _

theorem State.raise_powered (s : State) (c : BitVec 8) (w : Where) : (s.raise c w).boot.powered = s.boot.powered := by
  unfold State.raise
  dsimp only
  split
  · split <;> exact State.note_powered _ _ _
  · split
    · unfold State.modOpen
      split <;> exact State.note_powered _ _ _
    · exact State.note_powered _ _ _

/-! ### The ends of the two sleeps -/

theorem State.wakeLight_wakes (hp : s.boot.powered = true) (hh : s.held = false) (hl : s.power.state = .light)
    (hw : s.waking = true) : s.wakeLight = s.resume := if_pos (by simp [hp, hh, hl, hw])

theorem State.wakeLight_stays (h : s.waking = false ∨ s.power.state ≠ .light) : s.wakeLight = s := by
  refine if_neg ?_
  rcases h with h | h <;> simp [h]

theorem State.wakeDeep_wakes (hp : s.boot.powered = true) (hh : s.held = false) (hd : s.power.state = .deep)
    (hw : s.waking = true) : s.wakeDeep = s.restoreSaved.resume := if_pos (by simp [hp, hh, hd, hw])

theorem State.wakeDeep_stays (h : s.waking = false ∨ s.power.state ≠ .deep) : s.wakeDeep = s := by
  refine if_neg ?_
  rcases h with h | h <;> simp [h]

/-- Settles O32: a set latch ends the sleep by `resume`, after the save area of a deep sleep is read back. -/
theorem sleepEnds : Obligations.SleepEnds := by
  intro s hp hh wake
  have hwake (r : State) (hr : r.boot.powered = true) : r.resume = wake r := by
    unfold State.resume State.keptRequests
    rw [State.running_eq hr]
    rfl
  refine ⟨fun at_ hs ht => ⟨s.batchTimer, rfl, State.batchTimer_effect hp hh hs ht⟩, fun hl hw => ?_, fun h => ?_, fun hd hw => ?_,
    fun h => ?_⟩
  · exact closed_congr ((State.wakeLight_wakes hp hh hl hw).trans (hwake s hp))
  · exact closed_congr (State.wakeLight_stays h)
  · intro base b r
    have hdeep : s.wakeDeep = s.restoreSaved.resume := State.wakeDeep_wakes hp hh hd hw
    refine ⟨fun hcrc => closed_congr (hdeep.trans ?_), fun hcrc => closed_congr (hdeep.trans ?_)⟩
    · have hrest : s.restoreSaved = { r with funcs := { micro := (b.drop 2097152).take 4096, table := b.drop 2101248 } } := if_pos hcrc
      rw [hrest]
      exact hwake _ hp
    · have hrest : s.restoreSaved = r.raise Code.imageCrc { unit := 19, noPass := true } := if_neg hcrc
      rw [hrest]
      exact hwake _ ((r.raise_powered _ _).trans hp)
  · exact closed_congr (State.wakeDeep_stays h)

end Sys2Proof.Machine
end

section
/-! SUPPORT. The commands of the engines: which engine, which instruction, which faults (R217 to R219). -/
namespace Sys2Proof.Machine

variable {s : State} {c : Instr} {e : Engine} {op : Nat} {sub : Option Nat}

/-- Whether a code word is the instruction that a command of opcode `op` starts. -/
def State.engineWants (s : State) (op : Nat) : Option Nat → Nat → Bool
  | none => fun w => opOf w == op
  | some o => fun w => opOf w == op && (s.readLe (recordOf w) 1 == o || reservedSub op (s.readLe (recordOf w) 1))

/-- The faults that come with an engine's command. -/
def faultsOf : Instr → EngineFaults
  | .score errs finds => { errs := errs, finds := finds }
  | .rescore finds | .select finds | .combine finds | .combineAr finds | .reduceAr finds | .stats finds
  | .transpose finds | .map finds | .gateAct finds | .softmax finds => { finds := finds }
  | _ => {}

/-- Every command of an engine runs that engine. -/
theorem exec_engineCommand (h : engineCommand c = some (e, op, sub)) :
    exec c s = .next (s.runEngine e (s.engineWants op sub) (faultsOf c)).close := by
  cases c <;> cases h <;> rfl

theorem State.engineWants_head {q k : Nat} {x : Sequencer} {i : Issued} (h : s.headRuns e op sub q k x i) :
    s.engineWants op sub i.word.toNat = true := by
  obtain ⟨_, _, _, _, hop, hsub, _⟩ := h
  have hopOf : opOf i.word.toNat = op := hop
  cases sub with
  | none => simp [State.engineWants, hopOf]
  | some o => simp [State.engineWants, hopOf, hsub o rfl]

theorem State.engineWants_other {i : Issued} (h : i.op ≠ op ∨
    ∃ o, sub = some o ∧ s.readLe (recordOf i.word.toNat) 1 ≠ o ∧ reservedSub op (s.readLe (recordOf i.word.toNat) 1) = false) :
    s.engineWants op sub i.word.toNat = false := by
  rcases h with hop | ⟨o, rfl, hne, hres⟩
  · have hopOf : opOf i.word.toNat ≠ op := hop
    cases sub <;> simp [State.engineWants, hopOf]
  · simp [State.engineWants, hne, hres]

section
variable {q k : Nat} {x : Sequencer} {i : Issued} (hc : engineCommand c = some (e, op, sub)) (hh : s.headRuns e op sub q k x i)
include hc hh

theorem exec_engine_head : exec c s = .next (if atOnce i.op then
    ((s.startedAt e q k x i).perform x k i (faultsOf c)).completeInstr q k i
    else (s.startedAt e q k x i).perform x k i (faultsOf c)).close := by
  rw [exec_engineCommand hc, State.runEngine_head hh _ (State.engineWants_head hh)]

/-- The instruction at the head runs to its end at once. -/
theorem exec_engine_completes {t : State} (ha : atOnce op = true) (ht : (s.startedAt e q k x i).perform x k i (faultsOf c) = t) :
    exec c s = .next (t.completeInstr q k i).close := by
  obtain ⟨_, _, _, _, hop, _, _⟩ := id hh
  rw [exec_engine_head hc hh, hop, ht, if_pos ha]

/-- The instruction at the head starts and goes on. -/
theorem exec_engine_starts {t : State} (ha : atOnce op = false) (ht : (s.startedAt e q k x i).perform x k i (faultsOf c) = t) :
    exec c s = .next t.close := by
  obtain ⟨_, _, _, _, hop, _, _⟩ := id hh
  rw [exec_engine_head hc hh, hop, ht, if_neg (by rw [ha]; exact Bool.false_ne_true)]

end

theorem engineInstructionsComplete : Claim.EngineInstructionsComplete := by
  intro s c e op sub q k x i hc hh r n a
  have hrun {t : State} := exec_engine_completes (t := t) hc hh
  obtain ⟨_, _, _, _, hop, _, _⟩ := hh
  unfold State.perform at hrun
  rw [hop] at hrun
  refine ⟨fun errs finds h => ?_, fun finds h => ?_, fun finds h => ?_, fun h => ?_, fun h => ?_, fun h => ?_, fun h => ?_,
    fun finds h => ?_, fun finds h => ?_⟩
  iterate 6 (subst h; cases hc; exact hrun rfl rfl)
  · simp only [List.mem_cons, List.not_mem_nil, or_false] at h
    rcases h with rfl | rfl | rfl | rfl | rfl | rfl <;> (cases hc; exact hrun rfl rfl)
  · subst h; cases hc; exact hrun rfl rfl
  · simp only [List.mem_cons, List.not_mem_nil, or_false] at h
    rcases h with rfl | rfl | rfl <;> (cases hc; exact hrun rfl rfl)

theorem engineInstructionsStart : Claim.EngineInstructionsStart := by
  intro s c e op sub q k x i hc hh r w
  have hrun {t : State} := exec_engine_starts (t := t) hc hh
  obtain ⟨_, _, _, _, hop, _, _⟩ := hh
  unfold State.perform at hrun
  rw [hop] at hrun
  refine ⟨fun h => ?_, fun h => ?_, fun h => ?_, fun h => ?_, fun finds h => ?_, fun finds h => ?_, fun finds h => ?_, fun finds h => ?_,
    fun h => ?_⟩
  all_goals (subst h; cases hc; exact hrun rfl rfl)

theorem enginesWaitTheirTurn : Claim.EnginesWaitTheirTurn := by
  intro s c e op sub hc h
  rw [exec_engineCommand hc]
  refine closed_congr (State.runEngine_other ?_ _)
  rcases h with h | ⟨q, k, x, i, hhead, hseq, hwait | hop | hin | hsub⟩
  · exact .inl h
  · exact .inr ⟨q, k, x, i, hhead, hseq, .inl hwait⟩
  · exact .inr ⟨q, k, x, i, hhead, hseq, .inr (.inl (State.engineWants_other (.inl hop)))⟩
  · exact .inr ⟨q, k, x, i, hhead, hseq, .inr (.inr hin)⟩
  · exact .inr ⟨q, k, x, i, hhead, hseq, .inr (.inl (State.engineWants_other (.inr hsub)))⟩

end Sys2Proof.Machine
end

section
/-! SUPPORT. What a legal move writes (R187, R191). -/
namespace Sys2Proof.Machine

variable {s : State} {a : MoveArgs} {m : MoveRec} {addr cls : Nat}

/-- A legal move on descriptors does what its record says. -/
theorem State.runMove_moves (hm : MoveRec.parse (s.read addr 64) = m) (hl : m.legal cls = true) (hop : m.op ≠ opRouter)
    (ha : s.moveArgs m = some a) (hf : a.fits m = true) (hcl : a.clash m = false) :
    s.runMove addr cls [] = (if m.acc = 1 then s.useFree else s).moveDone (s.moveOut a m) (a.src.aligned && a.dst.aligned &&
      (a.index.map Desc.aligned).getD true && (a.init.map Desc.aligned).getD true) := by
  have hfinds (t : State) : t.bufferFinds m (s.moveOut a m) [] = (t, s.moveOut a m) := if_neg (by simp)
  unfold State.runMove
  dsimp only
  rw [hm, if_neg (by simp [hl]), if_neg hop, ha]
  dsimp only
  rw [if_neg (by simp [hf]), if_neg (by simp [hcl]), hfinds]

theorem State.moveOut_convert (h : m.op = opConvert) : s.moveOut a m = s.moveConvert a := by
  unfold State.moveOut
  rw [h] <;> rfl

theorem State.moveOut_transpose (h : m.op = opTranspose) : s.moveOut a m = s.moveTranspose a := by
  unfold State.moveOut
  rw [h] <;> rfl

theorem State.moveOut_gather (h : m.op = opGather) {d : Desc} (hd : a.index = some d) :
    s.moveOut a m = s.moveGather a (s.listOf d) := by
  unfold State.moveOut
  rw [h, hd] <;> rfl

theorem State.moveConvert_rows {i p q : Nat} (hp : a.src.rows[i]? = some p) (hq : a.dst.rows[i]? = some q) :
    (s.moveConvert a).writes[i]? = some (q, rowData a.dst.format (s.rowAt a.src p)) := by
  have hzip : (a.src.rows.zip a.dst.rows)[i]? = some (p, q) := List.getElem?_zip_eq_some.2 ⟨hp, hq⟩
  simp [State.moveConvert, hzip]

theorem State.moveTranspose_column {j : Nat} (hj : j < a.dst.size 1) : (s.moveTranspose a).writes[j]? =
    some (a.dst.row j 0 0, rowData a.dst.format (((List.range (a.src.size 1)).map (s.row2 a.src)).map (fun r => r.getD j .zero))) := by
  simp [State.moveTranspose, hj]

theorem State.moveGather_row {idx : List Nat} {i k : Nat} (hk : idx[i]? = some k) : (s.moveGather a idx).writes[i]? =
    some (a.dst.row i 0 0, rowData a.dst.format
      (s.row2 a.src (if a.src.size 1 - 1 < k then a.src.size 1 - 1 else k))) := by
  have hmin : (if a.src.size 1 - 1 < k then a.src.size 1 - 1 else k) = min k (a.src.size 1 - 1) := by
    split <;> omega
  simp [State.moveGather, List.getElem?_zipIdx, hk, hmin]

theorem moveResults : Claim.MoveResults := by
  intro s addr cls a m hl hop ha hf hcl
  refine ⟨s.moveOut a m, State.runMove_moves rfl hl hop ha hf hcl, fun h => ?_, fun h => ?_, fun h d hd => ?_⟩
  · rw [State.moveOut_convert h]
    exact ⟨by simp [State.moveConvert], rfl, rfl, rfl, fun i p q hp hq => State.moveConvert_rows hp hq⟩
  · rw [State.moveOut_transpose h]
    refine ⟨by simp [State.moveTranspose], rfl, rfl, rfl, fun j hj => ⟨_, State.moveTranspose_column hj, by simp, fun i hi => ?_⟩⟩
    simp [hi]
  · rw [State.moveOut_gather h hd]
    exact ⟨by simp [State.moveGather, State.listOf], rfl, rfl, fun i k hk => State.moveGather_row hk⟩

end Sys2Proof.Machine
end

section
/-! SUPPORT. Bytes of rows, and the conversion of elements (R180, R188). -/
namespace Sys2Proof.Machine

/-! ### Elements of a row of bytes -/

/-- Element i of a run of little-endian elements of w bytes. -/
theorem le_flatMap_leBytes {α : Type} (w : Nat) (f : α → Nat) : ∀ (l : List α) (i : Nat) {v : α}, l[i]? = some v →
    le (l.flatMap (fun x => leBytes w (f x))) (w * i) w = f v % 256 ^ w
  | x :: t, 0, v, h => by
    cases h
    have htake : (leBytes w (f x) ++ t.flatMap (fun x => leBytes w (f x))).take w = leBytes w (f x) :=
      List.take_left' (leBytes_length w (f x))
    rw [le, List.flatMap_cons, Nat.mul_zero, List.drop_zero, htake, ofLe_leBytes]
  | x :: t, i + 1, v, h => by
    have hdrop : (leBytes w (f x) ++ t.flatMap (fun x => leBytes w (f x))).drop (w * (i + 1)) =
        (t.flatMap (fun x => leBytes w (f x))).drop (w * i) := by
      rw [Nat.mul_succ, Nat.add_comm, ← List.drop_drop, List.drop_left' (leBytes_length w (f x))]
    rw [le, List.flatMap_cons, hdrop]
    exact le_flatMap_leBytes w f t i h

theorem flatMap_leBytes_length {α : Type} (w : Nat) (f : α → Nat) (l : List α) :
    (l.flatMap (fun x => leBytes w (f x))).length = w * l.length := by
  induction l with
  | nil => rfl
  | cons x t ih => rw [List.flatMap_cons, List.length_append, leBytes_length, ih, List.length_cons, Nat.mul_succ, Nat.add_comm]

theorem elemBits_bytes (code : Nat) : 256 ^ (elemBits code / 8) = 2 ^ elemBits code := by
  unfold elemBits
  split <;> rfl

theorem rowData_ungrouped {code : Nat} (h : code ≤ 5) (vs : List FV) :
    rowData code vs = vs.flatMap (fun v => leBytes (elemBits code / 8) (elemCode code v)) :=
  if_neg (by simp [isGroup]; omega)

theorem rowData_element {code : Nat} (h : code ≤ 5) {vs : List FV} {i : Nat} {v : FV} (hv : vs[i]? = some v) :
    le (rowData code vs) (elemBits code / 8 * i) (elemBits code / 8) = elemCode code v % 2 ^ elemBits code := by
  rw [rowData_ungrouped h, le_flatMap_leBytes _ _ _ _ hv, elemBits_bytes]

/-! ### Integers -/

/-- Two's complement of an integer that n bits hold. -/
theorem signed_twos {n : Nat} (hn : 0 < n) {z : Int} (hlo : -(2 : Int) ^ (n - 1) ≤ z) (hhi : z < (2 : Int) ^ (n - 1)) :
    signed n (twos n z) = z := by
  obtain ⟨m, rfl⟩ : ∃ m, n = m + 1 := ⟨n - 1, by omega⟩
  have htwo : ((2 ^ (m + 1) : Nat) : Int) = 2 * 2 ^ m := by
    rw [Nat.pow_succ, Nat.mul_comm]
    push_cast
    rfl
  have hnat : ((2 ^ m : Nat) : Int) = 2 ^ m := by push_cast; rfl
  have hnat2 : (2 ^ (m + 1) : Nat) = 2 * 2 ^ m := by rw [Nat.pow_succ, Nat.mul_comm]
  rw [Nat.add_sub_cancel] at hlo hhi
  unfold signed twos
  dsimp only
  rw [Nat.add_sub_cancel, htwo]
  rw [hnat2]
  generalize (2 : Int) ^ m = p at *
  generalize (2 : Nat) ^ m = k at *
  subst hnat
  by_cases hz : 0 ≤ z
  · have hmod : z % (2 * k) = z := Int.emod_eq_of_lt hz (by omega)
    rw [hmod, Nat.mod_eq_of_lt (by omega), if_pos (by omega)]
    omega
  · have hmod : z % (2 * k) = z + 2 * k := by
      rw [← Int.add_emod_right]
      exact Int.emod_eq_of_lt (by omega) (by omega)
    rw [hmod, Nat.mod_eq_of_lt (by omega), if_neg (by omega)]
    omega

theorem signed_intElem {n : Nat} (hn : 0 < n) (neg : Bool) (q : Rat) : signed n (intElem n (.fin neg q)) =
    max (-(2 : Int) ^ (n - 1)) (min ((2 : Int) ^ (n - 1) - 1) (rnInt (FV.fin neg q).rat)) := by
  have hpow : (0 : Int) < 2 ^ (n - 1) := Int.pow_pos (by decide)
  show signed n (twos n (max (-((2 ^ (n - 1) : Nat) : Int)) (min (((2 ^ (n - 1) : Nat) : Int) - 1) (rnInt (FV.fin neg q).rat)))) = _
  push_cast
  exact signed_twos hn (by omega) (by omega)

theorem signed_intElem_inf {n : Nat} (hn : 0 < n) (neg : Bool) : signed n (intElem n (.inf neg)) =
    if neg then -(2 : Int) ^ (n - 1) else (2 : Int) ^ (n - 1) - 1 := by
  have hpow : (0 : Int) < 2 ^ (n - 1) := Int.pow_pos (by decide)
  show signed n (twos n (if neg then -((2 ^ (n - 1) : Nat) : Int) else ((2 ^ (n - 1) : Nat) : Int) - 1)) = _
  push_cast
  cases neg
  · rw [if_neg Bool.false_ne_true]
    exact signed_twos hn (by omega) (by omega)
  · rw [if_pos rfl]
    exact signed_twos hn (by omega) (by omega)

/-! ### E4M3 and the MX groups -/

theorem e4m3_maxFin : e4m3.maxFin = 448 := by decide +kernel

/-- A magnitude beyond the largest finite one saturates. -/
theorem encode_e4m3_saturates {neg : Bool} {q : Rat} (h : 448 < e4m3.roundMag .rn neg q) :
    (FV.fin neg q).encode e4m3 .rn = if neg then 0xFE else 0x7E := by
  have hmax : ¬ e4m3.roundMag .rn neg q ≤ e4m3.maxFin := by rw [e4m3_maxFin]; exact Rat.not_le.2 h
  have hsat : (FV.fin neg q).encode e4m3 .rn = e4m3.signBit neg + e4m3.encodeMag e4m3.maxFin :=
    (if_neg hmax).trans (if_neg (fun hspec => nomatch hspec.1))
  rw [hsat]
  cases neg <;> decide +kernel

theorem leBytes_zero : ∀ n, leBytes n 0 = List.replicate n 0
  | 0 => rfl
  | n + 1 => by rw [leBytes, leBytes_zero n]; rfl

theorem packBits_zeros {α : Type} (w : Nat) (vs : List α) : packBits w (vs.map (fun _ => 0)) = 0 := by
  have hfold (l : List α) (k : Nat) :
      ((l.map (fun _ => 0)).foldl (fun (st : Nat × Nat) c => (st.1 + c * 2 ^ st.2, st.2 + w)) (0, k)).1 = 0 := by
    induction l generalizing k with
    | nil => rfl
    | cons x t ih => simpa using ih (k + w)
  exact hfold vs 0

theorem groupData_special {code : Nat} (h : code ≤ 9) {vs : List FV} (hs : ∃ v ∈ vs, v.isFin = false) :
    groupData code vs = 0xFF :: List.replicate (4 * groupBits code) 0 := by
  have hg : mxGroup (groupFmt code).1 (groupFmt code).2 vs = (0xFF, vs.map (fun _ => 0)) := if_pos (by simpa using hs)
  have hcode : ¬ code = 10 := by omega
  unfold groupData
  dsimp only
  rw [if_neg hcode, hg, packBits_zeros, leBytes_zero]
  rfl

theorem groupValues_nan (code : Nat) (b : List Byte) : groupValues code (0xFF :: b) = List.replicate 32 .nan := by
  have hx : le (0xFF :: b) 0 1 = 0xFF := rfl
  unfold groupValues
  dsimp only
  rw [hx, if_pos rfl, List.map_const', unpackBits, List.length_map, List.length_range]

theorem conversions : Claim.Conversions := by
  refine ⟨fun code vs i v h hv => rowData_element h hv, fun n hn => ?_, by decide +kernel, by decide +kernel, by decide +kernel,
    by decide +kernel, fun neg q h => encode_e4m3_saturates h, fun code vs _ h _ hs => groupData_special h hs, groupValues_nan⟩
  simp only [List.mem_cons, List.not_mem_nil, or_false] at hn
  rcases hn with rfl | rfl
  · exact ⟨rfl, signed_intElem (by decide), signed_intElem_inf (by decide)⟩
  · exact ⟨rfl, signed_intElem (by decide), signed_intElem_inf (by decide)⟩

end Sys2Proof.Machine
end

section
/-! SUPPORT. Function jobs: what MAP and GATE_ACT write, and the refusals (R160, R162 to R164, R185). -/
namespace Sys2Proof.Machine

variable {s : State} {j : FuncJob} {addr : Nat}

/-! ### The operands' rows -/

theorem ioSize_pos (c : Nat) : 0 < ioSize c := by
  unfold ioSize
  split <;> decide

theorem State.runRow_length {base stride n rows fmt i : Nat} (hf : fmt ≤ 2) :
    (s.runRow ⟨base, stride, n * ioSize fmt, rows⟩ fmt i).length = n := by
  have hgroup : isGroup fmt = false := by
    simp [isGroup]
    omega
  unfold State.runRow rowValues
  rw [hgroup, Nat.mul_div_cancel n (ioSize_pos fmt)]
  simp

theorem State.jobLegal_facts (h : s.jobLegal j = true) : j.op ≤ 2 ∧ j.inFmt ≤ 2 := by
  simp only [State.jobLegal, Bool.and_eq_true, decide_eq_true_eq] at h
  omega

/-! ### What a row's job writes -/

/-- The result code of GATE_ACT for element k of row i of B (R160). -/
def State.gateCode (s : State) (j : FuncJob) (i : Nat) (p : FV × Nat) : Nat :=
  let r := (s.runRow j.runA j.inFmt i).map (fun x => (x, s.evalFn j.id j.rm fp32 x))
  let q := if j.scalar then r.getD 0 (.zero, 0) else r.getD p.2 (.zero, 0)
  (FV.mul (if j.self then FV.mul q.1 (f32 q.2) else f32 q.2) p.1).encode (ioFmt j.outFmt) j.rm

theorem State.gateCode_eq {i k : Nat} {y x : FV} (hx : (s.runRow j.runA j.inFmt i)[if j.scalar then 0 else k]? = some x) :
    s.gateCode j i (y, k) =
      (FV.mul (if j.self then FV.mul x (f32 (s.evalFn j.id j.rm fp32 x)) else f32 (s.evalFn j.id j.rm fp32 x)) y).encode
        (ioFmt j.outFmt) j.rm := by
  have hq : (if j.scalar then ((s.runRow j.runA j.inFmt i).map (fun x => (x, s.evalFn j.id j.rm fp32 x))).getD 0 (.zero, 0)
      else ((s.runRow j.runA j.inFmt i).map (fun x => (x, s.evalFn j.id j.rm fp32 x))).getD k (.zero, 0)) =
      (x, s.evalFn j.id j.rm fp32 x) := by
    split at hx
    · next hsc => rw [if_pos hsc]; simp [hx]
    · next hsc => rw [if_neg hsc]; simp [hx]
  unfold State.gateCode
  dsimp only
  rw [hq]

theorem eq_of_getElem?_map_range {α : Type} {n i : Nat} {f : Nat → α} {o : α} (h : ((List.range n).map f)[i]? = some o) : o = f i := by
  rw [List.getElem?_map] at h
  obtain ⟨k, hk, rfl⟩ := Option.map_eq_some_iff.1 h
  rw [List.getElem?_eq_some_iff] at hk
  obtain ⟨_, rfl⟩ := hk
  rw [List.getElem_range]

section
variable {i : Nat} {o : (Nat × List Byte) × List (FV × Nat)} (ho : (s.jobRows j)[i]? = some o)
include ho

theorem State.jobRow_map (h : j.op = 0) : o.1 = (j.y + i * j.yStride, (s.runRow j.runA j.inFmt i).flatMap (fun x =>
    leBytes (ioSize j.outFmt) (s.evalFn j.id j.rm (ioFmt j.outFmt) x))) := by
  unfold State.jobRows at ho
  rw [eq_of_getElem?_map_range ho, h]
  simp [List.flatMap_map, Function.comp_def]

theorem State.jobRow_gate (h : j.op = 1) : o.1 = (j.y + i * j.yStride, (s.runRow j.runB j.inFmt i).zipIdx.flatMap (fun p =>
    leBytes (ioSize j.outFmt) (s.gateCode j i p))) := by
  unfold State.jobRows at ho
  rw [eq_of_getElem?_map_range ho, h]
  simp only [List.flatMap_map, State.gateCode]

theorem State.jobRow_softmax (h : j.op = 2) : o.1 = (j.y + i * j.yStride,
    (softmaxRow (ioFmt j.outFmt) (s.runRow j.runA j.inFmt i)).flatMap (fun c => leBytes (ioSize j.outFmt) c)) := by
  unfold State.jobRows at ho
  rw [eq_of_getElem?_map_range ho, h] <;> rfl

end

/-! ### The job -/

theorem State.each_write_mem {α : Type} (l : List α) (r : α → Nat × List Byte) : ∀ s : State,
    (s.each l (fun s x => s.write (r x).1 (r x).2)).mem = l.foldl (fun m x => storeBytes m (r x).1 (r x).2) s.mem := by
  induction l with
  | nil => exact fun _ => rfl
  | cons x t ih => exact fun s => ih (s.write (r x).1 (r x).2)

/-- The operands of a job lie inside allocations (R185). -/
def State.jobInside (s : State) (j : FuncJob) : Prop :=
  s.insideAlloc j.a j.runA.span = true ∧ s.insideAlloc j.y j.runY.span = true ∧ (j.op = 1 → s.insideAlloc j.b j.runB.span = true)

theorem State.jobInside_iff :
    ([j.runA, j.runY] ++ (if j.op = 1 then [j.runB] else [])).all (fun r => s.insideAlloc r.base r.span) = true ↔ s.jobInside j := by
  unfold State.jobInside
  by_cases h : j.op = 1
  · simp [h, FuncJob.runA, FuncJob.runB, FuncJob.runY]
  · simp [h, FuncJob.runA, FuncJob.runY]

/-- Y lies over an operand other than exactly (R164). -/
def FuncJob.clashes (j : FuncJob) : Prop := j.runY.badOverlap j.runA = true ∨ (j.op = 1 ∧ j.runY.badOverlap j.runB = true)

theorem FuncJob.clashes_iff : (j.runY.badOverlap j.runA || (j.op == 1 && j.runY.badOverlap j.runB)) = true ↔ j.clashes := by
  simp [FuncJob.clashes]

section
variable (hj : FuncJob.parse (s.read addr 64) = j)
include hj

theorem State.runFunc_illegal (hl : s.jobLegal j = false) : s.runFunc addr [] = s.raise Code.illegalInstruction { unit := 11 } := by
  unfold State.runFunc
  dsimp only
  rw [hj]
  exact if_pos (by simp [hl])

variable (hl : s.jobLegal j = true)
include hl

theorem State.runFunc_outside (hi : ¬ s.jobInside j) : s.runFunc addr [] = s.moveRefused Code.descriptorInvalid 11 := by
  unfold State.runFunc
  dsimp only
  rw [hj, if_neg (by simp [hl])]
  refine if_pos ?_
  rw [Bool.not_eq_true', ← Bool.not_eq_true]
  exact mt State.jobInside_iff.1 hi

theorem State.runFunc_clashes (hi : s.jobInside j) (hc : j.clashes) : s.runFunc addr [] = s.moveRefused Code.overlap 11 := by
  unfold State.runFunc
  dsimp only
  rw [hj, if_neg (by simp [hl]), if_neg (by rw [State.jobInside_iff.2 hi]; decide)]
  exact if_pos (FuncJob.clashes_iff.2 hc)

/-- A job that runs writes its rows. -/
theorem State.runFunc_mem (hi : s.jobInside j) (hc : ¬ j.clashes) : (s.runFunc addr []).mem =
    (s.each ((s.jobRows j).map (·.1)) (fun s r => s.write r.1 r.2)).mem := by
  unfold State.runFunc
  dsimp only
  rw [hj, if_neg (by simp [hl]), if_neg (by rw [State.jobInside_iff.2 hi]; decide), if_neg (mt FuncJob.clashes_iff.1 hc)]
  have hrows : (s.each ((s.jobRows j).map (·.1)) (fun s r => s.write r.1 r.2)).mem =
      (s.jobRows j).foldl (fun m o => storeBytes m o.1.1 o.1.2) s.mem :=
    (State.each_write_mem ((s.jobRows j).map (·.1)) id s).trans List.foldl_map
  rw [hrows]
  split <;> exact State.each_write_mem _ _ _

end

/-- The rows that a job writes, by its operation (R160, R162). -/
theorem State.jobRow_written (hl : s.jobLegal j = true) {i : Nat} {r : Nat × List Byte} (hr : ((s.jobRows j).map (·.1))[i]? = some r) :
    r.1 = j.y + i * j.yStride ∧ r.2.length = ioSize j.outFmt * j.n ∧
    (j.op = 0 → r.2 = (s.runRow j.runA j.inFmt i).flatMap (fun x => leBytes (ioSize j.outFmt) (s.evalFn j.id j.rm (ioFmt j.outFmt) x))) ∧
    (j.op = 1 → r.2 = (s.runRow j.runB j.inFmt i).zipIdx.flatMap (fun p => leBytes (ioSize j.outFmt) (s.gateCode j i p))) := by
  rw [List.getElem?_map] at hr
  obtain ⟨o, ho, rfl⟩ := Option.map_eq_some_iff.1 hr
  obtain ⟨hop, hfmt⟩ := State.jobLegal_facts hl
  have hrunB : (s.runRow j.runB j.inFmt i).length = j.n := State.runRow_length hfmt
  have hrunA (h : j.op ≠ 1) : (s.runRow j.runA j.inFmt i).length = j.n := by
    have hlen : j.aLen = j.n := if_neg (by simp [h])
    rw [← hlen]
    exact State.runRow_length hfmt
  obtain h | h | h : j.op = 0 ∨ j.op = 1 ∨ j.op = 2 := by omega
  · rw [State.jobRow_map ho h]
    exact ⟨rfl, by rw [flatMap_leBytes_length, hrunA (by omega)], fun _ => rfl, fun h1 => by omega⟩
  · rw [State.jobRow_gate ho h]
    exact ⟨rfl, by rw [flatMap_leBytes_length, List.length_zipIdx, hrunB], fun h0 => by omega, fun _ => rfl⟩
  · rw [State.jobRow_softmax ho h]
    have hsoft : (softmaxRow (ioFmt j.outFmt) (s.runRow j.runA j.inFmt i)).length = j.n := by
      rw [softmaxRow, List.length_map, hrunA (by omega)]
    exact ⟨rfl, by rw [flatMap_leBytes_length, hsoft], fun h0 => by omega, fun h1 => by omega⟩

theorem ioSize_bits (c : Nat) : 256 ^ ioSize c = 2 ^ (8 * ioSize c) := by rw [Nat.pow_mul]

theorem functionJobs : Claim.FunctionJobs := by
  intro s addr j inside clash w
  refine ⟨fun hl => State.runFunc_illegal rfl hl, fun hl hi => State.runFunc_outside rfl hl hi,
    fun hl hi hc => State.runFunc_clashes rfl hl hi hc, fun hl hi hc => ⟨(s.jobRows j).map (·.1), ?_, ?_,
    fun i r hr => ?_⟩⟩
  · simp [State.jobRows]
  · have hmem := State.runFunc_mem rfl hl hi hc
    exact hmem
  · obtain ⟨haddr, hlen, hmap, hgate⟩ := State.jobRow_written hl hr
    refine ⟨haddr, hlen, fun h0 k x hx => ?_, fun h1 k y x hy hx => ?_⟩
    · rw [hmap h0, le_flatMap_leBytes _ _ _ _ hx, ioSize_bits]
    · have hp : (s.runRow j.runB j.inFmt i).zipIdx[k]? = some (y, k) := by simp [List.getElem?_zipIdx, hy]
      rw [hgate h1, le_flatMap_leBytes _ _ _ _ hp, ioSize_bits, State.gateCode_eq hx]

end Sys2Proof.Machine
end

section
/-! SUPPORT. A term added to a token's accumulator (R135, R136, R138). -/
namespace Sys2Proof.Machine

variable {s : State} {g : Nat} {e : Int}

/-! ### The guard -/

theorem termInt_passes {v : FV} {q : Int} (hf : v.isFin = true) (hq : q = rnInt (v.rat / pow2 (e - 40)))
    (hg : q.natAbs < 2 ^ (62 - g)) : termInt g e v = some q := by
  subst hq
  cases v with
  | nan => cases hf
  | inf n => cases hf
  | fin n x => exact if_pos hg

theorem termInt_fails {v : FV} (h : ∀ q : Int, ¬ (v.isFin = true ∧ q = rnInt (v.rat / pow2 (e - 40)) ∧ q.natAbs < 2 ^ (62 - g))) :
    termInt g e v = none := by
  cases v with
  | nan => rfl
  | inf n => rfl
  | fin n x => exact if_neg (fun hg => h _ ⟨rfl, rfl, hg⟩)

theorem termInts_cons (v : FV) (t : List FV) : termInts g e (v :: t) =
    (termInt g e v).bind (fun q => (termInts g e t).map (q :: ·)) := by
  rw [termInts]
  cases termInt g e v with
  | none => rfl
  | some q => cases termInts g e t <;> rfl

theorem termInts_pass : ∀ (vs : List FV) (qs : List Int), qs.length = vs.length →
    (∀ p ∈ vs.zip qs, p.1.isFin = true ∧ p.2 = rnInt (p.1.rat / pow2 (e - 40)) ∧ p.2.natAbs < 2 ^ (62 - g)) → termInts g e vs = some qs
  | [], qs, hlen, _ => by rw [List.length_eq_zero_iff.1 hlen]; rfl
  | v :: t, q :: qs, hlen, h => by
    obtain ⟨hf, hq, hg⟩ := h (v, q) (List.mem_cons_self ..)
    have hrest := termInts_pass t qs (Nat.succ.inj hlen) (fun p hp => h p (List.mem_cons_of_mem _ hp))
    rw [termInts_cons, termInt_passes hf hq hg, hrest]
    rfl

theorem termInts_fail : ∀ (vs : List FV), (∃ v ∈ vs, termInt g e v = none) → termInts g e vs = none
  | v :: t, h => by
    rw [termInts_cons]
    obtain ⟨x, hx, hnone⟩ := h
    rcases List.mem_cons.1 hx with rfl | ht
    · rw [hnone]; rfl
    · rw [termInts_fail t ⟨x, ht, hnone⟩]
      cases termInt g e v <;> rfl

theorem termWords_ofInt (l : List Int) : termWords l = l.map (BitVec.ofInt 64) := by
  refine List.map_congr_left (fun q _ => BitVec.eq_of_toNat_eq ?_)
  rw [BitVec.toNat_ofNat, BitVec.toNat_ofInt, twos]
  omega

/-! ### Words and residues -/

/-- The residue of a sum of words loses 1 for a carry out, 2^64 being 1 modulo 255. -/
theorem rho_add (w q : BitVec 64) : (rho (w + q) + b2n (decide (2 ^ 64 ≤ w.toNat + q.toNat))) % 255 = (rho w + rho q) % 255 := by
  have hw := w.isLt
  have hq := q.isLt
  unfold rho b2n
  rw [BitVec.toNat_add]
  by_cases h : 2 ^ 64 ≤ w.toNat + q.toNat
  · rw [decide_eq_true h, if_pos rfl]
    omega
  · rw [decide_eq_false h, if_neg Bool.false_ne_true]
    omega

/-- The sum of the residues of a group's words. -/
def rhoSum (l : List (BitVec 64)) : Nat := (l.map rho).sum

theorem wordResidues_eq (l : List (BitVec 64)) : wordResidues l = (chunksOf 32 l).map (fun g => rhoSum g % 255) := by
  have hfold (g : List (BitVec 64)) (n : Nat) : g.foldl (fun n w => n + rho w) n = n + rhoSum g := by
    induction g generalizing n with
    | nil => rfl
    | cons w t ih => simp only [List.foldl_cons, ih, rhoSum, List.map_cons, List.sum_cons]; omega
  unfold wordResidues
  simp only [hfold, Nat.zero_add]

theorem addGroup_words : ∀ (ws qs : List (BitVec 64)) (r : Nat), ws.length = qs.length →
    (addGroup ws qs r).1 = List.zipWith (· + ·) ws qs
  | [], [], _, _ => rfl
  | _ :: ws, _ :: qs, _, h => congrArg (_ :: ·) (addGroup_words ws qs _ (Nat.succ.inj h))

theorem addGroup_residue : ∀ (ws qs : List (BitVec 64)) (r : Nat), ws.length = qs.length →
    ((addGroup ws qs r).2 + rhoSum ws) % 255 = (r + rhoSum (List.zipWith (· + ·) ws qs)) % 255
  | [], [], _, _ => rfl
  | w :: ws, q :: qs, r, h => by
    have hrest := addGroup_residue ws qs (addWord w q r).2 (Nat.succ.inj h)
    have hword : (addWord w q r).2 = (r + rho q + 255 - b2n (decide (2 ^ 64 ≤ w.toNat + q.toNat))) % 255 := rfl
    have hsum := rho_add w q
    have hcarry : b2n (decide (2 ^ 64 ≤ w.toNat + q.toNat)) ≤ 1 := by
      unfold b2n
      split <;> decide
    have hzip : rhoSum (List.zipWith (· + ·) (w :: ws) (q :: qs)) = rho (w + q) + rhoSum (List.zipWith (· + ·) ws qs) := List.sum_cons
    have hcons : rhoSum (w :: ws) = rho w + rhoSum ws := List.sum_cons
    have hgroup : (addGroup (w :: ws) (q :: qs) r).2 = (addGroup ws qs (addWord w q r).2).2 := rfl
    rw [hgroup, hzip, hcons]
    omega

theorem addGroup_lt : ∀ (ws qs : List (BitVec 64)) {r : Nat}, r < 255 → (addGroup ws qs r).2 < 255
  | [], _, _, hr => hr
  | _ :: _, [], _, hr => hr
  | w :: ws, q :: qs, r, _ => addGroup_lt ws qs (Nat.mod_lt _ (by decide))

/-- A group keeps its residue that of its words. -/
theorem addGroup_eq {ws qs : List (BitVec 64)} (h : ws.length = qs.length) : addGroup ws qs (rhoSum ws % 255) =
    (List.zipWith (· + ·) ws qs, rhoSum (List.zipWith (· + ·) ws qs) % 255) := by
  have hres := addGroup_residue ws qs (rhoSum ws % 255) h
  have hlt := addGroup_lt ws qs (Nat.mod_lt (rhoSum ws) (by decide : 255 > 0))
  exact Prod.ext (addGroup_words ws qs _ h) (by dsimp only; omega)

/-! ### Rows -/

theorem flatMap_chunks {α : Type} (n k : Nat) (l : List α) :
    (List.range k).flatMap (fun i => (l.drop (n * i)).take n) = l.take (n * k) := by
  induction k with
  | zero => simp
  | succ k ih => rw [List.range_succ, List.flatMap_append, ih, Nat.mul_succ, List.take_add]; simp

theorem flatten_chunksOf {α : Type} {n : Nat} (hn : 0 < n) (l : List α) : (chunksOf n l).flatten = l := by
  have hlen : l.length ≤ n * ceilDiv l.length n := by
    have hdiv := Nat.div_add_mod (l.length + n - 1) n
    have hmod := Nat.mod_lt (l.length + n - 1) hn
    unfold ceilDiv
    omega
  rw [chunksOf, ← List.flatMap_def, flatMap_chunks, List.take_of_length_le hlen]

/-- A row of words added group by group, its residues being right. -/
theorem addRow_eq {ws qs : List (BitVec 64)} (h : ws.length = qs.length) : addRow ws qs (wordResidues ws) =
    (List.zipWith (· + ·) ws qs, wordResidues (List.zipWith (· + ·) ws qs)) := by
  have hgroups : (((chunksOf 32 ws).zip (chunksOf 32 qs)).zip (wordResidues ws)).map (fun x => addGroup x.1.1 x.1.2 x.2) =
      (chunksOf 32 (List.zipWith (· + ·) ws qs)).map (fun g => (g, rhoSum g % 255)) := by
    rw [wordResidues_eq]
    unfold chunksOf
    rw [List.length_zipWith, h, Nat.min_self, List.zip_map', List.map_map, List.zip_map', List.map_map, List.map_map]
    refine List.map_congr_left (fun i _ => ?_)
    refine (addGroup_eq (by simp [h])).trans ?_
    simp [List.drop_zipWith, List.take_zipWith]
  unfold addRow
  dsimp only
  rw [hgroups, List.flatMap_map, List.map_map, List.flatMap_def, List.map_id', flatten_chunksOf (by decide), wordResidues_eq]
  rfl

/-! ### The accumulator -/

section
variable {n : Nat} {vs : List FV} {a : Accum} (ha : Tab.get? s.att.comb.accs n = some a)
include ha

theorem State.addTerm_fails (f : Accum → Accum) (h : termInts (guardBits s.selection.kMax) a.eTok vs = none) :
    s.addTerm n vs f = s.guardFail n := by
  unfold State.addTerm
  rw [ha]
  dsimp only
  rw [h]

theorem State.addTerm_adds (f : Accum → Accum) {l : List Int} (h : termInts (guardBits s.selection.kMax) a.eTok vs = some l)
    (hr : a.residues = wordResidues a.words) (hlen : a.words.length = l.length) :
    s.addTerm n vs f = s.modComb (fun c => { c with accs := Tab.put c.accs n (f { a with
      words := List.zipWith (· + ·) a.words (termWords l), residues := wordResidues (List.zipWith (· + ·) a.words (termWords l)) }) }) := by
  have hwords : a.words.length = (termWords l).length := by rw [hlen, termWords, List.length_map]
  unfold State.addTerm
  rw [ha]
  dsimp only
  rw [h]
  dsimp only
  rw [hr, addRow_eq hwords]

end

theorem combineTerms : Claim.CombineTerms := by
  intro s n vs a qs ha hlen g passes
  refine ⟨fun hr hqs hp => ?_, fun ⟨v, hv, hfail⟩ => ?_⟩
  · have hints : termInts g a.eTok vs = some qs := termInts_pass vs qs hqs hp
    refine ⟨_, State.addTerm_adds ha id hints hr (by omega), rfl, ?_, fun i u q hu hq => ?_⟩
    · simp [termWords, hlen, hqs]
    · show (List.zipWith (· + ·) a.words (termWords qs))[i]? = _
      rw [List.getElem?_zipWith, hu, termWords_ofInt, List.getElem?_map, hq]
      rfl
  · exact State.addTerm_fails ha id (termInts_fail vs ⟨v, hv, termInt_fails hfail⟩)

end Sys2Proof.Machine
end

section
/-! SUPPORT. Exact sums and products of values. -/
namespace Sys2Proof.Machine

@[simp] theorem FV.ofRat_isFin (q : Rat) : (FV.ofRat q).isFin = true := by
  unfold FV.ofRat
  split <;> rfl

@[simp] theorem FV.ofRat_rat (q : Rat) : (FV.ofRat q).rat = q := by
  unfold FV.ofRat
  split
  · exact Rat.neg_neg q
  · rfl

theorem FV.eq_fin : ∀ {a : FV}, a.isFin = true → ∃ n q, a = .fin n q
  | .fin n q, _ => ⟨n, q, rfl⟩

theorem FV.add_fin (m n : Bool) (p q : Rat) : FV.add (.fin m p) (.fin n q) =
    if (FV.fin m p).rat + (FV.fin n q).rat = 0 then .fin (m && n) 0 else FV.ofRat ((FV.fin m p).rat + (FV.fin n q).rat) := rfl

theorem FV.add_exact {a b : FV} (ha : a.isFin = true) (hb : b.isFin = true) :
    (FV.add a b).isFin = true ∧ (FV.add a b).rat = a.rat + b.rat := by
  obtain ⟨m, p, rfl⟩ := FV.eq_fin ha
  obtain ⟨n, q, rfl⟩ := FV.eq_fin hb
  rw [FV.add_fin]
  split
  · next h =>
    rw [h]
    exact ⟨rfl, by simp [FV.rat]⟩
  · exact ⟨FV.ofRat_isFin _, FV.ofRat_rat _⟩

theorem FV.mul_exact {a b : FV} (ha : a.isFin = true) (hb : b.isFin = true) :
    (FV.mul a b).isFin = true ∧ (FV.mul a b).rat = a.rat * b.rat := by
  obtain ⟨m, p, rfl⟩ := FV.eq_fin ha
  obtain ⟨n, q, rfl⟩ := FV.eq_fin hb
  refine ⟨rfl, ?_⟩
  cases m <;> cases n <;> simp [FV.mul, FV.rat, Rat.neg_mul, Rat.mul_neg, Rat.neg_neg]

theorem FV.foldl_add_exact {α : Type} (f : α → FV) : ∀ (l : List α) (a : FV), a.isFin = true → (∀ x ∈ l, (f x).isFin = true) →
    (l.foldl (fun a x => FV.add a (f x)) a).isFin = true ∧
      (l.foldl (fun a x => FV.add a (f x)) a).rat = a.rat + (l.map (fun x => (f x).rat)).sum
  | [], a, ha, _ => ⟨ha, (Rat.add_zero _).symm⟩
  | x :: t, a, ha, hf => by
    obtain ⟨hfin, hrat⟩ := FV.add_exact ha (hf x (List.mem_cons_self ..))
    obtain ⟨hfin', hrat'⟩ := FV.foldl_add_exact f t (FV.add a (f x)) hfin (fun y hy => hf y (List.mem_cons_of_mem _ hy))
    refine ⟨hfin', hrat'.trans ?_⟩
    rw [hrat, List.map_cons, List.sum_cons, Rat.add_assoc]

/-! ### What a sum of products is -/

theorem FV.sum_cons (v : FV) (t : List FV) : FV.sum (v :: t) = t.foldl FV.add v := rfl

/-- A sum of finite values is their exact sum (R45). -/
theorem FV.sum_exact : ∀ (l : List FV), (∀ p ∈ l, p.isFin = true) → (FV.sum l).isFin = true ∧ (FV.sum l).rat = (l.map FV.rat).sum
  | [], _ => ⟨rfl, rfl⟩
  | v :: t, h => by
    have hfold := FV.foldl_add_exact id t v (h v (List.mem_cons_self ..)) (fun x hx => h x (List.mem_cons_of_mem _ hx))
    simpa [FV.sum_cons] using hfold

/-- A finite value with its sign apart from its magnitude. -/
def FV.signed (v : FV) : Prop := ∃ n q, v = .fin n q ∧ 0 ≤ q

theorem FV.ofRat_signed (r : Rat) : (FV.ofRat r).signed := by
  unfold FV.ofRat
  split
  · next h => exact ⟨true, -r, rfl, by grind⟩
  · next h => exact ⟨false, r, rfl, by grind⟩

theorem FV.ofRat_ne_negZero {r : Rat} (h : r ≠ 0) : FV.ofRat r ≠ .fin true 0 := by
  intro he
  have hrat := FV.ofRat_rat r
  rw [he] at hrat
  exact h (hrat.symm.trans (by simp [FV.rat]))

/-- A sum of two values is −0 only when both are. -/
theorem FV.add_negZero {a b : FV} (ha : a.signed) (hb : b.signed) :
    (FV.add a b).signed ∧ (FV.add a b = .fin true 0 ↔ a = .fin true 0 ∧ b = .fin true 0) := by
  obtain ⟨m, p, rfl, hp⟩ := ha
  obtain ⟨n, q, rfl, hq⟩ := hb
  rw [FV.add_fin]
  split
  · next h =>
    refine ⟨⟨m && n, 0, rfl, Rat.le_refl⟩, ?_⟩
    constructor
    · intro he
      injection he with hmn
      obtain ⟨rfl, rfl⟩ : m = true ∧ n = true := by simpa using hmn
      have hsum : -p + -q = 0 := h
      have hp0 : p = 0 := by grind
      have hq0 : q = 0 := by grind
      rw [hp0, hq0]
      exact ⟨rfl, rfl⟩
    · rintro ⟨ha, hb⟩
      injection ha with hm
      injection hb with hn
      rw [hm, hn]
      rfl
  · next h =>
    refine ⟨FV.ofRat_signed _, ⟨fun he => absurd he (FV.ofRat_ne_negZero h), fun ⟨ha, hb⟩ => absurd ?_ h⟩⟩
    rw [ha, hb]
    simp [FV.rat, Rat.add_zero]

theorem FV.foldl_negZero : ∀ (l : List FV) (a : FV), a.signed → (∀ x ∈ l, x.signed) →
    (l.foldl FV.add a).signed ∧ (l.foldl FV.add a = .fin true 0 ↔ a = .fin true 0 ∧ ∀ x ∈ l, x = .fin true 0)
  | [], a, ha, _ => ⟨ha, by simp⟩
  | x :: t, a, ha, h => by
    obtain ⟨hs, hz⟩ := FV.add_negZero ha (h x (List.mem_cons_self ..))
    obtain ⟨hs', hz'⟩ := FV.foldl_negZero t (FV.add a x) hs (fun y hy => h y (List.mem_cons_of_mem _ hy))
    refine ⟨hs', ?_⟩
    rw [List.foldl_cons, hz', hz, List.forall_mem_cons, and_assoc]

/-- The sum is −0 only when every product is, and there is one. -/
theorem FV.sum_negZero : ∀ (l : List FV), (∀ x ∈ l, x.signed) →
    (FV.sum l).signed ∧ (FV.sum l = .fin true 0 ↔ l ≠ [] ∧ ∀ x ∈ l, x = .fin true 0)
  | [], _ => ⟨⟨false, 0, rfl, Rat.le_refl⟩, by simp [FV.sum, FV.zero]⟩
  | v :: t, h => by
    obtain ⟨hs, hz⟩ := FV.foldl_negZero t v (h v (List.mem_cons_self ..)) (fun x hx => h x (List.mem_cons_of_mem _ hx))
    refine ⟨hs, hz.trans ?_⟩
    simp

theorem FV.isNeg_of_zero {v : FV} (hs : v.signed) (h0 : v.rat = 0) : v.isNeg = true ↔ v = .fin true 0 := by
  obtain ⟨n, q, rfl, _⟩ := hs
  cases n with
  | false => simp [FV.isNeg]
  | true =>
    have hneg : -q = 0 := h0
    have hq : q = 0 := by grind
    simp [FV.isNeg, hq]

/-! ### NaNs and infinities in a sum -/

theorem FV.add_nan (v : FV) : FV.add v .nan = .nan := by cases v <;> rfl

theorem FV.foldl_nan (l : List FV) : l.foldl FV.add .nan = .nan := by
  induction l with
  | nil => rfl
  | cons x t ih => exact ih

theorem FV.foldl_of_nan {l : List FV} (h : .nan ∈ l) (a : FV) : l.foldl FV.add a = .nan := by
  induction l generalizing a with
  | nil => exact absurd h List.not_mem_nil
  | cons x t ih =>
    rcases List.mem_cons.1 h with rfl | ht
    · rw [List.foldl_cons, FV.add_nan, FV.foldl_nan]
    · exact ih ht _

/-- What an infinity becomes in a sum: NaN at an infinity of the other sign, else itself. -/
theorem FV.foldl_of_inf (n : Bool) : ∀ (l : List FV), .nan ∉ l → l.foldl FV.add (.inf n) = if .inf (!n) ∈ l then .nan else .inf n
  | [], _ => rfl
  | .nan :: t, h => absurd (List.mem_cons_self ..) h
  | .inf m :: t, h => by
    have hrest := FV.foldl_of_inf n t (fun ht => h (List.mem_cons_of_mem _ ht))
    by_cases hm : m = !n
    · subst hm
      have hadd : FV.add (.inf n) (.inf (!n)) = .nan := if_neg (by simp)
      rw [List.foldl_cons, hadd, FV.foldl_nan, if_pos (List.mem_cons_self ..)]
    · have hn : m = n := by cases m <;> cases n <;> simp at hm ⊢
      subst hn
      have hadd : FV.add (.inf m) (.inf m) = .inf m := if_pos rfl
      rw [List.foldl_cons, hadd, hrest]
      simp
  | .fin m q :: t, h => by
    have hrest := FV.foldl_of_inf n t (fun ht => h (List.mem_cons_of_mem _ ht))
    have hadd : FV.add (.inf n) (.fin m q) = .inf n := rfl
    rw [List.foldl_cons, hadd, hrest]
    simp

/-- A finite partial sum meets an infinity. -/
theorem FV.foldl_meets_inf (n : Bool) : ∀ (l : List FV) (a : FV), a.isFin = true → .nan ∉ l → .inf n ∈ l →
    l.foldl FV.add a = if .inf (!n) ∈ l then .nan else .inf n
  | .nan :: t, _, _, h, _ => absurd (List.mem_cons_self ..) h
  | .fin m q :: t, a, ha, h, hn => by
    have hrest := FV.foldl_meets_inf n t (FV.add a (.fin m q)) (FV.add_exact ha rfl).1 (fun ht => h (List.mem_cons_of_mem _ ht))
      (by simpa using hn)
    rw [List.foldl_cons, hrest]
    simp
  | .inf m :: t, a, ha, h, hn => by
    obtain ⟨k, q, rfl⟩ := FV.eq_fin ha
    have hadd : FV.add (.fin k q) (.inf m) = .inf m := rfl
    have hrest := FV.foldl_of_inf m t (fun ht => h (List.mem_cons_of_mem _ ht))
    rw [List.foldl_cons, hadd, hrest]
    by_cases hm : m = !n
    · subst hm
      have hnt : FV.inf n ∈ t := by simpa using hn
      rw [if_pos (by simpa using hnt), if_pos (List.mem_cons_self ..)]
    · have hmn : m = n := by cases m <;> cases n <;> simp at hm ⊢
      subst hmn
      simp

/-- An infinity in a sum without NaN: infinities of both signs give NaN, else the sum is that infinity (R45). -/
theorem FV.sum_inf (n : Bool) : ∀ (l : List FV), .nan ∉ l → .inf n ∈ l → FV.sum l = if .inf (!n) ∈ l then .nan else .inf n
  | .nan :: t, h, _ => absurd (List.mem_cons_self ..) h
  | .inf m :: t, h, hn => by
    have hmeets := FV.foldl_meets_inf n (.inf m :: t) .zero rfl h hn
    exact hmeets
  | .fin m q :: t, h, hn => by
    have hmeets := FV.foldl_meets_inf n t (.fin m q) rfl (fun ht => h (List.mem_cons_of_mem _ ht)) (by simpa using hn)
    rw [FV.sum_cons, hmeets]
    simp

theorem FV.sum_nan : ∀ {l : List FV}, .nan ∈ l → FV.sum l = .nan
  | v :: t, h => by
    rcases List.mem_cons.1 h with hv | ht
    · rw [FV.sum_cons, ← hv, FV.foldl_nan]
    · exact FV.foldl_of_nan ht v

theorem FV.rn32_nan : FV.rn32 .nan = .nan := by decide +kernel

theorem FV.rn32_inf (n : Bool) : FV.rn32 (.inf n) = .inf n := by cases n <;> decide +kernel

/-! ### The reference score -/

/-- The sign of a sum that is zero. -/
theorem FV.sum_isNeg {ps : List FV} (h : ∀ p ∈ ps, p.isFin = true) (hq : ∀ n q, .fin n q ∈ ps → 0 ≤ q) (h0 : (FV.sum ps).rat = 0) :
    (FV.sum ps).isNeg = true ↔ ps ≠ [] ∧ ∀ p ∈ ps, p = .fin true 0 := by
  have hsigned : ∀ p ∈ ps, p.signed := fun p hp => by
    obtain ⟨n, q, rfl⟩ := FV.eq_fin (h p hp)
    exact ⟨n, q, rfl, hq n q hp⟩
  obtain ⟨hs, hz⟩ := FV.sum_negZero ps hsigned
  exact (FV.isNeg_of_zero hs h0).trans hz

theorem FV.sum_undefined {ps : List FV} (h : (∃ p ∈ ps, p = .nan) ∨ (.inf true ∈ ps ∧ .inf false ∈ ps)) : FV.sum ps = .nan := by
  by_cases hn : .nan ∈ ps
  · exact FV.sum_nan hn
  · rcases h with ⟨p, hp, rfl⟩ | ⟨ht, hf⟩
    · exact absurd hp hn
    · rw [FV.sum_inf true ps hn ht]
      exact if_pos hf

/-- The reference score of a row against a row of weights (R45). -/
theorem refScores (xh w : List FV) :
    let ps := (xh.zip w).map (fun p => FV.mul p.1 p.2)
    ((∀ p ∈ ps, p.isFin = true) → ∃ v : FV, v.isFin = true ∧ v.rat = (ps.map FV.rat).sum ∧ refScore xh w = v.rn32 ∧
      ((∀ n q, .fin n q ∈ ps → 0 ≤ q) → v.rat = 0 → (v.isNeg = true ↔ ps ≠ [] ∧ ∀ p ∈ ps, p = .fin true 0))) ∧
    (((∃ p ∈ ps, p = .nan) ∨ (.inf true ∈ ps ∧ .inf false ∈ ps)) → refScore xh w = .nan) ∧
    (∀ n, (∀ p ∈ ps, p ≠ .nan) → .inf n ∈ ps → .inf (!n) ∉ ps → refScore xh w = .inf n) := by
  intro ps
  have hscore : refScore xh w = (FV.sum ps).rn32 := rfl
  refine ⟨fun h => ?_, fun h => ?_, fun n hnan hi ho => ?_⟩
  · obtain ⟨hfin, hrat⟩ := FV.sum_exact ps h
    exact ⟨FV.sum ps, hfin, hrat, hscore, FV.sum_isNeg h⟩
  · rw [hscore, FV.sum_undefined h, FV.rn32_nan]
  · rw [hscore, FV.sum_inf n ps (fun hp => hnan _ hp rfl) hi, if_neg ho, FV.rn32_inf]

end Sys2Proof.Machine
end

section
/-! SUPPORT. The pair records that SCORE writes (R24, R31, R36, R39). -/
namespace Sys2Proof.Machine

variable {s : State} {b : ScoringBlock} {x : TokScore} {ws : List WeightBlock} {err : Nat → Int}

theorem scorePair_invalid (h : x.invalid = true) : scorePair b x ws err = { s := 0x7FC00000, b := 0x7F800000 } := if_pos h

theorem scorePair_valid (h : x.invalid = false) : scorePair b x ws err =
    { s := BitVec.ofNat 32 (toF32 (sketchExact b x ws err)),
      b := BitVec.ofNat 32 (toF32 (sketchBound b x ws (sketchExact b x ws err).rn32)) } :=
  if_neg (by simp [h])

/-- What a block adds is exact. -/
theorem blockSum_exact (h : ∀ o ∈ x.outliers, (b16 o.2.toNat).isFin = true) (k : Nat) (w : WeightBlock) :
    (blockSum x k w 0).isFin = true ∧ (blockSum x k w 0).rat = sketchTerm x k w := by
  have hterm (o : Nat × BitVec 16) (ho : o ∈ x.outliersIn k) := FV.mul_exact (h o (List.mem_filter.1 ho |>.1))
    (FV.ofRat_isFin ((w.q.getD (o.1 % 32) 0 : Rat) * pow2 w.e))
  obtain ⟨hfin, hrat⟩ := FV.foldl_add_exact
    (fun o : Nat × BitVec 16 => FV.mul (b16 o.2.toNat) (FV.ofRat ((w.q.getD (o.1 % 32) 0 : Rat) * pow2 w.e))) (x.outliersIn k)
    (FV.ofRat (((dotInt (x.block k).1 w.q + 0 : Int) : Rat) * pow2 ((x.block k).2 + w.e))) (FV.ofRat_isFin _)
    (fun o ho => (hterm o ho).1)
  refine ⟨hfin, hrat.trans ?_⟩
  have hmap : (x.outliersIn k).map (fun o => (FV.mul (b16 o.2.toNat) (FV.ofRat ((w.q.getD (o.1 % 32) 0 : Rat) * pow2 w.e))).rat) =
      (x.outliersIn k).map (fun o => (b16 o.2.toNat).rat * ((w.q.getD (o.1 % 32) 0 : Rat) * pow2 w.e)) :=
    List.map_congr_left (fun o ho => (hterm o ho).2.trans (by rw [FV.ofRat_rat]))
  rw [hmap, FV.ofRat_rat, Int.add_zero, sketchTerm]

theorem sketchExact_exact (hb : b.scale.isFin = true) (h : ∀ o ∈ x.outliers, (b16 o.2.toNat).isFin = true) :
    (sketchExact b x ws (fun _ => 0)).isFin = true ∧
      (sketchExact b x ws (fun _ => 0)).rat = b.scale.rat * (ws.zipIdx.map (fun w => sketchTerm x w.2 w.1)).sum := by
  obtain ⟨hfin, hrat⟩ := FV.foldl_add_exact (fun p : WeightBlock × Nat => blockSum x p.2 p.1 0) ws.zipIdx .zero rfl
    (fun p _ => (blockSum_exact h p.2 p.1).1)
  obtain ⟨hfin', hrat'⟩ := FV.mul_exact hb hfin
  refine ⟨hfin', hrat'.trans ?_⟩
  rw [hrat, List.map_congr_left (fun p _ => (blockSum_exact h p.2 p.1).2)]
  exact congrArg _ (Rat.zero_add _)

/-- A row that is not finite, or a saturated block, has no bound. -/
theorem sketchBound_unbounded {sc : FV} (h : x.nonfinite = true ∨ ∃ w ∈ ws, w.l1 = 0xFF) : sketchBound b x ws sc = .inf false := by
  refine if_pos ?_
  rcases h with h | ⟨w, hw, hl⟩
  · simp [h]
  · have hany : ws.any (fun w => w.l1 == 0xFF) = true := List.any_eq_true.2 ⟨w, hw, by simp [hl]⟩
    simp [hany]

theorem toF32_inf : toF32 (.inf false) = 0x7F800000 := by decide +kernel

/-- The weights of a chunk's experts. -/
def State.sketchRows (s : State) (b : ScoringBlock) : List (List WeightBlock) :=
  (List.range b.e).map (fun e => (List.range (b.d / 32)).map (s.sketchBlock b e))

/-- A token's pair records without faults. -/
def State.scoredPairs (s : State) (b : ScoringBlock) (x : TokScore) : List PairRec :=
  (s.sketchRows b).map (fun ws => scorePair b x ws (fun _ => 0))

theorem map_zipIdx_fst {α β : Type} (f : α → β) (l : List α) : l.zipIdx.map (fun p => f p.1) = l.map f := by
  rw [← Function.comp_def f Prod.fst, ← List.map_map, List.zipIdx_map_fst]

/-- SCORE without faults stores the chunk's pair records. -/
theorem State.scoreChunk_plain (c : Nat) : s.scoreChunk c [] [] =
    ({ s with att := { s.att with score := Tab.put s.att.score c (((Tab.get? s.att.score c).getD []).map
      (fun x => { x with pairs := s.scoredPairs s.scoring x })) } } : State).bump 0x21000
        (((Tab.get? s.att.score c).getD []).length * s.scoring.e) := by
  have hpairs (t : TokScore × Nat) : (s.sketchRows s.scoring).zipIdx.map (fun w => scorePair s.scoring t.1 w.1 (deltaOf [] t.2 w.2)) =
      s.scoredPairs s.scoring t.1 := map_zipIdx_fst (fun ws => scorePair s.scoring t.1 ws (fun _ => 0)) _
  have hscored : ((Tab.get? s.att.score c).getD []).zipIdx.map (fun t => { t.1 with
      pairs := (s.sketchRows s.scoring).zipIdx.map (fun w => scorePair s.scoring t.1 w.1 (deltaOf [] t.2 w.2)) }) =
      ((Tab.get? s.att.score c).getD []).map (fun x => { x with pairs := s.scoredPairs s.scoring x }) := by
    simp only [hpairs]
    exact map_zipIdx_fst (fun x : TokScore => { x with pairs := s.scoredPairs s.scoring x }) _
  rw [← hscored]
  rfl

theorem scoreRecords : Claim.ScoreRecords := by
  intro s c hok b toks t
  have ht : t = _ := State.scoreChunk_plain c
  have hscale : b.scale.isFin = true := by
    simp only [ScoringBlock.ok, Bool.and_eq_true] at hok
    exact hok.1.2
  rw [ht]
  refine ⟨rfl, fun c' hc => ?_, toks.map (fun x => { x with pairs := s.scoredPairs b x }), ?_, by simp, fun i x hx => ?_⟩
  · exact (Tab.get?_put ..).trans (if_neg (Ne.symm hc))
  · exact (Tab.get?_put ..).trans (if_pos rfl)
  refine ⟨s.scoredPairs b x, by simp [hx], by simp [State.scoredPairs, State.sketchRows], fun e p hp => ?_⟩
  intro ws
  have hp' : p = scorePair b x ws (fun _ => 0) := by
    unfold State.scoredPairs State.sketchRows at hp
    rw [List.map_map] at hp
    exact eq_of_getElem?_map_range hp
  subst hp'
  refine ⟨fun hi => ?_, fun hi ho => ?_, fun hi hn => ?_⟩
  · rw [scorePair_invalid hi]
    exact ⟨rfl, rfl⟩
  · obtain ⟨hfin, hrat⟩ := sketchExact_exact (ws := ws) hscale ho
    exact ⟨_, hfin, hrat, by rw [scorePair_valid hi]⟩
  · rw [scorePair_valid hi, sketchBound_unbounded hn, toF32_inf]
    rfl

end Sys2Proof.Machine
end

section
/-! SUPPORT. The records that RESCORE writes (R43, R47). -/
namespace Sys2Proof.Machine

variable {s : State} {xh : List FV} {und : List Ranged} {e : Nat} {row : List Byte}

/-! ### Sorting keeps what stands in a list -/

theorem mem_insertByFirst {α : Type} (key : α → Nat) (x y : α) : ∀ l : List α, y ∈ sortBy.insertByFirst key x l ↔ y = x ∨ y ∈ l
  | [] => by simp [sortBy.insertByFirst]
  | z :: t => by
    unfold sortBy.insertByFirst
    split
    · rw [List.mem_cons, mem_insertByFirst key x y t, List.mem_cons]
      exact or_left_comm
    · exact List.mem_cons

theorem mem_sortBy {α : Type} (key : α → Nat) (y : α) : ∀ l : List α, y ∈ sortBy key l ↔ y ∈ l
  | [] => Iff.rfl
  | x :: t => by rw [sortBy, mem_insertByFirst, mem_sortBy key y t, List.mem_cons]

/-! ### One pair, half by half -/

/-- The record of a pair that is rescored from the row of its expert. -/
def rescored (xh : List FV) (row : List Byte) : PairRec :=
  { s := BitVec.ofNat 32 (toF32 (refScore xh (rowValues 1 (row.length / 2) row))), b := 0, undecided := true }

theorem rescorePairs_hit {half : List (Nat × List Byte)} (hu : und.any (fun u => u.e == e) = true) (hh : half.lookup e = some row)
    (ps : List PairRec) : (rescorePairs xh und ps half)[e]? = ps[e]?.map (fun _ => rescored xh row) := by
  unfold rescorePairs
  rw [List.getElem?_map, List.getElem?_zipIdx]
  cases ps[e]? with
  | none => rfl
  | some p => simp only [Option.map_some, Nat.zero_add, hh, hu, if_true, rescored]

theorem rescorePairs_miss {half : List (Nat × List Byte)} (h : und.any (fun u => u.e == e) = false ∨ half.lookup e = none)
    (ps : List PairRec) : (rescorePairs xh und ps half)[e]? = ps[e]? := by
  unfold rescorePairs
  rw [List.getElem?_map, List.getElem?_zipIdx]
  cases ps[e]? with
  | none => rfl
  | some p =>
    rcases h with h | h
    · cases hl : half.lookup e <;> simp only [Option.map_some, Nat.zero_add, hl, h, Bool.false_eq_true, if_false]
    · simp only [Option.map_some, Nat.zero_add, h]

theorem rescorePairs_length (ps : List PairRec) (half : List (Nat × List Byte)) : (rescorePairs xh und ps half).length = ps.length := by
  simp [rescorePairs]

theorem foldl_rescorePairs_length : ∀ (halves : List (List (Nat × List Byte))) (ps : List PairRec),
    (halves.foldl (rescorePairs xh und) ps).length = ps.length
  | [], _ => rfl
  | half :: t, ps => (foldl_rescorePairs_length t _).trans (rescorePairs_length ps half)

theorem foldl_rescorePairs_miss : ∀ (halves : List (List (Nat × List Byte))) (ps : List PairRec),
    (und.any (fun u => u.e == e) = false ∨ ∀ half ∈ halves, half.lookup e = none) →
    (halves.foldl (rescorePairs xh und) ps)[e]? = ps[e]?
  | [], _, _ => rfl
  | half :: t, ps, h =>
    (foldl_rescorePairs_miss t _ (h.imp_right (fun h g hg => h g (List.mem_cons_of_mem _ hg)))).trans
      (rescorePairs_miss (h.imp_right (fun h => h half (List.mem_cons_self ..))) ps)

/-- A pair whose row some half holds, every half that holds one holding the same. -/
theorem foldl_rescorePairs_hit (hu : und.any (fun u => u.e == e) = true) : ∀ (halves : List (List (Nat × List Byte))) (ps : List PairRec),
    (∀ half ∈ halves, ∀ r, half.lookup e = some r → r = row) → (∃ half ∈ halves, half.lookup e ≠ none) →
    (halves.foldl (rescorePairs xh und) ps)[e]? = ps[e]?.map (fun _ => rescored xh row)
  | half :: t, ps, hrow, hex => by
    have hrow' : ∀ g ∈ t, ∀ r, g.lookup e = some r → r = row := fun g hg => hrow g (List.mem_cons_of_mem _ hg)
    rw [List.foldl_cons]
    cases hl : half.lookup e with
    | none =>
      have hex' : ∃ g ∈ t, g.lookup e ≠ none := by
        obtain ⟨g, hg, hne⟩ := hex
        rcases List.mem_cons.1 hg with rfl | hg
        · exact absurd hl hne
        · exact ⟨g, hg, hne⟩
      rw [foldl_rescorePairs_hit hu t _ hrow' hex', rescorePairs_miss (.inr hl)]
    | some r =>
      have hr : r = row := hrow half (List.mem_cons_self ..) r hl
      rw [hr] at hl
      by_cases hex' : ∃ g ∈ t, g.lookup e ≠ none
      · rw [foldl_rescorePairs_hit hu t _ hrow' hex', rescorePairs_hit hu hl, Option.map_map]
        rfl
      · rw [foldl_rescorePairs_miss t _ (.inr (fun g hg => Classical.byContradiction (fun hne => hex' ⟨g, hg, hne⟩))), rescorePairs_hit hu hl]

/-! ### The rows that a chunk's undecided pairs need -/

/-- The halves of a list of experts' rows. -/
def State.rowHalves (s : State) (b : ScoringBlock) (experts : List Nat) : List (List (Nat × List Byte)) :=
  Machine.chunksOf (rowsPerHalf b.d) (experts.map (s.fetchRow b))

theorem rowsPerHalf_pos {b : ScoringBlock} (h : b.ok = true) : 0 < rowsPerHalf b.d := by
  simp only [ScoringBlock.ok, Bool.and_eq_true, decide_eq_true_eq] at h
  exact Nat.div_pos (by omega) (by omega)

theorem State.mem_rowHalves {b : ScoringBlock} (h : b.ok = true) {experts : List Nat} {r : Nat × List Byte} :
    (∃ half ∈ s.rowHalves b experts, r ∈ half) ↔ r.1 ∈ experts ∧ r = s.fetchRow b r.1 := by
  have hflat : (s.rowHalves b experts).flatten = experts.map (s.fetchRow b) := flatten_chunksOf (rowsPerHalf_pos h) _
  rw [← List.mem_flatten, hflat, List.mem_map]
  constructor
  · rintro ⟨x, hx, rfl⟩
    exact ⟨hx, rfl⟩
  · rintro ⟨hx, hr⟩
    exact ⟨r.1, hx, hr.symm⟩

theorem State.rowHalves_lookup {b : ScoringBlock} (h : b.ok = true) {experts : List Nat} :
    ∀ half ∈ s.rowHalves b experts, ∀ r, half.lookup e = some r → r = (s.fetchRow b e).2 := by
  intro half hh r hr
  obtain ⟨l₁, l₂, hhalf, _⟩ := List.lookup_eq_some_iff.1 hr
  have hmem : (e, r) ∈ half := by
    rw [hhalf]
    simp
  obtain ⟨_, hrow⟩ := (State.mem_rowHalves h).1 ⟨half, hh, hmem⟩
  exact congrArg Prod.snd hrow

theorem State.rowHalves_holds {b : ScoringBlock} (h : b.ok = true) {experts : List Nat} (he : e ∈ experts) :
    ∃ half ∈ s.rowHalves b experts, half.lookup e ≠ none := by
  obtain ⟨half, hh, hmem⟩ := (State.mem_rowHalves (r := s.fetchRow b e) h).2 ⟨he, rfl⟩
  refine ⟨half, hh, fun hnone => ?_⟩
  have hne := List.lookup_eq_none_iff.1 hnone _ hmem
  simp [State.fetchRow] at hne

/-! ### The chunk -/

/-- The experts of a chunk's undecided pairs, rising (R43). -/
def State.rescoreExperts (s : State) (toks : List TokScore) : List Nat :=
  sortBy id ((toks.map (fun t => t.undecidedOf s.selection)).flatMap (fun l => l.map (·.e))).eraseDups

theorem State.mem_rescoreExperts {toks : List TokScore} {x : TokScore} (hx : x ∈ toks)
    (he : (x.undecidedOf s.selection).any (fun u => u.e == e) = true) : e ∈ s.rescoreExperts toks := by
  obtain ⟨u, hu, hue⟩ := List.any_eq_true.1 he
  have heq : u.e = e := by simpa using hue
  refine (mem_sortBy id e _).2 (List.mem_eraseDups.2 (List.mem_flatMap.2 ⟨_, List.mem_map.2 ⟨x, hx, rfl⟩, List.mem_map.2 ⟨u, hu, heq⟩⟩))

/-- A token of the chunk after RESCORE. -/
def State.rescoredToken (s : State) (toks : List TokScore) (n : Nat) (x : TokScore) : TokScore :=
  s.rescoreToken s.scoring (s.rowHalves s.scoring (s.rescoreExperts toks)) n x (x.undecidedOf s.selection)

theorem State.rescoreChunk_score (c : Nat) : (s.rescoreChunk c []).att.score = Tab.put s.att.score c
    (((s.chunkRange c).zip ((Tab.get? s.att.score c).getD [])).map
      (fun p => s.rescoredToken ((Tab.get? s.att.score c).getD []) p.1 p.2)) := by
  have hzip (l : List Nat) (toks : List TokScore) : (l.zip (toks.zip (toks.map (fun t => t.undecidedOf s.selection)))).map (fun p =>
      s.rescoreToken s.scoring (s.rowHalves s.scoring (s.rescoreExperts ((Tab.get? s.att.score c).getD []))) p.1 p.2.1 p.2.2) =
      (l.zip toks).map (fun p => s.rescoredToken ((Tab.get? s.att.score c).getD []) p.1 p.2) := by
    have hself : toks.zip (toks.map (fun t => t.undecidedOf s.selection)) = toks.map (fun t => (t, t.undecidedOf s.selection)) := by
      rw [← List.zip_map', List.map_id']
    rw [hself, List.zip_map_right, List.map_map]
    rfl
  rw [← hzip]
  unfold State.rescoreChunk
  dsimp only
  split <;> rfl

/-- RESCORE of a token changes its undecided pairs only. -/
theorem State.rescoredToken_pairs (hb : s.scoring.ok = true) {toks : List TokScore} {x : TokScore} (hx : x ∈ toks) (n : Nat) :
    ∃ ps, s.rescoredToken toks n x = { x with pairs := ps } ∧ ps.length = x.pairs.length ∧ ∀ (e : Nat) (p : PairRec), x.pairs[e]? = some p →
      ps[e]? = some (if (x.undecidedOf s.selection).any (fun u => u.e == e) then
        rescored (s.xhat s.scoring ⟨f32 x.mu.toNat, x.k, f32 x.r.toNat⟩ (s.routerRow s.scoring n)) (s.fetchRow s.scoring e).2 else p) := by
  unfold State.rescoredToken State.rescoreToken
  split
  · next hempty =>
    refine ⟨x.pairs, rfl, rfl, fun e p hp => ?_⟩
    rw [List.isEmpty_iff.1 hempty, hp]
    rfl
  · refine ⟨_, rfl, foldl_rescorePairs_length _ _, fun e p hp => ?_⟩
    split
    · next hu =>
      rw [foldl_rescorePairs_hit hu _ _ (State.rowHalves_lookup hb) (State.rowHalves_holds hb (State.mem_rescoreExperts hx hu)), hp]
      rfl
    · next hu =>
      rw [foldl_rescorePairs_miss _ _ (.inl (Bool.eq_false_iff.2 hu)), hp]

theorem referenceScores : Claim.ReferenceScores := by
  refine ⟨?_, refScores⟩
  intro s c hb b toks t hlen
  have ht : t.att.score = _ := State.rescoreChunk_score c
  refine ⟨fun c' hc => ?_, ((s.chunkRange c).zip toks).map (fun p => s.rescoredToken toks p.1 p.2), ?_, by simp [hlen],
    fun i x n hx hn => ?_⟩
  · rw [ht]
    exact (Tab.get?_put ..).trans (if_neg (Ne.symm hc))
  · rw [ht]
    exact (Tab.get?_put ..).trans (if_pos rfl)
  · obtain ⟨ps, heq, hpl, hps⟩ := State.rescoredToken_pairs hb (List.mem_of_getElem? hx) n
    have hzip : ((s.chunkRange c).zip toks)[i]? = some (n, x) := List.getElem?_zip_eq_some.2 ⟨hn, hx⟩
    refine ⟨ps, ?_, hpl, fun e p hp => ?_⟩
    · rw [List.getElem?_map, hzip, ← heq]
      rfl
    · have hlength : (s.fetchRow b e).2.length / 2 = b.d := by
        simp [State.fetchRow, State.read]
      rw [hps e p hp, rescored, hlength]
      rfl

/-- Settles O21: an engine runs the instruction at its head, in its turn, and each engine's results are as its rules say. -/
theorem engineInstructions : Obligations.EngineInstructions :=
  ⟨engineInstructionsComplete, engineInstructionsStart, enginesWaitTheirTurn, scoreRecords, referenceScores, moveResults, conversions,
    functionJobs, combineTerms⟩

end Sys2Proof.Machine
end
